-- ==== Sys2Proof/Word.lean ====
section
/-!
DEFINITION. The word types of the device (spec/00_scope.md R6-R8) and the shape of a sparse map.
-/
namespace Sys2Proof

/-- One byte. -/
abbrev Byte := BitVec 8
/-- A 32-bit word. -/
abbrev W32 := BitVec 32
/-- A 64-bit word: every register of the control window (01 R27, 15 R522). -/
abbrev W64 := BitVec 64

/-- A sparse map from natural-number keys: a list of (key, value) pairs with keys strictly rising and no
pair equal to the map's default (what an unlisted key reads as). Plain data, so equal maps are equal lists. -/
abbrev SMap (α : Type) := List (Nat × α)

/-- Bytes by address. -/
abbrev Mem := SMap Byte

end Sys2Proof
end

