-- ==== Sys2Proof/Syntax.lean ====
section
/-!
DEFINITION. The commands of the device: one constructor of `Instr` for each row of spec/opcode_table.json, with the
row's operands. Operand records are packets (12 R402), link frames (12 R396), the field groups of slot-program
instructions (04 R136-R157), of Riddle and Tramway commands (07 R226, 08 R260), and the physical readings a happening
brings with it.
-/
namespace Sys2Proof

/-- The units of the device (01 R25). -/
inductive UnitId where
  | core (i : Fin 512)
  | riddle (e : Fin 32)
  | tramway (t : Fin 8)
  | hbm (n : Fin 32)
  deriving DecidableEq, Repr

/-- A fabric packet (12 R402). A control packet has `long` false and uses `dest`, `src`, `vc`, `op`, `ctx`, `hops`,
`status`, `psn`, the low half of `session` and `w4` (its ARG). A data packet has `long` true; `w3` is word 3
(OFFSET, ATOP, LOAD_FLITS or PART_OFS, MSG_FLITS), `w4` word 4 and `w5` word 5. `payload` is whole flits.
`bad` marks a flit flagged uncorrectable by the link layer, `stomp` the stomp marker of the last flit (11 R375). -/
structure Packet where
  dest : BitVec 14
  src : BitVec 14
  long : Bool
  vc : BitVec 3
  pennant : Bool
  op : BitVec 5
  ctx : BitVec 4
  hops : BitVec 4
  status : BitVec 8
  psn : W32
  session : W64
  w3 : W64
  w4 : W64
  w5 : W64
  mcast : Bool
  mdim : BitVec 2
  payload : List Byte
  crc : W64
  bad : Bool
  stomp : Bool
  deriving DecidableEq, Repr

/-- One slot of a link frame: its slot-map nibble (12 R397) and its 64 bytes. -/
structure Slot where
  nib : BitVec 4
  bytes : List Byte
  deriving DecidableEq, Repr

/-- A link frame as decoded from its four FEC codewords (12 R396). `uncorr` says that a codeword was
uncorrectable (R399); `corrected` counts corrected codewords. -/
structure Frame where
  seq : W32
  srcNode : BitVec 14
  srcAdit : BitVec 5
  nodeValid : Bool
  goingDown : Bool
  ready : Bool
  timeValid : Bool
  time : W64
  sent : List W32
  freed : List W32
  slots : List Slot
  uncorr : Bool
  corrected : Nat
  deriving DecidableEq, Repr

/-- What a partner shows in training: its node, adit and flags, and the measured half round trip in 1/16 ns
(12 R400, 14 R476). -/
structure Partner where
  node : BitVec 14
  adit : BitVec 5
  nodeValid : Bool
  ready : Bool
  timeValid : Bool
  delay : BitVec 16
  deriving DecidableEq, Repr

/-- A symbol error of one burst: lane 0 to 35 and the value XORed into its symbol (10 R343). -/
structure SymErr where
  lane : Fin 36
  x : Byte
  deriving DecidableEq, Repr

/-- A lane found failing by a lane test: pseudo-channel, lane, and whether it still fails in the second test
(10 R356, R357). -/
structure LaneFail where
  pc : Fin 32
  lane : Fin 36
  again : Bool
  deriving DecidableEq, Repr

/-- The requesting block of a Bench 1 access: kind and index of the HBM_UNCORR event (15 R527). -/
structure Requester where
  kind : BitVec 4
  index : BitVec 12
  deriving DecidableEq, Repr

/-- The fields of a VEC instruction (04 R145). -/
structure VecF where
  vd : BitVec 5
  va : BitVec 5
  vb : BitVec 5
  vc : BitVec 5
  fmt : BitVec 4
  mask : BitVec 3
  lanes : BitVec 6
  sreg : BitVec 5
  areg : BitVec 4
  imm : BitVec 12
  deriving DecidableEq, Repr

/-- The fields of a MOV instruction (04 R142). -/
structure MovF where
  dst : BitVec 4
  src : BitVec 4
  lenSrc : Bool
  len : BitVec 16
  peer : BitVec 5
  atop : BitVec 4
  sv : BitVec 5
  sc : BitVec 5
  sr : BitVec 5
  flag : Bool
  cnt : BitVec 4
  deriving DecidableEq, Repr

/-- The fields of an ARR instruction (04 R150). -/
structure ArrF where
  array : BitVec 2
  flow : BitVec 2
  fmtA : BitVec 4
  fmtB : BitVec 4
  aReg : BitVec 4
  bReg : BitVec 4
  cReg : BitVec 4
  outFmt : BitVec 4
  acc : Bool
  mxA : Bool
  mxB : Bool
  mSrc : Bool
  mField : BitVec 8
  kField : BitVec 11
  sr : Bool
  outMx : Bool
  bTier : Bool
  deriving DecidableEq, Repr

/-- The fields of an SPR instruction (04 R157). -/
structure SprF where
  engine : BitVec 1
  maskKind : BitVec 2
  transpose : Bool
  fmtA : BitVec 4
  fmtB : BitVec 4
  aReg : BitVec 4
  bReg : BitVec 4
  cReg : BitVec 4
  outFmt : BitVec 4
  acc : Bool
  mxA : Bool
  mxB : Bool
  mSrc : Bool
  mField : BitVec 8
  kField : BitVec 11
  sr : Bool
  outMx : Bool
  deriving DecidableEq, Repr

/-- The fields of a Riddle ROUTE (07 R226). -/
structure RouteF where
  cfg : BitVec 16
  srcCore : BitVec 9
  srcStride : BitVec 8
  scoreAddr : BitVec 16
  tM1 : BitVec 11
  tag : BitVec 16
  pool : BitVec 4
  scoreFmt : BitVec 2
  actAddr : BitVec 16
  deriving DecidableEq, Repr

/-- The fields of a Riddle LRTAB (07 R226). -/
structure LrtabF where
  rank : BitVec 2
  dField : BitVec 7
  addr : BitVec 35
  deriving DecidableEq, Repr

/-- The fields of a Tramway DISPATCH (08 R260). -/
structure DispatchF where
  cfg : BitVec 16
  tag : BitVec 16
  group : BitVec 6
  tokPool : BitVec 4
  recPool : BitVec 4
  rowFmt : BitVec 4
  enginesM1 : BitVec 5
  dField : BitVec 11
  batchAddr : BitVec 16
  batchStride : BitVec 16
  batchField : BitVec 8
  layout : Bool
  cnt : BitVec 4
  zcomp : Bool
  deriving DecidableEq, Repr

/-- The fields of a Tramway COMBINE (08 R260). -/
structure CombineF where
  cfg : BitVec 16
  tag : BitVec 16
  group : BitVec 6
  resPool : BitVec 4
  ansPool : BitVec 4
  resFmt : BitVec 4
  outFmt : BitVec 4
  fa : Bool
  wField : BitVec 11
  resAddr : BitVec 16
  resStride : BitVec 16
  outAddr : BitVec 16
  cnt : BitVec 4
  zcomp : Bool
  deriving DecidableEq, Repr

/-- The fields of a Tramway XCHG (08 R260). -/
structure XchgF where
  xkind : BitVec 2
  group : BitVec 6
  srcAddr : BitVec 16
  dstAddr : BitVec 16
  cnt : BitVec 4
  zcomp : Bool
  tokPool : BitVec 4
  seg : BitVec 16
  lenAddr : BitVec 16
  permAddr : BitVec 27
  tag : BitVec 16
  deriving DecidableEq, Repr

/-- The commands and happenings of the device: one constructor per row of spec/opcode_table.json, in its order. -/
inductive Instr where
  -- the hoist loader (02)
  | begin
  | validate
  | validationComplete
  | arm
  | cancel
  | shadowCopyDone
  | commitCount
  | installComplete
  -- ticks and slots (03): a context and the index of a slot record
  | tickBoundary
  | slotIssue (c : Fin 16) (i : Nat)
  | slotRetire (c : Fin 16) (i : Nat)
  -- contexts (03)
  | launch (c : Fin 16)
  | save (c : Fin 16)
  | restore (c : Fin 16)
  | stop (c : Fin 16)
  | kill (c : Fin 16)
  | release (c : Fin 16)
  | firstStep (c : Fin 16)
  | saveComplete (c : Fin 16)
  | restoreComplete (c : Fin 16)
  | teardownComplete (c : Fin 16)
  | allBlocked
  | regulatorPass (p : Fin 16) (l : Fin 5)
  | unitStop (u : UnitId)
  -- CTL (04 R137): the core that issues the instruction, then its fields
  | nop (k : Fin 512)
  | endProg (k : Fin 512)
  | loop (k : Fin 512) (sa : BitVec 5) (imm : BitVec 32)
  | br (k : Fin 512) (cond : BitVec 3) (sa sb : BitVec 5) (imm : BitVec 32)
  | li (k : Fin 512) (sd : BitVec 5) (imm : BitVec 32)
  | lih (k : Fin 512) (sd : BitVec 5) (imm : BitVec 32)
  | add (k : Fin 512) (sd sa sb : BitVec 5) (imm : BitVec 32)
  | sub (k : Fin 512) (sd sa sb : BitVec 5) (imm : BitVec 32)
  | mul (k : Fin 512) (sd sa sb : BitVec 5) (imm : BitVec 32)
  | and (k : Fin 512) (sd sa sb : BitVec 5) (imm : BitVec 32)
  | or (k : Fin 512) (sd sa sb : BitVec 5) (imm : BitVec 32)
  | xor (k : Fin 512) (sd sa sb : BitVec 5) (imm : BitVec 32)
  | shl (k : Fin 512) (sd sa sb : BitVec 5) (imm : BitVec 32)
  | shr (k : Fin 512) (sd sa sb : BitVec 5) (imm : BitVec 32)
  | sra (k : Fin 512) (sd sa sb : BitVec 5) (imm : BitVec 32)
  | min (k : Fin 512) (sd sa sb : BitVec 5) (imm : BitVec 32)
  | max (k : Fin 512) (sd sa sb : BitVec 5) (imm : BitVec 32)
  | aset (k : Fin 512) (ad : BitVec 4) (sa : BitVec 5) (imm : BitVec 32)
  | aadd (k : Fin 512) (ad : BitVec 4) (sa : BitVec 5) (imm : BitVec 32)
  | aget (k : Fin 512) (sd : BitVec 5) (ad : BitVec 4)
  | rdsys (k : Fin 512) (sd : BitVec 5) (imm : BitVec 32)
  | sld (k : Fin 512) (sd : BitVec 5) (ad : BitVec 4) (imm : BitVec 32)
  | sst (k : Fin 512) (sa : BitVec 5) (ad : BitVec 4) (imm : BitVec 32)
  -- SYN (04 R139)
  | waittick (k : Fin 512) (imm : BitVec 20)
  | muster (k : Fin 512) (gang : BitVec 12)
  | waitc (k : Fin 512) (sv : BitVec 5) (cnt : BitVec 4)
  | takec (k : Fin 512) (sv : BitVec 5) (cnt : BitVec 4)
  | fence (k : Fin 512) (qmask : BitVec 8)
  -- MOV (04 R142)
  | movL (k : Fin 512) (f : MovF)
  | movP (k : Fin 512) (f : MovF)
  | movT (k : Fin 512) (f : MovF)
  | movHR (k : Fin 512) (f : MovF)
  | movHW (k : Fin 512) (f : MovF)
  | atom (k : Fin 512) (f : MovF)
  -- VEC (04 R146)
  | vld (k : Fin 512) (f : VecF)
  | vst (k : Fin 512) (f : VecF)
  | vadd (k : Fin 512) (f : VecF)
  | vsub (k : Fin 512) (f : VecF)
  | vmul (k : Fin 512) (f : VecF)
  | vfma (k : Fin 512) (f : VecF)
  | vmax (k : Fin 512) (f : VecF)
  | vmin (k : Fin 512) (f : VecF)
  | vabs (k : Fin 512) (f : VecF)
  | vneg (k : Fin 512) (f : VecF)
  | vcvt (k : Fin 512) (f : VecF)
  | vexp (k : Fin 512) (f : VecF)
  | vlog (k : Fin 512) (f : VecF)
  | vtanh (k : Fin 512) (f : VecF)
  | vrcp (k : Fin 512) (f : VecF)
  | vrsqrt (k : Fin 512) (f : VecF)
  | vsqrt (k : Fin 512) (f : VecF)
  | vdiv (k : Fin 512) (f : VecF)
  | vcmp (k : Fin 512) (f : VecF)
  | vsel (k : Fin 512) (f : VecF)
  | vbcast (k : Fin 512) (f : VecF)
  | vrsum (k : Fin 512) (f : VecF)
  | vrmax (k : Fin 512) (f : VecF)
  | vrmin (k : Fin 512) (f : VecF)
  | vacc (k : Fin 512) (f : VecF)
  | vgets (k : Fin 512) (f : VecF)
  | vand (k : Fin 512) (f : VecF)
  | vor (k : Fin 512) (f : VecF)
  | vxor (k : Fin 512) (f : VecF)
  | vshl (k : Fin 512) (f : VecF)
  | vshr (k : Fin 512) (f : VecF)
  -- ARR and SPR (04 R150, R157)
  | matmul (k : Fin 512) (f : ArrF)
  | spmm (k : Fin 512) (f : SprF)
  | pack (k : Fin 512) (f : SprF)
  /-- The operation at the head of one queue of a core completes: queues 0-3 arrays, 4-5 sparse engines,
  6 vector unit, 7 MOV (04 R129, QMASK numbering of R139). `residueOk` false is a mod-15 residue mismatch (R149). -/
  | operationComplete (k : Fin 512) (q : Fin 8) (residueOk : Bool)
  -- the Riddle (07)
  | route (e : Fin 32) (f : RouteF)
  | lrtab (e : Fin 32) (f : LrtabF)
  | riddleEnd (e : Fin 32)
  | scoreBlock (e : Fin 32) (residueOk : Bool)
  | capacityExchange (e : Fin 32)
  | handover (e : Fin 32)
  -- the Tramway (08)
  | dispatch (t : Fin 8) (f : DispatchF)
  | combine (t : Fin 8) (f : CombineF)
  | xchg (t : Fin 8) (f : XchgF)
  | tramwayEnd (t : Fin 8)
  | intake (t : Fin 8)
  | census (t : Fin 8)
  | blockDescriptor (p : Packet)
  | rows (p : Packet)
  | result (p : Packet) (residueOk : Bool)
  | cancelled (p : Packet)
  | segment (p : Packet)
  | abort (t : Fin 8) (ctx : BitVec 4) (opSeq : W32)
  -- tiers and pools (09)
  | stage
  | migrationSwitch (c : Fin 16)
  | settle (c : Fin 16)
  | settleComplete (c : Fin 16)
  | alloc (p : BitVec 4) (refs : BitVec 8)
  | bpmRelease (p : BitVec 4) (i : W32)
  | bpmReset (p : BitVec 4)
  | allocationServed (p : Fin 16)
  -- HBM (10)
  /-- One codeword at a stack-local address: `mask` selects the bytes written (all clear: a read). -/
  | narrowPath (n : Fin 32) (addr : BitVec 48) (mask : BitVec 32) (data : List Byte) (errs : List SymErr) (req : Requester)
  | longBurst (n : Fin 32) (addr : BitVec 48) (write : Bool) (data : List Byte) (errs : List (Fin 64 × SymErr)) (req : Requester)
  | markInterval (n : Fin 32)
  | temperatureRead (n : Fin 32) (t : Byte)
  | refresh (n : Fin 32)
  | rfm (n : Fin 32)
  | hbmTrain (n : Fin 32) (idOk : Bool) (fails : List LaneFail)
  | testEnter (n : Fin 32)
  | testExit (n : Fin 32)
  | retrain (n : Fin 32)
  | sppr (n : Fin 32)
  | hppr (n : Fin 32)
  | clearMarks (n : Fin 32)
  | hbmCommandDone (n : Fin 32) (idOk : Bool) (fails : List LaneFail)
  | hbm1500Shift (n : Fin 32)
  | testBurst (n : Fin 32)
  -- the Yard (11): an input port or adit and a virtual channel
  | packetAccept (q : Fin 34) (p : Packet)
  | packetAdmit (q : Fin 34) (v : Fin 6)
  | transmit (a : Fin 24) (v : Fin 6)
  | groupEntryExpiry
  -- adits and links (12)
  | linkFrame (a : Fin 24) (f : Frame)
  | trainingAttempt (a : Fin 24)
  | linkUp (a : Fin 24) (p : Partner)
  | linkDown (a : Fin 24) (goingDown : Bool)
  -- end-to-end protocol and home units (12)
  | ack (p : Packet)
  | notice (p : Packet)
  | store (p : Packet)
  | load (p : Packet)
  | atomic (p : Packet)
  | loadResp (p : Packet)
  | e2eTimeout (dest : BitVec 14) (psn : W32)
  | waitRetry (dest : BitVec 14) (psn : W32)
  | pennantRelease (dest : BitVec 14)
  | lineWriteback (h : Fin 8)
  -- collectives (13)
  | collectiveStart (d : Fin 8) (g : Fin 64)
  | header (p : Packet)
  | verdict (p : Packet)
  | credit (p : Packet)
  | partialVal (p : Packet) (residueOk : Bool)
  | failed (p : Packet)
  | collectiveResult (p : Packet)
  | data (p : Packet)
  -- Halyard, broadcast, counters, Dip (14)
  | parentAdit (root : Bool) (adit : BitVec 5) (en : Bool)
  | holdoverExpiry
  | send
  | bcastArm
  | abandon
  | imageData (p : Packet)
  | report (p : Packet)
  | reportTimeout (child : BitVec 14)
  | imageArm (p : Packet)
  | dbgCntReset (v : W64)
  | sampleFire (j : Fin 16)
  | strobe (j : Fin 16)
  | dipReq (burgee : Bool)
  | synDipAt
  | dipCut
  -- Dragiper Link and the host window (15)
  | nak (ackSeq : BitVec 12)
  | hostDown
  | hostLinkUp
  | cwRd (tag : BitVec 12) (addr : BitVec 56)
  | cwWr (tag : BitVec 12) (addr : BitVec 56) (v : W64)
  | hwRdS (tag : BitVec 12) (addr : BitVec 56)
  | hwRdM (tag : BitVec 12) (addr : BitVec 56)
  | hwRdNc (tag : BitVec 12) (addr : BitVec 56) (lenM1 : BitVec 3)
  | hwWr (tag : BitVec 12) (addr : BitVec 56) (lenM1 : BitVec 3) (data : List Byte)
  | hwWrPart (tag : BitVec 12) (addr : BitVec 56) (mask : BitVec 32) (data : List Byte)
  | hwEvictM (tag : BitVec 12) (addr : BitVec 56) (data : List Byte)
  | hwEvictS (tag : BitVec 12) (addr : BitVec 56)
  | snpRspI (tag : BitVec 12)
  | snpRspS (tag : BitVec 12)
  | snpRspD (tag : BitVec 12) (data : List Byte)
  | cmp (tag : BitVec 12) (status : Byte)
  | rspData (tag : BitVec 12) (status : Byte) (data : List Byte)
  | eventDrain
  | irqHoldoff
  | node (n : BitVec 14)
  -- the Burgee port (15)
  | entdaa (da : BitVec 7)
  | rstdaa
  | setnewda (da : BitVec 7)
  | getpid
  | getbcr
  | getdcr
  | getstatus
  | getmxds
  | enec (mask : Byte)
  | disec (mask : Byte)
  | setEndpointId (op : BitVec 2) (eid : Byte)
  | getEndpointId
  | getEndpointUuid
  | getMctpVersionSupport (mtype : Byte)
  | getMessageTypeSupport
  | getVendorDefinedMessageSupport (selector : Byte)
  | regRead (rseq : BitVec 7) (body : List Byte)
  | regWrite (rseq : BitVec 7) (body : List Byte)
  | getIdentity (rseq : BitVec 7) (body : List Byte)
  | getMeasurements (rseq : BitVec 7) (body : List Byte)
  | enrollKey (rseq : BitVec 7) (body : List Byte)
  | revokeKey (rseq : BitVec 7) (body : List Byte)
  | getKeys (rseq : BitVec 7) (body : List Byte)
  -- power, reset, throttling (16)
  | vaonUp
  | vaonLoss
  | pgoodIn
  | resetNAssert
  | resetNRelease
  | fuse
  /-- The two images as the boot flash holds them, at offset 0 and at 0x80_0000 (16 R546). -/
  | boot (img0 img1 : List Byte)
  | aditTrain
  | thermalTrip (die : Fin 13) (t : Byte)
  | pwrResetCompute
  | pwrResetFabric
  | pwrResetHbm
  | pwrResetHost
  | pwrResetMain
  | autoLevel (hot : Bool) (avgW : BitVec 16) (tjMax : Byte)
  | drvLevel (level : BitVec 4) (atEn : Bool)
  | pwrThrAt
  | governorWave
  | coreAwake (k : Fin 512)
  -- the other rows
  | registerWrite (burgee : Bool) (off : BitVec 28) (v : W64)
  | dragiperFlit (bytes : List Byte)
  | hostRetrain
  | holdoverSlew (advance : Bool)
  | waittickTarget (k : Fin 512)
  | measurementRecomputed (m : Fin 8)
  | shiftComplete (n : Fin 32)
  | testBurstComplete (n : Fin 32) (errs : List (Fin 64 × SymErr))
  | firmwareDipRequest
  deriving DecidableEq, Repr

end Sys2Proof
end

