-- ==== Sys2Proof/Config.lean ====
section
/-!
DEFINITION. What the spec leaves open: constants with no body, so that no proof can see their value.
Each is named in the assumption log. Marked UNVERIFIED: no source at hand gives these values.
-/
namespace Sys2Proof.Config

/-- A fresh free bit for the n-th open choice of a run: which of its old and new value a byte of an abandoned
output holds (04 R131). -/
opaque freeBit : Nat → Bool
/-- A fresh free word for the n-th open value of a run. -/
opaque freeWord : Nat → BitVec 64
/-- The fixed mapping of stack-local address bits [47:15] to stack ID, bank and row (10 R341). -/
opaque hbmXlate : BitVec 48 → BitVec 34
/-- Whether a stack reports a spare row for a bank: stack, channel, pseudo-channel, SID, bank, uses so far (10 R360). -/
opaque hbmSpareRow : Nat → Nat → Nat → Nat → Nat → Nat → Bool
/-- Whether a bank and a row lie within the stack's range (10 R360). -/
opaque hbmRowOk : BitVec 6 → BitVec 18 → Bool
/-- Whether an IEEE 1500 instruction code is one that SERVICE accepts: device ID or temperature (10 R361). -/
opaque wirInService : BitVec 8 → Bool
/-- The bytes of the parts of a scan layout whose inner layout the manual does not give (14 R501, 03 R105):
kind, index, byte offset. -/
opaque scanByte : Nat → Nat → Nat → BitVec 8
/-- The 57-byte Ed448 public key of the device identity (15 R536). -/
opaque devicePublicKey : List (BitVec 8)
/-- The device's Ed448 signature over a message, 114 bytes (15 R536, R538). -/
opaque deviceSign : List (BitVec 8) → List (BitVec 8)
/-- The two fused firmware KEY_IDs, 16 bytes each (15 R537). -/
opaque fwKeyId : Bool → List (BitVec 8)
/-- The KEY_ID of the certificate authority, 16 bytes (15 R536). -/
opaque caKeyId : List (BitVec 8)
/-- The certificate signature, 114 bytes (15 R536). -/
opaque certificate : List (BitVec 8)
/-- I3C bus characteristics register (15 R530). -/
opaque i3cBcr : BitVec 8
/-- I3C device characteristics register (15 R530). -/
opaque i3cDcr : BitVec 8
/-- I3C maximum data speed answer (15 R530). -/
opaque i3cMxds : BitVec 16
/-- The bits of the I3C GETSTATUS answer that the manual does not give (15 R530). -/
opaque i3cStatus : Nat → BitVec 16
/-- Bits [47:33] of the I3C provisional ID (15 R530). -/
opaque i3cMfr : BitVec 15
/-- The 16-bit command set field of Get Vendor Defined Message Support (15 R531). -/
opaque mctpVendorSet : BitVec 16
/-- The 16-byte MCTP endpoint UUID (15 R531). -/
opaque endpointUuid : List (BitVec 8)
/-- IEEE 1500 shift-out data of a stack for an instruction: stack, instruction, channel, all, bits shifted in,
use number (10 R361). -/
opaque wrapperShift : Nat → Nat → Nat → Bool → List Bool → Nat → List Bool

end Sys2Proof.Config
end

