-- ==== Sys2Proof/Machine/State.lean ====
section
/-!
DEFINITION. The state of the device as plain data: everything the spec gives the machine, the queue of waiting
commands, and the state right after reset. Registers carry the names of the spec's tables; a field's docstring cites
the rule that names it.
-/
namespace Sys2Proof.Machine

/-- Why a step could stop with a fault. No command of the device stops the block: unit faults, teardown and failed
requests are next states (03 R109, 12 R414). -/
inductive Fault where
  /-- Raised by nobody: kept so that the type is inhabited. Safe: the model never stops with it. -/
  | unused
  deriving DecidableEq, Repr

/-- Why a step could be refused. -/
inductive Refusal where
  /-- Raised by an arm of exec that has no meaning yet. Safe: nothing is claimed of it. -/
  | notModelled (mnemonic : String)
  deriving DecidableEq, Repr

/-! ### Faces of units and gangs (01 R26-R36) -/

/-- FACE_STATUS.STATE (01 R27). -/
inductive UState where
  | idle | waiting | running | restoring | saving | stopped | faulted
  deriving DecidableEq, Repr

/-- FACE_CMD: the last command accepted (01 R27). -/
structure FaceCmd where
  opcode : BitVec 8 := 0
  ctx : BitVec 4 := 0
  slot : BitVec 16 := 0
  arg : W32 := 0
  deriving DecidableEq, Repr

/-- The face of a unit (01 R27). `owner` is CTX with CTX_VALID; `cnt` is the counter block. -/
structure Face where
  cmd : FaceCmd := {}
  st : UState := .idle
  owner : Option (Fin 16) := none
  slot : BitVec 16 := 0
  fault : Byte := 0
  stopIn : Bool := false
  stopSrc : BitVec 3 := 0
  gen : BitVec 16 := 0
  arrived : Bool := false
  cnt : SMap W64 := []
  deriving DecidableEq, Repr

/-- What a gang holds of its own face: the last command delivered to it and its musters (01 R32, R36). The rest is
computed from its members. -/
structure GangFace where
  cmd : FaceCmd := {}
  gen : BitVec 16 := 0
  deriving DecidableEq, Repr

/-! ### Tables of the committed image (02 R49-R65) -/

/-- The mode word (02 R49). -/
structure ModeWord where
  tickUs : Nat := 0
  predictor : Bool := false
  bunting : Bool := false
  faCombine : Bool := false
  deriving DecidableEq, Repr

/-- A GANG_TREE member record (02 R51). -/
structure MemberRec where
  parent : Nat
  kind : Nat
  id : Nat
  node : Nat
  deriving DecidableEq, Repr

/-- A PARTITION record (02 R54). -/
structure PartRec where
  part : Nat
  gang : Nat
  poolMask : BitVec 16
  deriving DecidableEq, Repr

/-- A CONTEXT record (02 R55). -/
structure CtxRec where
  ctx : Nat
  lc : Bool
  part : Nat
  gang : Nat
  stepFirst : Nat
  stepCount : Nat
  deriving DecidableEq, Repr

/-- A TICK_PLAN step record (02 R56). -/
structure StepRec where
  ticks : Nat
  slotFirst : Nat
  slotCount : Nat
  deriving DecidableEq, Repr

/-- A TICK_PLAN slot record (02 R56). -/
structure SlotRec where
  tick : Nat
  slot : BitVec 16
  gang : Nat
  program : Nat
  start : Nat
  reserve : Nat
  deriving DecidableEq, Repr

/-- A RIDDLE_CFG record (02 R58). -/
structure RiddleCfg where
  cfg : Nat
  experts : Nat
  k : Nat
  norm : Nat
  lowRank : Bool
  biasEn : Bool
  groups : Nat
  topGroups : Nat
  capacity : Nat
  biasAddr : Nat
  deriving DecidableEq, Repr

/-- One placement target (02 R59). -/
structure Target where
  node : Nat
  gang : Nat
  deriving DecidableEq, Repr

/-- A PLACEMENT record as in force: the targets in use (02 R59, R60; 07 R238). -/
structure PlaceRec where
  cfg : Nat
  expert : Nat
  targets : List Target
  deriving DecidableEq, Repr

/-- A ROUTING adit record (02 R61). -/
structure AditRec where
  node : Nat
  adit : Nat
  enable : Bool
  cutMask : BitVec 6
  partner : Nat
  deriving DecidableEq, Repr

/-- A ROUTING route record (02 R61). -/
structure RouteRec where
  node : Nat
  destLo : Nat
  destHi : Nat
  dim : Nat
  mask : BitVec 24
  deriving DecidableEq, Repr

/-- A GROUPS record (02 R62). -/
structure GroupRec where
  group : Nat
  gang : Nat
  weight : Nat
  inFlight : Nat
  capacity : Nat
  deriving DecidableEq, Repr

/-- A TIERS region record (02 R63). -/
structure RegionRec where
  ctx : Nat
  kind : Nat
  region : Nat
  base : Nat
  size : Nat
  fabricOfs : Nat
  deriving DecidableEq, Repr

/-- A TIERS quota record (02 R63). -/
structure QuotaRec where
  ctx : Nat
  b0 : Nat
  b1 : Nat
  b2 : Nat
  deriving DecidableEq, Repr

/-- A POOLS record (02 R64). -/
structure PoolRec where
  pool : Nat
  bench1 : Bool
  sizeLog2 : Nat
  count : Nat
  amber : Nat
  red : Nat
  gang : Nat
  deriving DecidableEq, Repr

/-- A REGULATORS record (02 R65). -/
structure RegRec where
  part : Nat
  level : Nat
  rate : Nat
  burst : Nat
  deriving DecidableEq, Repr

/-- Every table of an image (02 R45). -/
structure Tables where
  mode : ModeWord := {}
  members : List MemberRec := []
  parts : List PartRec := []
  ctxs : List CtxRec := []
  steps : List StepRec := []
  slots : List SlotRec := []
  programs : List (Nat × List W64) := []
  riddle : List RiddleCfg := []
  placement : List PlaceRec := []
  adits : List AditRec := []
  routes : List RouteRec := []
  groups : List GroupRec := []
  regions : List RegionRec := []
  quotas : List QuotaRec := []
  pools : List PoolRec := []
  regs : List RegRec := []
  logicalCores : Nat := 0
  deriving DecidableEq, Repr

/-- The sections a reload carries, copied beside the tables in force (02 R77, R78). -/
structure Shadow where
  placement : Option (List PlaceRec) := none
  routing : Option (List AditRec × List RouteRec) := none
  regs : Option (List RegRec) := none
  imageId : W64 := 0
  deriving DecidableEq, Repr

/-! ### The hoist loader (02 R70, R71) -/

/-- HST_STATUS.STATE (02 R71). -/
inductive LState where
  | empty | staging | validating | valid | arming | armed | installing | committed | refused
  deriving DecidableEq, Repr

/-- The loader's registers (02 R70) and the image being armed. REQ_OPERATOR and REQ_TENANT lie in the main domain. -/
structure Loader where
  st : LState := .empty
  err : Byte := 0
  stagedKind : Bool := false
  activeLevel : Byte := 0
  stageLen : W32 := 0
  commitCount : W64 := 0
  activeId : W64 := 0
  reloadId : W64 := 0
  reqOperator : Bool := false
  reqTenant : Bool := false
  droppedWrites : W32 := 0
  shadow : Option Shadow := none
  /-- the bytes of the last validation, which are the bytes committed (02 R74) -/
  image : List Byte := []
  /-- the Halyard count at which the image being installed commits -/
  committedAt : Nat := 0
  deriving DecidableEq, Repr

/-! ### Ticks, contexts, regulators (03) -/

/-- The states of a slot instance (03 R91). -/
inductive SlotSt where
  | pending | issued | retired | overrun | stopped
  deriving DecidableEq, Repr

/-- A slot instance: its context, the index of its slot record, when it is due (Halyard count), and whether a wait of
it has been counted (03 R88, R91). -/
structure SlotI where
  ctx : Fin 16
  idx : Nat
  st : SlotSt
  due : Nat
  waited : Bool
  deriving DecidableEq, Repr

/-- The tick sequencer: period in force in µs (zero: none), the last boundary, the next boundary, slot instances of
latency-critical contexts in the current tick and of best-effort steps (03 R86-R91, R95). -/
structure TickSeq where
  period : Nat := 0
  last : Nat := 0
  next : Nat := 0
  level : Nat := 0
  slots : List SlotI := []
  deriving DecidableEq, Repr

/-- Context states (03 R98). -/
inductive CState where
  | absent | declared | armed | running | saving | saved | restoring | ending | done | teardown | gone
  deriving DecidableEq, Repr

/-- The unit fault that caused a teardown, as CONTEXT_GONE reports it (15 R527). -/
structure UnitFault where
  kind : Nat
  index : Nat
  code : Byte
  deriving DecidableEq, Repr

/-- The registers of one context (03 R102, 14 R506) and what the context table holds for it. -/
structure Ctx where
  st : CState := .absent
  lc : Bool := false
  part : BitVec 4 := 0
  blocked : Bool := false
  cause : Byte := 0
  causeUnit : Option UnitFault := none
  step : BitVec 16 := 0
  tick : BitVec 16 := 0
  stepsDone : W64 := 0
  ovrSlot : BitVec 16 := 0
  ovrTick : BitVec 16 := 0
  droppedIn : W64 := 0
  lateStarts : W32 := 0
  slotWaits : W32 := 0
  launchCount : Nat := 0
  limit : W32 := 0
  /-- logical core, physical core: the binding taken by a best-effort context (03 R94) or the cores held (R93). -/
  bind : List (Nat × Nat) := []
  /-- best-effort: index, from SLOT_FIRST, of the slot in progress (03 R95). -/
  slotIndex : Nat := 0
  /-- a step has begun and not ended. -/
  stepOn : Bool := false
  /-- the step just ended was the last: DONE follows its settle (03 R97, 09 R321). -/
  ending : Bool := false
  /-- a settle is in progress (09 R321): at a step end, or by TIR_CMD. -/
  settling : Bool := false
  settleByCmd : Bool := false
  saveCount : Nat := 0
  ndc : W64 := 0
  digTotal : W64 := 0
  spoilTotal : W64 := 0
  lateFolds : W32 := 0
  digOverflow : W32 := 0
  /-- steps since the launch whose digest records have been written (14 R472) -/
  written : Nat := 0
  deriving DecidableEq, Repr

/-- The global registers of the context table (03 R102) and the ALL_BLOCKED timer (R115). -/
structure CtxTab where
  err : Byte := 0
  cmdCtx : BitVec 4 := 0
  cmd : BitVec 4 := 0
  launchCount : W64 := 0
  stepLimit : W32 := 0
  allBlocked : Bool := false
  /-- Halyard counts for which the conditions of R115 have held. -/
  blockedFor : Nat := 0
  /-- the event has been posted for the present span. -/
  posted : Bool := false
  deriving DecidableEq, Repr

/-- A transfer waiting at a bucket: its charge, and the packet it injects, if any, with the buckets still to pass. -/
structure Transfer where
  charge : Nat
  pkt : Option Packet
  port : Nat
  rest : List Nat
  deriving DecidableEq, Repr

/-- One bucket: the registers of 03 R120. `milli` is the level in thousandths of a byte (R116). -/
structure Bucket where
  on : Bool := false
  rate : W32 := 0
  burst : W32 := 0
  milli : Nat := 0
  bytes : W64 := 0
  tokenWait : W64 := 0
  creditWait : W64 := 0
  waits : W64 := 0
  queue : List Transfer := []
  deriving DecidableEq, Repr

/-! ### Cores (04 R121) -/

/-- One entry of the loop stack: first instruction of the body, its length, runs left (04 R137). -/
structure LoopF where
  first : Nat
  len : Nat
  left : Nat
  deriving DecidableEq, Repr

/-- What a core waits on in a SYN instruction (04 R139). -/
inductive WaitS where
  | none
  | tick (target : Nat)
  | muster (gang : Nat)
  | count (c : BitVec 4) (v : W32) (take : Bool)
  | fence (mask : BitVec 8)
  deriving DecidableEq, Repr

/-- What kind of operation a queue entry is. -/
inductive OpKind where
  | arr | spr | pack
  /-- `wx`: its adders carry the residue of 04 R149 -/
  | vec (wx : Bool)
  | movL
  | movP (peer : Nat) (flag : Bool) (cnt : BitVec 4)
  | movT
  | movHR
  | movHW
  | atom (sr : BitVec 5)
  deriving DecidableEq, Repr

/-- One issued operation: its queue (0-3 arrays, 4-5 sparse engines, 6 vector, 7 MOV), the Bench 0 ranges (start,
length) it reads and writes (its scoreboard entry, 04 R127), the bytes it will write, and for fabric moves the pieces
still unanswered. `cyc` core cycles have passed since issue. -/
structure Op where
  id : Nat
  q : Nat
  kind : OpKind
  rd : List (Nat × Nat)
  wr : List (Nat × Nat)
  out : List (Nat × List Byte)
  bytes : Nat
  pieces : Nat
  srConv : Nat
  /-- vector-register slots as they were before a vector operation (key 64 × register + lane), for R149 -/
  undo : List (Nat × W64) := []
  deriving DecidableEq, Repr

/-- The parts of a core (04 R121): s0-s31, a0-a15, v0-v31 (key 64 × register + lane), m0-m7, counts c0-c15, loop
stack, operation queues with scoreboard, Bench 0; the program it runs and the gang of its slot (R124, R137). -/
structure Core where
  pc : Nat := 0
  prog : Nat := 0
  gang : Nat := 0
  /-- END has executed: the sequencer issues nothing further (04 R130). -/
  ended : Bool := true
  s : SMap W64 := []
  a : SMap W64 := []
  v : SMap W64 := []
  m : SMap W64 := []
  c : SMap W32 := []
  loops : List LoopF := []
  ops : List Op := []
  nextOp : Nat := 0
  wait : WaitS := .none
  /-- the next instruction waits for a queue entry (1) or is refused by the scoreboard (2) (04 R126, R127). -/
  stall : Nat := 0
  b0 : Mem := []
  deriving DecidableEq, Repr

/-! ### The Riddle (07) -/

/-- RDL_RUN.PHASE (07 R254). -/
inductive RPhase where
  | idle | seqWait | load | score | exchange | sort | outWait | emit
  deriving DecidableEq, Repr

/-- A dispatch descriptor (07 R240). -/
structure DDesc where
  token : Nat
  expert : Nat
  choice : Nat
  spoil : Bool
  unplaced : Bool
  replica : Nat
  row : Nat
  capSlot : Nat
  node : Nat
  gang : Nat
  weight : W32
  deriving DecidableEq, Repr

/-- A dispatch list: the header of 07 R240 and its descriptors, with the pool buffer that holds its bytes. -/
structure DList where
  cfg : Nat
  tag : Nat
  tokens : Nat
  rank : Nat
  tokenBase : W64
  step : W64
  live : Nat
  spoil : Nat
  dests : Nat
  srcCore : Nat
  actAddr : Nat
  ctx : Fin 16
  descs : List DDesc
  pool : Nat
  buf : Nat
  deriving DecidableEq, Repr

/-- The ROUTE in progress on an engine: its command, rank, step, snapshots (07 R227-R239), the choices of its scored
tokens (token, choice rank, expert, weight) and the list it has built. -/
structure ROp where
  f : RouteF
  rho : Nat
  gang : Nat
  step : W64
  cfg : RiddleCfg
  place : List PlaceRec
  keff : Nat
  tokens : Nat
  tokenBase : W64
  choices : List (Nat × Nat × Nat × W32)
  nanTokens : Nat
  list : Option DList
  /-- a free entry of the Tramway list queue is reserved (07 R242). -/
  reserved : Bool
  deriving DecidableEq, Repr

/-- A Riddle engine (07 R223-R256). `prog` is the program of its slot, `lr` the low-rank table named by LRTAB. -/
structure Riddle where
  prog : Nat := 0
  gang : Nat := 0
  ended : Bool := true
  pc : Byte := 0
  phase : RPhase := .idle
  cfgId : BitVec 16 := 0
  tag : BitVec 16 := 0
  rank : Byte := 0
  lastTokens : BitVec 16 := 0
  lastLive : BitVec 16 := 0
  lastSpoil : BitVec 16 := 0
  lastUnplaced : BitVec 16 := 0
  lastStep : W64 := 0
  lr : Option LrtabF := none
  /-- the lane store: the table loaded (07 R231) -/
  lane : List Byte := []
  op : Option ROp := none
  deriving DecidableEq, Repr

/-- The device-wide Riddle registers (07 R255), the histograms and predictor words of the Riddle area live in Bench 1. -/
structure RiddleDev where
  areaCfgs : BitVec 16 := 0
  routes : W64 := 0
  hints : W64 := 0
  unused : W64 := 0
  unhinted : W64 := 0
  deriving DecidableEq, Repr

/-! ### The Tramway (08) -/

/-- TRW PHASE (08 R297). -/
inductive TPhase where
  | idle | intake | census | send | gather | combine | xchg
  deriving DecidableEq, Repr

/-- A list record (08 R263, R290): its buffer index, epoch, list, the answers so far (descriptor index, and whether the row
came or was DROPPED), the answer-area buffers with the COMBINE that took them, and for first-arrival combines the
accumulators per token. `n` is a count of the model's own that names the record. -/
structure TRec where
  n : Nat
  idx : Nat
  pool : Nat
  epoch : W32
  list : DList
  opSeq : W32
  answers : List (Nat × Bool) := []
  area : Option (Nat × List Nat) := none
  comb : Option CombineF := none
  combSeq : W32 := 0
  /-- first-arrival accumulators (token, WX48 values) -/
  fa : List (Nat × List Nat) := []
  deriving DecidableEq, Repr

/-- Work that an operation has still to send, in order (08 R266, R278, R285): the rows of a list at one (expert, target) pair,
the results of a batch for one source node, or a segment. -/
inductive TTodo where
  | rows (n : Nat) (expert node gang base : Nat) (descs : List Nat)
  | result (n : Nat) (node : Nat)
  | segment (logical node dstRank slot : Nat) (ofs len : Nat)
  deriving DecidableEq, Repr

/-- A token row in its buffer: record, destination node, token (08 R265). -/
structure TTok where
  ctx : Fin 16
  n : Nat
  node : Nat
  token : Nat
  pool : Nat
  buf : Nat
  deriving DecidableEq, Repr

/-- A message sent and not wholly acknowledged: its context and operation, the buffers that its acknowledgement releases, its
packets not yet acknowledged, and what an abort sends in its place: its destination and header. -/
structure TOut where
  msg : Nat
  ctx : Fin 16
  seq : W32
  pool : Nat
  bufs : List Nat
  left : Nat
  dest : Nat
  hdr : List Byte
  deriving DecidableEq, Repr

/-- A packet held back by the injection credit or by a red pool (08 R288). -/
structure THeld where
  pool : Option Nat
  pkt : Packet
  msg : Nat
  deriving DecidableEq, Repr

/-- What a request for buffers is for: a count table or an answer area (by the model's own number), the record of an intake,
or the message of the work at the head of `todo`. -/
inductive TWantK where
  | table (n : Nat)
  | area (n : Nat)
  | intake
  | send
  deriving DecidableEq, Repr

/-- A request for buffers that waits at the buffer pool manager (08 R262). -/
structure TWant where
  id : Nat
  ctx : Fin 16
  pool : Nat
  kind : TWantK
  deriving DecidableEq, Repr

/-- One row record of a count table (08 R272, R273). -/
structure RowRec where
  row : Nat
  node : Nat
  tag : W64
  dropped : Bool
  cancelled : Bool
  deriving DecidableEq, Repr

/-- A count table of a local target (08 R272): one entry per node of S with its BLOCK_ROWS, and row records. `n` is a number of
the model's own. -/
structure CountTab where
  n : Nat
  seq : W32
  ctx : Fin 16
  cfg : Nat
  tag : Nat
  step : W64
  expert : Nat
  gang : Nat
  srcs : List (Nat × Option Nat)
  rows : List RowRec
  pool : Nat
  bufs : List Nat
  f : DispatchF
  j : Nat
  deposited : Bool
  deriving DecidableEq, Repr

/-- The command of an operation. -/
inductive TCmd where
  | disp (f : DispatchF)
  | comb (f : CombineF)
  | xchg (f : XchgF)
  deriving DecidableEq, Repr

/-- An operation in progress (08 R258): its sequence number, command, context, gang, step, the placement table in force at its
start (R264), the work it has still to send; for XCHG the slots arrived (member rank, slot) and the members counted. -/
structure TOp where
  seq : W32
  ctx : Fin 16
  gang : Nat
  step : W64
  cmd : TCmd
  aborted : Bool := false
  todo : List TTodo := []
  place : List PlaceRec := []
  /-- XCHG: the members the engine serves (rank, logical core) -/
  mine : List (Nat × Nat) := []
  got : List (Nat × Nat) := []
  counted : List Nat := []
  deriving DecidableEq, Repr

/-- Outbound progress of a saved context on a Tramway engine, as its record buffer keeps it (08 R295). -/
structure TPark where
  ctx : Fin 16
  prog : Nat
  gang : Nat
  pc : Byte
  ended : Bool
  tag : BitVec 16
  op : Option TOp
  deriving DecidableEq, Repr

/-- A Tramway engine (08 R257-R298). -/
structure Tramway where
  prog : Nat := 0
  gang : Nat := 0
  ended : Bool := true
  pc : Byte := 0
  phase : TPhase := .idle
  tag : BitVec 16 := 0
  opStarted : W32 := 0
  opDone : W32 := 0
  /-- the context (plus one) of each operation started (R292) -/
  hist : SMap Nat := []
  abortRes : BitVec 2 := 0
  abortSeq : W32 := 0
  creditMax : BitVec 16 := 0x0100
  epoch : SMap W32 := []
  queue : List DList := []
  recs : List TRec := []
  tabs : List CountTab := []
  op : Option TOp := none
  held : List THeld := []
  toks : List TTok := []
  out : List TOut := []
  wants : List TWant := []
  /-- censuses complete on the node: context, configuration, tag, step (08 R263, R264) -/
  census : List (Fin 16 × Nat × Nat × W64) := []
  /-- records (index, epoch) whose first stale answer has been reported (08 R290) -/
  staleSeen : List (Nat × W32) := []
  /-- operations of saved contexts, suspended (08 R295) -/
  parked : List TPark := []
  deriving DecidableEq, Repr

/-! ### Tiers and pools (09) -/

/-- Where a unit of backing lies (09 R303): Bench 1 offset, or Bench 2 target index and offset in it. -/
inductive Backing where
  | b1 (ofs : Nat)
  | b2 (i : Nat) (ofs : Nat)
  deriving DecidableEq, Repr

/-- One unit of backing: an extent of an engine-tile region or a whole-tensor region (09 R300-R303, R317). -/
structure TUnit where
  ctx : Fin 16
  region : Nat
  kind : Nat
  ofs : Nat
  size : Nat
  back : Backing
  /-- 64 KiB extents written since the commit, as offsets from `ofs` / 64 KiB (09 R302) -/
  written : List Nat
  heat : Nat
  mig : Option Backing
  deriving DecidableEq, Repr

/-- A home window placed in Bench 1 (09 R328, 12 R423). -/
structure HomeWin where
  ctx : Fin 16
  region : Nat
  tofs : Nat
  size : Nat
  fofs : Nat
  b1 : Nat
  deriving DecidableEq, Repr

/-- A staged frame of a core's stage map (09 R310-R312). `stamp` orders by staging or last hint; `hintStep` is the
step of the last hint that named it. -/
structure Staged where
  core : Nat
  ctx : Fin 16
  ofs : Nat
  slot : Nat
  stamp : Nat
  hintStep : Option Nat
  deriving DecidableEq, Repr

/-- A hint of the predictor (07 R248) or a missed frame (09 R311). -/
structure Hint where
  ctx : Fin 16
  cfg : Nat
  expert : Nat
  gang : Nat
  step : Nat
  deriving DecidableEq, Repr
structure Miss where
  core : Nat
  ctx : Fin 16
  ofs : Nat
  deriving DecidableEq, Repr

/-- Tier manager per-context registers (09 R337). -/
structure TirCtx where
  stageSkipped : W32 := 0
  settleBytes : W64 := 0
  settles : W32 := 0
  settleRejects : W32 := 0
  settleWait : W64 := 0
  promoted : W64 := 0
  demoted : W64 := 0
  migFails : W32 := 0
  hintsNoRegion : W32 := 0
  b2Reads : W64 := 0
  settleFails : W32 := 0
  deriving DecidableEq, Repr

/-- A Bench 2 target entry (09 R336). -/
structure B2Target where
  valid : Bool := false
  kind : Bool := false
  node : BitVec 14 := 0
  sizeMib : W32 := 0
  base : W64 := 0
  deriving DecidableEq, Repr

/-- A transfer of the tier manager beyond Bench 1: a read of companion memory or of Bench 2 backing, or a write of Bench 2
backing, for a settle or a migration of a context (09 R319, R324). `at_` is a companion address, or target index × 2^48 +
offset; `res` tells how it was answered. -/
structure Xfer where
  id : Nat
  ctx : Fin 16
  /-- 0 settle, 1 migration, 2 staging -/
  purpose : Nat
  wr : Bool
  companion : Bool
  at_ : Nat
  data : List Byte
  res : Option Bool
  deriving DecidableEq, Repr

/-- The tier manager (09 R299-R337). `b2mem` is the last contents the device wrote to Bench 2 backing, by (target
index × 2^48 + offset): Bench 2 lies outside the device. -/
structure Tier where
  err : Byte := 0
  cmdCtx : BitVec 4 := 0
  done : Bool := false
  promoteHeat : BitVec 16 := 0x0040
  migMax : BitVec 16 := 0x0100
  qCtx : BitVec 4 := 0
  qRegion : BitVec 16 := 0
  targets : SMap B2Target := []
  regs : SMap TirCtx := []
  units : List TUnit := []
  homes : List HomeWin := []
  /-- home-window frames written since the commit: Bench 1 frame numbers (09 R329) -/
  hwWritten : SMap Bool := []
  b2mem : Mem := []
  staged : List Staged := []
  stamp : Nat := 0
  hints : List Hint := []
  misses : List Miss := []
  xfers : List Xfer := []
  nextXfer : Nat := 0
  deriving DecidableEq, Repr

/-- GREEN, AMBER, RED (09 R333). -/
inductive PoolSt where
  | green | amber | red
  deriving DecidableEq, Repr

/-- Who waits for buffers of a pool (09 R332). -/
inductive Waiter where
  | riddle (e : Fin 32)
  | tramway (t : Fin 8) (id : Nat)
  | coll (d : Fin 8) (id : Nat)
  deriving DecidableEq, Repr

/-- A buffer pool (09 R330-R338). The free list is `fresh`, `fresh`+1, …, COUNT-1 followed by `ret`. -/
structure Pool where
  declared : Bool := false
  bench1 : Bool := false
  base : Nat := 0
  sizeLog2 : Nat := 0
  count : Nat := 0
  amber : Nat := 0
  red : Nat := 0
  gang : Nat := 0
  fresh : Nat := 0
  ret : List Nat := []
  refs : SMap Nat := []
  st : PoolSt := .green
  low : W32 := 0
  allocs : W64 := 0
  releases : W64 := 0
  waits : W64 := 0
  amberEv : W32 := 0
  redEv : W32 := 0
  waiters : List (Waiter × Nat) := []
  deriving DecidableEq, Repr

/-- BPM command result (09 R338). -/
structure Bpm where
  index : W32 := 0
  pool : BitVec 4 := 0
  outcome : BitVec 2 := 0
  pools : SMap Pool := []
  deriving DecidableEq, Repr

/-! ### HBM controllers (10 R359-R367) -/

/-- Controller states (10 R359). -/
inductive HState where
  | down | training | filling | service | test | retrain | failed
  deriving DecidableEq, Repr

/-- The registers of one controller (10 R365, R366) and what it counts. `corr` counts corrections per lane in the
interval (key 36 × pc + lane); `pcReg` keys: pc. -/
structure Hbm where
  st : HState := .down
  temp : Byte := 0
  failPc : BitVec 5 := 0
  failValid : Bool := false
  err : Byte := 0
  lastCmd : BitVec 4 := 0
  done : Bool := false
  channel : BitVec 4 := 0
  pc : Bool := false
  sid : BitVec 2 := 0
  bank : BitVec 6 := 0
  row : BitVec 18 := 0
  xlateIn : BitVec 48 := 0
  uncorrAddr : BitVec 48 := 0
  uncorrValid : Bool := false
  wirInstr : Byte := 0
  wirChannel : BitVec 4 := 0
  wirAll : Bool := false
  drBitsM1 : BitVec 11 := 0
  shiftGo : Bool := false
  shifts : Nat := 0
  burstAddr : BitVec 48 := 0
  raw : Bool := false
  burstWrite : Bool := false
  burstGo : Bool := false
  bCorrected : Byte := 0
  bUncorr : Byte := 0
  markThresh : BitVec 16 := 0x0400
  data1500 : Mem := []
  burstBuf : Mem := []
  repaired : SMap (BitVec 36) := []
  hardRepaired : SMap (BitVec 36) := []
  marked : SMap (BitVec 36) := []
  pcCorrected : SMap W64 := []
  pcUncorr : SMap W32 := []
  corr : SMap Nat := []
  /-- Halyard count of the last HBM_UNCORR posted for a pseudo-channel, plus one (10 R353) -/
  lastPost : SMap Nat := []
  /-- spare rows used per bank by soft and by hard repairs (key: packed bank) (10 R360) -/
  spares : SMap Nat := []
  hardSpares : SMap Nat := []
  /-- commands accepted and not complete, oldest first, with HBM_PPR_ADDR as it stood (10 R360) -/
  jobs : List (BitVec 4 × BitVec 34) := []
  deriving DecidableEq, Repr

/-! ### The Yard (11) -/

/-- A packet held in an output buffer: output port, input port, the Yard cycle of its arrival, whether transmission
has begun, and the merged group it stands for (11 R371, R383). -/
structure YEnt where
  port : Nat
  inPort : Nat
  pkt : Packet
  at_ : Nat
  gid : Option Nat
  deriving DecidableEq, Repr

/-- A group of merged requests (11 R383-R386): its members, and after the answer each member's answer and when the
entry is freed. -/
structure CmbGroup where
  id : Nat
  psn : W32
  dest : BitVec 14
  members : List Packet
  answer : Option Packet
  expiry : Nat
  deriving DecidableEq, Repr

/-- A grant of the reduction store (11 R380, R381). -/
structure Grant where
  part : Nat
  ctx : Fin 16
  group : Nat
  cseq : BitVec 16
  engine : Nat
  granules : Nat
  win : Nat
  deriving DecidableEq, Repr

/-- A bunting filter (11 R391). -/
structure BFilter where
  en : Bool := false
  point : Bool := false
  port : BitVec 6 := 0
  anyPort : Bool := false
  vcMask : BitVec 6 := 0
  node : BitVec 14 := 0
  nodeSel : Bool := false
  anyNode : Bool := false
  sampleM1 : BitVec 16 := 0
  matches_ : W64 := 0
  deriving DecidableEq, Repr

/-- Per-port counters (11 R392). -/
structure YPort where
  bytesOut : W64 := 0
  pktsOut : W64 := 0
  outWait : W64 := 0
  stageWait : W64 := 0
  crcDrops : W32 := 0
  sfDrops : W32 := 0
  stomped : W32 := 0
  downDrops : W32 := 0
  deriving DecidableEq, Repr

/-- The Yard (11 R368-R393). -/
structure Yard where
  cmbDisable : Bool := false
  buntBase : BitVec 48 := 0
  buntSize : BitVec 5 := 0
  buntWr : W32 := 0
  buntRd : W32 := 0
  buntLost : W64 := 0
  rsGrants : W64 := 0
  rsRefusals : W64 := 0
  rsResidueFails : W32 := 0
  rsNoGrant : W32 := 0
  readMerges : W64 := 0
  atomMerges : W64 := 0
  tableFull : W64 := 0
  resendsAbsorbed : W64 := 0
  rsLimit : SMap (BitVec 11) := []
  filters : SMap BFilter := []
  ports : SMap YPort := []
  high : SMap W32 := []
  out : List YEnt := []
  stage : List (Nat × Packet) := []
  /-- write connections in use: output, input, Yard cycle at which the packet has crossed (11 R372) -/
  conns : List (Nat × Nat × Nat) := []
  grants : List Grant := []
  groups : List CmbGroup := []
  nextGroup : Nat := 0
  /-- deficits of collective groups at adit outputs: key 64 × adit + group (13 R458) -/
  deficit : SMap Nat := []
  /-- the group served last at an adit output in its round -/
  drrAt : SMap Nat := []
  deriving DecidableEq, Repr

/-! ### Adits (12 R394-R401, R431) -/

/-- Adit states (12 R431). -/
inductive AState where
  | disabled | down | training | up | miswired
  deriving DecidableEq, Repr

/-- One slot captured after a Dip (14 R499). -/
structure Capture where
  nib : BitVec 4
  slot : Nat
  seq : W32
  bytes : List Byte
  deriving DecidableEq, Repr

/-- One adit: its registers (12 R431), credit state (R398), reassembly per virtual channel (R399), what it has sent,
and its Dip capture (14 R499). -/
structure Adit where
  st : AState := .disabled
  partnerReady : Bool := false
  partnerTime : Bool := false
  partnerNode : BitVec 14 := 0
  partnerNodeValid : Bool := false
  partnerAdit : BitVec 5 := 0
  downCause : BitVec 2 := 0
  framesRx : W64 := 0
  fecCorrected : W64 := 0
  fecUncorr : W64 := 0
  lostUnits : W64 := 0
  orphanFlits : W64 := 0
  downCount : W32 := 0
  trainAttempts : W32 := 0
  lastDown : W64 := 0
  creditWait : W64 := 0
  delay : BitVec 16 := 0
  delayValid : Bool := false
  /-- Halyard count of the last good frame -/
  lastFrame : Nat := 0
  /-- Halyard count at which the training attempt in progress began -/
  trainAt : Nat := 0
  /-- units sent on each virtual channel, and the partner's FREED reports (12 R398) -/
  sent : SMap W32 := []
  theirFreed : SMap W32 := []
  /-- units received and freed on each virtual channel -/
  recv : SMap W32 := []
  freed : SMap W32 := []
  /-- a frame was discarded since the last good frame (12 R399) -/
  lossPending : Bool := false
  /-- packet being received on a data virtual channel: its header so far and the flits still missing -/
  asm : List (Nat × Packet × Nat) := []
  /-- data virtual channels that discard flits up to the next header (12 R399) -/
  orphan : List Nat := []
  /-- packets received, waiting to be accepted by the Yard -/
  rx : List Packet := []
  /-- packets transmitted to the partner, oldest first -/
  tx : List Packet := []
  capture : List Capture := []
  /-- units received on each virtual channel after the cut (14 R501) -/
  afterCut : SMap W32 := []
  deriving DecidableEq, Repr

/-! ### The end-to-end protocol and home units (12 R410-R432) -/

/-- Which block injected a request, and what its answer completes (12 R414). A core is named by its logical number in the
request's context. -/
inductive Owner where
  | movHR (k : Fin 512) (op : Nat) (b0 : Nat)
  | movHW (k : Fin 512) (op : Nat)
  | atom (k : Fin 512) (op : Nat) (sr : BitVec 5)
  | trw (t : Fin 8) (msg : Nat)
  | coll (d : Fin 8) (g : Nat) (cseq : BitVec 16) (msg : Nat)
  | tir (x : Nat)
  | b2 (k : Fin 512) (op : Nat)
  | bcast (child : BitVec 14)
  | cmb (gid : Nat)
  /-- a request of a context that was torn down while it was unanswered: the kind and index of the block that injected it -/
  | dead (kind index : Nat)
  deriving DecidableEq, Repr

/-- An entry of the send table (12 R410-R413). `due` is the Halyard count at which its timeout or WAIT retry falls, zero while
the request has not entered the Yard; `ord` orders requests by their issue (R417). -/
structure SendEnt where
  pkt : Packet
  owner : Owner
  due : Nat
  resends : Nat
  waitAns : Bool
  ord : Nat := 0
  deriving DecidableEq, Repr

/-- A request not yet in the send table: held by R410's limits or by R417's pennant rule. -/
structure Held where
  pkt : Packet
  owner : Owner
  part : Option Nat
  port : Nat
  ord : Nat := 0
  deriving DecidableEq, Repr

/-- A delivery entry for one source node (12 R415). -/
structure Delivery where
  session : W64 := 0
  base : Nat := 0
  seen : List Nat := []
  olds : List (Nat × W64) := []
  deriving DecidableEq, Repr

/-- A message of several packets being received by an engine (12 R402): its source, session and STREAM, and the payloads so
far by PART_OFS. -/
structure EMsg where
  src : BitVec 14
  session : W64
  stream : W64
  word5 : W64
  got : List (Nat × List Byte)
  deriving DecidableEq, Repr

/-- The device-wide fabric registers (12 R432) and tables. -/
structure Fabric where
  timeoutUs : BitVec 10 := 0x008
  waitRetry : BitVec 10 := 0x010
  session : W64 := 0
  sent : W64 := 0
  resends : W64 := 0
  acks : W64 := 0
  unreachable : W32 := 0
  unreachSupp : W32 := 0
  duplicates : W64 := 0
  staleSession : W32 := 0
  lateAcks : W32 := 0
  goneAcks : W32 := 0
  badPackets : W32 := 0
  noticesSent : W32 := 0
  noticesSupp : W32 := 0
  noRoute : W32 := 0
  downRoute : W32 := 0
  tableWait : W64 := 0
  pennantWait : W64 := 0
  homeReqs : W64 := 0
  fpAtomics : W64 := 0
  waits : W64 := 0
  table : List SendEnt := []
  held : List Held := []
  nextPsn : SMap Nat := []
  delivery : SMap Delivery := []
  /-- Halyard count (plus one) of the last UNREACHABLE event per destination and last notice per source -/
  lastUnreach : SMap Nat := []
  lastNotice : SMap Nat := []
  msgs : List EMsg := []
  /-- the model's own: the next number for a message, a request for buffers, a record or a count table -/
  nextId : Nat := 0
  /-- the model's own: the number of the next request issued -/
  nextOrd : Nat := 0
  /-- packets injected at a die or host port and not yet accepted by the Yard: port and packet -/
  inject : List (Nat × Packet) := []
  deriving DecidableEq, Repr

/-- One line of a home unit's buffer (12 R425): unit, Bench 1 line number, its bytes, and the Yard cycle of the last
request to it. -/
structure HLine where
  unit_ : Nat
  line : Nat
  bytes : List Byte
  last : Nat
  deriving DecidableEq, Repr

/-! ### Collectives (13) -/

/-- A collective descriptor (13 R437). -/
structure CDesc where
  group : Nat
  kind : Nat
  rop : Nat
  fmt : BitVec 4
  var_ : Bool
  empty : Bool
  sparse : Bool
  zcomp : Bool
  cnt : BitVec 4
  stagePool : Nat
  cseq : BitVec 16
  core : Nat
  srcAddr : Nat
  dstAddr : Nat
  statusAddr : Nat
  len : Nat
  arg : Nat
  granules : Nat
  ctx : Fin 16
  step : W64
  deriving DecidableEq, Repr

/-- A value of a tree node for one chunk: accumulator values (WX48 or binary64 bits), or failed (13 R445-R447). -/
structure CVal where
  lo : Nat
  level : Nat
  chunk : Nat
  vals : List Nat
  failed : Bool
  deriving DecidableEq, Repr

/-- A header at a tree node (13 R450). -/
structure CHdr where
  lo : Nat
  level : Nat
  hash : BitVec 16
  mis : Bool
  deriving DecidableEq, Repr

/-- A member that an engine serves in an operation: its rank, descriptor and whether that is bad (13 R438), the bytes that
CAPACITY drops (R442), the pieces of its output written and failed (a result chunk, or sending rank × 2^32 + chunk), and whether
its completion record is written. -/
structure CMem where
  rank : Nat
  desc : CDesc
  bad : Bool
  dropped : Nat
  done : List Nat
  failed : List Nat
  finished : Bool
  deriving DecidableEq, Repr

/-- An operation in progress on an engine (13 R435, R450-R459): headers received and nodes whose header has gone up, the
verdict (true: MISMATCH), node values received, nodes and data passed on, the chunks credited so far with the staging buffers
that receive them, the device's open windows (start, end, and whether the store granted it), the credit received (node, lowest rank
and level of the child, chunk), and messages sent and not wholly acknowledged (message, chunk, packets left). -/
structure COp where
  group : Nat
  cseq : BitVec 16
  ctx : Fin 16
  mems : List CMem
  hdrs : List CHdr := []
  hdrUp : List (Nat × Nat) := []
  verdict : Option Bool := none
  vals : List CVal := []
  passed : List (Nat × Nat × Nat) := []
  opened : Nat := 0
  dests : List (Nat × List Nat) := []
  wins : List (Nat × Nat × Bool) := []
  /-- gathers, broadcasts and shifts: chunks credited to a sending rank -/
  lent : List (Nat × Nat) := []
  /-- gathers with VAR = 1: lengths received by rank -/
  lens : List (Nat × Nat) := []
  want : Option (Nat × Nat) := none
  credit : List (Nat × Nat × Nat × Nat) := []
  out : List (Nat × Nat × Nat) := []
  /-- a value is ready and waits for credit -/
  starved : Bool := false
  arithPosted : Bool := false
  unreachable : Bool := false
  deriving DecidableEq, Repr

/-- A collective engine (13 R433, R464). -/
structure Coll where
  queue : List CDesc := []
  ops : List COp := []
  /-- headers that came before their operation started here (group, CSEQ) -/
  early : List (Nat × BitVec 16 × CHdr) := []
  /-- the CSEQ completed last for a group since the commit, plus one (R435) -/
  last : SMap Nat := []
  opsDone : W64 := 0
  chunksSent : W64 := 0
  chunksRecv : W64 := 0
  creditWait : W64 := 0
  rsFallbacks : W32 := 0
  mismatches : W32 := 0
  arithFails : W32 := 0
  badDescs : W32 := 0
  overflow : W64 := 0
  denseBytes : W64 := 0
  wireBytes : W64 := 0
  deriving DecidableEq, Repr

/-- Group registers (13 R465). -/
structure CGroup where
  lastCseq : BitVec 16 := 0
  lastStatus : Byte := 0
  ops : W64 := 0
  drrBytes : W64 := 0
  drrWait : W64 := 0
  deriving DecidableEq, Repr

/-! ### Halyard, Dip, broadcast, debug (14) -/

/-- Halyard states (14 R477). -/
inductive HalState where
  | free | acquiring | locked | holdover
  deriving DecidableEq, Repr

/-- DIP_STATE (14 R505). -/
inductive DipState where
  | running | pending | dipped
  deriving DecidableEq, Repr

/-- BSTATE (14 R505). -/
inductive BState where
  | idle | sending | doneOk | doneFail | armSent
  deriving DecidableEq, Repr

/-- A child in the broadcast tree (14 R485, R488): node, unacknowledged packets, its report (ok count, fail, first
failed node, error). -/
structure BChild where
  node : BitVec 14
  unacked : Nat
  report : Option (Nat × Bool × BitVec 14 × Byte)
  /-- FWD of the copy sent to it and whether it went by multicast of dimension MDIM -/
  fwd : BitVec 3
  mdim : Option (BitVec 2)
  deriving DecidableEq, Repr

/-- The SYN_ registers (14 R505) and the state of the slew loop, the Dip and the broadcast. -/
structure Syn where
  st : HalState := .free
  everLocked : Bool := false
  error : BitVec 16 := 0
  lockLosses : W32 := 0
  root : Bool := false
  parentAdit : BitVec 5 := 0
  parentEn : Bool := false
  slews : W64 := 0
  /-- the last 256 measured errors in 1/16 ns, newest first (14 R478) -/
  errs : List Int := []
  /-- frames measured since ACQUIRING was last entered, and the one-time set of the counter (14 R478) -/
  frames : Nat := 0
  setOnce : Bool := false
  /-- slews made while LOCKED with the ns of each, newest first: an advance is +1, a hold -1; those of the last 10 ms count -/
  recent : List (Nat × Int) := []
  /-- ns of the last slew -/
  lastSlew : Nat := 0
  holdAt : Nat := 0
  atEn : Bool := false
  dipAt : W64 := 0
  /-- the Dip at SYN_DIP_AT is still to come -/
  atArmed : Bool := false
  trigMask : BitVec 5 := 0
  dipSt : DipState := .running
  dipSrc : BitVec 3 := 0
  dipCount : W64 := 0
  dipIgnored : W32 := 0
  /-- ns at which a pending Dip cuts -/
  dipCutNs : Nat := 0
  chLo : Byte := 0
  chHi : Byte := 0
  bcastCommit : W64 := 0
  bcastLaunch : W64 := 0
  ctxMask : BitVec 16 := 0
  timeoutUs : W32 := 0x2710
  bst : BState := .idle
  berr : Byte := 0
  firstFail : BitVec 14 := 0
  okCount : W32 := 0
  rxId : W64 := 0
  rxParent : BitVec 14 := 0
  /-- parts of the broadcast image received (first flit, flits), and its length in flits -/
  rxParts : List (Nat × Nat) := []
  rxTotal : Nat := 0
  rxFwd : BitVec 3 := 0
  children : List BChild := []
  /-- the children are of a broadcast that this device began -/
  isOrigin : Bool := false
  /-- Halyard count at which the device's own last copy was acknowledged -/
  copiesAt : Nat := 0
  reported : Bool := false
  /-- the validation in progress is of the broadcast image, and its end: VALID, or the loader's error -/
  ownPending : Bool := false
  own : Option (Bool × Byte) := none
  /-- IMAGE_ID of the broadcast that this device began -/
  sentId : W64 := 0
  /-- image, launch count and context mask of an ARM packet, to use when the loader enters COMMITTED (14 R490) -/
  armPending : Option (W64 × W64 × BitVec 16) := none
  deriving DecidableEq, Repr

/-- A sample set (14 R506). -/
structure SampleSet where
  en : Bool := false
  trig : Bool := false
  tkind : BitVec 3 := 0
  tindex : BitVec 12 := 0
  mask : W32 := 0
  period : W32 := 1
  /-- ns of the strobe of a firing that has not been read yet, plus one -/
  strobeAt : Nat := 0
  lastFire : Nat := 0
  deriving DecidableEq, Repr

/-- A ring of records in Bench 1 (14 R474, R495). -/
structure Ring where
  base : BitVec 48 := 0
  size : BitVec 5 := 0
  wr : W32 := 0
  rd : W32 := 0
  lost : W64 := 0
  deriving DecidableEq, Repr

/-- A digest accumulator (14 R471). -/
structure DigAcc where
  ctx : Fin 16
  cls : Nat
  key : Nat
  step : W64
  sum : W64
  deriving DecidableEq, Repr

/-- The DBG_ registers (14 R506). `resets` holds counters reset in the current ns for RST_COIN (14 R494): unit code,
mask, ns. -/
structure Dbg where
  samp : Ring := {}
  dig : Ring := {}
  cmdReset : SMap W32 := []
  sets : SMap SampleSet := []
  scanKind : BitVec 4 := 0
  scanIndex : BitVec 9 := 0
  scanPage : W32 := 0
  viewGang : BitVec 12 := 0
  accs : List DigAcc := []
  /-- spoil count of a context's step (14 R473) -/
  spoils : List (Fin 16 × W64 × Nat) := []
  strobes : W64 := 0
  resets : List (Nat × W32 × Nat × List (Nat × W64)) := []
  deriving DecidableEq, Repr

/-! ### Dragiper Link, events, identity, Burgee (15) -/

/-- DRG_STATE (15 R528). -/
inductive DState where
  | down | training | up
  deriving DecidableEq, Repr

/-- A message the device sends on Dragiper Link (15 R512, R513). -/
structure DrgMsg where
  opcode : Byte
  tag : BitVec 12
  status : Byte
  addr : BitVec 56
  mask : W32
  data : List Byte
  lenM1 : BitVec 3 := 0
  deriving DecidableEq, Repr

/-- A companion request held while a snoop of its line is outstanding (15 R518). -/
structure HostReq where
  opcode : Byte
  tag : BitVec 12
  addr : BitVec 56
  lenM1 : BitVec 3
  mask : W32
  data : List Byte
  deriving DecidableEq, Repr

/-- A device request to companion memory awaiting its answer (15 R521): tag, what it serves. -/
inductive CmReq where
  | event (n : Nat)
  | irq
  | tier (x : Nat)
  | b2 (c : Fin 16) (k : Fin 512) (op : Nat)
  deriving DecidableEq, Repr

/-- Dragiper Link: link layer (15 R507-R510), snoop filter (R516-R518), messages sent and requests outstanding. -/
structure Drg where
  st : DState := .down
  replays : W64 := 0
  crcErrors : W64 := 0
  downs : W32 := 0
  snpSent : W64 := 0
  snpEvicts : W64 := 0
  /-- sender: next FLIT_SEQ, numbered flits unacknowledged (oldest first) with their replay counts -/
  txSeq : BitVec 12 := 0
  unacked : List (BitVec 12 × Nat) := []
  /-- flits of messages that wait for a number: 2,048 are unacknowledged (15 R509) -/
  txWait : Nat := 0
  /-- receiver: last FLIT_SEQ received good in order; a replay is awaited; NAK to send -/
  rxSeq : BitVec 12 := 0xFFF
  awaitReplay : Bool := false
  nakDue : Bool := false
  /-- credit per class: REQ, SNP, DREQ, RSP slots the companion has granted -/
  credit : SMap Nat := []
  /-- Halyard count of the last flit that passed its CRC, and that at which the link went down or last began to train -/
  lastFlit : Nat := 0
  trainAt : Nat := 0
  /-- held lines in allocation order: line number, modifiable -/
  filter : List (Nat × Bool) := []
  /-- snoops outstanding: tag, line, invalidate -/
  snoops : List (BitVec 12 × Nat × Bool) := []
  held : List HostReq := []
  reqs : List (BitVec 12 × CmReq) := []
  nextTag : BitVec 12 := 0
  tx : List DrgMsg := []
  /-- the model's own: lines that accesses of the command being run need snooped, with write marks; empty between
  commands -/
  need : List (Nat × Bool) := []
  deriving DecidableEq, Repr

/-- An event (15 R524). -/
structure EvRec where
  halyard : W64
  code : BitVec 16
  ctx : Option (Fin 16)
  seq : W32
  arg0 : W64
  arg1 : W64
  deriving DecidableEq, Repr

/-- The event ring (15 R524-R528). -/
structure Evt where
  base : BitVec 56 := 0
  size : BitVec 5 := 0
  wr : W32 := 0
  rd : W32 := 0
  lost : W32 := 0
  queue : List EvRec := []
  seq : W32 := 0
  lostSince : Nat := 0
  irqEn : Bool := false
  holdoff : BitVec 16 := 0
  vector : W32 := 0
  irqDue : Bool := false
  /-- Halyard count before which no IRQ is sent -/
  irqNext : Nat := 0
  deriving DecidableEq, Repr

/-- FW_STATE (15 R528). -/
inductive FwState where
  | none | verifying | running | badSig | rollback | noImage
  deriving DecidableEq, Repr

/-- Identity registers of the main domain (15 R528). -/
structure Dev where
  node : BitVec 14 := 0
  nodeSet : Bool := false
  fwVersion : W32 := 0
  fwSvn : BitVec 16 := 0
  fw : FwState := .none
  deriving DecidableEq, Repr

/-- One measurement slot (15 R538): its 64-byte value (empty: zero), change count, recomputation in progress. -/
structure Meas where
  value : List Byte := []
  count : W32 := 0
  pending : Bool := false
  /-- the value that the recomputation in progress will give -/
  next : List Byte := []
  deriving DecidableEq, Repr

/-- The always-on domain: ALERT, I3C and MCTP, keys and measurements (15 R530-R539). -/
structure Aon where
  alertStatus : Byte := 0
  alertMask : Byte := 0xFF
  eid : Byte := 0
  i3cDa : BitVec 7 := 0
  i3cEvents : Byte := 0x09
  /-- eight key slots: an empty list is an empty slot -/
  keys : SMap (List Byte) := []
  keySeq : W32 := 0
  meas : SMap Meas := []
  resetCause : BitVec 3 := 0
  /-- the last answer of the port, message bytes from the type byte on -/
  answer : List Byte := []
  /-- in-band interrupt pending (15 R530) -/
  ibi : Bool := false
  hotJoin : Bool := false
  deriving DecidableEq, Repr

/-! ### Power (16) -/

/-- PWR_STAGE.STAGE (16 R545); `off` while the main side is not running. -/
inductive Stage where
  | off | fuse | boot | hbmTrain | aditTrain | sync | ready | failed
  deriving DecidableEq, Repr

/-- The PWR_ registers (16 R561) and the ramp governor (R552). -/
structure Pwr where
  stage : Stage := .fuse
  failStage : BitVec 4 := 0
  drvLevel : BitVec 4 := 0
  thrAtEn : Bool := false
  /-- the driver level in effect, and a write held for PWR_THR_AT (16 R556) -/
  drvInForce : Nat := 0
  drvHeld : Option Nat := none
  autoLevel : Nat := 0
  /-- the autonomous level caused the last change of L -/
  byAuto : Bool := false
  thrAt : W64 := 0
  limitW : BitVec 16 := 0x0B54
  avgW : BitVec 16 := 0
  tjHot : Byte := 0
  tjMax : Byte := 0
  tjDie : SMap Byte := []
  govWait : W64 := 0
  govWaves : W32 := 0
  thrTicks : W64 := 0
  /-- intervals since a condition of R555 last held -/
  coolFor : Nat := 0
  /-- cores waiting for a wave: core, Halyard count of the request -/
  govQueue : List (Nat × Nat) := []
  /-- Halyard count before which no wave is issued -/
  govNext : Nat := 0
  /-- cores of issued waves, not yet awake: core, Halyard count at which it is awake -/
  waking : List (Nat × Nat) := []
  awake : List Nat := []
  resetAt : Option (Nat × BitVec 5) := none
  deriving DecidableEq, Repr

/-- Pins: power of the always-on domain, PGOOD_IN, RESET_N and the status pins (16 R541-R544). -/
structure Pins where
  vaon : Bool := true
  pgoodIn : Bool := true
  resetN : Bool := true
  pgoodOut : Bool := false
  thermtripN : Bool := true
  deriving DecidableEq, Repr

/-- Fuses (01 R20, 15 R528, R537, 16 R559-R561). `cores` holds one word per die. -/
structure Fuses where
  grade : BitVec 2 := 0
  stepping : BitVec 2 := 1
  cores : List W64 := List.replicate 8 0xFFFF_FFFF_FFFF_FFFF
  serialLo : W64 := 0
  serialHi : W64 := 0
  /-- the two fused firmware key IDs, each with its revocation fuse -/
  fwKeys : List (List Byte × Bool) := [(Config.fwKeyId false, false), (Config.fwKeyId true, false)]
  minSvn : BitVec 16 := 0
  pwrLimit : BitVec 16 := 0x0B54
  tjHot : Byte := 95
  tjTrip : Byte := 110
  pen : W32 := 0
  deriving DecidableEq, Repr

/-! ### The whole machine -/

/-- A core's part of a saved context that the frame holds in areas whose inner layout the manual does not give
(03 R105): logical core, the core's registers and stopped operations. -/
structure SavedCore where
  ctx : Fin 16
  logical : Nat
  core : Core
  wasRunning : Bool
  slot : BitVec 16
  deriving DecidableEq, Repr

/-- The state of the device. Maps keyed by number hold units, contexts, pools, stacks, adits, dies. -/
structure State where
  pending : List Instr
  free : Nat
  /-- ns since the main side was released from reset: the time base of cycle counts -/
  ns : Nat
  halyard : Nat
  fuses : Fuses
  pins : Pins
  aon : Aon
  dev : Dev
  pwr : Pwr
  syn : Syn
  dbg : Dbg
  hst : Loader
  tab : Tables
  tick : TickSeq
  ctab : CtxTab
  ctxs : SMap Ctx
  /-- key: 5 × partition + level -/
  buckets : SMap Bucket
  /-- key: unit code (core id, 512 + Riddle, 544 + Tramway, 552 + stack) -/
  faces : SMap Face
  gangs : SMap GangFace
  cores : SMap Core
  saved : List SavedCore
  riddles : SMap Riddle
  rdl : RiddleDev
  tramways : SMap Tramway
  tir : Tier
  bpm : Bpm
  /-- Bench 1 by stack and stack-local address: key stack × 2^48 + local -/
  bench1 : Mem
  /-- check symbols that differ from those of the data: key (stack × 2^48 + local of the codeword) × 4 + i, value the
  difference (10 R343) -/
  chk : Mem
  hbms : SMap Hbm
  yard : Yard
  adits : SMap Adit
  fab : Fabric
  lines : List HLine
  colls : SMap Coll
  cgroups : SMap CGroup
  drg : Drg
  evt : Evt
  deriving DecidableEq, Repr

/-- The machine right after reset: RESET_N has just been released, the main side is in stage FUSE (16 R545, R561), every
register at the reset value of its table, memory with nothing listed, and an empty queue. -/
def State.reset : State where
  pending := []
  free := 0
  ns := 0
  halyard := 0
  fuses := {}
  pins := {}
  aon := {}
  dev := {}
  pwr := { tjHot := 95 }
  syn := {}
  dbg := {}
  hst := {}
  tab := {}
  tick := {}
  ctab := {}
  ctxs := []
  buckets := []
  faces := []
  gangs := []
  cores := []
  saved := []
  riddles := []
  rdl := {}
  tramways := []
  tir := {}
  bpm := {}
  bench1 := []
  chk := []
  hbms := []
  yard := {}
  adits := []
  fab := {}
  lines := []
  colls := []
  cgroups := []
  drg := {}
  evt := {}

end Sys2Proof.Machine
end

