-- ==== Sys2Proof/Machine/Bits.lean ====
section
/-!
DEFINITION. Sparse maps in canonical form, bytes and words in the spec's little-endian order (00 R8), bit fields
(00 R7), and CRC-64 (12 R404).
-/
namespace Sys2Proof.Machine

/-! ### Sparse maps -/

/-- The value at key `k`; an unlisted key reads as `d`. -/
def mget {α : Type} (d : α) : SMap α → Nat → α
  | [], _ => d
  | (i, v) :: r, k => if i = k then v else mget d r k

/-- The map with the value `v` at key `k`, in its place among the rising keys. -/
def mins {α : Type} : SMap α → Nat → α → SMap α
  | [], k, v => [(k, v)]
  | (i, w) :: r, k, v =>
    if k < i then (k, v) :: (i, w) :: r
    else if k = i then (k, v) :: r
    else (i, w) :: mins r k v

/-- The map with key `k` holding `v`. Keys stay strictly rising, and a default value is not listed. -/
def mput {α : Type} [DecidableEq α] (d : α) (m : SMap α) (k : Nat) (v : α) : SMap α :=
  if v = d then m.filter (fun e => e.1 ≠ k) else mins m k v

/-- Every key of the map is at least `lo`, the keys rise strictly, and no value is the default. -/
def mwfFrom {α : Type} [DecidableEq α] (d : α) : Nat → SMap α → Bool
  | _, [] => true
  | lo, (i, v) :: r => decide (lo ≤ i) && decide (v ≠ d) && mwfFrom d (i + 1) r

/-- The canonical form of a map. -/
def mwf {α : Type} [DecidableEq α] (d : α) (m : SMap α) : Bool := mwfFrom d 0 m

/-- The canonical form of a memory: addresses strictly rising, no byte equal to what an unlisted address reads as. -/
def Memory.wf (m : Mem) : Bool := mwf (0 : Byte) m

/-- The map with every key that satisfies `p` back at the default. -/
def mclear {α : Type} (m : SMap α) (p : Nat → Bool) : SMap α := m.filter (fun e => !p e.1)

/-- A map changed value by value; values that become the default are not listed. -/
def mmap {α : Type} [DecidableEq α] (d : α) (f : Nat → α → α) (m : SMap α) : SMap α :=
  m.filterMap (fun e => if f e.1 e.2 = d then none else some (e.1, f e.1 e.2))

/-! ### Words and bytes -/

/-- The `n` low bytes of `v`, least significant first. -/
def bytesOf : Nat → Nat → List Byte
  | 0, _ => []
  | n + 1, v => BitVec.ofNat 8 v :: bytesOf n (v / 256)

/-- The number whose little-endian bytes are given. -/
def natOf : List Byte → Nat
  | [] => 0
  | b :: r => b.toNat + 256 * natOf r

/-- Bits [hi:lo] of a number. -/
def bits (v hi lo : Nat) : Nat := v / 2 ^ lo % 2 ^ (hi + 1 - lo)

/-- Bit `i` of a number. -/
def bitAt (v i : Nat) : Bool := v / 2 ^ i % 2 = 1

/-- A bit as a number. -/
def b2n (b : Bool) : Nat := if b then 1 else 0

/-- The `n` bytes from address `a` on. -/
def readBytes (m : Mem) (a n : Nat) : List Byte := (List.range n).map (fun i => mget 0 m (a + i))

/-- Bytes written from address `a` on. -/
def writeBytes (m : Mem) (a : Nat) : List Byte → Mem
  | [] => m
  | b :: r => writeBytes (mput 0 m a b) (a + 1) r

/-- The little-endian number of `n` bytes at `a`. -/
def readNat (m : Mem) (a n : Nat) : Nat := natOf (readBytes m a n)

/-- The number of bytes `n` at offset `o` of a byte list; bytes past its end read zero. -/
def natAt (bs : List Byte) (o n : Nat) : Nat := natOf ((bs.drop o).take n)

/-- The signed reading of a `w`-bit number. -/
def sext (w v : Nat) : Int := if v % 2 ^ w < 2 ^ (w - 1) then (v % 2 ^ w : Nat) else (v % 2 ^ w : Nat) - 2 ^ w

/-- The `w`-bit two's complement number of an integer. -/
def wrap (w : Nat) (i : Int) : Nat := (i % (2 ^ w : Nat)).toNat

/-- Rounding up to a multiple. -/
def roundUp (v m : Nat) : Nat := (v + m - 1) / m * m

/-- The quotient rounded up. -/
def ceilDiv (a b : Nat) : Nat := (a + b - 1) / b

/-- Pairs of a list with the positions of its elements. -/
def indexed {α : Type} (l : List α) : List (Nat × α) := (List.range l.length).zip l

/-- The elements of a list up to the first occurrence of each. -/
def dedup (l : List Nat) : List Nat := l.foldl (fun acc x => if acc.contains x then acc else acc ++ [x]) []

/-- Insertion into a list sorted by a key. -/
def insertBy {α : Type} (key : α → Nat) (x : α) : List α → List α
  | [] => [x]
  | y :: r => if key x ≤ key y then x :: y :: r else y :: insertBy key x r

/-- Stable sort by a key. -/
def sortBy {α : Type} (key : α → Nat) (l : List α) : List α := l.foldr (insertBy key) []

/-- The cut of a list into pieces of `n` elements (at most `fuel` pieces). -/
def chunks {α : Type} (n : Nat) : Nat → List α → List (List α)
  | 0, _ => []
  | _, [] => []
  | fuel + 1, l => l.take n :: chunks n fuel (l.drop n)

/-- A list padded with zeros to `n` bytes. -/
def padTo (n : Nat) (bs : List Byte) : List Byte := bs ++ List.replicate (n - bs.length) 0

/-- Bytes padded with zeros to whole flits of 64 bytes (12 R402). -/
def padFlits (bs : List Byte) : List Byte := padTo (roundUp bs.length 64) bs

/-- A map of a list with the running state threaded through. -/
def foldS {α σ : Type} (f : σ → α → σ) (s : σ) (l : List α) : σ := l.foldl f s

/-! ### CRC-64 (12 R404) -/

/-- One bit of the division by the ECMA-182 polynomial. -/
def crcBit (c : BitVec 64) : BitVec 64 :=
  if c.msb then (c <<< 1) ^^^ 0x42F0E1EBA9EA3693#64 else c <<< 1

/-- One byte taken into the CRC, not reflected. -/
def crcByte (c : BitVec 64) (b : Byte) : BitVec 64 :=
  let c := c ^^^ (b.zeroExtend 64 <<< 56)
  crcBit (crcBit (crcBit (crcBit (crcBit (crcBit (crcBit (crcBit c)))))))

/-- CRC-64 of a byte string: initial value zero, no final XOR. -/
def crc64 (bs : List Byte) : BitVec 64 := bs.foldl crcByte 0

end Sys2Proof.Machine
end

