-- ==== Sys2Proof/Machine/Crypto.lean ====
section
/-!
DEFINITION. SHAKE256 (FIPS 202) and the verification of Ed448 signatures with an empty context string (RFC 8032), as the
spec cites them (02 R66, 15 R536-R539). The standards' constants are PRESUMED: the spec names the standards and gives none.
-/
namespace Sys2Proof.Machine

/-! ### SHAKE256 -/

/-- Keccak round constants. -/
def keccakRC : List W64 := [
  0x0000000000000001, 0x0000000000008082, 0x800000000000808A, 0x8000000080008000, 0x000000000000808B, 0x0000000080000001,
  0x8000000080008081, 0x8000000000008009, 0x000000000000008A, 0x0000000000000088, 0x0000000080008009, 0x000000008000000A,
  0x000000008000808B, 0x800000000000008B, 0x8000000000008089, 0x8000000000008003, 0x8000000000008002, 0x8000000000000080,
  0x000000000000800A, 0x800000008000000A, 0x8000000080008081, 0x8000000000008080, 0x0000000080000001, 0x8000000080008008]

/-- Keccak rotation offsets, lane x + 5y. -/
def keccakRot : List Nat :=
  [0, 1, 62, 28, 27, 36, 44, 6, 55, 20, 3, 10, 43, 25, 39, 41, 45, 15, 21, 8, 18, 2, 61, 56, 14]

/-- One round of Keccak-f[1600] on 25 lanes. -/
def keccakRound (a : List W64) (rc : W64) : List W64 :=
  let g := fun (l : List W64) (i : Nat) => l.getD i 0
  let c := (List.range 5).map (fun x => g a x ^^^ g a (x + 5) ^^^ g a (x + 10) ^^^ g a (x + 15) ^^^ g a (x + 20))
  let d := (List.range 5).map (fun x => g c ((x + 4) % 5) ^^^ (g c ((x + 1) % 5)).rotateLeft 1)
  let t := (List.range 25).map (fun i => (g a i ^^^ g d (i % 5)).rotateLeft (keccakRot.getD i 0))
  -- π: lane (x, y) moves to (y, 2x + 3y); the lane now at (X, Y) came from x = (X + 3Y) mod 5, y = X
  let b := (List.range 25).map (fun i => g t ((i % 5 + 3 * (i / 5)) % 5 + 5 * (i % 5)))
  let e := (List.range 25).map (fun i =>
    g b i ^^^ (~~~ (g b ((i % 5 + 1) % 5 + 5 * (i / 5))) &&& g b ((i % 5 + 2) % 5 + 5 * (i / 5))))
  match e with
  | h :: r => (h ^^^ rc) :: r
  | [] => []

def keccakF (a : List W64) : List W64 := keccakRC.foldl keccakRound a

/-- A 136-byte block added to the state. -/
def absorb (a : List W64) (blk : List Byte) : List W64 :=
  keccakF ((indexed a).map (fun e => if e.1 < 17 then e.2 ^^^ BitVec.ofNat 64 (natAt blk (8 * e.1) 8) else e.2))

/-- The message with SHAKE's suffix and padding to whole 136-byte blocks. -/
def shakePad (m : List Byte) : List Byte :=
  let n := (m.length / 136 + 1) * 136 - m.length
  if n = 1 then m ++ [0x9F] else m ++ [0x1F] ++ List.replicate (n - 2) 0 ++ [0x80]

/-- Output blocks of the sponge. -/
def squeeze : Nat → List W64 → List Byte
  | 0, _ => []
  | n + 1, a => (a.take 17).flatMap (fun w => bytesOf 8 w.toNat) ++ squeeze n (keccakF a)

/-- `n` bytes of SHAKE256 of a message. -/
def shake256 (m : List Byte) (n : Nat) : List Byte :=
  let p := shakePad m
  let a := (chunks 136 (p.length / 136) p).foldl absorb (List.replicate 25 0)
  (squeeze (n / 136 + 1) a).take n

/-! ### Ed448 -/

def edP : Nat := 2 ^ 448 - 2 ^ 224 - 1
def edL : Nat := 2 ^ 446 - 13818066809895115352007386748515426880336692474882178609894547503885
/-- d = -39081. -/
def edD : Nat := edP - 39081
def edBx : Nat := 224580040295924300187604334099896036246789641632564134246125461686950415467406032909029192869357953282578032075146446173674602635247710
def edBy : Nat := 298819210078481492676017930443930673437544040154080242095928241372331506189835876003536878655418784733982303233503462500531545062832660

/-- b^e mod edP, over at most `n` bits of the exponent. -/
def edPow : Nat → Nat → Nat → Nat
  | 0, _, _ => 1
  | n + 1, b, e =>
    let r := edPow n (b * b % edP) (e / 2)
    if e % 2 = 1 then r * b % edP else r

def edSub (a b : Nat) : Nat := (a + edP - b % edP) % edP

/-- A point in projective coordinates. -/
structure EdPt where
  x : Nat
  y : Nat
  z : Nat
  deriving DecidableEq, Repr

/-- Point addition (RFC 8032, 5.2.4). -/
def edAdd (p q : EdPt) : EdPt :=
  let a := p.z * q.z % edP
  let b := a * a % edP
  let c := p.x * q.x % edP
  let d := p.y * q.y % edP
  let e := edD * (c * d % edP) % edP
  let f := edSub b e
  let g := (b + e) % edP
  let h := (p.x + p.y) * (q.x + q.y) % edP
  { x := a * f % edP * edSub (edSub h c) d % edP, y := a * g % edP * edSub d c % edP, z := f * g % edP }

/-- Scalar multiple over at most `n` bits. -/
def edMul : Nat → Nat → EdPt → EdPt
  | 0, _, _ => { x := 0, y := 1, z := 1 }
  | n + 1, k, p =>
    let r := edMul n (k / 2) (edAdd p p)
    if k % 2 = 1 then edAdd r p else r

/-- The point that 57 bytes encode. -/
def edDecode (bs : List Byte) : Option EdPt :=
  let v := natOf bs
  let sign := v / 2 ^ 455 % 2
  let y := v % 2 ^ 455
  if bs.length ≠ 57 ∨ edP ≤ y then none
  else
    let u := edSub (y * y % edP) 1
    let w := edSub (edD * (y * y % edP) % edP) 1
    let u3w := u * u % edP * u % edP * w % edP
    let x := u3w * edPow 448 (u3w * (u * u % edP) % edP * (w * w % edP) % edP) ((edP - 3) / 4) % edP
    if w * (x * x % edP) % edP ≠ u then none
    else if x = 0 ∧ sign = 1 then none
    else some { x := if x % 2 = sign then x else edP - x, y := y, z := 1 }

/-- Equality of projective points. -/
def edEq (p q : EdPt) : Bool := p.x * q.z % edP = q.x * p.z % edP && p.y * q.z % edP = q.y * p.z % edP

/-- The bytes of an ASCII string. -/
def ascii (s : String) : List Byte := s.toList.map (fun c => BitVec.ofNat 8 c.toNat)

/-- Verification of an Ed448 signature of 114 bytes with an empty context string (RFC 8032, 5.2.7). -/
def ed448Verify (pub msg sig : List Byte) : Bool :=
  if sig.length ≠ 114 then false
  else
    let rb := sig.take 57
    let sc := natOf (sig.drop 57)
    match edDecode pub, edDecode rb with
    | some a, some r =>
      if edL ≤ sc then false
      else
        let k := natOf (shake256 (ascii "SigEd448" ++ [0, 0] ++ rb ++ pub ++ msg) 114) % edL
        let l := edMul 448 sc { x := edBx, y := edBy, z := 1 }
        let q := edAdd r (edMul 448 k a)
        edEq (edMul 3 4 l) (edMul 3 4 q)
    | _, _ => false

/-- The KEY_ID of a key: the first 16 bytes of SHAKE256 of its 57 bytes (02 R66). -/
def keyId (pub : List Byte) : List Byte := shake256 pub 16

end Sys2Proof.Machine
end

