-- ==== Sys2Proof/Machine/Flags.lean ====
section
/-!
DEFINITION. The status flags and events of the device: ALERT (15 R535), requests for a Dip (14 R497), requests to
companion memory (15 R521), the event ring (15 R524-R527) and the interrupt (R526).
-/
namespace Sys2Proof.Machine

/-! ### Counters and flags -/

/-- Advance of a 64-bit counter, modulo 2^64 (01 R28). -/
def inc64 (v : W64) (n : Nat) : W64 := v + BitVec.ofNat 64 n

/-- Advance of a 32-bit counter, modulo 2^32. -/
def inc32 (v : W32) (n : Nat) : W32 := v + BitVec.ofNat 32 n

/-- A bit of ALERT_STATUS set (15 R535). -/
def setAlert (s : State) (bit : Nat) : State :=
  { s with aon := { s.aon with alertStatus := s.aon.alertStatus ||| BitVec.ofNat 8 (2 ^ bit) } }

/-- The ALERT output: driven low (true) while a masked status bit is 1 (15 R535). -/
def alertPin (s : State) : Bool := (s.aon.alertStatus &&& s.aon.alertMask) != 0

/-- The cut is in force (14 R498). -/
def frozen (s : State) : Bool := s.syn.dipSt = .dipped

/-- The main side is past FUSE and not FAILED: its blocks act. -/
def mainUp (s : State) : Bool :=
  match s.pwr.stage with
  | .off | .failed => false
  | _ => true

/-- The loader accepts commands from SYNC onward (16 R548). -/
def loaderUp (s : State) : Bool := s.pwr.stage = .sync || s.pwr.stage = .ready

/-- LAUNCH_OK: the Halyard is LOCKED, or in the first 1,000,000 counts of HOLDOVER (14 R481). -/
def locked (s : State) : Bool :=
  s.syn.st = .locked || (s.syn.st = .holdover && decide (s.halyard < s.syn.holdAt + 1000000))

/-- A request for a Dip (14 R497): ignored and counted once a Dip is pending or in force; otherwise the cut comes 64 core
cycles (26 whole ns) later. -/
def requestDip (s : State) (src : Nat) : State :=
  if s.syn.dipSt = .running then
    { s with syn := { s.syn with dipSt := .pending, dipSrc := BitVec.ofNat 3 src, dipCutNs := s.ns + 26 } }
  else { s with syn := { s.syn with dipIgnored := inc32 s.syn.dipIgnored 1 } }

/-- A trigger of TRIG_MASK (14 R505): bit 0 TICK_OVERRUN, 1 HBM_UNCORR, 2 ARITH_CHECK, 3 UNREACHABLE, 4 a unit FAULTED. -/
def trigger (s : State) (bit : Nat) : State :=
  if s.syn.trigMask.getLsbD bit then requestDip s 4 else s

/-! ### Messages to the companion -/

/-- Numbered flits that a message takes: 15 slots each, each message in flits of its own (15 R508, R512). -/
def drgFlits (m : DrgMsg) : Nat := (1 + (m.data.length + 15) / 16 + 14) / 15

/-- `n` flits given numbers and kept until they are acknowledged (15 R509). -/
def drgNumber (d : Drg) (n : Nat) : Drg :=
  { d with
    txSeq := d.txSeq + BitVec.ofNat 12 n
    unacked := d.unacked ++ (List.range n).map (fun i => (d.txSeq + BitVec.ofNat 12 i, 0)) }

/-- Flits that wait are numbered while fewer than 2,048 are unacknowledged (15 R509). -/
def drgFill (d : Drg) : Drg :=
  let n := min d.txWait (2048 - d.unacked.length)
  drgNumber { d with txWait := d.txWait - n } n

/-- A message sent on Dragiper Link. -/
def drgSend (s : State) (m : DrgMsg) : State :=
  { s with drg := drgFill { s.drg with tx := s.drg.tx ++ [m], txWait := s.drg.txWait + drgFlits m } }

/-- A device request to companion memory, with a tag of its own (15 R521). -/
def drgRequest (s : State) (opcode : Nat) (addr : Nat) (mask : Nat) (data : List Byte) (what : CmReq) : State :=
  drgSend { s with drg := { s.drg with nextTag := s.drg.nextTag + 1, reqs := s.drg.reqs ++ [(s.drg.nextTag, what)] } }
    { opcode := BitVec.ofNat 8 opcode, tag := s.drg.nextTag, status := 0, addr := BitVec.ofNat 56 addr,
      mask := BitVec.ofNat 32 mask, data := data }

/-! ### The event ring -/

/-- Records the event ring holds: 2^EVT_SIZE / 32 for sizes 12-24, none otherwise (15 R524, R528). -/
def evtSlots (s : State) : Nat :=
  if 12 ≤ s.evt.size.toNat ∧ s.evt.size.toNat ≤ 24 then 2 ^ s.evt.size.toNat / 32 else 0

/-- The device can write a record at once (15 R525). -/
def evtRoom (s : State) : Bool := s.drg.st = .up && decide ((s.evt.wr - s.evt.rd).toNat < evtSlots s)

/-- The 32 bytes of an event record (15 R524). -/
def evBytes (e : EvRec) : List Byte :=
  bytesOf 8 e.halyard.toNat ++ bytesOf 2 e.code.toNat ++
  bytesOf 2 (match e.ctx with | some c => c.val + 16 | none => 0) ++
  bytesOf 4 e.seq.toNat ++ bytesOf 8 e.arg0.toNat ++ bytesOf 8 e.arg1.toNat

/-- One record written into the ring with one aligned 32-byte CM_WR_PART, and EVT_WR advanced (15 R524). -/
def evtWrite (s : State) (e : EvRec) : State :=
  let s' := drgRequest s 0x32 (s.evt.base.toNat + 32 * (s.evt.wr.toNat % evtSlots s)) 0xFFFFFFFF (evBytes e) (.event e.seq.toNat)
  { s' with evt := { s'.evt with wr := inc32 s'.evt.wr 1 } }

/-- The IRQ of a batch of records: sent at once, or due at the end of the holdoff (15 R526). -/
def evtIrq (s : State) : State :=
  if s.evt.irqEn then
    if s.evt.irqNext ≤ s.halyard then
      let s' := drgRequest s 0x33 s.evt.vector.toNat 0 [] .irq
      { s' with evt := { s'.evt with irqDue := false, irqNext := s.halyard + s.evt.holdoff.toNat * 1000 } }
    else { s with evt := { s.evt with irqDue := true } }
  else s

/-- The event that a cause makes, with the next event number; the number is taken by events that are not dropped. -/
def evRecord (s : State) (code : Nat) (ctx : Option (Fin 16)) (a0 a1 : Nat) : EvRec :=
  { halyard := BitVec.ofNat 64 s.halyard, code := BitVec.ofNat 16 code, ctx := ctx, seq := s.evt.seq,
    arg0 := BitVec.ofNat 64 a0, arg1 := BitVec.ofNat 64 a1 }

/-- An event posted (15 R525): written at once when nothing is queued and the ring has room; queued otherwise; dropped and
counted when the queue of 256 is full. -/
def post (s : State) (code : Nat) (ctx : Option (Fin 16)) (a0 a1 : Nat) : State :=
  let e := evRecord s code ctx a0 a1
  if s.evt.queue = [] ∧ s.evt.lostSince = 0 ∧ evtRoom s then
    evtIrq (evtWrite { s with evt := { s.evt with seq := inc32 s.evt.seq 1 } } e)
  else if s.evt.queue.length < 256 then
    { s with evt := { s.evt with seq := inc32 s.evt.seq 1, queue := s.evt.queue ++ [e] } }
  else setAlert { s with evt := { s.evt with lost := inc32 s.evt.lost 1, lostSince := s.evt.lostSince + 1 } } 4

/-! ### Event codes (15 R527) -/

def evImage : Nat := 0x0001
def evTickOverrun : Nat := 0x0002
def evContextGone : Nat := 0x0003
def evAllBlocked : Nat := 0x0004
def evHbmUncorr : Nat := 0x0005
def evLaneMarked : Nat := 0x0006
def evPoolAmber : Nat := 0x0007
def evPoolRed : Nat := 0x0008
def evStaleReturn : Nat := 0x0009
def evAborted : Nat := 0x000A
def evNdcInc : Nat := 0x000B
def evArithCheck : Nat := 0x000C
def evUnreachable : Nat := 0x000D
def evMismatch : Nat := 0x000E
def evLinkDown : Nat := 0x000F
def evLinkUp : Nat := 0x0010
def evDip : Nat := 0x0011
def evBcastArmIgnored : Nat := 0x0012
def evHalyard : Nat := 0x0013
def evThrottle : Nat := 0x0014
def evEventsLost : Nat := 0x0015
def evHostLinkUp : Nat := 0x0016

/-- ARITH_CHECK posted, with its trigger (13 R457, 08 R283). -/
def postArith (s : State) (ctx : Option (Fin 16)) (kind index a1 : Nat) : State :=
  trigger (post s evArithCheck ctx (kind + 16 * index) a1) 2

/-- UNREACHABLE posted, with its trigger (12 R414, 15 R527). -/
def postUnreachable (s : State) (ctx : Option (Fin 16)) (dest cause kind index psn : Nat) : State :=
  trigger (post s evUnreachable ctx (dest + 65536 * cause + 16777216 * kind + 268435456 * index) psn) 3

/-- The UNREACHABLE event, at most one per destination per 1,000 counts (12 R414). -/
def unreachableEvent (s : State) (ctx : Option (Fin 16)) (dest cause kind index psn : Nat) : State :=
  let s := { s with fab := { s.fab with unreachable := inc32 s.fab.unreachable 1 } }
  let last := mget 0 s.fab.lastUnreach dest
  if last = 0 ∨ last + 999 ≤ s.halyard then
    postUnreachable { s with fab := { s.fab with lastUnreach := mput 0 s.fab.lastUnreach dest (s.halyard + 1) } }
      ctx dest cause kind index psn
  else { s with fab := { s.fab with unreachSupp := inc32 s.fab.unreachSupp 1 } }

end Sys2Proof.Machine
end

