-- ==== Sys2Proof/Machine/Ops.lean ====
section
/-!
DEFINITION. The shared operations over units, gangs and contexts: faces and their commands (01 R26-R36), bindings of
logical cores (01 R31, 03 R93-R94), the stop, the release of cores (04 R132), and TEARDOWN (03 R109-R110), which is what
a unit fault of the device enters.
-/
namespace Sys2Proof.Machine

/-! ### Unit codes: core id, 512 + Riddle engine, 544 + Tramway engine, 552 + stack -/

/-- The key of a unit in the map of faces. -/
def unitCode : UnitId → Nat
  | .core i => i.val
  | .riddle e => 512 + e.val
  | .tramway t => 544 + t.val
  | .hbm n => 552 + n.val

/-- The kind of a unit as CONTEXT_GONE reports it (15 R527): 0 core, 1 Riddle, 2 Tramway, 3 HBM. -/
def unitKind (u : Nat) : Nat := if u < 512 then 0 else if u < 544 then 1 else if u < 552 then 2 else 3

/-- The index of a unit among those of its kind. -/
def unitIndex (u : Nat) : Nat :=
  if u < 512 then u else if u < 544 then u - 512 else if u < 552 then u - 544 else u - 552

def getFace (s : State) (u : Nat) : Face := mget {} s.faces u
def setFace (s : State) (u : Nat) (f : Face) : State := { s with faces := mput {} s.faces u f }
def getGangFace (s : State) (g : Nat) : GangFace := mget {} s.gangs g
def setGangFace (s : State) (g : Nat) (f : GangFace) : State := { s with gangs := mput {} s.gangs g f }
def getCore (s : State) (k : Nat) : Core := mget {} s.cores k
def setCore (s : State) (k : Nat) (c : Core) : State := { s with cores := mput {} s.cores k c }
def getCtx (s : State) (c : Nat) : Ctx := mget {} s.ctxs c
def setCtx (s : State) (c : Nat) (x : Ctx) : State := { s with ctxs := mput {} s.ctxs c x }
def getRiddle (s : State) (e : Nat) : Riddle := mget {} s.riddles e
def setRiddle (s : State) (e : Nat) (r : Riddle) : State := { s with riddles := mput {} s.riddles e r }
def getTrw (s : State) (t : Nat) : Tramway := mget {} s.tramways t
def setTrw (s : State) (t : Nat) (w : Tramway) : State := { s with tramways := mput {} s.tramways t w }
def getHbm (s : State) (n : Nat) : Hbm := mget {} s.hbms n
def setHbm (s : State) (n : Nat) (h : Hbm) : State := { s with hbms := mput {} s.hbms n h }
def getAdit (s : State) (a : Nat) : Adit := mget {} s.adits a
def setAdit (s : State) (a : Nat) (x : Adit) : State := { s with adits := mput {} s.adits a x }
def getColl (s : State) (d : Nat) : Coll := mget {} s.colls d
def setColl (s : State) (d : Nat) (x : Coll) : State := { s with colls := mput {} s.colls d x }
def getCGroup (s : State) (g : Nat) : CGroup := mget {} s.cgroups g
def setCGroup (s : State) (g : Nat) (x : CGroup) : State := { s with cgroups := mput {} s.cgroups g x }
def getPool (s : State) (p : Nat) : Pool := mget {} s.bpm.pools p
def setPool (s : State) (p : Nat) (x : Pool) : State :=
  { s with bpm := { s.bpm with pools := mput {} s.bpm.pools p x } }
def getBucket (s : State) (p l : Nat) : Bucket := mget {} s.buckets (5 * p + l)
def setBucket (s : State) (p l : Nat) (b : Bucket) : State :=
  { s with buckets := mput {} s.buckets (5 * p + l) b }
def getTirCtx (s : State) (c : Nat) : TirCtx := mget {} s.tir.regs c
def setTirCtx (s : State) (c : Nat) (x : TirCtx) : State :=
  { s with tir := { s.tir with regs := mput {} s.tir.regs c x } }

/-- The context number as an event carries it. -/
def ctxFin (c : Nat) : Fin 16 := Fin.ofNat 16 c

/-! ### Counters of a unit (01 R28, 14 R492) -/

/-- Counter `i` of unit `u` advanced by `n`; counters stop during the Dip (14 R498). -/
def bump (s : State) (u i n : Nat) : State :=
  if frozen s then s
  else
    let f := getFace s u
    setFace s u { f with cnt := mput 0 f.cnt i (inc64 (mget 0 f.cnt i) n) }

/-- The counters of unit `u` named by a mask reset to zero, their values before it remembered for RST_COIN (14 R494). -/
def resetCounters (s : State) (u : Nat) (mask : W32) : State :=
  if mask = 0 then s
  else
    let f := getFace s u
    let keep := (List.range 32).filterMap
      (fun i => if mask.getLsbD i then some (i, mget 0 f.cnt i) else none)
    let s := setFace s u { f with cnt := mclear f.cnt (fun i => mask.getLsbD i) }
    { s with dbg := { s.dbg with resets := (u, mask, s.ns, keep) :: s.dbg.resets.filter (fun r => r.2.2.1 = s.ns) } }

/-- A command accepted by a unit: FACE_CMD, CMDS_ACCEPTED, and the counter resets of CMD_RESET in that cycle (14 R492). -/
def acceptCmd (s : State) (u opcode ctx : Nat) (slot : BitVec 16) (arg : Nat) : State :=
  let s := resetCounters s u (mget 0 s.dbg.cmdReset (unitKind u))
  let f := getFace s u
  let s := setFace s u { f with cmd := { opcode := BitVec.ofNat 8 opcode, ctx := BitVec.ofNat 4 ctx,
                                         slot := slot, arg := BitVec.ofNat 32 arg } }
  bump s u 2 1

/-! ### Enabled cores and bindings (01 R20, R31; 03 R93, R94) -/

/-- Core `k` is enabled by fuse. -/
def coreEnabled (s : State) (k : Nat) : Bool := (s.fuses.cores.getD (k / 64) 0).getLsbD (k % 64)

/-- The enabled cores in ascending core id. -/
def enabledCores (s : State) : List Nat := (List.range 512).filter (coreEnabled s)

/-- The physical core of logical core `n` as R31 binds it. -/
def physR31 (s : State) (n : Nat) : Option Nat := (enabledCores s)[n]?

/-- The physical core of logical core `n` of context `c`: R94's binding for a best-effort context, R31's otherwise. -/
def physIn (s : State) (c : Nat) (n : Nat) : Option Nat :=
  if (getCtx s c).lc then physR31 s n else ((getCtx s c).bind.find? (fun e => e.1 = n)).map (·.2)

/-- The logical number of physical core `k` in context `c`. -/
def logicalIn (s : State) (c k : Nat) : Option Nat :=
  if (getCtx s c).lc then (indexed (enabledCores s)).findSome? (fun e => if e.2 = k then some e.1 else none)
  else ((getCtx s c).bind.find? (fun e => e.2 = k)).map (·.1)

/-! ### The gang tree (01 R29-R33, 02 R51-R53) -/

/-- The member records of gang `g` in order of logical rank. -/
def members (s : State) (g : Nat) : List MemberRec := s.tab.members.filter (fun m => m.parent = g)

/-- A record of the committed image declares gang `g`. -/
def gangDeclared (s : State) (g : Nat) : Bool := s.tab.members.any (fun m => m.kind = 0 && m.id = g)

/-- The unit members beneath gang `g`, in a depth-first walk by logical rank (R30). -/
def walkG : Nat → State → Nat → List MemberRec
  | 0, _, _ => []
  | fuel + 1, s, g => (members s g).flatMap (fun m => if m.kind = 0 then walkG fuel s m.id else [m])

/-- A bound on the depth of the gang tree: no gang is a member of itself (02 R52). -/
def treeFuel (s : State) : Nat := s.tab.members.length + 1

/-- The unit members beneath gang `g`. -/
def leaves (s : State) (g : Nat) : List MemberRec := walkG (treeFuel s) s g

/-- Gang `g` and the gangs beneath it. -/
def walkGangs : Nat → State → Nat → List Nat
  | 0, _, _ => []
  | fuel + 1, s, g => g :: (members s g).flatMap (fun m => if m.kind = 0 then walkGangs fuel s m.id else [])

/-- Gang `g` and every gang beneath it, each once. -/
def gangsIn (s : State) (g : Nat) : List Nat := dedup (walkGangs (treeFuel s) s g)

/-- This device's node number. -/
def node (s : State) : Nat := s.dev.node.toNat

/-- The core order of gang `g` on node `n`: its logical cores there, each at its first occurrence (R30). -/
def coreOrderAt (s : State) (g n : Nat) : List Nat :=
  dedup ((leaves s g).filterMap (fun m => if m.kind = 1 ∧ m.node = n then some m.id else none))

/-- The core order of gang `g` on this node. -/
def coreOrder (s : State) (g : Nat) : List Nat := coreOrderAt s g (node s)

/-- The unit that a member record names in context `c`; none for a unit of another node or an unbound core. -/
def unitOf (s : State) (c : Nat) (m : MemberRec) : Option Nat :=
  if m.node ≠ node s then none
  else match m.kind with
    | 1 => physIn s c m.id
    | 2 => some (512 + m.id)
    | 3 => some (544 + m.id)
    | 4 => some (552 + m.id)
    | _ => none

/-- The units of this node beneath gang `g`, as context `c` binds its cores. -/
def unitsOf (s : State) (c g : Nat) : List Nat := dedup ((leaves s g).filterMap (unitOf s c))

/-- The order of states in R32: a gang shows the first of these held by a direct member. -/
def stateRank : UState → Nat
  | .faulted => 0 | .stopped => 1 | .saving => 2 | .restoring => 3 | .running => 4 | .waiting => 5 | .idle => 6

/-- The first state in the order of R32. -/
def firstState (l : List UState) : UState := l.foldl (fun a b => if stateRank b < stateRank a then b else a) .idle

/-- FACE_STATUS.STATE of gang `g` with the cores bound by `phys` (R32). -/
def gangStateW : Nat → State → Nat → Nat → UState
  | 0, _, _, _ => .idle
  | fuel + 1, s, c, g => firstState ((members s g).map (fun m =>
      if m.kind = 0 then gangStateW fuel s c m.id
      else match unitOf s c m with
        | some u => (getFace s u).st
        | none => .idle))

/-- FACE_STATUS.STATE of gang `g` in context `c`. -/
def gangState (s : State) (c g : Nat) : UState := gangStateW (treeFuel s) s c g

/-! ### Contexts (03 R98) -/

/-- A context that holds cores (R98). -/
def residentSt : CState → Bool
  | .armed | .running | .ending | .saving | .restoring | .teardown => true
  | _ => false

def resident (s : State) (c : Nat) : Bool := residentSt (getCtx s c).st

/-- Some context is resident. -/
def anyResident (s : State) : Bool := (List.range 16).any (resident s)

/-- The context record of `c` in the committed image. -/
def ctxRec (s : State) (c : Nat) : Option CtxRec := s.tab.ctxs.find? (fun r => r.ctx = c)

/-- The gang of context `c`. -/
def ctxGang (s : State) (c : Nat) : Nat := ((ctxRec s c).map (·.gang)).getD 0

/-- The context that holds core `k`. -/
def holder (s : State) (k : Nat) : Option Nat :=
  (List.range 16).find? (fun c => resident s c && (getCtx s c).bind.any (fun e => e.2 = k))

/-- The lowest best-effort context resident whose gang contains gang `g` (01 R33); 16 when there is none, for R31's
binding. -/
def viewCtx (s : State) (g : Nat) : Nat :=
  ((List.range 16).find? (fun c => resident s c && !(getCtx s c).lc && (gangsIn s (ctxGang s c)).contains g)).getD 16

/-- As `unitOf`, for a gang view (01 R33). -/
def unitOfView (s : State) (v : Nat) (m : MemberRec) : Option Nat :=
  if m.kind = 1 ∧ 16 ≤ v then (if m.node = node s then physR31 s m.id else none) else unitOf s v m

/-- Who owns a unit. -/
def ownerOf (s : State) (u : Nat) : Option (Fin 16) := (getFace s u).owner

/-! ### Commands to gangs -/

/-- The last command delivered to a gang is kept in its face, and in that of every gang beneath (01 R32). -/
def gangCmd (s : State) (g : Nat) (cmd : FaceCmd) : State :=
  (gangsIn s g).foldl (fun s h => setGangFace s h { getGangFace s h with cmd := cmd }) s

/-- The stop asserted at a unit, with the code of its cause (01 R34): STOP_IN, STOP_SRC and STOPS. The unit reads STOPPED
after its next boundary (UNIT_STOP). -/
def stopUnit (s : State) (src : Nat) (u : Nat) : State :=
  let f := getFace s u
  bump (setFace s u { f with stopIn := true, stopSrc := BitVec.ofNat 3 src }) u 3 1

/-- The stop asserted at the gang of context `c`: it reaches every unit beneath that no other context owns (01 R34,
03 R112). -/
def stopGang (s : State) (c : Nat) (src : Nat) : State :=
  ((unitsOf s c (ctxGang s c)).filter (fun u =>
      552 ≤ u || (match ownerOf s u with | some o => o.val == c | none => true))).foldl
    (fun s u => stopUnit s src u) s

/-- RELEASE accepted by a unit (01 R35): the stop is deasserted, FAULT cleared, the unit returns to IDLE; of a controller
it only deasserts the stop (10 R364). -/
def releaseUnit (s : State) (c : Nat) (u : Nat) : State :=
  let s := acceptCmd s u 4 c 0 0
  let f := getFace s u
  if 552 ≤ u then setFace s u { f with stopIn := false }
  else setFace s u { f with stopIn := false, st := .idle, fault := 0, owner := none, arrived := false }

/-- RELEASE given to every unit beneath the gang of context `c` that it owns or may own (01 R35). -/
def releaseUnits (s : State) (c : Nat) : State :=
  let g := ctxGang s c
  let s' := ((unitsOf s c g).filter (fun u =>
      552 ≤ u || (match ownerOf s u with | some o => o.val == c | none => true))).foldl
    (fun s u => releaseUnit s c u) s
  gangCmd s' g { opcode := 4, ctx := BitVec.ofNat 4 c, slot := 0, arg := 0 }

/-- A released core zeroes Bench 0, its registers, its counts and the state of its engines, and sleeps (04 R132,
16 R552). -/
def zeroCore (s : State) (k : Nat) : State :=
  let s := setCore s k {}
  let f := getFace s k
  let s := setFace s k { f with st := .idle, owner := none, arrived := false }
  { s with pwr := { s.pwr with awake := s.pwr.awake.filter (· ≠ k), waking := s.pwr.waking.filter (fun e => e.1 ≠ k),
                               govQueue := s.pwr.govQueue.filter (fun e => e.1 ≠ k) } }

/-- Every core that context `c` holds is zeroed and free (04 R132); engines it owned are owned by none. -/
def releaseCores (s : State) (c : Nat) : State :=
  let x := getCtx s c
  let s := x.bind.foldl (fun s e => zeroCore s e.2) s
  let s := setCtx s c { x with bind := [] }
  { s with faces := mmap {} (fun _ f => if f.owner = some (ctxFin c) then { f with owner := none } else f) s.faces }

/-! ### Teardown (03 R109, R110) -/

/-- A state from which a fault or KILL leads to TEARDOWN (03 R99). -/
def mayTear : CState → Bool
  | .running | .ending | .saving | .saved | .restoring => true
  | _ => false

/-- The context of a send-table entry's request. -/
def entCtx (e : SendEnt) : Nat := e.pkt.ctx.toNat

/-- The block that injected a request (15 R527): 0 core, 2 Tramway, 3 collective engine, 4 tier manager, 8 loader. A core
counts by its physical number. -/
def ownerKind (s : State) (c : Nat) : Owner → Nat × Nat
  | .movHR k _ _ => (0, (physIn s c k.val).getD 0)
  | .movHW k _ => (0, (physIn s c k.val).getD 0)
  | .atom k _ _ => (0, (physIn s c k.val).getD 0)
  | .trw t _ => (2, t.val)
  | .coll d _ _ _ => (3, d.val)
  | .tir _ => (4, 0)
  | .b2 _ _ => (4, 0)
  | .bcast _ => (8, 0)
  | .cmb _ => (10, 0)
  | .dead k i => (k, i)

/-- A request that a core, Tramway engine or collective engine injected for context `c`. -/
def ofContext (c : Nat) (p : Packet) (o : Owner) : Bool :=
  p.ctx.toNat = c && (match o with
    | .movHR .. | .movHW .. | .atom .. | .trw .. | .coll .. | .dead .. => true
    | _ => false)

/-- An unanswered request of a context torn down has no effect when it is answered; a Tramway message still releases its
buffers. -/
def deaden (s : State) (c : Nat) (e : SendEnt) : SendEnt :=
  if e.pkt.ctx.toNat ≠ c then e
  else match e.owner with
    | .movHR .. | .movHW .. | .atom .. | .coll .. | .b2 .. =>
      { e with owner := .dead (ownerKind s c e.owner).1 (ownerKind s c e.owner).2 }
    | _ => e

/-- The same packet: one request of this node. -/
def samePkt (a b : Packet) : Bool := a.long = b.long && a.dest = b.dest && a.src = b.src && a.psn = b.psn && a.op = b.op

/-- A request for buffers that a Tramway or collective engine made for context `c`. -/
def wantsFor (s : State) (c : Nat) : Waiter → Bool
  | .riddle _ => false
  | .tramway t i => (getTrw s t.val).wants.any (fun w => w.id = i && w.ctx.val = c)
  | .coll d i => (getColl s d.val).ops.any (fun o => o.ctx.val = c && (match o.want with
    | some w => w.1 = i
    | none => false))

/-- Requests for buffers of context `c` are withdrawn. -/
def dropWants (s : State) (c : Nat) : State :=
  { s with bpm := { s.bpm with pools := mmap {} (fun _ p => { p with waiters := p.waiters.filter (fun w => !wantsFor s c w.1) })
                                             s.bpm.pools }
           tramways := mmap {} (fun _ w => { w with wants := w.wants.filter (fun x => x.ctx.val ≠ c) }) s.tramways }

/-- A request that carries a packet of a Tramway message; the messages of the device's engines have numbers of their own. -/
def sentFor : Owner → Nat → Bool
  | .trw _ m, n => m = n
  | _, _ => false

/-- What a Tramway engine holds for context `c` is dropped, but for messages whose packets are still to be answered. -/
def purgeTrw (c : Nat) (gone : List SendEnt) (w : Tramway) : Tramway :=
  let less := fun (o : TOut) => gone.countP (fun e => sentFor e.owner o.msg) +
    w.held.countP (fun h => h.pkt.ctx.toNat = c && h.msg = o.msg)
  let ls := w.out.map (fun o => { o with left := o.left - less o })
  { w with
    held := w.held.filter (fun h => h.pkt.ctx.toNat ≠ c)
    queue := w.queue.filter (fun l => l.ctx.val ≠ c)
    recs := w.recs.filter (fun r => r.list.ctx.val ≠ c)
    tabs := w.tabs.filter (fun r => r.ctx.val ≠ c)
    toks := w.toks.filter (fun k => k.ctx.val ≠ c)
    out := ls.filter (fun o => decide (o.left ≠ 0))
    op := w.op.filter (fun o => o.ctx.val ≠ c)
    census := w.census.filter (fun e => e.1.val ≠ c)
    parked := w.parked.filter (fun o => o.ctx.val ≠ c) }

/-- The censuses of a context that ends are forgotten: its next launch counts steps from 0 again (08 R263). -/
def dropCensus (s : State) (c : Nat) : State :=
  { s with tramways := mmap {} (fun _ w => { w with census := w.census.filter (fun e => e.1.val ≠ c) }) s.tramways }

/-- Step 2 of teardown: requests of the context that the Yard has not accepted are purged (03 R110). A request that was
never sent leaves the send table with its packet, and so does one answered WAIT (12 R413). -/
def purgeQueues (s : State) (c : Nat) : State :=
  let s := dropWants s c
  let waiting := fun (p : Packet) => s.fab.inject.any (fun e => samePkt e.2 p) ||
    s.buckets.any (fun b => b.2.queue.any (fun t => match t.pkt with | some x => samePkt x p | none => false))
  let gone := s.fab.table.filter (fun e => ofContext c e.pkt e.owner && (e.waitAns || e.resends = 0 && waiting e.pkt))
  let mine := s.fab.table.filter (fun e => ofContext c e.pkt e.owner)
  let left := s.fab.table.filter (fun e => !gone.any (fun m => samePkt m.pkt e.pkt))
  let s := { s with
    fab := { s.fab with
      held := s.fab.held.filter (fun h => !ofContext c h.pkt h.owner)
      inject := s.fab.inject.filter (fun e => !mine.any (fun m => samePkt m.pkt e.2))
      table := left.map (deaden s c) }
    buckets := mmap {} (fun _ b => { b with queue := b.queue.filter (fun t =>
      match t.pkt with
      | some p => !(p.ctx.toNat = c && p.src.toNat = node s)
      | none => true) }) s.buckets
    tramways := mmap {} (fun _ w => purgeTrw c gone w) s.tramways
    colls := mmap {} (fun _ d => { d with
      queue := d.queue.filter (fun q => q.ctx.val ≠ c)
      ops := d.ops.filter (fun o => o.ctx.val ≠ c) }) s.colls }
  { s with riddles := mmap {} (fun e r =>
      if (getFace s (512 + e)).owner = some (ctxFin c) then { r with op := none, ended := true } else r) s.riddles }

/-- A cause of teardown reaches a context (03 R109, R110 steps 1 and 2): the first cause is recorded, the stop asserted at
its gang, its queues purged; its slots are STOPPED (R91). -/
def teardown (s : State) (c : Nat) (cause : Nat) (uf : Option UnitFault) : State :=
  let x := getCtx s c
  if mayTear x.st then
    let s := setCtx s c { x with st := .teardown, cause := BitVec.ofNat 8 cause, causeUnit := uf, blocked := false,
                                 settling := false, stepOn := false }
    let s := stopGang s c 1
    let s := purgeQueues s c
    { s with
      tick := { s.tick with slots := s.tick.slots.map (fun i =>
        if i.ctx.val = c ∧ (i.st = .pending ∨ i.st = .issued) then { i with st := .stopped } else i) }
      pwr := { s.pwr with govQueue := s.pwr.govQueue.filter (fun e => !x.bind.any (fun b => b.2 = e.1)) } }
  else s

/-- A unit fault (03 R109): the unit reads FAULTED with its code, and its owning context is torn down. -/
def unitFault (s : State) (u : Nat) (code : Nat) : State :=
  let f := getFace s u
  let s := setFace s u { f with st := .faulted, fault := BitVec.ofNat 8 code }
  let s := trigger s 4
  match f.owner with
  | some c => teardown s c.val 2 (some { kind := unitKind u, index := unitIndex u, code := BitVec.ofNat 8 code })
  | none => s

/-- Fault code FABRIC (04 R164). -/
def fFabric : Nat := 8

/-- A core of a context faults with FABRIC (04 R144, 09 R316); where the context holds no cores its teardown names core 0. -/
def coreFabric (s : State) (c k : Nat) : State :=
  match (getCtx s c).bind.find? (fun e => e.1 = k) with
  | some e => unitFault s e.2 fFabric
  | none => teardown s c 2 (some { kind := 0, index := 0, code := BitVec.ofNat 8 fFabric })

/-- A unit returns to IDLE at the end of its slot's program (03 R89). -/
def idleUnit (s : State) (u : Nat) : State :=
  let f := getFace s u
  if f.st = .running ∨ f.st = .waiting then setFace s u { f with st := .idle } else s

/-- The next free value of the run (the model's own counter). -/
def nextFree (s : State) : Nat × State := (s.free, { s with free := s.free + 1 })

end Sys2Proof.Machine
end

