-- ==== Sys2Proof/Machine/Image.lean ====
section
/-!
DEFINITION. The hoist image: its header, directory, sections and signature block (02 R42-R67), the validation checks in
their order (R72), and the tables that a full image or a reload declares.
-/
namespace Sys2Proof.Machine

/-- A directory entry (02 R44). -/
structure DirEnt where
  type : Nat
  version : Nat
  inst : Nat
  ofs : Nat
  len : Nat
  rsv : Nat
  deriving DecidableEq, Repr

/-- The header of an image (02 R43). -/
structure ImgHdr where
  magic : Nat
  level : Nat
  minLevel : Nat
  kind : Nat
  rsv7 : Nat
  length : Nat
  id : Nat
  baseId : Nat
  dirOffset : Nat
  dirCount : Nat
  logical : Nat
  sigOffset : Nat
  sigLength : Nat
  rsv30 : Nat
  deriving DecidableEq, Repr

def imgHdr (b : List Byte) : ImgHdr :=
  { magic := natAt b 0 4, level := natAt b 4 1, minLevel := natAt b 5 1, kind := natAt b 6 1, rsv7 := natAt b 7 1,
    length := natAt b 8 8, id := natAt b 16 8, baseId := natAt b 24 8, dirOffset := natAt b 0x20 4,
    dirCount := natAt b 0x24 2, logical := natAt b 0x26 2, sigOffset := natAt b 0x28 4, sigLength := natAt b 0x2C 4,
    rsv30 := natAt b 0x30 16 }

/-- The directory entries. -/
def imgDir (b : List Byte) (n : Nat) : List DirEnt :=
  (List.range n).map (fun i =>
    let e := (b.drop (0x40 + 16 * i)).take 16
    { type := natAt e 0 1, version := natAt e 1 1, inst := natAt e 2 2, ofs := natAt e 4 4, len := natAt e 8 4,
      rsv := natAt e 12 4 })

/-- 256 MiB. -/
def maxImage : Nat := 0x10000000

/-- Check 4: SIG_OFFSET and SIG_LENGTH are both zero, or name a signature block that is the last thing of the image, at a
multiple of 64, of 16 + 144 × SIG_COUNT bytes (02 R42, R66). -/
def sigShapeOk (b : List Byte) (h : ImgHdr) : Bool :=
  (h.sigOffset = 0 && h.sigLength = 0) ||
  (h.sigOffset % 64 = 0 && decide (0x40 + 16 * h.dirCount ≤ h.sigOffset) && h.sigOffset + h.sigLength = h.length &&
    (let n := natAt b h.sigOffset 1
     decide (1 ≤ n ∧ n ≤ 4) && h.sigLength = 16 + 144 * n))

/-- Check 4 (02 R72). -/
def headerOk (b : List Byte) (h : ImgHdr) : Bool :=
  h.rsv7 = 0 && h.rsv30 = 0 && decide (h.kind ≤ 1) && h.dirOffset = 0x40 && decide (1 ≤ h.dirCount ∧ h.dirCount ≤ 1024) &&
  h.id ≠ 0 &&
  (if h.kind = 0 then h.baseId = 0 && decide (1 ≤ h.logical ∧ h.logical ≤ 512) else h.logical = 0) && sigShapeOk b h

/-- Entries in ascending TYPE, then ascending INSTANCE, none twice (02 R44, R45). -/
def dirSorted : List DirEnt → Bool
  | a :: b :: r => decide (a.type < b.type ∨ (a.type = b.type ∧ a.inst < b.inst)) && dirSorted (b :: r)
  | _ => true

/-- Two sections share no byte. -/
def disjointEnt (a b : DirEnt) : Bool := decide (a.ofs + a.len ≤ b.ofs ∨ b.ofs + b.len ≤ a.ofs)

/-- No two sections overlap. -/
def noOverlap : List DirEnt → Bool
  | a :: r => r.all (disjointEnt a) && noOverlap r
  | [] => true

/-- Check 5 (02 R72): the directory as R44 and R45 require. -/
def directoryOk (h : ImgHdr) (d : List DirEnt) : Bool :=
  let lim := if h.sigOffset = 0 then h.length else h.sigOffset
  d.all (fun e => decide (1 ≤ e.type ∧ e.type ≤ 13) && e.version = 1 && e.rsv = 0 && (e.type = 6 || e.inst = 0) &&
    e.ofs % 64 = 0 && decide (0x40 + 16 * h.dirCount ≤ e.ofs) && decide (16 ≤ e.len) && decide (e.ofs + e.len ≤ lim)) &&
  dirSorted d && noOverlap d &&
  (if h.kind = 0 then [1, 2, 3, 4, 5, 6].all (fun t => d.any (fun e => e.type = t))
   else d.all (fun e => e.type = 8 || e.type = 9 || e.type = 13))

/-- The signature entries: role, KEY_ID and signature (02 R66). -/
def sigEntries (b : List Byte) (h : ImgHdr) : List (Nat × List Byte × List Byte) :=
  if h.sigOffset = 0 then []
  else (List.range (natAt b h.sigOffset 1)).map (fun i =>
    let e := (b.drop (h.sigOffset + 16 + 144 * i)).take 144
    (natAt e 0 1, (e.drop 8).take 16, (e.drop 24).take 114))

/-- The keys enrolled for a role: slots 0-3 operator, 4-7 tenant (15 R528). -/
def roleKeys (s : State) (role : Nat) : List (List Byte) :=
  (if role = 1 then [0, 1, 2, 3] else if role = 2 then [4, 5, 6, 7] else []).filterMap (fun i =>
    let k := mget [] s.aon.keys i
    if k = [] then none else some k)

/-- A signature entry verifies (02 R67). -/
def entryVerifies (s : State) (msg : List Byte) (e : Nat × List Byte × List Byte) : Bool :=
  (roleKeys s e.1).any (fun k => keyId k = e.2.1 && ed448Verify k msg e.2.2)

/-- ERR of the first failed check of R72, zero when all pass. `b` is the staged image from its first byte. -/
def imageErr (s : State) (b : List Byte) : Nat :=
  let h := imgHdr b
  if h.magic ≠ 0x58534A48 then 1
  else if h.level ≠ 1 ∨ h.minLevel ≠ 1 then 2
  else if h.length ≠ s.hst.stageLen.toNat ∨ maxImage < h.length then 3
  else if !headerOk b h then 4
  else
    let d := imgDir b h.dirCount
    if !directoryOk h d then 5
    else if h.kind = 0 ∧ (enabledCores s).length < h.logical then 6
    else if h.kind = 1 ∧ (s.hst.activeId = 0 ∨ h.baseId ≠ s.hst.activeId.toNat) then 9
    else
      let es := sigEntries b h
      if (s.hst.reqOperator && !es.any (fun e => e.1 = 1)) || (s.hst.reqTenant && !es.any (fun e => e.1 = 2)) then 7
      else if !es.all (entryVerifies s (b.take h.sigOffset)) then 8 else 0

/-! ### Sections (02 R46-R65) -/

/-- The body of the section of a type (with an instance): COUNT_A, COUNT_B and the bytes after the section header. -/
def section_ (b : List Byte) (d : List DirEnt) (t inst : Nat) : Option (Nat × Nat × List Byte) :=
  (d.find? (fun e => e.type = t && e.inst = inst)).map (fun e =>
    let s := (b.drop e.ofs).take e.len
    (natAt s 4 4, natAt s 8 4, s.drop 16))

/-- Records of `n` bytes: at most `count`, and no more than the section holds. -/
def recordsOf (n count : Nat) (b : List Byte) : List (List Byte) := chunks n (min count (b.length / n)) b

/-- The records of the first array of a section. -/
def recsA (b : List Byte) (d : List DirEnt) (t n : Nat) : List (List Byte) :=
  match section_ b d t 0 with
  | some (a, _, body) => recordsOf n a body
  | none => []

/-- The records of the second array of a section whose first array holds records of `n` bytes. -/
def recsB (b : List Byte) (d : List DirEnt) (t n m : Nat) : List (List Byte) :=
  match section_ b d t 0 with
  | some (a, c, body) => recordsOf m c (body.drop (n * a))
  | none => []

/-- The mode word with TICK_US as R50 bounds it (02 R49). -/
def parseMode (r : List Byte) : ModeWord :=
  let w := natOf r
  { tickUs := min 16000 (max 4 (bits w 13 0)), predictor := bitAt w 16, bunting := bitAt w 17, faCombine := bitAt w 18 }

/-- A member record (02 R51). -/
def parseMember (r : List Byte) : MemberRec :=
  let w := natOf r
  { parent := bits w 11 0, kind := bits w 15 12, id := bits w 27 16, node := bits w 45 32 }

/-- A partition record (02 R54). -/
def parsePartRec (r : List Byte) : PartRec :=
  let w := natOf r
  { part := bits w 3 0, gang := bits w 19 8, poolMask := BitVec.ofNat 16 (bits w 47 32) }

/-- A context record (02 R55). -/
def parseCtx (r : List Byte) : CtxRec :=
  { ctx := natAt r 0 1 % 16, lc := bitAt (natAt r 0 1) 4, part := natAt r 1 1 % 16, gang := natAt r 2 2 % 4096,
    stepFirst := natAt r 4 2, stepCount := natAt r 6 2 }

/-- A step record (02 R56). -/
def parseStep (r : List Byte) : StepRec := { ticks := natAt r 0 2, slotFirst := natAt r 4 2, slotCount := natAt r 6 2 }

/-- A slot record (02 R56). -/
def parseSlot (r : List Byte) : SlotRec :=
  { tick := natAt r 0 2, slot := BitVec.ofNat 16 (natAt r 2 2), gang := natAt r 4 2 % 4096, program := natAt r 6 2,
    start := natAt r 8 4, reserve := natAt r 12 4 }

/-- A Riddle configuration record (02 R58). -/
def parseRiddle (r : List Byte) : RiddleCfg :=
  let f := natAt r 9 1
  { cfg := natAt r 0 2, experts := natAt r 4 4 % 2 ^ 17, k := natAt r 8 1, norm := f % 4, lowRank := bitAt f 2,
    biasEn := bitAt f 3, groups := natAt r 10 2, topGroups := natAt r 12 1, capacity := natAt r 14 2,
    biasAddr := natAt r 16 8 }

/-- A placement record with its first `n` targets; a full commit uses only the first (02 R59, R60). -/
def parsePlace (full : Bool) (r : List Byte) : PlaceRec :=
  let n := if full then 1 else natAt r 4 1 % 8
  { cfg := natAt r 0 2, expert := natAt r 2 2,
    targets := (List.range (min n 4)).map (fun i =>
      let t := natAt r (8 + 4 * i) 4
      { node := bits t 13 0, gang := bits t 27 16 }) }

/-- An adit record (02 R61). -/
def parseAdit (r : List Byte) : AditRec :=
  let w := natOf r
  { node := bits w 13 0, adit := bits w 20 16, enable := bitAt w 24, cutMask := BitVec.ofNat 6 (bits w 30 25),
    partner := bits w 45 32 }

/-- A route record (02 R61). -/
def parseRoute (r : List Byte) : RouteRec :=
  let w := natAt r 0 8
  { node := bits w 13 0, destLo := bits w 29 16, destHi := bits w 45 32, dim := bits w 49 48,
    mask := BitVec.ofNat 24 (natAt r 8 3) }

/-- A group record (02 R62). -/
def parseGroup (r : List Byte) : GroupRec :=
  { group := natAt r 0 1, gang := natAt r 2 2 % 4096, weight := natAt r 4 1, inFlight := natAt r 5 1,
    capacity := natAt r 8 4 }

/-- A region record (02 R63). -/
def parseRegion (r : List Byte) : RegionRec :=
  { ctx := natAt r 0 1 % 16, kind := natAt r 1 1, region := natAt r 2 2, base := natAt r 8 8 % 2 ^ 41,
    size := natAt r 16 8, fabricOfs := natAt r 24 8 % 2 ^ 48 }

/-- A quota record (02 R63). -/
def parseQuota (r : List Byte) : QuotaRec :=
  { ctx := natAt r 0 1 % 16, b0 := natAt r 4 4, b1 := natAt r 8 4, b2 := natAt r 12 4 }

/-- A pool record (02 R64). -/
def parsePool (r : List Byte) : PoolRec :=
  { pool := natAt r 0 1 % 16, bench1 := bitAt (natAt r 1 1) 0, sizeLog2 := natAt r 2 1, count := natAt r 4 4,
    amber := natAt r 8 4, red := natAt r 12 4, gang := natAt r 16 2 % 4096 }

/-- A regulator record (02 R65). -/
def parseReg (r : List Byte) : RegRec :=
  { part := natAt r 0 1 % 16, level := natAt r 1 1 % 8, rate := natAt r 4 4, burst := natAt r 8 4 }

/-- The last record of each key, in the order of first appearance (02 R64, 07 R238). -/
def lastWins {α : Type} (k : α → Nat) (l : List α) : List α :=
  l.foldl (fun acc x => if acc.any (fun y => k y = k x) then acc.map (fun y => if k y = k x then x else y) else acc ++ [x]) []

/-- The placement records in force: the later record of an expert replaces the earlier (07 R238). -/
def parsePlacement (full : Bool) (b : List Byte) (d : List DirEnt) : List PlaceRec :=
  lastWins (fun p => p.cfg * 65536 + p.expert) ((recsA b d 8 24).map (parsePlace full))

/-- The adit and route records of this node (02 R47, R61). -/
def parseRouting (nd : Nat) (b : List Byte) (d : List DirEnt) : List AditRec × List RouteRec :=
  (((recsA b d 9 8).map parseAdit).filter (fun a => a.node = nd),
   ((recsB b d 9 8 16).map parseRoute).filter (fun r => r.node = nd))

/-- The regulator records. -/
def parseRegs (b : List Byte) (d : List DirEnt) : List RegRec :=
  lastWins (fun r => r.part * 8 + r.level) ((recsA b d 13 16).map parseReg)

/-- The programs: number and instruction words (02 R57). -/
def parsePrograms (b : List Byte) (d : List DirEnt) : List (Nat × List W64) :=
  (d.filter (fun e => e.type = 6)).filterMap (fun e =>
    (section_ b d 6 e.inst).map (fun x => (e.inst, (recordsOf 8 x.1 x.2.2).map (fun r => BitVec.ofNat 64 (natOf r)))))

/-- Every table of a full image for this node. -/
def parseFull (nd : Nat) (b : List Byte) : Tables :=
  let h := imgHdr b
  let d := imgDir b h.dirCount
  let rt := parseRouting nd b d
  { mode := ((recsA b d 1 8).head?.map parseMode).getD { tickUs := 4 }
    members := (recsA b d 2 8).map parseMember
    parts := (recsA b d 3 8).map parsePartRec
    ctxs := lastWins (·.ctx) ((recsA b d 4 16).map parseCtx)
    steps := (recsA b d 5 8).map parseStep
    slots := (recsB b d 5 8 16).map parseSlot
    programs := parsePrograms b d
    riddle := lastWins (·.cfg) ((recsA b d 7 32).map parseRiddle)
    placement := parsePlacement true b d
    adits := rt.1
    routes := rt.2
    groups := lastWins (·.group) ((recsA b d 10 16).map parseGroup)
    regions := (recsA b d 11 32).map parseRegion
    quotas := (recsB b d 11 32 16).map parseQuota
    pools := lastWins (·.pool) ((recsA b d 12 24).map parsePool)
    regs := parseRegs b d
    logicalCores := h.logical }

/-- The sections that a reload carries (02 R77, R78). -/
def parseReload (nd : Nat) (b : List Byte) : Shadow :=
  let h := imgHdr b
  let d := imgDir b h.dirCount
  let has := fun t => d.any (fun e => e.type = t)
  { placement := if has 8 then some (parsePlacement false b d) else none
    routing := if has 9 then some (parseRouting nd b d) else none
    regs := if has 13 then some (parseRegs b d) else none
    imageId := BitVec.ofNat 64 h.id }

/-- The program of a number. -/
def programOf (s : State) (n : Nat) : List W64 := ((s.tab.programs.find? (fun p => p.1 = n)).map (·.2)).getD []

end Sys2Proof.Machine
end

