-- ==== Sys2Proof/Machine/Num.lean ====
section
/-!
DEFINITION. The fifteen number formats (05 R167-R172): exact values, rounding (R180-R182), conversions (R183-R186), arithmetic
with one rounding (R147, R175-R178), microscaling blocks (R187, R188), and the correctly rounded functions of R147.
-/
namespace Sys2Proof.Machine

/-! ### Exact values -/

/-- A value: NaN, an infinity, or (-1)^neg × m × 2^e. -/
inductive FV where
  | nan
  | inf (neg : Bool)
  | fin (neg : Bool) (m : Nat) (e : Int)
  deriving DecidableEq, Repr

/-- Format codes (04 R135). -/
def fFP64 : Nat := 0
def fFP32 : Nat := 1
def fFP16 : Nat := 2
def fBF16 : Nat := 3
def fE4M3 : Nat := 4
def fE5M2 : Nat := 5
def fE3M2 : Nat := 6
def fE2M3 : Nat := 7
def fE2M1 : Nat := 8
def fE8M0 : Nat := 9
def fINT32 : Nat := 10
def fINT16 : Nat := 11
def fINT8 : Nat := 12
def fINT4 : Nat := 13
def fWX48 : Nat := 14

/-- A floating-point format: exponent and fraction widths, bias, the magnitude codes of the largest finite value, of
infinity and of the canonical NaN, and whether a value too large saturates (05 R167, R168, R175, R183). -/
structure FFmt where
  eb : Nat
  fb : Nat
  bias : Nat
  maxc : Nat
  inf : Option Nat
  nan : Nat
  sat : Bool
  deriving DecidableEq, Repr

/-- The floating-point formats by code; none for E8M0 and the integers. -/
def ffmt : Nat → Option FFmt
  | 0 => some ⟨11, 52, 1023, 0x7FEFFFFFFFFFFFFF, some 0x7FF0000000000000, 0x7FF8000000000000, false⟩
  | 1 => some ⟨8, 23, 127, 0x7F7FFFFF, some 0x7F800000, 0x7FC00000, false⟩
  | 2 => some ⟨5, 10, 15, 0x7BFF, some 0x7C00, 0x7E00, false⟩
  | 3 => some ⟨8, 7, 127, 0x7F7F, some 0x7F80, 0x7FC0, false⟩
  | 4 => some ⟨4, 3, 7, 0x7E, none, 0x7F, true⟩
  | 5 => some ⟨5, 2, 15, 0x7B, some 0x7C, 0x7E, true⟩
  | 6 => some ⟨3, 2, 3, 0x1F, none, 0, true⟩
  | 7 => some ⟨2, 3, 1, 0x1F, none, 0, true⟩
  | 8 => some ⟨2, 1, 1, 0x7, none, 0, true⟩
  | 14 => some ⟨10, 37, 511, 0x7FDFFFFFFFFF, some 0x7FE000000000, 0x7FF000000000, false⟩
  | _ => none

/-- Width of an integer format; 0 for the others (05 R171). -/
def intW : Nat → Nat
  | 10 => 32 | 11 => 16 | 12 => 8 | 13 => 4 | _ => 0

/-- Bits that one element takes in Bench 0 (05 R172; WX48 takes 8 bytes, R169). -/
def elemBits : Nat → Nat
  | 0 => 64 | 1 => 32 | 2 => 16 | 3 => 16 | 4 => 8 | 5 => 8 | 6 => 6 | 7 => 6 | 8 => 4 | 9 => 8
  | 10 => 32 | 11 => 16 | 12 => 8 | 13 => 4 | 14 => 64 | _ => 64

/-- Bits of an element's value (48 for WX48). -/
def valBits (f : Nat) : Nat := if f = 14 then 48 else elemBits f

/-! ### Reading an encoding -/

/-- The value of an encoding of a floating-point format (05 R167, R168). -/
def fdec (f : FFmt) (v : Nat) : FV :=
  let c := v % 2 ^ (f.eb + f.fb)
  let s := bitAt v (f.eb + f.fb)
  if c ≤ f.maxc then
    let e := c / 2 ^ f.fb
    .fin s (if e = 0 then c else 2 ^ f.fb + c % 2 ^ f.fb) ((max e 1 : Nat) - (f.bias : Int) - (f.fb : Int))
  else if f.inf = some c then .inf s else .nan

/-- The value of an encoding of any format. -/
def dec (fmt v : Nat) : FV :=
  match ffmt fmt with
  | some f => fdec f v
  | none =>
    if fmt = 9 then (if v % 256 = 255 then .nan else .fin false 1 ((v % 256 : Nat) - (127 : Int)))
    else
      let i := sext (intW fmt) v
      .fin (decide (i < 0)) i.natAbs 0

/-- A finite value as sign and exact magnitude: zero of either sign. -/
def FV.isZero : FV → Bool
  | .fin _ m _ => m = 0
  | _ => false

/-! ### Rounding (05 R180-R183) -/

/-- Whether the truncated quotient n of m / 2^d goes up: to nearest even, or by the 16 random bits of R182. -/
def roundUpBit (r : Option Nat) (n rem d : Nat) : Bool :=
  match r with
  | none => decide (2 ^ d < 2 * rem) || (decide (2 * rem = 2 ^ d) && n % 2 = 1)
  | some r => decide (65536 ≤ rem * 65536 / 2 ^ d + r)

/-- The magnitude code of m × 2^e rounded to a format without bound on the exponent. -/
def magCode (f : FFmt) (r : Option Nat) (m : Nat) (e : Int) : Nat :=
  if m = 0 then 0
  else
    let elo : Int := 1 - (f.bias : Int) - (f.fb : Int)
    let q : Int := max (e + (Nat.log2 m : Nat) - (f.fb : Int)) elo
    let base := (q - elo).toNat * 2 ^ f.fb
    if q ≤ e then base + m * 2 ^ (e - q).toNat
    else
      let d := (q - e).toNat
      let n := m / 2 ^ d
      base + n + b2n (roundUpBit r n (m % 2 ^ d) d)

/-- Conversion of a value to a floating-point format (05 R183). -/
def fenc (f : FFmt) (r : Option Nat) (v : FV) : Nat :=
  match v with
  | .nan => f.nan
  | .inf s => b2n s * 2 ^ (f.eb + f.fb) + f.inf.getD f.maxc
  | .fin s m e =>
    let c := magCode f r m e
    b2n s * 2 ^ (f.eb + f.fb) + (if c ≤ f.maxc then c else if f.sat then f.maxc else f.inf.getD f.maxc)

/-- The magnitude m × 2^e rounded to the nearest integer, ties to even. -/
def roundInt (m : Nat) (e : Int) : Nat :=
  if 0 ≤ e then m * 2 ^ e.toNat
  else
    let d := (-e).toNat
    m / 2 ^ d + b2n (roundUpBit none (m / 2 ^ d) (m % 2 ^ d) d)

/-- An integer saturated to `w` bits of two's complement. -/
def satInt (w : Nat) (i : Int) : Nat := wrap w (max (-(2 ^ (w - 1) : Nat)) (min i ((2 ^ (w - 1) : Nat) - 1)))

/-- The signed integer nearest to a value that is finite. -/
def finInt (s : Bool) (m : Nat) (e : Int) : Int := if s then -(roundInt m e : Int) else roundInt m e

/-- ⌊log2⌋ of m × 2^e, m > 0. -/
def flog2 (m : Nat) (e : Int) : Int := e + (Nat.log2 m : Nat)

/-- Conversion of a value to any format (05 R183, R184, R186). -/
def enc (fmt : Nat) (r : Option Nat) (v : FV) : Nat :=
  match ffmt fmt with
  | some f => fenc f r v
  | none =>
    if fmt = 9 then
      match v with
      | .fin _ m e => if m = 0 then 0 else (max 0 (min 254 (flog2 m e + 127))).toNat
      | _ => 255
    else
      match v with
      | .nan => 0
      | .inf s => satInt (intW fmt) (if s then -(2 ^ 64 : Nat) else (2 ^ 64 : Nat))
      | .fin s m e => satInt (intW fmt) (finInt s m e)

/-- Rounding to nearest even in a format, as a value. -/
def rnd (fmt : Nat) (v : FV) : FV := dec fmt (enc fmt none v)

/-! ### Exact arithmetic (05 R176, R177) -/

/-- The signed magnitude as an integer multiple of 2^e0, e0 not above e. -/
def atExp (s : Bool) (m : Nat) (e e0 : Int) : Int :=
  let v : Int := (m * 2 ^ (e - e0).toNat : Nat)
  if s then -v else v

/-- The exact sum; zeros by R177. -/
def fadd (a b : FV) : FV :=
  match a, b with
  | .nan, _ => .nan
  | _, .nan => .nan
  | .inf s, .inf t => if s = t then .inf s else .nan
  | .inf s, _ => .inf s
  | _, .inf t => .inf t
  | .fin s m e, .fin t n f =>
    if m = 0 ∧ n = 0 then .fin (s && t) 0 0
    else
      let e0 := min e f
      let i := atExp s m e e0 + atExp t n f e0
      .fin (decide (i < 0)) i.natAbs e0

/-- The exact negation. -/
def fneg : FV → FV
  | .nan => .nan
  | .inf s => .inf (!s)
  | .fin s m e => .fin (!s) m e

/-- The magnitude. -/
def fabs : FV → FV
  | .nan => .nan
  | .inf _ => .inf false
  | .fin _ m e => .fin false m e

/-- The exact product; ∞ × 0 is NaN. -/
def fmul (a b : FV) : FV :=
  match a, b with
  | .nan, _ => .nan
  | _, .nan => .nan
  | .inf s, .inf t => .inf (s != t)
  | .inf s, .fin t n _ => if n = 0 then .nan else .inf (s != t)
  | .fin s m _, .inf t => if m = 0 then .nan else .inf (s != t)
  | .fin s m e, .fin t n f => .fin (s != t) (m * n) (e + f)

/-- The order of two finite or infinite values; zeros compare equal. -/
def fcmp (a b : FV) : Option Ordering :=
  match a, b with
  | .nan, _ => none
  | _, .nan => none
  | .inf s, .inf t => some (compare (b2n (!s)) (b2n (!t)))
  | .inf s, _ => some (if s then .lt else .gt)
  | _, .inf t => some (if t then .gt else .lt)
  | .fin s m e, .fin t n f => some (compare (atExp s m e (min e f)) (atExp t n f (min e f)))

/-- -0 orders below +0 (05 R178). -/
def negZeroLt (a b : FV) : Bool :=
  match a, b with
  | .fin true 0 _, .fin false 0 _ => true
  | _, _ => false

/-- `a` is below `b` in the order of R178. -/
def flt (a b : FV) : Bool := fcmp a b == some .lt || negZeroLt a b

/-- vmax and vmin on values (05 R178). -/
def fmax (a b : FV) : FV :=
  match a, b with
  | .nan, _ => .nan
  | _, .nan => .nan
  | _, _ => if flt a b then b else a

def fmin (a b : FV) : FV :=
  match a, b with
  | .nan, _ => .nan
  | _, .nan => .nan
  | _, _ => if flt b a then b else a

/-- A quotient of naturals as a value with a sticky last bit: 128 bits beyond those the numerator has. -/
def ratio (neg : Bool) (num den : Nat) (e : Int) : FV :=
  let k := 128 + Nat.log2 den
  .fin neg (2 * (num * 2 ^ k / den) + b2n (num * 2 ^ k % den ≠ 0)) (e - k - 1)

/-- The quotient of two values (05 R176, R190): rounding it once gives the correctly rounded quotient. -/
def fdiv (a b : FV) : FV :=
  match a, b with
  | .nan, _ => .nan
  | _, .nan => .nan
  | .inf _, .inf _ => .nan
  | .inf s, .fin t _ _ => .inf (s != t)
  | .fin s _ _, .inf t => .fin (s != t) 0 0
  | .fin s m e, .fin t n f =>
    if n = 0 then (if m = 0 then .nan else .inf (s != t)) else ratio (s != t) m n (e - f)

/-- The integer square root by bisection over `k` bits. -/
def isqrtN : Nat → Nat → Nat → Nat
  | 0, _, r => r
  | k + 1, v, r => let r' := r + 2 ^ k; isqrtN k v (if r' * r' ≤ v then r' else r)

def isqrt (v : Nat) : Nat := isqrtN (Nat.log2 v / 2 + 1) v 0

/-- The square root with a sticky last bit (05 R176). -/
def fsqrt (a : FV) : FV :=
  match a with
  | .nan => .nan
  | .inf s => if s then .nan else .inf false
  | .fin s m e =>
    if m = 0 then .fin s 0 0
    else if s then .nan
    else
      let k : Int := 128 + e % 2
      let v := m * 2 ^ k.toNat
      let r := isqrt v
      .fin false (2 * r + b2n (r * r ≠ v)) ((e - k) / 2 - 1)

/-! ### Functions rounded correctly (04 R147)

Each is computed as a fixed-point number with `fxP` fraction bits, far more than any FP32 result needs. -/

/-- Fraction bits of the fixed-point work. -/
def fxP : Nat := 512

/-- x^0/0! + x^1/1! + …: `n` further terms from term `t` of number `k`. -/
def expSum : Nat → Nat → Nat → Nat → Nat → Nat
  | 0, _, _, _, acc => acc
  | n + 1, k, x, t, acc => expSum n (k + 1) x (t * x / (2 ^ fxP * (k + 1))) (acc + t)

/-- e^x for a fixed-point x from 0 to 110. -/
def expFx (x : Nat) : Nat := expSum 700 0 x (2 ^ fxP) 0

/-- A magnitude m × 2^e in fixed point, cut. -/
def toFx (m : Nat) (e : Int) : Nat :=
  if 0 ≤ e + fxP then m * 2 ^ (e + fxP).toNat else m / 2 ^ (-(e + fxP)).toNat

/-- e^x as a value with a sticky last bit. -/
def fexp (a : FV) : FV :=
  match a with
  | .nan => .nan
  | .inf s => if s then .fin false 0 0 else .inf false
  | .fin s m e =>
    if m = 0 then .fin false 1 0
    else if 7 ≤ flog2 m e then (if s then .fin false 1 (-1000) else .fin false 1 1000)
    else
      let y := expFx (toFx m e)
      if s then ratio false (2 ^ fxP) y 0 else .fin false (2 * y + 1) (-fxP - 1)

/-- z + z^3/3 + z^5/5 + …: atanh of a fixed-point z up to 1/3. -/
def atanhSum : Nat → Nat → Nat → Nat → Nat → Nat
  | 0, _, _, _, acc => acc
  | n + 1, k, z2, p, acc => atanhSum n (k + 2) z2 (p * z2 / 2 ^ fxP) (acc + p / k)

/-- 2 × atanh(num / den) in fixed point. -/
def ln2Part (num den : Nat) : Nat :=
  let z := num * 2 ^ fxP / den
  2 * atanhSum 180 1 (z * z / 2 ^ fxP) z 0

/-- ln of a value above zero: m = f × 2^(log2 m), f in [1, 2). -/
def flogPos (m : Nat) (e : Int) : FV :=
  let l := Nat.log2 m
  let k : Int := e + l
  let i : Int := k * (ln2Part 1 3 : Nat) + (ln2Part (m - 2 ^ l) (m + 2 ^ l) : Nat)
  .fin (decide (i < 0)) i.natAbs (-fxP)

/-- ln x as a value; none at zero, where the manual states no result. -/
def flog (a : FV) : Option FV :=
  match a with
  | .nan => some .nan
  | .inf s => some (if s then .nan else .inf false)
  | .fin s m e => if m = 0 then none else some (if s then .nan else flogPos m e)

/-- tanh x as a value. -/
def ftanh (a : FV) : FV :=
  match a with
  | .nan => .nan
  | .inf s => .fin s 1 0
  | .fin s m e =>
    if m = 0 then .fin s 0 0
    else if 4 ≤ flog2 m e then .fin s 1 0
    else if flog2 m e ≤ -40 then .fin s (m * 2 ^ 64 - 1) (e - 64)
    else
      let y := expFx (2 * toFx m e)
      ratio s (y - 2 ^ fxP) (y + 2 ^ fxP) 0

/-- 1/x as a value; none at zero, where the manual states no result. -/
def frcp (a : FV) : Option FV :=
  match a with
  | .fin _ 0 _ => none
  | _ => some (fdiv (.fin false 1 0) a)

/-- 1/√x as a value; none at zero, where the manual states no result. -/
def frsqrt (a : FV) : Option FV :=
  match a with
  | .nan => some .nan
  | .inf s => some (if s then .nan else .fin false 0 0)
  | .fin s m e =>
    if m = 0 then none
    else if s then some .nan
    else
      let k : Int := 256 + e % 2
      let r := isqrt (m * 2 ^ k.toNat)
      some (ratio false 1 r (-((e - k) / 2)))

/-! ### Stochastic rounding (05 R181) -/

/-- The 16 random bits of element (m, n) under a seed. -/
def srBits (seed m n : Nat) : Nat :=
  let w := 2 ^ 64
  let x := (seed % w) ^^^ (m * 2 ^ 40 % w) ^^^ (n * 2 ^ 32 % w)
  let x := (x ^^^ (x / 2 ^ 31)) * 0x8F1BC3D752E6A9B5 % w
  let x := (x ^^^ (x / 2 ^ 29)) * 0x6C4AF0E193D27B1D % w
  let x := x ^^^ (x / 2 ^ 32)
  x / 2 ^ 48

/-! ### Microscaling (05 R187, R188) -/

/-- The value times a power of two. -/
def fscale (v : FV) (k : Int) : FV :=
  match v with
  | .fin s m e => .fin s m (e + k)
  | v => v

/-- An MX element's value: scale byte, element format and encoding (05 R187). -/
def mxDec (fmt scale v : Nat) : FV :=
  if scale % 256 = 255 then .nan
  else fscale (dec fmt v) ((scale % 256 : Nat) - (127 : Int) - (if fmt = 12 then 6 else if fmt = 13 then 2 else 0))

/-- emax of an MX output format (05 R188). -/
def mxEmax : Nat → Int
  | 4 => 8 | 5 => 15 | 6 => 4 | _ => 2

/-- The largest magnitude of a row of finite values. -/
def rowMax (vs : List FV) : FV := vs.foldl (fun a v => fmax a (fabs v)) (.fin false 0 0)

/-- One row of an MX output: its scale byte, its elements, and the elements converted under R182 (05 R188). `r` gives the
random bits of a column, when SR is set. -/
def mxRow (fmt : Nat) (r : Nat → Option Nat) (vs : List FV) : Nat × List Nat × Nat :=
  if vs.any (fun v => match v with | .fin .. => false | _ => true) then (255, vs.map (fun _ => 0), 0)
  else match rowMax vs with
    | .fin _ m e =>
      if m = 0 then (0, vs.map (fun v => enc fmt none v), 0)
      else
        let s := max (-127) (min 127 (flog2 m e - mxEmax fmt))
        ((s + 127).toNat, (indexed vs).map (fun p => enc fmt (r p.1) (fscale p.2 (-s))), if (r 0).isSome then vs.length else 0)
    | _ => (255, vs.map (fun _ => 0), 0)

/-! ### Accumulation (04 R148, R161, R162) -/

/-- One product added into a WX48 accumulator: the exact sum rounded once. -/
def accAdd (acc p : FV) : FV := rnd 14 (fadd acc p)

/-- The tree of R148 over 2^`d` places from place `i`: WX48 or binary64 roundings by `fmt`. -/
def treeSum (fmt : Nat) (at_ : Nat → FV) : Nat → Nat → FV
  | 0, i => at_ i
  | d + 1, i => rnd fmt (fadd (treeSum fmt at_ d i) (treeSum fmt at_ d (i + 2 ^ d)))

/-- The depth of the tree over `n` places. -/
def treeDepth (n : Nat) : Nat := if n ≤ 1 then 0 else Nat.log2 (n - 1) + 1

/-- The sum of R148 of a list of values; places beyond it hold +0. -/
def treeOf (fmt : Nat) (l : List FV) : FV := treeSum fmt (fun i => l.getD i (.fin false 0 0)) (treeDepth l.length) 0

/-! ### Packing (05 R172) -/

/-- Elements of a format packed into bytes. -/
def packElems (fmt : Nat) (vs : List Nat) : List Byte :=
  let w := elemBits fmt
  let n := vs.foldr (fun v a => v % 2 ^ valBits fmt + a * 2 ^ w) 0
  bytesOf (ceilDiv (w * vs.length) 8) n

/-- `n` elements of a format unpacked from bytes. -/
def unpackElems (fmt n : Nat) (bs : List Byte) : List Nat :=
  let w := elemBits fmt
  let v := natOf bs
  (List.range n).map (fun i => v / 2 ^ (w * i) % 2 ^ valBits fmt)

/-- Bytes of `n` packed elements. -/
def elemBytes (fmt n : Nat) : Nat := ceilDiv (elemBits fmt * n) 8

end Sys2Proof.Machine
end

