-- ==== Sys2Proof/Machine/Bench.lean ====
section
/-!
DEFINITION. Bench 1: the map of offsets to stacks (10 R340), the burst code (R343, R344), lane marks (R346), uncorrectable
codewords (R352, R353), accesses by long bursts and the narrow path (R347, R348), and the snoop filter's guard of the
host window (15 R516).
-/
namespace Sys2Proof.Machine

/-! ### The map of Bench 1 (10 R340, 15 R515) -/

def stackShift : Nat := 2 ^ 48
/-- CTX_FRAME_BASE, HST_STAGE_OFS, RDL_AREA_BASE, the driver area, the home-window area and E2E_AREA_BASE (15 R515). -/
def frameBase : Nat := 0
def frameSize : Nat := 0x60000000
def stageBase : Nat := 0x600000000
def stageSize : Nat := 0x10000000
def rdlBase : Nat := 0x610000000
def driverBase : Nat := 0x616000000
def homeBase : Nat := 0x700000000
def e2eBase : Nat := 0x1000000000
def hostWindow : Nat := 0x1000000000
/-- Local bytes that a frame takes on every stack (10 R340). -/
def frameLocal : Nat := 0x3000000

/-- The key of a byte: stack × 2^48 + local address. -/
def key (stack loc : Nat) : Nat := stack * stackShift + loc

/-- The place of an interleaved Bench 1 offset (10 R340). -/
def interleave (x : Nat) : Nat := key (x / 4096 % 32) (x / 131072 * 4096 + x % 4096)

/-- The place of byte `y` of the frame header of context `c` (10 R340). -/
def hdrPlace (c y : Nat) : Nat := key (y / 4096 % 32) (c * frameLocal + 0x2C00000 + y % 4096)

/-- CORE_DIE of logical core `n` in the frame of context `c` (03 R105). -/
def coreDie (m : Mem) (c n : Nat) : Nat := (mget 0 m (hdrPlace c (0x100 + n))).toNat

/-- The place of byte `j` of the record of logical core `n` saved by die `d` as that die's `i`-th record. -/
def recPlace (c d i j : Nat) : Nat := key (4 * d + j / 4096 % 4) (c * frameLocal + i * 0xB0000 + j / 16384 * 4096 + j % 4096)

/-- The place of a Bench 1 offset; none for a byte of a frame that takes no storage (10 R340, 03 R105). -/
def place (m : Mem) (x : Nat) : Option Nat :=
  if x < 16 * frameSize then
    let c := x / frameSize
    let y := x % frameSize
    if y < 0x10000 then some (hdrPlace c y)
    else
      let n := (y - 0x10000) / 0x2C0000
      let d := if n < 512 then coreDie m c n else 0xFF
      if d ≥ 8 then none
      else some (recPlace c d ((List.range n).countP (fun i => coreDie m c i = d)) ((y - 0x10000) % 0x2C0000))
  else some (interleave x)

/-- The Bench 1 offset of a place outside the frame area. -/
def offsetOf (k : Nat) : Nat :=
  let l := k % stackShift
  l / 4096 * 131072 + k / stackShift * 4096 + l % 4096

/-! ### The burst code (10 R343, R344) -/

/-- Multiplication by α in GF(2^8) with the polynomial 0x11D. -/
def gfX (a : Byte) : Byte := if a.msb then (a <<< 1) ^^^ 0x1D#8 else a <<< 1

/-- α^n. -/
def gfPow : Nat → Byte
  | 0 => 1
  | n + 1 => gfX (gfPow n)

/-- Product in GF(2^8), over the `n` low bits of `b`. -/
def gfMulN : Nat → Byte → Byte → Byte
  | 0, _, _ => 0
  | n + 1, a, b => (if b.getLsbD 0 then a else 0) ^^^ gfMulN n (gfX a) (b >>> 1)

def gfMul (a b : Byte) : Byte := gfMulN 8 a b

/-- The inverse: a^254. -/
def gfInv (a : Byte) : Byte :=
  let a2 := gfMul a a
  let a4 := gfMul a2 a2
  let a8 := gfMul a4 a4
  let a16 := gfMul a8 a8
  let a32 := gfMul a16 a16
  let a64 := gfMul a32 a32
  let a128 := gfMul a64 a64
  gfMul a128 (gfMul a64 (gfMul a32 (gfMul a16 (gfMul a8 (gfMul a4 a2)))))

/-- g(x) = (x - 1)(x - α)(x - α²)(x - α³), coefficients of x³ to x⁰: built from its roots. -/
def rsGen : List Byte :=
  let mulRoot := fun (p : List Byte) (r : Byte) =>
    (List.range (p.length + 1)).map (fun i => (p.getD i 0) ^^^ gfMul r (if i = 0 then 0 else p.getD (i - 1) 0))
  ([gfPow 0, gfPow 1, gfPow 2, gfPow 3].foldl mulRoot [1]).drop 1

/-- One data symbol shifted into the division by g. -/
def rsStep (r : List Byte) (d : Byte) : List Byte :=
  let f := d ^^^ r.headD 0
  (List.range 4).map (fun i => (r.getD (i + 1) 0) ^^^ gfMul f (rsGen.getD i 0))

/-- The four check symbols of a 32-byte codeword (10 R343). -/
def rsCheck (d : List Byte) : List Byte := d.foldl rsStep [0, 0, 0, 0]

/-- The locator of lane j: lane j is the coefficient of x^(35-j). -/
def locator (lane : Nat) : Byte := gfPow (35 - lane)

/-- Powers of a field element. -/
def gfPowOf (a : Byte) : Nat → Byte
  | 0 => 1
  | n + 1 => gfMul a (gfPowOf a n)

/-- Syndromes 0-3 of an error pattern (lane, value): values of v at α^0 to α^3. -/
def syndromes (errs : List (Nat × Byte)) : List Byte :=
  (List.range 4).map (fun i => errs.foldl (fun acc e => acc ^^^ gfMul e.2 (gfPowOf (locator e.1) i)) 0)

/-- The error values at one, two or three lanes that give the first syndromes. -/
def solveErr (syn : List Byte) (lanes : List Nat) : Option (List (Nat × Byte)) :=
  let s0 := syn.getD 0 0
  let s1 := syn.getD 1 0
  let s2 := syn.getD 2 0
  let try_ := fun (l : List (Nat × Byte)) => if syndromes l = syn then some l else none
  match lanes with
  | [] => try_ []
  | [a] => try_ [(a, s0)]
  | [a, b] =>
    let x := locator a
    let y := locator b
    let v := gfMul (s1 ^^^ gfMul s0 x) (gfInv (x ^^^ y))
    try_ [(a, s0 ^^^ v), (b, v)]
  | [a, b, c] =>
    let x := locator a
    let y := locator b
    let z := locator c
    let t0 := s1 ^^^ gfMul s0 x
    let t1 := s2 ^^^ gfMul s1 x
    let w := gfMul (t1 ^^^ gfMul t0 y) (gfInv (gfMul (x ^^^ z) (y ^^^ z)))
    let v := gfMul (t0 ^^^ gfMul w (x ^^^ z)) (gfInv (x ^^^ y))
    try_ [(a, s0 ^^^ v ^^^ w), (b, v), (c, w)]
  | _ => none

/-- The three outcomes of a read (10 R344). -/
inductive Decode36 where
  | clean
  | corrected (errs : List (Nat × Byte))
  | uncorr
  deriving DecidableEq, Repr

/-- The decoder: marked lanes are erasures, and e further symbol errors are corrected with 2e + m ≤ 4 (10 R344). -/
def rsDecode (marks : List Nat) (errs : List (Nat × Byte)) : Decode36 :=
  let syn := syndromes errs
  if syn = [0, 0, 0, 0] then (if marks = [] then .clean else .corrected [])
  else
    let others := (List.range 36).filter (fun l => !marks.contains l)
    let singles := others.map (fun l => marks ++ [l])
    let pairs := if marks = [] then others.flatMap (fun a => (others.filter (fun b => a < b)).map (fun b => [a, b])) else []
    match ([marks] ++ singles ++ pairs).findSome? (solveErr syn) with
    | some l => .corrected (l.filter (fun e => e.2 ≠ 0))
    | none => .uncorr

/-- The symbols of a codeword with errors taken out (or put in): data lanes only. -/
def applyErr (d : List Byte) (errs : List (Nat × Byte)) : List Byte :=
  (indexed d).map (fun e => errs.foldl (fun b x => if x.1 = e.1 then b ^^^ x.2 else b) e.2)

/-! ### Controllers and their counts -/

/-- The pseudo-channel of a local address (10 R341). -/
def pcOf (loc : Nat) : Nat := loc / 2048 % 16 * 2 + loc / 1024 % 2

/-- The marked lanes of a pseudo-channel. -/
def markedLanes (h : Hbm) (pc : Nat) : List Nat := (List.range 36).filter (fun l => (mget 0 h.marked pc).getLsbD l)

/-- The requesting block of an access (15 R527) and the context of the operation that makes it. -/
structure Req where
  kind : Nat
  index : Nat
  ctx : Option Nat
  deriving DecidableEq, Repr

/-- The context that owns a codeword's data (10 R352). -/
def ownerOfKey (s : State) (k : Nat) (opCtx : Option Nat) : Option Nat :=
  let l := k % stackShift
  if l < 16 * frameLocal then some (l / frameLocal)
  else
    let x := offsetOf k
    match s.tir.units.find? (fun u => match u.back with | .b1 o => decide (o ≤ x ∧ x < o + u.size) | .b2 .. => false) with
    | some u => some u.ctx.val
    | none => match s.tir.homes.find? (fun h => decide (h.b1 ≤ x ∧ x < h.b1 + h.size)) with
      | some h => some h.ctx.val
      | none =>
        if (List.range 16).any (fun p =>
            let q := getPool s p
            q.declared && q.bench1 && decide (q.base ≤ x ∧ x < q.base + q.count * 2 ^ q.sizeLog2)) then opCtx else none

/-- A lane whose symbol was corrected: its count, and the mark when the count reaches the threshold (10 R346). -/
def laneCorrected (n pc : Nat) (s : State) (lane : Nat) : State :=
  let h := getHbm s n
  let cnt := mget 0 h.corr (36 * pc + lane) + 1
  let h := { h with corr := mput 0 h.corr (36 * pc + lane) cnt }
  let m := mget 0 h.marked pc
  if cnt = max 1 h.markThresh.toNat ∧ !m.getLsbD lane then
    if (markedLanes h pc).length < 2 then
      post (setHbm s n { h with marked := mput 0 h.marked pc (m ||| BitVec.ofNat 36 (2 ^ lane)) })
        evLaneMarked none (n + 256 * pc + 65536 * lane) 0
    else bump (setHbm s n h) (552 + n) 16 1
  else setHbm s n h

/-- An uncorrectable codeword (10 R352, R353): counted, recorded, its owner found, the event posted at most once per 1,000
counts and pseudo-channel, and the owner torn down. -/
def uncorrectable (s : State) (n loc : Nat) (r : Req) : State :=
  let pc := pcOf loc
  let s := bump s (552 + n) 10 1
  let h := getHbm s n
  let s := setHbm s n { h with uncorrAddr := BitVec.ofNat 48 loc, uncorrValid := true,
                               pcUncorr := mput 0 h.pcUncorr pc (inc32 (mget 0 h.pcUncorr pc) 1) }
  let own := ownerOfKey s (key n loc) r.ctx
  let last := mget 0 h.lastPost pc
  let s :=
    if last = 0 ∨ last + 999 ≤ s.halyard then
      let h := getHbm s n
      trigger (post (setHbm s n { h with lastPost := mput 0 h.lastPost pc (s.halyard + 1) }) evHbmUncorr
        (own.map ctxFin) (loc + stackShift * n) (r.kind + 16 * r.index)) 1
    else bump s (552 + n) 11 1
  match own with
  | some c => teardown s c 3 none
  | none => s

/-- A read of one codeword of a stack, with symbol errors of the burst: the data delivered and whether it was beyond the
code (10 R344). -/
def cwRead (s : State) (n loc : Nat) (errs : List (Nat × Byte)) (r : Req) : List Byte × Bool × State :=
  let base := key n loc
  let d := readBytes s.bench1 base 32
  let stored := (List.range 4).filterMap (fun i =>
    let x := mget 0 s.chk (base * 4 + i)
    if x = 0 then none else some (32 + i, x))
  let pc := pcOf loc
  let all := errs ++ stored
  let rx := applyErr d errs
  match rsDecode (markedLanes (getHbm s n) pc) all with
  | .clean => (rx, false, s)
  | .corrected l =>
    let s := bump s (552 + n) 9 1
    let h := getHbm s n
    let s := setHbm s n { h with pcCorrected := mput 0 h.pcCorrected pc (inc64 (mget 0 h.pcCorrected pc) 1) }
    (applyErr rx l, false, (l.map (·.1)).foldl (laneCorrected n pc) s)
  | .uncorr => (rx, true, uncorrectable s n loc r)

/-- A write of one whole codeword, with its check symbols. -/
def cwWrite (s : State) (n loc : Nat) (d : List Byte) : State :=
  let base := key n loc
  { s with bench1 := writeBytes s.bench1 base d, chk := mclear s.chk (fun k => k / 4 = base) }

/-- The codeword with the masked bytes replaced. -/
def merge (old new : List Byte) (mask : Nat → Bool) : List Byte :=
  (indexed old).map (fun e => if mask e.1 then new.getD e.1 0 else e.2)

/-- A write of some bytes of a codeword: a read-modify-write that writes nothing back when its read is uncorrectable
(10 R348, R354). -/
def cwModify (s : State) (n loc : Nat) (d : List Byte) (mask : Nat → Bool) (errs : List (Nat × Byte)) (r : Req) : State :=
  if (List.range 32).all mask then cwWrite s n loc d
  else
    let s := bump s (552 + n) 8 1
    match cwRead s n loc errs r with
    | (old, false, s) => cwWrite s n loc (merge old d mask)
    | (_, true, s) => s

/-- The controller serves other agents (10 R359). -/
def served (s : State) (n : Nat) : Bool := (getHbm s n).st = .service

/-! ### Accesses of the device's agents -/

/-- HBM bytes charged to the partition of the context that makes the access (03 R117). -/
def chargeHbm (s : State) (ctx : Option Nat) (n : Nat) : State :=
  match ctx with
  | none => s
  | some c =>
    let p := (getCtx s c).part.toNat
    let b := getBucket s p 0
    if b.on then setBucket s p 0 { b with milli := b.milli - 1000 * n, bytes := inc64 b.bytes n } else s

/-- Accesses counted at the controllers: each aligned 2 KiB that the range covers fully is one long burst, every other
codeword is a narrow access (10 R347, R367); a stack outside SERVICE counts each in TEST_DROPS (R359). -/
def countBlock (x n : Nat) (wr : Bool) (ctx : Option Nat) (s : State) (b : Nat) : State :=
  match place s.bench1 (2048 * b) with
  | none => s
  | some k =>
    let st := k / stackShift
    let lo := max x (2048 * b)
    let hi := min (x + n) (2048 * b + 2048)
    let whole := hi - lo = 2048
    let cws := (hi + 31) / 32 - lo / 32
    if served s st then
      chargeHbm (bump s (552 + st) (if whole then (if wr then 7 else 6) else (if wr then 5 else 4)) (if whole then 1 else cws))
        ctx (if whole then 2048 else 32 * cws)
    else match (getHbm s st).st with
      | .test | .retrain | .failed => bump s (552 + st) 15 (if whole then 1 else cws)
      | _ => s

/-- The blocks of 2 KiB that a range meets. -/
def blocksOf (x n : Nat) : List Nat := if n = 0 then [] else (List.range ((x + n - 1) / 2048 + 1 - x / 2048)).map (· + x / 2048)

def countAccess (s : State) (x n : Nat) (wr : Bool) (ctx : Option Nat) : State :=
  (blocksOf x n).foldl (countBlock x n wr ctx) s

/-- The codewords that a range meets, as Bench 1 offsets. -/
def cwsOf (x n : Nat) : List Nat := if n = 0 then [] else (List.range ((x + n - 1) / 32 + 1 - x / 32)).map (fun i => 32 * (i + x / 32))

/-- Lines of the host window that an access needs snooped: a read of a line held modifiable, a write of a line held in
either state (15 R516). -/
def snoopNeed (s : State) (x n : Nat) (wr : Bool) : State :=
  if n = 0 ∨ hostWindow ≤ x then s
  else
    let l := s.drg.filter.filter (fun e => decide (x / 64 ≤ e.1 ∧ e.1 ≤ (x + n - 1) / 64) && (wr || e.2))
    if l = [] then s else { s with drg := { s.drg with need := s.drg.need ++ l.map (fun e => (e.1, wr)) } }

/-- One codeword read at a Bench 1 offset: zeros where nothing is stored or the stack does not serve (10 R359). -/
def readCwAt (r : Req) (a : List Byte × State) (x : Nat) : List Byte × State :=
  match place a.2.bench1 x with
  | none => (a.1 ++ List.replicate 32 0, a.2)
  | some k =>
    if served a.2 (k / stackShift) then
      match cwRead a.2 (k / stackShift) (k % stackShift) [] r with
      | (d, _, s) => (a.1 ++ d, s)
    else (a.1 ++ List.replicate 32 0, a.2)

/-- A read of Bench 1 by an agent of the device. -/
def b1Read (s : State) (x n : Nat) (r : Req) : List Byte × State :=
  let s := countAccess (snoopNeed s x n false) x n false r.ctx
  match (cwsOf x n).foldl (readCwAt r) ([], s) with
  | (d, s) => ((d.drop (x % 32)).take n, s)

/-- One codeword of a write at a Bench 1 offset. -/
def writeCwAt (x : Nat) (d : List Byte) (r : Req) (s : State) (cw : Nat) : State :=
  match place s.bench1 cw with
  | none => s
  | some k =>
    if served s (k / stackShift) then
      cwModify s (k / stackShift) (k % stackShift)
        ((List.range 32).map (fun i => if x ≤ cw + i then d.getD (cw + i - x) 0 else 0))
        (fun i => decide (x ≤ cw + i ∧ cw + i < x + d.length)) [] r
    else s

/-- A write of Bench 1 by an agent of the device. -/
def b1Write (s : State) (x : Nat) (d : List Byte) (r : Req) : State :=
  (cwsOf x d.length).foldl (writeCwAt x d r) (countAccess (snoopNeed s x d.length true) x d.length true r.ctx)

/-- A read of Bench 1 whose lines have been checked against the snoop filter already, or need no check: a line of a home
unit's buffer. -/
def b1Get (s : State) (x n : Nat) (r : Req) : List Byte × State :=
  match (cwsOf x n).foldl (readCwAt r) ([], countAccess s x n false r.ctx) with
  | (d, s) => ((d.drop (x % 32)).take n, s)

/-- A write of Bench 1 whose lines have been checked already. -/
def b1Put (s : State) (x : Nat) (d : List Byte) (r : Req) : State :=
  (cwsOf x d.length).foldl (writeCwAt x d r) (countAccess s x d.length true r.ctx)

/-- A little-endian word of Bench 1. -/
def b1Nat (s : State) (x n : Nat) (r : Req) : Nat × State :=
  match b1Read s x n r with
  | (d, s) => (natOf d, s)

/-- Bench 1 bytes of an interleaved range set to zero. -/
def b1Zero (s : State) (x n : Nat) : State :=
  let hit := fun k => decide (16 * frameLocal ≤ k % stackShift ∧ x ≤ offsetOf k ∧ offsetOf k < x + n)
  { s with bench1 := mclear s.bench1 hit, chk := mclear s.chk (fun k => hit (k / 4)) }

/-- The frame of context `c` discarded: its bytes take no storage (03 R105). -/
def frameZero (s : State) (c : Nat) : State :=
  let hit := fun k => decide (k % stackShift / frameLocal = c)
  { s with bench1 := mclear s.bench1 hit, chk := mclear s.chk (fun k => hit (k / 4)) }

/-! ### The guard of the snoop filter (15 R516, R518) -/

/-- A snoop sent for a line: SNP_INV for a write, SNP_SHR for a read. -/
def sendSnoop (s : State) (e : Nat × Bool) : State :=
  if s.drg.snoops.any (fun o => o.2.1 = e.1) then s
  else
    let tag := s.drg.nextTag
    let s := { s with drg := { s.drg with nextTag := tag + 1, snoops := s.drg.snoops ++ [(tag, e.1, e.2)],
                                          snpSent := inc64 s.drg.snpSent 1 } }
    drgSend s { opcode := if e.2 then 0x20 else 0x21, tag := tag, status := 0, addr := BitVec.ofNat 56 (64 * e.1),
                mask := 0, data := [] }

/-- The effect of a command whose device accesses may meet lines that the companion holds: when they do, the command only
sends the snoops, and has its effect when it is given again after the answers (15 R516). -/
def guarded (s s' : State) : State :=
  if s'.drg.need = [] then s'
  else s'.drg.need.foldl sendSnoop s

end Sys2Proof.Machine
end

