-- ==== Sys2Proof/Machine/Pools.lean ====
section
/-!
DEFINITION. The buffer pool manager (09 R330-R338): places of buffers, allocation, release, reset, states and their events,
and the commands ALLOC, RELEASE and RESET.
-/
namespace Sys2Proof.Machine

/-- F: the free buffers of a pool. -/
def poolFree (p : Pool) : Nat := (p.count - p.fresh) + p.ret.length

/-- The state that R333 gives for a free count. -/
def poolStOf (p : Pool) (f : Nat) : PoolSt := if f ≤ p.red then .red else if f ≤ p.amber then .amber else .green

def poolStNum : PoolSt → Nat
  | .green => 0 | .amber => 1 | .red => 2

/-- The end of a Yard cycle for pool `p`: LOW_WATER, and the events of a crossing (09 R333, R338). -/
def poolCross (s : State) (p : Nat) : State :=
  let q := getPool s p
  if q.declared then
    let f := poolFree q
    let st := poolStOf q f
    let arg := p + 16 * poolStNum st + 2 ^ 32 * f
    let q := { q with low := BitVec.ofNat 32 (min q.low.toNat f), st := st }
    match (getPool s p).st, st with
    | .green, .amber | .amber, .green =>
      post (setPool s p { q with amberEv := inc32 q.amberEv 1 }) evPoolAmber none arg 0
    | .green, .red | .red, .green | .amber, .red | .red, .amber =>
      post (setPool s p { q with redEv := inc32 q.redEv 1 }) evPoolRed none arg 0
    | _, _ => setPool s p q
  else s

/-- The buffer at the head of the free list, and the list without it. -/
def poolHead (q : Pool) : Option (Nat × Pool) :=
  if q.fresh < q.count then some (q.fresh, { q with fresh := q.fresh + 1 })
  else match q.ret with
    | i :: r => some (i, { q with ret := r })
    | [] => none

/-- `n` buffers taken, each with `refs` references (a refs of zero counts as 1). -/
def poolTakeN : Nat → Nat → Pool → List Nat × Pool
  | 0, _, q => ([], q)
  | n + 1, refs, q =>
    match poolHead q with
    | some (i, q) =>
      match poolTakeN n refs { q with refs := mput 0 q.refs i (max 1 refs), allocs := inc64 q.allocs 1 } with
      | (l, q) => (i :: l, q)
    | none => ([], q)

/-- A request for `n` buffers: served at once when nothing waits and enough are free (09 R331, R332). -/
def poolAlloc (s : State) (p n refs : Nat) : Option (List Nat × State) :=
  let q := getPool s p
  if q.declared ∧ q.waiters = [] ∧ n ≤ poolFree q then
    match poolTakeN n refs q with
    | (l, q) => some (l, poolCross (setPool s p q) p)
  else none

/-- A request that waits, behind every earlier one (09 R332). -/
def poolWait (s : State) (p : Nat) (w : Waiter) (n : Nat) : State :=
  let q := getPool s p
  setPool s p { q with waiters := q.waiters ++ [(w, n)] }

/-- The request at the head of the waiters served, when enough buffers are free. -/
def poolServe (s : State) (p refs : Nat) : Option (Waiter × List Nat × State) :=
  let q := getPool s p
  match q.waiters with
  | (w, n) :: r =>
    if n ≤ poolFree q then
      match poolTakeN n refs { q with waiters := r } with
      | (l, q) => some (w, l, poolCross (setPool s p q) p)
    else none
  | [] => none

/-- The release of one reference of a buffer (09 R331). -/
def poolDrop (s : State) (p i : Nat) : State :=
  let q := getPool s p
  let r := mget 0 q.refs i
  let q := { q with refs := mput 0 q.refs i (r - 1), releases := inc64 q.releases 1 }
  setPool s p (if r ≤ 1 then { q with ret := q.ret ++ [i] } else q)

/-- A release, with the end of its Yard cycle. -/
def poolRelease (s : State) (p i : Nat) : State := poolCross (poolDrop s p i) p

/-- Releases of several buffers of one pool in one Yard cycle. -/
def poolReleaseAll (s : State) (p : Nat) (l : List Nat) : State :=
  if l = [] then s else poolCross (l.foldl (fun s i => poolDrop s p i) s) p

/-- reset(p): every buffer free, in ascending index (09 R331). -/
def poolReset (s : State) (p : Nat) : State :=
  let q := getPool s p
  poolCross (setPool s p { q with fresh := 0, ret := [], refs := [], low := BitVec.ofNat 32 q.count }) p

/-! ### Places (09 R310, R330) -/

/-- A logical core of this node lies beneath the gang of a Bench 0 pool. -/
def poolHolds (s : State) (q : Pool) (n : Nat) : Bool := q.declared && !q.bench1 && (coreOrder s q.gang).contains n

/-- Bytes that a Bench 0 pool takes in each of its cores: ⌈COUNT / G⌉ × size. -/
def poolShare (s : State) (q : Pool) : Nat := ceilDiv q.count (max 1 (coreOrder s q.gang).length) * 2 ^ q.sizeLog2

/-- Pc: the pool area of a core (09 R310). -/
def poolArea (s : State) (n : Nat) : Nat :=
  (List.range 16).foldl (fun a p => let q := getPool s p; if poolHolds s q n then a + poolShare s q else a) 0

/-- The start of pool `p` in logical core `n` (09 R330). -/
def poolStart (s : State) (p n : Nat) : Nat :=
  0x280000 - poolArea s n +
    (List.range p).foldl (fun a i => let q := getPool s i; if poolHolds s q n then a + poolShare s q else a) 0

/-- Where a buffer lies: a logical core and a Bench 0 address, or a Bench 1 offset. -/
inductive BufLoc where
  | b0 (logical addr : Nat)
  | b1 (ofs : Nat)
  deriving DecidableEq, Repr

/-- The place of buffer `i` of pool `p`. -/
def bufLoc (s : State) (p i : Nat) : BufLoc :=
  let q := getPool s p
  if q.bench1 then .b1 (q.base + i * 2 ^ q.sizeLog2)
  else
    let o := coreOrder s q.gang
    let n := o.getD (i % max 1 o.length) 0
    .b0 n (poolStart s p n + i / max 1 o.length * 2 ^ q.sizeLog2)

/-- Bytes of a buffer at an offset, read for a context. -/
def bufRead (s : State) (p i o n : Nat) (r : Req) : List Byte × State :=
  match bufLoc s p i with
  | .b1 x => b1Read s (x + o) n r
  | .b0 k a => (match physR31 s k with | some k => readBytes (getCore s k).b0 (a + o) n | none => List.replicate n 0, s)

/-- Bytes written into a buffer at an offset. -/
def bufWrite (s : State) (p i o : Nat) (d : List Byte) (r : Req) : State :=
  match bufLoc s p i with
  | .b1 x => b1Write s (x + o) d r
  | .b0 k a => match physR31 s k with
    | some k => let c := getCore s k; setCore s k { c with b0 := writeBytes c.b0 (a + o) d }
    | none => s

/-! ### BPM_CMD (09 R338) -/

/-- ALLOC (09 R331, R332): never waits; EMPTY when no buffer is free or an allocation already waits on the pool. -/
def bpmAlloc (s : State) (p refs : Nat) : State :=
  if frozen s then s
  else
    let s := { s with bpm := { s.bpm with pool := BitVec.ofNat 4 p } }
    if !(getPool s p).declared then { s with bpm := { s.bpm with outcome := 3 } }
    else match poolAlloc s p 1 refs with
      | some (l, s) => { s with bpm := { s.bpm with outcome := 1, index := BitVec.ofNat 32 (l.headD 0) } }
      | none => { s with bpm := { s.bpm with outcome := 2 } }

/-- RELEASE (09 R331). -/
def bpmRel (s : State) (p i : Nat) : State :=
  if frozen s then s
  else
    let s := { s with bpm := { s.bpm with pool := BitVec.ofNat 4 p } }
    if !(getPool s p).declared then { s with bpm := { s.bpm with outcome := 3 } }
    else poolRelease { s with bpm := { s.bpm with outcome := 1 } } p i

/-- RESET (09 R331). -/
def bpmRst (s : State) (p : Nat) : State :=
  if frozen s then s
  else
    let s := { s with bpm := { s.bpm with pool := BitVec.ofNat 4 p } }
    if !(getPool s p).declared then { s with bpm := { s.bpm with outcome := 3 } }
    else poolReset { s with bpm := { s.bpm with outcome := 1 } } p

/-- The command ALLOC of BPM_CMD. -/
def execAlloc (p : BitVec 4) (refs : BitVec 8) (s : State) : Host.Outcome State Fault Refusal :=
  .next (bpmAlloc s p.toNat refs.toNat)

/-- The pools of a full commit: F = COUNT, no event (09 R338). -/
def poolCommit (r : PoolRec) (base : Nat) : Pool :=
  let q : Pool := { declared := true, bench1 := r.bench1, base := base, sizeLog2 := r.sizeLog2, count := r.count,
                    amber := r.amber, red := r.red, gang := r.gang, low := BitVec.ofNat 32 r.count }
  { q with st := poolStOf q r.count }

end Sys2Proof.Machine
end

