-- ==== Sys2Proof/Machine/Yard.lean ====
section
/-!
DEFINITION. Packets (12 R402-R404), routing (R406, R407), notices (R419), the send side of the end-to-end protocol (R410,
R417) behind the regulators (03 R117), and the Yard: acceptance, admission, transmission (11 R368-R376), the combining unit
(R383-R386) and the bunting ring (R388-R390).
-/
namespace Sys2Proof.Machine

/-! ### Packets -/

/-- Payload flits. -/
def flits (p : Packet) : Nat := ceilDiv p.payload.length 64

/-- Bytes of a packet: 32 for a control packet, header plus payload for a data packet (12 R402). -/
def pktLen (p : Packet) : Nat := if p.long then 64 + 64 * flits p else 32

/-- Units of credit of a packet (12 R398). -/
def pktUnits (p : Packet) : Nat := if p.long then 1 + flits p else 1

/-- Word 0 of the header with HOPS as given. -/
def pktW0 (p : Packet) (hops : Nat) : Nat :=
  p.dest.toNat + 2 ^ 16 * p.src.toNat + 2 ^ 32 * b2n p.long + 2 ^ 33 * p.vc.toNat +
  2 ^ 36 * b2n (p.long && p.pennant) + 2 ^ 37 * p.op.toNat + 2 ^ 42 * p.ctx.toNat + 2 ^ 46 * hops +
  (if p.long then 2 ^ 50 * flits p else 2 ^ 56 * p.status.toNat)

/-- The header of a packet (32 bytes of a control packet, 64 of a data packet) with HOPS and CRC as given. -/
def pktHeader (p : Packet) (hops crc : Nat) : List Byte :=
  if p.long then
    bytesOf 8 (pktW0 p hops) ++ bytesOf 8 p.psn.toNat ++ bytesOf 8 p.session.toNat ++ bytesOf 8 p.w3.toNat ++
    bytesOf 8 p.w4.toNat ++ bytesOf 8 p.w5.toNat ++ bytesOf 8 (b2n p.mcast + 2 * p.mdim.toNat) ++ bytesOf 8 crc
  else
    bytesOf 8 (pktW0 p hops) ++ bytesOf 4 p.psn.toNat ++ bytesOf 4 p.session.toNat ++ bytesOf 8 p.w4.toNat ++ bytesOf 8 crc

/-- The CRC that a packet's source computes: HOPS and CRC taken as zero (12 R404). -/
def pktCrc (p : Packet) : W64 := crc64 (pktHeader p 0 0 ++ padFlits p.payload)

/-- The packet with its CRC. -/
def withCrc (p : Packet) : Packet := { p with crc := pktCrc p }

/-- The destination's check (11 R374). -/
def crcOk (p : Packet) : Bool := p.crc = pktCrc p

/-- A blank packet. -/
def pkt0 : Packet :=
  { dest := 0, src := 0, long := true, vc := 0, pennant := false, op := 0, ctx := 0, hops := 0, status := 0, psn := 0,
    session := 0, w3 := 0, w4 := 0, w5 := 0, mcast := false, mdim := 0, payload := [], crc := 0, bad := false, stomp := false }

/-- A data request: everything but STORE's answers (12 R402). -/
def isRequest (p : Packet) : Bool := p.long && p.op ≠ 4

/-- A control packet from its 32 bytes. -/
def parseCtl (b : List Byte) : Packet :=
  let w0 := natAt b 0 8
  { pkt0 with dest := BitVec.ofNat 14 w0, src := BitVec.ofNat 14 (w0 / 2 ^ 16), long := false,
              vc := BitVec.ofNat 3 (w0 / 2 ^ 33), op := BitVec.ofNat 5 (w0 / 2 ^ 37), ctx := BitVec.ofNat 4 (w0 / 2 ^ 42),
              hops := BitVec.ofNat 4 (w0 / 2 ^ 46), status := BitVec.ofNat 8 (w0 / 2 ^ 56),
              psn := BitVec.ofNat 32 (natAt b 8 4), session := BitVec.ofNat 64 (natAt b 12 4),
              w4 := BitVec.ofNat 64 (natAt b 16 8), crc := BitVec.ofNat 64 (natAt b 24 8) }

/-- The payload flits that a data header names. -/
def hdrFlits (b : List Byte) : Nat := bits (natAt b 0 8) 55 50

/-- A data packet's header from its 64 bytes. -/
def parseData (b : List Byte) : Packet :=
  let w0 := natAt b 0 8
  let w6 := natAt b 48 8
  { pkt0 with dest := BitVec.ofNat 14 w0, src := BitVec.ofNat 14 (w0 / 2 ^ 16), long := true,
              vc := BitVec.ofNat 3 (w0 / 2 ^ 33), pennant := bitAt w0 36, op := BitVec.ofNat 5 (w0 / 2 ^ 37),
              ctx := BitVec.ofNat 4 (w0 / 2 ^ 42), hops := BitVec.ofNat 4 (w0 / 2 ^ 46),
              psn := BitVec.ofNat 32 (natAt b 8 4), session := BitVec.ofNat 64 (natAt b 16 8),
              w3 := BitVec.ofNat 64 (natAt b 24 8), w4 := BitVec.ofNat 64 (natAt b 32 8),
              w5 := BitVec.ofNat 64 (natAt b 40 8), mcast := bitAt w6 0, mdim := BitVec.ofNat 2 (w6 / 2),
              crc := BitVec.ofNat 64 (natAt b 56 8) }

/-! ### Roles and routing (01 R23, 12 R406-R409) -/

/-- The role of an adit: 0 board, 1 row, 2 column, 3 trunk. -/
def role (a : Nat) : Nat := if a < 9 then 0 else if a < 12 then 1 else if a < 15 then 2 else 3

def aditUp (s : State) (a : Nat) : Bool := (getAdit s a).st = .up

/-- The adit record in force. -/
def aditRec (s : State) (a : Nat) : Option AditRec := s.tab.adits.find? (fun r => r.adit = a)

/-- ENABLE in force; before the first full commit every adit forwards (02 R61). -/
def aditEnabled (s : State) (a : Nat) : Bool := ((aditRec s a).map (·.enable)).getD false

/-- No full image is committed: no routing table is in force (12 R406). -/
def noImage (s : State) : Bool := s.hst.activeId = 0

/-- The spread over parallel adits: (psn[7:0] xor src[7:0] xor dest[7:0]) mod n. -/
def spread (p : Packet) (n : Nat) : Nat :=
  ((p.psn.toNat % 256) ^^^ (p.src.toNat % 256) ^^^ (p.dest.toNat % 256)) % max 1 n

/-- Where a packet goes. -/
inductive Route where
  | here
  | adit (a : Nat)
  | drop (cause : Nat)
  deriving DecidableEq, Repr

/-- The choice among candidates, or a drop. -/
def pick (p : Packet) (l : List Nat) (cause : Nat) : Route :=
  match l[spread p l.length]? with
  | some a => .adit a
  | none => .drop cause

/-- The route record for a destination: the first in section order whose range holds it (12 R406). -/
def routeRec (s : State) (dest : Nat) : Option RouteRec := s.tab.routes.find? (fun r => decide (r.destLo ≤ dest ∧ dest ≤ r.destHi))

/-- The route of a packet (12 R406, R407, R409, 16 R547). -/
def routeOf (s : State) (inPort : Nat) (p : Packet) : Route :=
  let up := (List.range 24).filter (aditUp s)
  if p.dest.toNat = node s then .here
  else if 8 ≤ inPort ∧ inPort < 32 ∧ p.hops = 15 then .drop 0x11
  else if p.mcast ∧ ¬ (8 ≤ inPort ∧ inPort < 32) then
    pick p (up.filter (fun a => role a = p.mdim.toNat && (getAdit s a).partnerNode = p.dest && (getAdit s a).partnerNodeValid)) 0x10
  else if noImage s then
    pick p (up.filter (fun a => (getAdit s a).partnerNode = p.dest && (getAdit s a).partnerNodeValid)) 0x11
  else match routeRec s p.dest.toNat with
    | none => .drop 0x11
    | some r =>
      let en := (List.range 24).filter (fun a => r.mask.getLsbD a && role a = r.dim && aditEnabled s a)
      let upc := en.filter (aditUp s)
      if upc = [] then .drop 0x10
      else pick p (upc.filter (fun a => (getAdit s a).partnerReady)) 0x12

/-! ### Registers of ports -/

def getPort (s : State) (q : Nat) : YPort := mget {} s.yard.ports q
def setPort (s : State) (q : Nat) (x : YPort) : State := { s with yard := { s.yard with ports := mput {} s.yard.ports q x } }

/-- The Yard cycle now: 1.6 per ns (00 R10). -/
def yardNow (s : State) : Nat := s.ns * 8 / 5

/-- Bytes reserved in a partition (11 R393). -/
def occ (s : State) (q v : Nat) : Nat :=
  (s.yard.out.filter (fun e => e.port = q && e.pkt.vc.toNat = v)).foldl (fun a e => a + pktLen e.pkt) 0

/-- The size of a partition (11 R369). -/
def partSize (q v : Nat) : Nat :=
  if q < 8 then (if v < 2 then 262144 else 917504)
  else if q < 32 then (if v < 2 then 65536 else 360448)
  else (if v < 2 then 32768 else 114688)

/-! ### Sending -/

/-- A packet of a block of this package put into the injection queue of a port. -/
def inject (s : State) (port : Nat) (p : Packet) : State :=
  { s with fab := { s.fab with inject := s.fab.inject ++ [(port, p)] } }

/-- A transfer passes the buckets it is charged at, one after another, and waits at the first whose level is too low or
that others wait at (03 R117). -/
def passBuckets (s : State) (part : Nat) (charge port : Nat) (p : Packet) : List Nat → State
  | [] => inject s port p
  | l :: rest =>
    let b := getBucket s part l
    if !b.on then passBuckets s part charge port p rest
    else if b.queue = [] ∧ 1000 * charge ≤ b.milli then
      passBuckets (setBucket s part l { b with milli := b.milli - 1000 * charge, bytes := inc64 b.bytes charge })
        part charge port p rest
    else setBucket s part l { b with waits := inc64 b.waits 1,
                                     queue := b.queue ++ [{ charge := charge, pkt := some p, port := port, rest := rest }] }

/-- The adit level of a destination: the dimension its route names (03 R117); none for this node. -/
def dimLevels (s : State) (p : Packet) : List Nat :=
  if p.dest.toNat = node s then []
  else match (if p.mcast then some p.mdim.toNat else (routeRec s p.dest.toNat).map (·.dim)) with
    | some 0 => [2]
    | some 1 => [3]
    | some 2 => [3]
    | some 3 => [4]
    | _ => []

/-- The send-table entry of a request. -/
def findEnt (s : State) (dest : BitVec 14) (psn : W32) : Option SendEnt :=
  s.fab.table.find? (fun e => e.pkt.dest = dest && e.pkt.psn = psn)

/-- How far a PSN lies ahead of another, modulo 2^32. -/
def psnGap (a b : W32) : Nat := (a - b).toNat

/-- The limits of R410 for a request to a destination. -/
def sendAllowed (s : State) (h : Held) : Bool :=
  let mine := s.fab.table.filter (fun e => e.pkt.dest = h.pkt.dest)
  let next := BitVec.ofNat 32 (mget 0 s.fab.nextPsn h.pkt.dest.toNat)
  decide (s.fab.table.length < 8192) && mine.all (fun e => decide (psnGap next e.pkt.psn < 256)) &&
  (h.pkt.op ≠ 3 || decide ((mine.filter (fun e => e.pkt.op = 3)).length < 32))

/-- The instruction that a piece belongs to. -/
def sameInstr (a b : Owner) : Bool :=
  match a, b with
  | .movHW k i, .movHW l j => k = l && i = j
  | _, _ => false

/-- Every earlier request to the destination has been acknowledged, but for pieces of the same instruction (12 R417). -/
def pennantFree (s : State) (h : Held) : Bool :=
  !h.pkt.pennant ||
  (s.fab.table.all (fun e => e.pkt.dest ≠ h.pkt.dest || decide (h.ord < e.ord) || sameInstr e.owner h.owner) &&
   s.fab.held.all (fun e => e.pkt.dest ≠ h.pkt.dest || decide (h.ord ≤ e.ord) || sameInstr e.owner h.owner))

/-- A request enters the send table with the next PSN of its destination and goes to its regulators. -/
def enterTable (s : State) (h : Held) : State :=
  let d := h.pkt.dest.toNat
  let p := withCrc { h.pkt with psn := BitVec.ofNat 32 (mget 0 s.fab.nextPsn d), session := s.fab.session }
  let s := { s with fab := { s.fab with
    nextPsn := mput 0 s.fab.nextPsn d ((mget 0 s.fab.nextPsn d + 1) % 2 ^ 32)
    sent := inc64 s.fab.sent 1
    table := s.fab.table ++ [{ pkt := p, owner := h.owner, due := 0, resends := 0, waitAns := false, ord := h.ord }] } }
  match h.part with
  | some part => passBuckets s part (pktLen p) h.port p (dimLevels s p ++ [1])
  | none => inject s h.port p

/-- A request of a block: sent when the limits and the pennant allow it, held otherwise. -/
def sendRequest (s : State) (h : Held) : State :=
  let h := { h with ord := s.fab.nextOrd }
  let s := { s with fab := { s.fab with nextOrd := s.fab.nextOrd + 1 } }
  if sendAllowed s h && pennantFree s h then enterTable s h
  else { s with fab := { s.fab with held := s.fab.held ++ [h] } }

/-- Held requests without a pennant tried again, in order, after room has come. -/
def drainHeld (s : State) : State :=
  let l := s.fab.held
  l.foldl (fun s h => if !h.pkt.pennant && sendAllowed s h then enterTable s h
                      else { s with fab := { s.fab with held := s.fab.held ++ [h] } })
    { s with fab := { s.fab with held := [] } }

/-- The port of the die that holds a core. -/
def corePort (k : Nat) : Nat := k / 64

/-- An answer packet: ACK on virtual channel 0 (12 R402, R412). -/
def ackPkt (s : State) (p : Packet) (status arg : Nat) : Packet :=
  withCrc { pkt0 with dest := p.src, src := BitVec.ofNat 14 (node s), long := false, vc := 0, op := 1, ctx := p.ctx,
                      status := BitVec.ofNat 8 status, psn := p.psn, session := p.session &&& 0xFFFFFFFF,
                      w4 := BitVec.ofNat 64 arg }

/-- The end-to-end acknowledgement of a request. -/
def sendAck (s : State) (port : Nat) (p : Packet) (status arg : Nat) : State := inject s port (ackPkt s p status arg)

/-- A NOTICE to a dropped request's source: at most one per source node per 1,000 counts (12 R419). -/
def notice (s : State) (p : Packet) (cause : Nat) : State :=
  if !isRequest p then s
  else
    let last := mget 0 s.fab.lastNotice p.src.toNat
    if last = 0 ∨ last + 999 ≤ s.halyard then
      let n := withCrc { pkt0 with dest := p.src, src := p.dest, long := false, vc := 1, op := 2, ctx := p.ctx,
                                   status := BitVec.ofNat 8 cause, psn := p.psn, session := p.session &&& 0xFFFFFFFF,
                                   w4 := BitVec.ofNat 64 (node s) }
      inject { s with fab := { s.fab with noticesSent := inc32 s.fab.noticesSent 1,
                                          lastNotice := mput 0 s.fab.lastNotice p.src.toNat (s.halyard + 1) } } 33 n
    else { s with fab := { s.fab with noticesSupp := inc32 s.fab.noticesSupp 1 } }

/-- A drop under R407: counted, and a notice sent. -/
def routeDrop (s : State) (p : Packet) (cause : Nat) : State :=
  let s := if cause = 0x11 then { s with fab := { s.fab with noRoute := inc32 s.fab.noRoute 1 } }
           else { s with fab := { s.fab with downRoute := inc32 s.fab.downRoute 1 } }
  notice s p cause

/-! ### The bunting ring (11 R388-R390) -/

/-- A ring of records of `sz` bytes written at its write index; full rings discard (11 R390, 14 R474, R495). -/
def ringRoom (r : Ring) (sz : Nat) : Bool := decide ((r.wr - r.rd).toNat ≠ 2 ^ r.size.toNat / sz)

/-- The bunting record of a packet at a point. -/
def buntRecord (s : State) (p : Packet) (inPort outPort : Nat) (point : Bool) (f : Nat) (merged : Bool) : List Byte :=
  bytesOf 8 s.halyard ++
  bytesOf 8 (inPort + 64 * outPort + 4096 * p.vc.toNat + 32768 * b2n point + 65536 * f + 2 ^ 18 * b2n (!p.long) +
    2 ^ 19 * b2n p.stomp + 2 ^ 20 * b2n merged + 2 ^ 32 * pktLen p + 2 ^ 48 * (s.yard.buntWr.toNat % 65536)) ++
  padTo 48 ((pktHeader p p.hops.toNat p.crc.toNat).take 48)

/-- A packet matches filter `f` at a point of a port (11 R389). -/
def filterHit (b : BFilter) (p : Packet) (port : Nat) (point : Bool) : Bool :=
  b.en && b.point = point && (b.anyPort || b.port.toNat = port) && b.vcMask.getLsbD p.vc.toNat &&
  (b.anyNode || (if b.nodeSel then p.dest else p.src) = b.node)

/-- The filters count their matches; the lowest that selects the packet is returned. -/
def countFilters (s : State) (p : Packet) (port : Nat) (point : Bool) : Option Nat × State :=
  [0, 1, 2, 3].foldl (fun (acc : Option Nat × State) f =>
    let b := mget {} acc.2.yard.filters f
    if filterHit b p port point then
      let sel := b.matches_.toNat % (b.sampleM1.toNat + 1) = 0
      let s := { acc.2 with yard := { acc.2.yard with
        filters := mput {} acc.2.yard.filters f { b with matches_ := inc64 b.matches_ 1 } } }
      (if acc.1.isNone && sel then some f else acc.1, s)
    else acc) (none, s)

/-- Mirroring of a packet at a point (11 R388-R390); it never holds back a packet. -/
def bunting (s : State) (p : Packet) (inPort outPort : Nat) (point : Bool) (merged : Bool) : State :=
  if !s.tab.mode.bunting then s
  else match countFilters s p (if point then outPort else inPort) point with
    | (none, s) => s
    | (some f, s) =>
      if s.yard.buntSize.toNat < 16 ∨ 30 < s.yard.buntSize.toNat then s
      else if (s.yard.buntWr - s.yard.buntRd).toNat = 2 ^ s.yard.buntSize.toNat / 64 then
        { s with yard := { s.yard with buntLost := inc64 s.yard.buntLost 1 } }
      else
        let ofs := s.yard.buntBase.toNat + 64 * (s.yard.buntWr.toNat % (2 ^ s.yard.buntSize.toNat / 64))
        let s := b1Write s ofs (buntRecord s p inPort outPort point f merged) { kind := 9, index := 0, ctx := none }
        { s with yard := { s.yard with buntWr := inc32 s.yard.buntWr 1 } }

/-! ### The combining unit (11 R383-R386) -/

/-- A request that may be merged: a load, or an atomic of ATOP 0 to 6, without a pennant (R383). -/
def mergeable (p : Packet) : Bool :=
  p.long && !p.pennant && (p.op = 2 || (p.op = 3 && decide (bits p.w3.toNat 51 48 ≤ 6)))

/-- Two requests for the same place and operation. -/
def samePlace (a b : Packet) : Bool := a.op = b.op && a.dest = b.dest && a.w3 = b.w3

/-- A member of a group, by its source's numbers. -/
def isMember (p m : Packet) : Bool := m.src = p.src && m.psn = p.psn && m.session = p.session

/-- The operation of an integer ATOP 0-5 on 64-bit values (04 R143). -/
def atomOp (op : Nat) (a b : W64) : W64 :=
  match op with
  | 0 => a + b
  | 1 => a &&& b
  | 2 => a ||| b
  | 3 => a ^^^ b
  | 4 => if a.toInt < b.toInt then a else b
  | _ => if a.toInt < b.toInt then b else a

/-- The operand of the merged request (R385). -/
def mergedOperand (op : Nat) : List W64 → W64
  | [] => 0
  | [v] => v
  | v :: r => if op = 6 then mergedOperand op r else atomOp op v (mergedOperand op r)

/-- The old values returned to the members in order (R385). -/
def splitOlds (op : Nat) (old : W64) : List W64 → List W64
  | [] => []
  | v :: r => old :: splitOlds op (if op = 6 then v else atomOp op old v) r

/-- The merged request of a group: its own source, PSN, session, CTX of member 0, its own CRC (R384). -/
def mergedPkt (s : State) (psn : W32) (ms : List Packet) : Packet :=
  let m0 := ms.headD pkt0
  withCrc { m0 with src := BitVec.ofNat 14 (node s), psn := psn, session := s.fab.session,
                    w4 := if m0.op = 3 then mergedOperand (bits m0.w3.toNat 51 48) (ms.map (·.w4)) else m0.w4 }

/-- The answers to the members of a group, made from the merged answer, put into the Yard (R384, R385). -/
def memberAnswers (s : State) (g : CmbGroup) (a : Packet) : List Packet :=
  let m0 := g.members.headD pkt0
  let olds := splitOlds (bits m0.w3.toNat 51 48) a.w4 (g.members.map (·.w4))
  (indexed g.members).map (fun (e : Nat × Packet) =>
    let m : Packet := e.2
    if a.long then withCrc { a with dest := m.src, ctx := m.ctx, psn := m.psn, session := m.session, hops := 0 }
    else
      let v : W64 := if decide (m.op = 3) && decide (a.status = 0) then olds.getD e.1 0 else a.w4
      withCrc { a with dest := m.src, ctx := m.ctx, psn := m.psn, session := m.session &&& 0xFFFFFFFF, hops := 0, w4 := v })

/-- A resend of an absorbed member is absorbed again, or answered from the entry (R386). -/
def absorbResend (s : State) (p : Packet) : Option State :=
  match s.yard.groups.find? (fun g => mergeable p && g.members.any (isMember p) && g.dest = p.dest) with
  | none => none
  | some g =>
    let s := { s with yard := { s.yard with resendsAbsorbed := inc64 s.yard.resendsAbsorbed 1 } }
    match g.answer with
    | none => some s
    | some a =>
      match ((indexed g.members).zip (memberAnswers s g a)).find? (fun e => isMember p e.1.2) with
      | some e => some (inject s 33 e.2)
      | none => some s

/-- The merge of an arriving request into a held one (R383, R384). -/
def tryMerge (s : State) (p : Packet) : Option State :=
  if s.yard.cmbDisable || !mergeable p then none
  else match s.yard.out.find? (fun e => mergeable e.pkt && samePlace e.pkt p && decide (yardNow s - e.at_ ≤ 255)) with
    | none => none
    | some e =>
      let cnt := fun (s : State) => if p.op = 2 then { s with yard := { s.yard with readMerges := inc64 s.yard.readMerges 1 } }
                                    else { s with yard := { s.yard with atomMerges := inc64 s.yard.atomMerges 1 } }
      let swap := fun (s : State) (gid : Nat) (q : Packet) =>
        { s with yard := { s.yard with out := s.yard.out.map (fun x => if x = e then { x with pkt := q, gid := some gid } else x) }
                 fab := { s.fab with table := s.fab.table.map (fun t => if t.owner = .cmb gid then { t with pkt := q } else t) } }
      match e.gid with
      | some gid =>
        match s.yard.groups.find? (fun g => g.id = gid) with
        | some g =>
          let ms := g.members ++ [p]
          let s := { s with yard := { s.yard with groups := s.yard.groups.map (fun x => if x.id = gid then { x with members := ms } else x) } }
          some (cnt (swap s gid (mergedPkt s g.psn ms)))
        | none => none
      | none =>
        if 4096 ≤ s.yard.groups.length then none
        else
          let gid := s.yard.nextGroup
          let d := p.dest.toNat
          let psn := BitVec.ofNat 32 (mget 0 s.fab.nextPsn d)
          let ms := [e.pkt, p]
          let q := mergedPkt s psn ms
          let s := { s with
            yard := { s.yard with nextGroup := gid + 1, groups := s.yard.groups ++
              [{ id := gid, psn := psn, dest := p.dest, members := ms, answer := none, expiry := 0 }] }
            fab := { s.fab with
              nextPsn := mput 0 s.fab.nextPsn d ((mget 0 s.fab.nextPsn d + 1) % 2 ^ 32)
              sent := inc64 s.fab.sent 1
              table := s.fab.table ++ [{ pkt := q, owner := .cmb gid, due := s.halyard + 1000 * max 1 s.fab.timeoutUs.toNat,
                                         resends := 0, waitAns := false, ord := s.fab.nextOrd }]
              nextOrd := s.fab.nextOrd + 1 } }
          some (cnt (swap s gid q))

/-- A request that would merge finds the table full (R384). -/
def mergeFull (s : State) (p : Packet) : Bool :=
  !s.yard.cmbDisable && mergeable p && decide (4096 ≤ s.yard.groups.length) &&
  s.yard.out.any (fun e => mergeable e.pkt && samePlace e.pkt p && decide (yardNow s - e.at_ ≤ 255) && e.gid.isNone)

/-! ### Acceptance and admission (11 R370-R372) -/

/-- The die port by which a packet for this node leaves: the die of the window's stack for memory requests, of the block
that waits for an answer, of the engine that the message names; die 0 otherwise. -/
def herePort (s : State) (p : Packet) : Nat :=
  if p.long ∧ (p.op = 1 ∨ p.op = 2 ∨ p.op = 3) then
    let o := p.w3.toNat % 2 ^ 48
    match s.tir.homes.find? (fun h => decide (h.fofs ≤ o ∧ o < h.fofs + h.size)) with
    | some h => (h.b1 + (o - h.fofs)) / 4096 % 32 / 4
    | none => 0
  else
    match s.fab.table.find? (fun e => e.pkt.dest = p.src && e.pkt.psn = p.psn) with
    | some e => match e.owner with
      | .movHR k _ _ | .movHW k _ | .atom k _ _ | .b2 k _ => (physIn s e.pkt.ctx.toNat k.val).getD 0 / 64
      | .trw t _ => t.val
      | .coll d _ _ _ => d.val
      | _ => 0
    | none => 0

/-- The output port of a route. -/
def outPortOf (s : State) (inPort : Nat) (p : Packet) : Option Nat :=
  match routeOf s inPort p with
  | .here => some (herePort s p)
  | .adit a => some (8 + a)
  | .drop _ => none

/-- B per Yard cycle of a port (11 R368). -/
def portRate (q : Nat) : Nat := if q < 8 ∨ q = 33 then 1250 else 125

/-- A packet admitted to its partition over a write connection, when there is space and one of the four connections is free
(11 R371, R372). -/
def tryAdmit (s : State) (inPort outPort : Nat) (p : Packet) : Option State :=
  let v := p.vc.toNat
  let now := yardNow s
  let live := s.yard.conns.filter (fun c => decide (now < c.2.2))
  if occ s outPort v + pktLen p ≤ partSize outPort v ∧ (live.filter (fun c => c.1 = outPort)).length < 4 then
    let o := occ s outPort v + pktLen p
    some { s with yard := { s.yard with
      conns := live ++ [(outPort, inPort, now + ceilDiv (pktLen p) (portRate inPort))]
      out := s.yard.out ++ [{ port := outPort, inPort := inPort, pkt := p, at_ := now, gid := none }]
      high := mput 0 s.yard.high (outPort * 8 + v) (BitVec.ofNat 32 (max o (mget 0 s.yard.high (outPort * 8 + v)).toNat)) } }
  else none

/-- Room in the staging queue of an input's virtual channel: 256 B for control, 384 B for data (11 R370). -/
def stageRoom (s : State) (q v : Nat) : Bool :=
  let used := (s.yard.stage.filter (fun e => e.1 = q && e.2.vc.toNat = v)).foldl (fun a e => a + pktLen e.2) 0
  decide (used < (if v < 2 then 256 else 384))

/-- The request of this node whose timer starts when it enters the Yard (12 R413). -/
def startTimer (s : State) (p : Packet) : State :=
  if isRequest p && p.src.toNat = node s then
    { s with fab := { s.fab with table := s.fab.table.map (fun e =>
      if samePkt e.pkt p then { e with due := s.halyard + 1000 * max 1 s.fab.timeoutUs.toNat } else e) } }
  else s

/-- Units freed when a packet leaves an adit's receive buffer (12 R398). -/
def freeUnits (s : State) (q : Nat) (p : Packet) : State :=
  if 8 ≤ q ∧ q < 32 then
    let a := getAdit s (q - 8)
    setAdit s (q - 8) { a with freed := mput 0 a.freed p.vc.toNat (inc32 (mget 0 a.freed p.vc.toNat) (pktUnits p)) }
  else s

/-- The packet taken from where it waited: a port's injection queue or an adit's receive buffer. -/
def takeWaiting (s : State) (q : Nat) (p : Packet) : State :=
  if 8 ≤ q ∧ q < 32 then
    let a := getAdit s (q - 8)
    setAdit s (q - 8) { a with rx := a.rx.erase p }
  else { s with fab := { s.fab with inject := s.fab.inject.erase (q, p) } }

/-- A down adit's output discards what is admitted to it (11 R378). -/
def downDrop (s : State) (outPort : Nat) (p : Packet) : State :=
  let y := getPort s outPort
  notice (setPort s outPort { y with downDrops := inc32 y.downDrops 1 }) p 0x10

/-- A packet header at a Yard input (11 R371): stomped packets are dropped, requests merged, packets without a route
dropped with a notice; the rest admitted, or staged. Nothing moves while the virtual channel's staging is full. -/
def yardAccept (s : State) (q : Nat) (p : Packet) : State :=
  if !stageRoom s q p.vc.toNat then s
  else
    let s := startTimer (freeUnits (takeWaiting s q p) q p) p
    if p.stomp then s
    else
      match absorbResend s p with
      | some s => bunting s p q ((outPortOf s q p).getD 0) false true
      | none =>
        match tryMerge s p with
        | some s' => bunting s' p q ((outPortOf s q p).getD 0) false true
        | none =>
          let s := if mergeFull s p then { s with yard := { s.yard with tableFull := inc64 s.yard.tableFull 1 } } else s
          match routeOf s q p with
          | .drop c => routeDrop s p c
          | _ =>
            match outPortOf s q p with
            | none => s
            | some o =>
              let s := bunting s p q o false false
              if 8 ≤ o ∧ o < 32 ∧ !aditUp s (o - 8) then downDrop s o p
              else if s.yard.stage.any (fun e => e.1 = q && e.2.vc = p.vc) ||
                  (8 ≤ o && o < 32 && p.vc = 3 && p.op = 9 && s.yard.stage.any (fun e => e.2.vc = 3 && e.2.op = 9 &&
                    outPortOf s e.1 e.2 = some o)) then
                { s with yard := { s.yard with stage := s.yard.stage ++ [(q, p)] } }
              else match tryAdmit s q o p with
                | some s => if 8 ≤ o ∧ o < 32 ∧ p.vc = 3 ∧ p.op = 9 then
                    let g := bits p.w4.toNat 5 0
                    let c := getCGroup s g
                    setCGroup s g { c with drrBytes := inc64 c.drrBytes (pktLen p) }
                  else s
                | none => { s with yard := { s.yard with stage := s.yard.stage ++ [(q, p)] } }

/-- PACKET_ACCEPT: a packet header arrives at a Yard input. -/
def execPacketAccept (q : Fin 34) (p : Packet) (s : State) : Host.Outcome State Fault Refusal :=
  .next (if frozen s then s else guarded s (yardAccept s q.val p))

/-! ### Deficit round-robin over collective groups at an adit output (13 R458) -/

/-- The collective group of a packet on virtual channel 3: bits [5:0] of word 4 (13 R453). -/
def groupOf (p : Packet) : Option Nat := if p.long && p.op = 9 && p.vc = 3 then some (bits p.w4.toNat 5 0) else none

/-- Candidates at adit output `o`: the heads of inputs' queues on virtual channel 3 that are collective packets bound for it:
input, group, length. -/
def drrCands (s : State) (o : Nat) : List (Nat × Nat × Nat) :=
  (List.range 34).filterMap (fun q =>
    match s.yard.stage.find? (fun e => e.1 = q && e.2.vc = 3) with
    | some e => match groupOf e.2 with
      | some g => if outPortOf s q e.2 = some o then some (q, g, pktLen e.2) else none
      | none => none
    | none => none)

/-- The next group in the cyclic ascending order after `g` among candidate groups. -/
def nextGroupAfter (g : Nat) (l : List Nat) : Option Nat :=
  match (sortBy id l).find? (fun h => decide (g < h)) with
  | some h => some h
  | none => (sortBy id l).head?

/-- The rounds of R458 from the group served last: the input whose head is admitted next, with the deficits and that group. -/
def drrWalk : Nat → State → Nat → List (Nat × Nat × Nat) → SMap Nat → Nat → Option (Nat × Nat × SMap Nat)
  | 0, _, _, _, _, _ => none
  | fuel + 1, s, o, cs, d, g =>
    match cs.find? (fun c => c.2.1 = g && decide (c.2.2 ≤ mget 0 d (64 * o + g))) with
    | some c => some (c.1, g, mput 0 d (64 * o + g) (mget 0 d (64 * o + g) - c.2.2))
    | none =>
      match nextGroupAfter g (dedup (cs.map (·.2.1))) with
      | none => none
      | some h =>
        let w := ((s.tab.groups.find? (fun r => r.group = h)).map (·.weight)).getD 1
        drrWalk fuel s o cs (mput 0 d (64 * o + h) (mget 0 d (64 * o + h) + 512 * w)) h

/-- The input whose collective head packet output `o` admits next. -/
def drrPick (s : State) (o : Nat) : Option (Nat × Nat × SMap Nat) :=
  let cs := drrCands s o
  drrWalk (64 * 6 + 1) s o cs s.yard.deficit (mget 0 s.yard.drrAt o)

/-- The bookkeeping of a collective packet of group `g` admitted at output `o`: its deficit, zero when the group has no
candidate left, and DRR_BYTES. -/
def drrDone (s : State) (o g len : Nat) (d : SMap Nat) : State :=
  let s := { s with yard := { s.yard with deficit := d, drrAt := mput 0 s.yard.drrAt o g } }
  let s := if (drrCands s o).any (fun c => c.2.1 = g) then s
           else { s with yard := { s.yard with deficit := mput 0 s.yard.deficit (64 * o + g) 0 } }
  let c := getCGroup s g
  setCGroup s g { c with drrBytes := inc64 c.drrBytes len }

/-- The head of a staging queue admitted, when its output has room (11 R371, R372). -/
def yardAdmit (s : State) (q v : Nat) : State :=
  match s.yard.stage.find? (fun e => e.1 = q && e.2.vc.toNat = v) with
  | none => s
  | some e =>
    let gone := { s with yard := { s.yard with stage := s.yard.stage.erase e } }
    match routeOf s q e.2 with
    | .drop c => routeDrop gone e.2 c
    | _ =>
      match outPortOf s q e.2 with
      | none => s
      | some o =>
        if 8 ≤ o ∧ o < 32 ∧ !aditUp s (o - 8) then downDrop gone o e.2
        else if 8 ≤ o ∧ o < 32 ∧ (groupOf e.2).isSome then
          match drrPick s o with
          | some (i, g, d) =>
            if i = q then
              match tryAdmit gone q o e.2 with
              | some t => drrDone t o g (pktLen e.2) d
              | none => s
            else s
          | none => s
        else (tryAdmit gone q o e.2).getD s

/-- PACKET_ADMIT: the head packet of a staging queue. -/
def execPacketAdmit (q : Fin 34) (v : Fin 6) (s : State) : Host.Outcome State Fault Refusal :=
  .next (if frozen s then s else yardAdmit s q.val v.val)

/-! ### Transmission (11 R375, R378) -/

/-- The receive buffer of an adit input for a virtual channel, in units (12 R398). -/
def rxUnits (a v : Nat) : Nat :=
  if role a = 3 then (if v < 2 then 512 else 4096) else (if v < 2 then 256 else 1024)

/-- The adit forwards a virtual channel cut-through. -/
def cutThrough (s : State) (a v : Nat) : Bool := ((aditRec s a).map (fun r => r.cutMask.getLsbD v)).getD false

/-- Link credit for a packet (12 R398). -/
def creditFor (s : State) (a : Nat) (p : Packet) : Bool :=
  let x := getAdit s a
  let v := p.vc.toNat
  decide (((mget 0 x.sent v) - (mget 0 x.theirFreed v)).toNat + pktUnits p ≤ rxUnits a v)

/-- A packet sent on an adit: bytes, HOPS, credit, the stomp marker of a damaged cut-through packet. -/
def transmitPkt (s : State) (a : Nat) (e : YEnt) : State :=
  let q := 8 + a
  let v := e.pkt.vc.toNat
  let s := { s with yard := { s.yard with out := s.yard.out.erase e } }
  let fwd := decide (8 ≤ e.inPort ∧ e.inPort < 32)
  let p := { e.pkt with hops := if fwd then e.pkt.hops + 1 else e.pkt.hops }
  let y := getPort s q
  if p.bad && !cutThrough s a v then setPort s q { y with sfDrops := inc32 y.sfDrops 1 }
  else
    let p := { p with stomp := p.bad }
    let y := { y with bytesOut := inc64 y.bytesOut (pktLen p), pktsOut := inc64 y.pktsOut 1,
                      stomped := if p.bad then inc32 y.stomped 1 else y.stomped }
    let s := bunting (setPort s q y) p e.inPort q true e.gid.isSome
    let x := getAdit s a
    setAdit s a { x with sent := mput 0 x.sent v (inc32 (mget 0 x.sent v) (pktUnits p)), tx := x.tx ++ [p] }

/-- TRANSMIT: the next packet of an adit output leaves, when the partner's input has credit for it. -/
def yardTransmit (s : State) (a v : Nat) : State :=
  if !aditUp s a then s
  else match s.yard.out.find? (fun e => e.port = 8 + a && e.pkt.vc.toNat = v) with
    | none => s
    | some e => if creditFor s a e.pkt then transmitPkt s a e else s

def execTransmit (a : Fin 24) (v : Fin 6) (s : State) : Host.Outcome State Fault Refusal :=
  .next (if frozen s then s else guarded s (yardTransmit s a.val v.val))

/-- An adit output discards every packet it holds (11 R378). -/
def discardOutput (s : State) (q : Nat) : State :=
  let l := s.yard.out.filter (fun e => e.port = q)
  let s := { s with yard := { s.yard with out := s.yard.out.filter (fun e => e.port ≠ q) } }
  l.foldl (fun s e => downDrop s q e.pkt) s

/-- A packet delivered at a port of this node: it leaves the output, its CRC is checked (11 R374); none when it is dropped. -/
def takeDelivery (s : State) (p : Packet) : Option State :=
  let e := s.yard.out.find? (fun e => e.pkt = p && (decide (e.port < 8) || decide (32 ≤ e.port)))
  let q := (e.map (·.port)).getD (herePort s p)
  let s1 := match e with
    | some e => { s with yard := { s.yard with out := s.yard.out.erase e } }
    | none => s
  if crcOk p then
    let y := getPort s1 q
    let s2 := setPort s1 q { y with bytesOut := inc64 y.bytesOut (pktLen p), pktsOut := inc64 y.pktsOut 1 }
    some (bunting s2 p ((e.map (·.inPort)).getD 0) q true false)
  else none

/-- The drop of a packet whose CRC fails (11 R374). -/
def crcDrop (s : State) (p : Packet) : State :=
  let e := s.yard.out.find? (fun e => e.pkt = p && (decide (e.port < 8) || decide (32 ≤ e.port)))
  let q := (e.map (·.port)).getD (herePort s p)
  let s := match e with
    | some e => { s with yard := { s.yard with out := s.yard.out.erase e } }
    | none => s
  let y := getPort s q
  setPort s q { y with crcDrops := inc32 y.crcDrops 1 }

end Sys2Proof.Machine
end

