-- ==== Sys2Proof/Machine/Time.lean ====
section
/-!
DEFINITION. The passing of time (00 R10): what `n` Halyard counts of 1 ns change while nothing happens. Counters of waits
advance by the state each block is in; buckets gain (03 R116); during the Dip counters and the end-to-end timers stand
still (14 R498).
-/
namespace Sys2Proof.Machine

/-- Core cycles that have passed at `t` ns: 2.4 per ns (00 R10). -/
def coreCyc (t : Nat) : Nat := t * 12 / 5

/-- Yard cycles that have passed at `t` ns: 1.6 per ns. -/
def yardCyc (t : Nat) : Nat := t * 8 / 5

/-- A counter of a face advanced. -/
def faceBump (f : Face) (i n : Nat) : Face :=
  if n = 0 then f else { f with cnt := mput 0 f.cnt i (inc64 (mget 0 f.cnt i) n) }

/-- Operations of a core in progress on a queue. -/
def queueBusy (c : Core) (q : Nat) : Nat := b2n (c.ops.any (fun o => o.q = q))

/-- The counters of a core's face over `cyc` core cycles (01 R28, 04 R166). -/
def coreTime (c : Core) (f : Face) (cyc : Nat) : Face :=
  let arr := queueBusy c 0 + queueBusy c 1 + queueBusy c 2 + queueBusy c 3
  let f := faceBump f 4 (arr * cyc)
  let f := faceBump f 6 ((queueBusy c 4 + queueBusy c 5) * cyc)
  let f := faceBump f 7 (queueBusy c 6 * cyc)
  if f.st = .running ∧ c.stall ≠ 0 then
    faceBump (if c.stall = 2 then faceBump f 10 cyc else f) 11 cyc
  else f

/-- The wait counters of a Riddle engine (07 R256). -/
def riddleTime (r : Riddle) (f : Face) (cyc : Nat) : Face :=
  match r.phase with
  | .seqWait => faceBump f 10 cyc
  | .outWait => faceBump f 11 cyc
  | .exchange => faceBump f 12 cyc
  | _ => f

/-- The wait counters of a Tramway engine (08 R298). -/
def trwTime (s : State) (t : Nat) (w : Tramway) (f : Face) (cyc : Nat) : Face :=
  let starved := s.bpm.pools.any (fun p => p.2.waiters.any (fun x => match x.1 with
    | .tramway u _ => u.val = t
    | _ => false))
  faceBump (if starved then faceBump f 13 cyc else f) 14 (if w.held = [] then 0 else cyc)

/-- The counters of a unit over `cyc` core cycles. -/
def unitTime (s : State) (cyc u : Nat) (f : Face) : Face :=
  let f := match f.st with
    | .running | .saving | .restoring => if u < 552 then faceBump f 0 cyc else f
    | .waiting => if u < 552 then faceBump f 1 cyc else f
    | _ => f
  if u < 512 then coreTime (getCore s u) f cyc
  else if u < 544 then riddleTime (getRiddle s (u - 512)) f cyc
  else if u < 552 then trwTime s (u - 544) (getTrw s (u - 544)) f cyc
  else f

/-- The depth of a bucket in bytes (03 R116). -/
def depth (b : Bucket) : Nat := max 4 b.burst.toNat * 1024

/-- Counts until a bucket's level covers a charge, at most `n`. -/
def countsShort (b : Bucket) (charge n : Nat) : Nat :=
  if 1000 * charge ≤ b.milli then 0
  else if b.rate = 0 then n
  else min n (ceilDiv (1000 * charge - b.milli) b.rate.toNat)

/-- A bucket over `n` counts: it gains RATE / 1,000 bytes at each, capped at its depth; the head transfer waits for tokens,
or, with tokens, for link credit (03 R116, R120). -/
def bucketTime (n : Nat) (b : Bucket) : Bucket :=
  if !b.on then b
  else
    let b' := { b with milli := min (1000 * depth b) (b.milli + n * b.rate.toNat) }
    match b.queue with
    | [] => b'
    | t :: _ =>
      let k := countsShort b t.charge n
      { b' with tokenWait := inc64 b.tokenWait k, creditWait := inc64 b.creditWait (n - k) }

/-- A running or ending context is blocked (03 R114): its gang is WAITING and some member waits on a muster or a count, as a
Riddle engine that waits for SEQ does (07 R229). -/
def ctxBlocked (s : State) (c : Nat) : Bool :=
  let x := getCtx s c
  (x.st = .running || x.st = .ending) && gangState s c (ctxGang s c) = .waiting &&
  (x.bind.any (fun e => match (getCore s e.2).wait with
    | .muster _ => true
    | .count .. => true
    | _ => false) ||
   s.riddles.any (fun r => r.2.phase = .seqWait && (getFace s (512 + r.1)).owner = some (ctxFin c)))

/-- The conditions of R115: some context is resident, every resident context is blocked, some context is SAVED. -/
def allBlockedNow (s : State) : Bool :=
  anyResident s && (List.range 16).all (fun c => !resident s c || ctxBlocked s c) &&
  (List.range 16).any (fun c => (getCtx s c).st = .saved)

/-- Counts in [h, h+n) at which a slot of context `c` whose issue is due is held back by its step-end settle (09 R321). -/
def settleHeld (s : State) (c n : Nat) : Nat :=
  let x := getCtx s c
  if x.settling && !x.settleByCmd then
    match sortBy id ((s.tick.slots.filter (fun i => i.ctx.val = c && i.st = .pending)).map (·.due)) with
    | [] => 0
    | d :: _ => (s.halyard + n) - max s.halyard d
  else 0

/-- The Yard's waits over `yc` Yard cycles: a head that finds no space counts at its output, every input whose head is
staged counts at its input (11 R371, R372). -/
def yardTime (s : State) (yc : Nat) : State :=
  if yc = 0 then s
  else
    let heads := (List.range 34).flatMap (fun q => [0, 1, 2, 3, 4, 5].filterMap (fun v =>
      (s.yard.stage.find? (fun e => e.1 = q && e.2.vc.toNat = v))))
    heads.foldl (fun s e =>
      match outPortOf s e.1 e.2 with
      | none => s
      | some o =>
        let full := decide (partSize o e.2.vc.toNat < occ s o e.2.vc.toNat + pktLen e.2)
        let s := if full then let y := getPort s o; setPort s o { y with outWait := inc64 y.outWait yc } else s
        let y := getPort s e.1
        let s := setPort s e.1 { y with stageWait := inc64 y.stageWait yc }
        match groupOf e.2 with
        | some g => if 8 ≤ o ∧ o < 32 then
            let c := getCGroup s g
            setCGroup s g { c with drrWait := inc64 c.drrWait yc } else s
        | none => s) s

/-- An adit with a packet waiting for credit (12 R431). -/
def aditTime (s : State) (n a : Nat) (x : Adit) : Adit :=
  if x.st = .up && [0, 1, 2, 3, 4, 5].any (fun v =>
      match s.yard.out.find? (fun e => e.port = 8 + a && e.pkt.vc.toNat = v) with
      | some e => !creditFor s a e.pkt
      | none => false) then { x with creditWait := inc64 x.creditWait n } else x

/-- A collective engine with a chunk waiting for credit (13 R464). -/
def collTime (cyc : Nat) (d : Coll) : Coll :=
  if d.ops.any (fun o => o.starved) then
    { d with creditWait := inc64 d.creditWait cyc } else d

/-- A training attempt that brings no link up ends 500,000 counts after it began (12 R401). -/
def trainTime (h : Nat) (x : Adit) : Adit :=
  if x.st = .training && decide (x.trainAt + 500000 ≤ h) then
    { x with st := .down, downCount := inc32 x.downCount 1, lastDown := BitVec.ofNat 64 (x.trainAt + 500000) }
  else x

/-- `n` counts of time while nothing happens. -/
def elapse (n : Nat) (s : State) : State :=
  let h := (s.halyard + n) % 2 ^ 64
  if frozen s then
    { s with
      ns := s.ns + n, halyard := h
      adits := mmap {} (fun _ x => trainTime h x) s.adits
      fab := { s.fab with table := s.fab.table.map (fun e => if e.due = 0 then e else { e with due := e.due + n }) }
      yard := { s.yard with groups := s.yard.groups.map (fun g => if g.answer.isSome then { g with expiry := g.expiry + n } else g) } }
  else
    let cyc := coreCyc (s.ns + n) - coreCyc s.ns
    let yc := yardCyc (s.ns + n) - yardCyc s.ns
    let blocked := allBlockedNow s
    let pen := s.fab.held.any (fun h => h.pkt.pennant && !pennantFree s h)
    let tab := s.fab.held.any (fun h => !sendAllowed s h)
    let s' := yardTime s yc
    { s' with
      ns := s.ns + n
      halyard := h
      faces := mmap {} (unitTime s cyc) s.faces
      buckets := mmap {} (fun _ b => bucketTime n b) s.buckets
      ctxs := mmap {} (fun c x => { x with blocked := ctxBlocked s c }) s.ctxs
      tir := { s.tir with regs := (List.range 16).foldl (fun m c =>
        let k := settleHeld s c n
        if k = 0 then m else
          let r := mget {} m c
          mput {} m c { r with settleWait := inc64 r.settleWait k }) s.tir.regs }
      ctab := { s.ctab with blockedFor := if blocked then s.ctab.blockedFor + n else 0
                            posted := blocked && s.ctab.posted }
      bpm := { s.bpm with pools := mmap {} (fun _ p => if p.waiters = [] then p else { p with waits := inc64 p.waits yc }) s.bpm.pools }
      adits := mmap {} (fun a x => trainTime h (aditTime s n a x)) s.adits
      colls := mmap {} (fun _ d => collTime cyc d) s.colls
      fab := { s'.fab with tableWait := if tab then inc64 s.fab.tableWait yc else s.fab.tableWait
                           pennantWait := if pen then inc64 s.fab.pennantWait n else s.fab.pennantWait } }

/-- The clock carried to a Halyard count that lies ahead; it stands where the count has passed. -/
def advanceTo (s : State) (t : Nat) : State := if s.halyard < t then elapse (t - s.halyard) s else s

/-- The clock carried to a ns of the time base. -/
def advanceNs (s : State) (t : Nat) : State := if s.ns < t then elapse (t - s.ns) s else s

/-- The next multiple of `m` after the present count. -/
def nextMultiple (s : State) (m : Nat) : Nat := (s.halyard / m + 1) * m

/-- GROUP_ENTRY_EXPIRY: the clock reaches the expiry of the answered group entry that ends first, and the entry is freed
(11 R386). -/
def execGroupEntryExpiry (s : State) : Host.Outcome State Fault Refusal :=
  .next (if frozen s then s
    else match sortBy (·.expiry) (s.yard.groups.filter (fun g => g.answer.isSome)) with
      | [] => s
      | g :: _ =>
        let s := advanceTo s g.expiry
        { s with yard := { s.yard with groups := s.yard.groups.erase g } })

end Sys2Proof.Machine
end

