-- ==== Sys2Proof/Machine/Home.lean ====
section
/-!
DEFINITION. Home windows and the home units that serve them (09 R328, R329; 12 R423-R427): the unwritten marks, the line
buffers, loads, stores and atomics; and the packets of the memory-semantic space (12 R402, R422).
-/
namespace Sys2Proof.Machine

/-! ### Windows -/

/-- The window of this node that covers a fabric range wholly. -/
def findWindow (s : State) (o n : Nat) : Option HomeWin :=
  s.tir.homes.find? (fun h => decide (h.fofs ≤ o ∧ o + n ≤ h.fofs + h.size))

/-- The window that holds a Bench 1 offset. -/
def windowAt (s : State) (x : Nat) : Option HomeWin :=
  s.tir.homes.find? (fun h => decide (h.b1 ≤ x ∧ x < h.b1 + h.size))

/-- The context's settle list: its home window with region 0xFFFF (09 R320). -/
def settleList (s : State) (c : Nat) : Option HomeWin := s.tir.homes.find? (fun h => h.ctx.val = c && h.region = 0xFFFF)

/-- The home unit of a Bench 1 offset: the one beside the die port of its stack (12 R423). -/
def homeUnit (x : Nat) : Nat := x / 4096 % 32 / 4

/-- The unwritten mark of the 4 KiB frame that holds an offset is clear (09 R329). -/
def frameWritten (s : State) (x : Nat) : Bool := mget false s.tir.hwWritten (x / 4096)

/-- The requester of a home unit's Bench 1 accesses: the context that owns the window. -/
def homeReq (s : State) (x : Nat) : Req :=
  { kind := 5, index := homeUnit x, ctx := (windowAt s x).map (fun h => h.ctx.val) }

/-! ### The line buffer (12 R425) -/

/-- The line in its unit's buffer. -/
def findLine (s : State) (l : Nat) : Option HLine := s.lines.find? (fun e => e.line = l)

/-- The bytes of a line as the home unit holds them: the buffer's, or Bench 1's, without any access counted. -/
def peekLine (s : State) (l : Nat) : List Byte :=
  if !frameWritten s (64 * l) then List.replicate 64 0
  else match findLine s l with
    | some e => e.bytes
    | none => match place s.bench1 (64 * l) with
      | some k => readBytes s.bench1 k 64
      | none => List.replicate 64 0

/-- Bytes of home-window lines as their home units hold them, without any access counted. -/
def peekHome (s : State) (x n : Nat) : List Byte :=
  if n = 0 then []
  else ((((List.range ((x + n - 1) / 64 + 1 - x / 64)).flatMap (fun i => peekLine s (x / 64 + i))).drop (x % 64)).take n)

/-- A line leaves its buffer and is written to Bench 1. -/
def dropLine (s : State) (e : HLine) : State :=
  b1Put { s with lines := s.lines.erase e } (64 * e.line) e.bytes (homeReq s (64 * e.line))

/-- A line put into its unit's buffer; when all 64 places are taken, the line whose last request is oldest leaves. -/
def putLine (s : State) (l : Nat) (d : List Byte) : State :=
  let u := homeUnit (64 * l)
  let s := { s with lines := s.lines.filter (fun e => e.line ≠ l) }
  let mine := s.lines.filter (fun e => e.unit_ = u)
  let s := if mine.length < 64 then s
           else match sortBy (·.last) mine with
             | e :: _ => dropLine s e
             | [] => s
  { s with lines := s.lines ++ [{ unit_ := u, line := l, bytes := d, last := yardNow s }] }

/-- Lines of home windows lost with a commit or a context that is gone: their unwritten marks are set again, and no buffer
holds them. -/
def forgetHome (s : State) (x n : Nat) : State :=
  { s with lines := s.lines.filter (fun e => decide (64 * e.line < x ∨ x + n ≤ 64 * e.line))
           tir := { s.tir with hwWritten := mclear s.tir.hwWritten (fun f => decide (x ≤ 4096 * f ∧ 4096 * f < x + n)) } }

/-! ### Accesses -/

/-- The lines of a range. -/
def linesOf (x n : Nat) : List Nat := if n = 0 then [] else (List.range ((x + n - 1) / 64 + 1 - x / 64)).map (· + x / 64)

/-- A read through the home unit: zeros from unwritten frames; lines not in the buffer come from Bench 1 in one access
(12 R425, 09 R329). The range lies within one frame. -/
def homeGet (s : State) (x n : Nat) : List Byte × State :=
  if !frameWritten s x then (List.replicate n 0, s)
  else
    let ls := linesOf x n
    let lo := 64 * (x / 64)
    let miss := ls.filter (fun l => (findLine s l).isNone)
    let (d, s) := if miss = [] then (([] : List Byte), s) else b1Get s lo (64 * ls.length) (homeReq s x)
    let all := (indexed ls).map (fun e => (e.2, match findLine s e.2 with
      | some h => h.bytes
      | none => (d.drop (64 * e.1)).take 64))
    let s := all.foldl (fun s e => putLine s e.1 e.2) s
    (((all.flatMap (·.2)).drop (x % 64)).take n, s)

/-- A read of a home window by any agent: the filter is checked for every line (15 R516). -/
def homeRead (s : State) (x n : Nat) : List Byte × State :=
  if n = 0 then ([], s)
  else
    let s := snoopNeed s x n false
    ((List.range ((x + n - 1) / 4096 + 1 - x / 4096)).map (fun i =>
      (max x (4096 * (x / 4096 + i)), min (x + n) (4096 * (x / 4096 + i) + 4096)))).foldl
      (fun (a : List Byte × State) e => match homeGet a.2 e.1 (e.2 - e.1) with
        | (d, s) => (a.1 ++ d, s)) ([], s)

/-- The first write to an unwritten frame writes zeros over the whole frame first (09 R329). -/
def touchFrame (s : State) (x : Nat) : State :=
  if frameWritten s x then s
  else
    let f := x / 4096
    let s := b1Put s (4096 * f) (List.replicate 4096 0) (homeReq s x)
    { s with tir := { s.tir with hwWritten := mput false s.tir.hwWritten f true } }

/-- One line written: whole, without a read; in part, over the line as it stands. -/
def homePutLine (s : State) (l o : Nat) (d : List Byte) : State :=
  if d.length = 64 then putLine s l d
  else match homeGet s (64 * l) 64 with
    | (old, s) => putLine s l (old.take o ++ d ++ old.drop (o + d.length))

/-- Bytes written through the home unit. -/
def homePut (s : State) (x : Nat) (d : List Byte) : State :=
  (linesOf x d.length).foldl (fun s l =>
    let lo := max x (64 * l)
    let hi := min (x + d.length) (64 * l + 64)
    homePutLine (touchFrame s (64 * l)) l (lo - 64 * l) ((d.drop (lo - x)).take (hi - lo))) s

/-- A write of a home window by any agent, with the check of the filter. -/
def homeWrite (s : State) (x : Nat) (d : List Byte) : State := homePut (snoopNeed s x d.length true) x d

/-! ### Memory requests (12 R402, R426) -/

/-- A memory request of this node. -/
def memPkt (s : State) (ctx dest op w3 w4 w5 : Nat) (payload : List Byte) (pennant : Bool) : Packet :=
  { pkt0 with dest := BitVec.ofNat 14 dest, src := BitVec.ofNat 14 (node s), vc := 4, pennant := pennant,
              op := BitVec.ofNat 5 op, ctx := BitVec.ofNat 4 ctx, w3 := BitVec.ofNat 64 w3, w4 := BitVec.ofNat 64 w4,
              w5 := BitVec.ofNat 64 w5, payload := payload }

/-- The node of a fabric address, and its offset (12 R421). -/
def fabNode (a : Nat) : Nat := bits a 61 48
def fabOfs (a : Nat) : Nat := a % 2 ^ 48

/-- The pieces of a fabric range, cut at every 2 KiB boundary of fabric offset: (start, length) (12 R422). -/
def pieces (m o n : Nat) : List (Nat × Nat) :=
  if n = 0 then []
  else (List.range ((o + n - 1) / m + 1 - o / m)).map (fun i =>
    let lo := max o (m * (o / m + i))
    (lo, min (o + n) (m * (o / m + i) + m) - lo))

/-- The context of a packet is resident or not, as R111 and R427 ask: TEARDOWN or GONE. -/
def goneSt (s : State) (c : Nat) : Bool := (getCtx s c).st = .teardown || (getCtx s c).st = .gone

/-- The range of a memory request. -/
def memLen (p : Packet) : Nat :=
  if p.op = 1 then p.payload.length else if p.op = 2 then 64 * bits p.w3.toNat 57 52 else 8

/-- OFFSET and ATOP. -/
def memOfs (p : Packet) : Nat := p.w3.toNat % 2 ^ 48
def memAtop (p : Packet) : Nat := bits p.w3.toNat 51 48

/-- The alignment and range rules of R426. -/
def memOk (p : Packet) : Bool :=
  let o := memOfs p
  let n := memLen p
  if p.op = 3 then o % 8 = 0 && decide (memAtop p ≤ 9)
  else o % 64 = 0 && decide (0 < n) && decide (n ≤ 2048) && decide (o / 2048 = (o + n - 1) / 2048)

/-- Where a memory request leads: a status that turns it away, or a Bench 1 offset (12 R426, R427). -/
def memTarget (s : State) (p : Packet) : Except Nat Nat :=
  if noImage s then .error 2
  else if !memOk p then .error 3
  else match findWindow s (memOfs p) (memLen p) with
    | none => .error 3
    | some h => if goneSt s h.ctx.val then .error 1 else .ok (h.b1 + (memOfs p - h.fofs))

/-- The new value of an atomic (12 R426). -/
def atomNew (op : Nat) (old opd cmp : Nat) : Nat :=
  if op ≤ 5 then (atomOp op (BitVec.ofNat 64 old) (BitVec.ofNat 64 opd)).toNat
  else if op = 6 then opd % 2 ^ 64
  else if op = 7 then (if old = cmp then opd % 2 ^ 64 else old)
  else if op = 8 then
    old / 2 ^ 32 * 2 ^ 32 + enc 1 none (fadd (dec 1 (old % 2 ^ 32)) (dec 1 (opd % 2 ^ 32)))
  else enc 0 none (fadd (dec 0 old) (dec 0 opd))

/-- The number of a request taken by a home unit (12 R432). -/
def takeHome (s : State) (n : Nat) : State := { s with fab := { s.fab with homeReqs := inc64 s.fab.homeReqs n } }

/-! ### Line write-back -/

/-- LINE_WRITEBACK: 256 Yard cycles without a request have passed for the line of unit `h` that was used longest ago; it is
written to Bench 1 and leaves the buffer (12 R425). -/
def lineWriteback (s : State) (h : Nat) : State :=
  match sortBy (·.last) (s.lines.filter (fun e => e.unit_ = h)) with
  | [] => s
  | e :: _ =>
    let s := advanceNs s (ceilDiv (5 * (e.last + 256)) 8)
    dropLine s e

def execLineWriteback (h : Fin 8) (s : State) : Host.Outcome State Fault Refusal :=
  .next (if frozen s then s else lineWriteback s h.val)

end Sys2Proof.Machine
end

