-- ==== Sys2Proof/Machine/Tiers.lean ====
section
/-!
DEFINITION. The tier manager (09 R299-R329): backing at commit, reads of tier space, staging, settle, migration, and its
requests to Bench 2 and companion memory.
-/
namespace Sys2Proof.Machine

def mib : Nat := 2 ^ 20
def extent : Nat := 65536

/-- The requester of the tier manager's Bench 1 accesses. -/
def tirReq (c : Nat) : Req := { kind := 4, index := 0, ctx := some c }

/-- The quota record of a context; all zero without one (09 R305). -/
def quotaOf (s : State) (c : Nat) : QuotaRec :=
  (s.tab.quotas.find? (fun q => q.ctx = c)).getD { ctx := c, b0 := 0, b1 := 0, b2 := 0 }

/-- The region of a context. -/
def regionOf (s : State) (c n : Nat) : Option RegionRec := s.tab.regions.find? (fun r => r.ctx = c && r.region = n)

/-- The engine-tile or whole-tensor region that holds a tier offset. -/
def regionAt (s : State) (c t : Nat) : Option RegionRec :=
  s.tab.regions.find? (fun r => r.ctx = c && (r.kind = 0 || r.kind = 1) && decide (r.base ≤ t ∧ t < r.base + r.size))

/-! ### Places of backing -/

/-- The end of the Bench 1 space for backing and pools: TIR_B1_AVAIL MiB after the delivery entries (09 R336). -/
def backBase : Nat := e2eBase + 8 * mib
def backEnd : Nat := backBase + 720856 * mib

/-- The Bench 1 ranges in use outside the host window: backing, migration targets, Bench 1 pools. -/
def b1Taken (s : State) : List (Nat × Nat) :=
  s.tir.units.flatMap (fun u =>
    (match u.back with | .b1 o => [(o, u.size)] | .b2 .. => []) ++
    (match u.mig with | some (.b1 o) => [(o, u.size)] | _ => [])) ++
  s.bpm.pools.flatMap (fun p => if p.2.declared && p.2.bench1 then [(p.2.base, p.2.count * 2 ^ p.2.sizeLog2)] else [])

/-- The Bench 2 ranges of target `i` in use. -/
def b2Taken (s : State) (i : Nat) : List (Nat × Nat) :=
  s.tir.units.flatMap (fun u =>
    (match u.back with | .b2 j o => if j = i then [(o, u.size)] else [] | .b1 _ => []) ++
    (match u.mig with | some (.b2 j o) => if j = i then [(o, u.size)] else [] | _ => []))

/-- The lowest place of `n` bytes between `lo` and `hi` clear of the ranges taken. -/
def firstFit (taken : List (Nat × Nat)) (lo hi n : Nat) : Option Nat :=
  (sortBy id (lo :: taken.map (fun t => roundUp (t.1 + t.2) 4096))).find? (fun c =>
    decide (lo ≤ c ∧ c + n ≤ hi) && taken.all (fun t => decide (t.1 + t.2 ≤ c ∨ c + n ≤ t.1)))

/-- A place in Bench 1. -/
def b1Alloc (s : State) (n : Nat) : Option Backing := (firstFit (b1Taken s) backBase backEnd n).map .b1

/-- A place in Bench 2: the first target, in index order, with room (09 R306). -/
def b2Alloc (s : State) (n : Nat) : Option Backing :=
  (List.range 16).findSome? (fun i =>
    let t := mget {} s.tir.targets i
    if t.valid then (firstFit (b2Taken s i) 0 (t.sizeMib.toNat * mib) n).map (.b2 i) else none)

/-! ### Backing at commit (09 R302-R305) -/

/-- The parts that get a backing of their own: extents of an engine-tile region, the whole of a whole-tensor region. -/
def unitsOfRegion (r : RegionRec) : List (Nat × Nat) :=
  if r.kind = 0 then (List.range (ceilDiv r.size extent)).map (fun j => (r.base + extent * j, min extent (r.size - extent * j)))
  else [(r.base, r.size)]

/-- Where allocation stands at commit: the next Bench 1 offset, the space used of each target, and, for the context in
hand, the bytes in Bench 1 and whether its quota has been found full. -/
structure Cursor where
  b1 : Nat
  b2 : SMap Nat
  used : Nat
  full : Bool
  deriving DecidableEq, Repr

/-- The first target with room at commit. -/
def cursorB2 (s : State) (k : Cursor) (n : Nat) : Option (Nat × Nat) :=
  (List.range 16).findSome? (fun i =>
    let t := mget {} s.tir.targets i
    let o := mget 0 k.b2 i
    if t.valid ∧ o + n ≤ t.sizeMib.toNat * mib then some (i, o) else none)

/-- One unit of backing placed (09 R303, R305). -/
def placeUnit (s : State) (lc : Bool) (q : QuotaRec) (r : RegionRec) (a : List TUnit × Cursor) (e : Nat × Nat) :
    List TUnit × Cursor :=
  match a with
  | (us, k) =>
    let mk := fun (b : Backing) =>
      ({ ctx := ctxFin r.ctx, region := r.region, kind := r.kind, ofs := e.1, size := e.2, back := b, written := [],
         heat := 0, mig := none } : TUnit)
    let one := (us ++ [mk (.b1 k.b1)], { k with b1 := roundUp (k.b1 + e.2) 4096, used := k.used + e.2 })
    if (lc && r.kind = 0) || q.b2 = 0 || (!k.full && decide (k.used + e.2 ≤ q.b1 * mib)) then one
    else match cursorB2 s k e.2 with
      | some (i, o) => (us ++ [mk (.b2 i o)], { k with b2 := mput 0 k.b2 i (roundUp (o + e.2) 4096), full := true })
      | none => one

/-- The backing of one context's regions, in ascending BASE. -/
def placeCtx (s : State) (a : List TUnit × Cursor) (c : Nat) : List TUnit × Cursor :=
  let rs := sortBy (·.base) (s.tab.regions.filter (fun r => r.ctx = c && (r.kind = 0 || r.kind = 1)))
  let lc := ((ctxRec s c).map (·.lc)).getD false
  rs.foldl (fun a r => (unitsOfRegion r).foldl (placeUnit s lc (quotaOf s c) r) a)
    (a.1, { a.2 with used := 0, full := false })

/-- The home windows, placed one after another in the home-window area so that fabric and Bench 1 offsets agree modulo
4 KiB (12 R423, 15 R515). -/
def placeHomes (s : State) : List HomeWin :=
  let rs := (List.range 16).flatMap (fun c => sortBy (·.base) (s.tab.regions.filter (fun r => r.ctx = c && r.kind = 2)))
  (rs.foldl (fun (a : List HomeWin × Nat) r =>
    let b := roundUp a.2 4096 + r.fabricOfs % 4096
    (a.1 ++ [{ ctx := ctxFin r.ctx, region := r.region, tofs := r.base, size := r.size, fofs := r.fabricOfs, b1 := b }],
     b + r.size)) ([], homeBase)).1

/-- The tier manager and the pools of a full commit (09 R302, R303, R330, R337, R338). -/
def tirCommit (s : State) : State :=
  let s := { s with tir := { s.tir with units := [], homes := [], hwWritten := [], b2mem := [], staged := [], hints := [],
                                        misses := [], xfers := [], regs := [] }
                    lines := [] }
  match (List.range 16).foldl (placeCtx s) ([], { b1 := backBase, b2 := [], used := 0, full := false }) with
  | (us, k) =>
    let ps := s.tab.pools.foldl (fun (a : SMap Pool × Nat) r =>
      if r.bench1 then (mput {} a.1 r.pool (poolCommit r a.2), roundUp (a.2 + r.count * 2 ^ r.sizeLog2) 4096)
      else (mput {} a.1 r.pool (poolCommit r 0), a.2)) ([], k.b1)
    { s with tir := { s.tir with units := us, homes := placeHomes s }, bpm := { s.bpm with pools := ps.1 } }

/-- A context's tier data released at GONE: its regions read as zero again (09 R327). -/
def tirGone (s : State) (c : Nat) : State :=
  let t : Tier := { s.tir with
    units := s.tir.units.map (fun u => if u.ctx.val = c then { u with written := [], heat := 0, mig := none } else u)
    staged := s.tir.staged.filter (fun e => e.ctx.val ≠ c)
    hints := s.tir.hints.filter (fun h => h.ctx.val ≠ c)
    misses := s.tir.misses.filter (fun m => m.ctx.val ≠ c)
    xfers := s.tir.xfers.filter (fun x => x.ctx.val ≠ c) }
  (s.tir.homes.filter (fun h => h.ctx.val = c)).foldl (fun s h => forgetHome s h.b1 h.size) { s with tir := t }

/-! ### Bytes in use -/

/-- Bytes of a context with Bench 1 backing, moves in progress counted where they go. -/
def b1Used (s : State) (c : Nat) : Nat :=
  (s.tir.units.filter (fun u => u.ctx.val = c)).foldl (fun a u =>
    a + (match u.mig.getD u.back with | .b1 _ => u.size | .b2 .. => 0)) 0

/-- Bytes of a context with Bench 2 backing. -/
def b2Used (s : State) (c : Nat) : Nat :=
  (s.tir.units.filter (fun u => u.ctx.val = c)).foldl (fun a u =>
    a + (match u.mig.getD u.back with | .b1 _ => 0 | .b2 .. => u.size)) 0

/-! ### Requests to Bench 2 and companion memory -/

/-- The key of Bench 2 bytes: target index × 2^48 + offset in it. -/
def b2Key (i o : Nat) : Nat := i * 2 ^ 48 + o

/-- The largest request that an entry takes: 2 KiB of fabric, 512 B of companion memory. -/
def b2Piece (s : State) (i : Nat) : Nat := if (mget {} s.tir.targets i).kind then 512 else 2048

/-- The pieces of a Bench 2 range, cut at the boundaries of the place it names: (offset in the target, length). -/
def b2Pieces (s : State) (i o n : Nat) : List (Nat × Nat) :=
  let t := mget {} s.tir.targets i
  let b := t.base.toNat
  (pieces (b2Piece s i) (b + o) n).map (fun e => (e.1 - b, e.2))

/-- A request to companion memory fails (15 R521): the event names this node, and the requester gets UNREACHABLE. -/
def cmFail (s : State) (r : CmReq) (cause : Nat) : State :=
  let ev := fun (s : State) (c : Option (Fin 16)) (k : Nat) => unreachableEvent s c (node s) cause k 0 0
  match r with
  | .event _ => ev s none 9
  | .irq => ev s none 9
  | .tier x =>
    let c := (s.tir.xfers.find? (fun e => e.id = x)).map (·.ctx)
    let s := { s with tir := { s.tir with xfers := s.tir.xfers.map (fun e => if e.id = x then { e with res := some false } else e) } }
    ev s c 4
  | .b2 c k _ => coreFabric (ev s (some c) 4) c.val k.val

/-- A request to companion memory: with the link down it fails at once (15 R510). -/
def cmRequest (s : State) (opcode a n : Nat) (data : List Byte) (what : CmReq) : State :=
  if s.drg.st ≠ .up then cmFail s what 0xF2
  else
    let s := drgRequest s opcode a 0 data what
    { s with drg := { s.drg with tx := s.drg.tx.dropLast ++
        (s.drg.tx.getLast?.map (fun m => { m with lenM1 := BitVec.ofNat 3 (n / 64 - 1) })).toList } }

/-- One request for Bench 2 bytes: a LOAD or STORE to a peer, a CM_RD or CM_WR to companion memory. -/
def b2Request (s : State) (i o n : Nat) (wr : Bool) (data : List Byte) (fo : Owner) (co : CmReq) (c : Nat) : State :=
  let t := mget {} s.tir.targets i
  let a := t.base.toNat + o
  if t.kind then cmRequest s (if wr then 0x31 else 0x30) a n (if wr then data else []) co
  else
    sendRequest s { pkt := memPkt s c t.node.toNat (if wr then 1 else 2)
                             (a % 2 ^ 48 + (if wr then 0 else n / 64 * 2 ^ 52)) 0 0 (if wr then data else []) false,
                    owner := fo, part := none, port := 32 }

/-- A transfer of the tier manager started: `at_` is a Bench 2 key, or a companion address. -/
def startXfer (s : State) (c purpose : Nat) (wr companion : Bool) (at_ : Nat) (data : List Byte) : State :=
  let x := s.tir.nextXfer
  let s := { s with tir := { s.tir with nextXfer := x + 1, xfers := s.tir.xfers ++
    [{ id := x, ctx := ctxFin c, purpose := purpose, wr := wr, companion := companion, at_ := at_, data := data, res := none }] } }
  if companion then cmRequest s 0x30 at_ data.length [] (.tier x)
  else b2Request s (at_ / 2 ^ 48) (at_ % 2 ^ 48) data.length wr data (.tir x) (.tier x) c

/-- The answer to a transfer. -/
def answerXfer (s : State) (x : Nat) (ok : Bool) (data : Option (List Byte)) : State :=
  { s with tir := { s.tir with xfers := s.tir.xfers.map (fun e =>
      if e.id = x then { e with res := some ok, data := data.getD e.data } else e) } }

/-- The transfers of a context for one purpose, oldest first. -/
def xfersOf (s : State) (c purpose : Nat) : List Xfer := s.tir.xfers.filter (fun x => x.ctx.val = c && x.purpose = purpose)

/-- Its transfers are done with. -/
def endXfers (s : State) (c purpose : Nat) : State :=
  { s with tir := { s.tir with xfers := s.tir.xfers.filter (fun x => !(x.ctx.val = c && x.purpose = purpose)) } }

/-! ### Reads of tier space (09 R301, R302, R317) -/

/-- The unit of backing that holds a tier offset. -/
def unitAt (s : State) (c t : Nat) : Option TUnit :=
  s.tir.units.find? (fun u => u.ctx.val = c && decide (u.ofs ≤ t ∧ t < u.ofs + u.size))

/-- A unit changed. -/
def setUnit (s : State) (u v : TUnit) : State :=
  { s with tir := { s.tir with units := s.tir.units.map (fun w => if w.ctx = u.ctx ∧ w.ofs = u.ofs then v else w) } }

/-- The extent that holds a tier offset has been written. -/
def extWritten (u : TUnit) (t : Nat) : Bool := u.written.contains ((t - u.ofs) / extent)

/-- A read within one 4 KiB frame from its backing: its bytes, the Bench 2 pieces it reads, and heat. -/
def tierFrame (c : Nat) (r : Req) (a : List Byte × List (Nat × Nat × Nat) × State) (e : Nat × Nat) :
    List Byte × List (Nat × Nat × Nat) × State :=
  match a with
  | (d, ps, s) =>
    match unitAt s c e.1 with
    | none => (d ++ List.replicate e.2 0, ps, s)
    | some u =>
      if !extWritten u e.1 then (d ++ List.replicate e.2 0, ps, s)
      else
        let s := setUnit s u { u with heat := min 65535 (u.heat + 1) }
        match u.back with
        | .b1 o => match b1Read s (o + (e.1 - u.ofs)) e.2 r with
          | (b, s) => (d ++ b, ps, s)
        | .b2 i o =>
          let x := getTirCtx s c
          (d ++ readBytes s.tir.b2mem (b2Key i (o + (e.1 - u.ofs))) e.2, ps ++ [(i, o + (e.1 - u.ofs), e.2)],
           setTirCtx s c { x with b2Reads := inc64 x.b2Reads e.2 })

/-- A read of a range of tier space from its backing. -/
def tierRead (s : State) (c t n : Nat) (r : Req) : List Byte × List (Nat × Nat × Nat) × State :=
  (pieces 4096 t n).foldl (tierFrame c r) ([], [], s)

/-- Every frame of a range lies in an engine-tile or whole-tensor region of the context. -/
def tierInside (s : State) (c t n : Nat) : Bool := (pieces 4096 t n).all (fun e => (regionAt s c e.1).isSome)

/-! ### Staging (09 R310-R313) -/

/-- The address of a stage slot in logical core `n`. -/
def slotAddr (s : State) (n f : Nat) : Nat := 0x280000 - poolArea s n - (f + 1) * 4096

/-- Staged copy of a frame in a core. -/
def stagedAt (s : State) (k c t : Nat) : Option Staged :=
  s.tir.staged.find? (fun e => e.core = k && e.ctx.val = c && e.ofs = t / 4096 * 4096)

/-- Ranges (start, length) that overlap. -/
def overlap (a b : Nat × Nat) : Bool := decide (0 < a.2 ∧ 0 < b.2 ∧ a.1 < b.1 + b.2 ∧ b.1 < a.1 + a.2)

/-- A staged frame is pinned (09 R312): an issued instruction reads it, or it was staged or last named for a hint of the
current step. -/
def pinned (s : State) (e : Staged) : Bool :=
  let a := slotAddr s ((logicalIn s e.ctx.val e.core).getD 0) e.slot
  (getCore s e.core).ops.any (fun o => o.rd.any (overlap (a, 4096))) ||
  e.hintStep = some (getCtx s e.ctx.val).stepsDone.toNat

/-- A slot of a core's stage area for a new frame: a free one, or that of the oldest frame not pinned. -/
def stageSlot (s : State) (k c : Nat) : Option (Nat × Option Staged) :=
  let cap := (quotaOf s c).b0 / 4
  let mine := s.tir.staged.filter (fun e => e.core = k)
  match (List.range cap).find? (fun f => !mine.any (fun e => e.slot = f)) with
  | some f => some (f, none)
  | none => match sortBy (·.stamp) (mine.filter (fun e => !pinned s e)) with
    | e :: _ => if cap = 0 then none else some (e.slot, some e)
    | [] => none

/-- A frame staged into a core, with its bytes; a frame that finds every slot pinned is counted (09 R312). -/
def stageFrame (s : State) (k c t : Nat) (hint : Option Nat) (d : List Byte) : State :=
  match stageSlot s k c with
  | none =>
    if (quotaOf s c).b0 / 4 = 0 then s
    else
      let x := getTirCtx s c
      setTirCtx s c { x with stageSkipped := inc32 x.stageSkipped 1 }
  | some (f, old) =>
    let a := slotAddr s ((logicalIn s c k).getD 0) f
    let core := getCore s k
    let s := setCore s k { core with b0 := writeBytes core.b0 a d }
    { s with tir := { s.tir with stamp := s.tir.stamp + 1, staged := s.tir.staged.filter (fun e => some e ≠ old) ++
      [{ core := k, ctx := ctxFin c, ofs := t, slot := f, stamp := s.tir.stamp, hintStep := hint }] } }

/-- The frames that a hint names: (physical core, frame) for every rank of its gang on this node (09 R309, R311). -/
def hintFrames (s : State) (h : Hint) : Option (List (Nat × Nat)) :=
  let c := h.ctx.val
  match regionOf s c h.cfg, s.tab.riddle.find? (fun r => r.cfg = h.cfg) with
  | some r, some g =>
    if r.kind ≠ 0 then none
    else
      let cs := coreOrder s h.gang
      let n := max 1 cs.length
      let e := max 1 g.experts
      some ((indexed cs).flatMap (fun p =>
        match physIn s c p.2 with
        | none => []
        | some k =>
          let lo := r.base + h.expert * r.size / e + p.1 * r.size / (e * n)
          (pieces 4096 lo (r.size / (e * n))).map (fun x => (k, x.1 / 4096 * 4096))))
  | _, _ => none

/-- The context may be staged for: its settle of the step has completed, and it holds the core (09 R312). -/
def mayStage (s : State) (c k : Nat) : Bool := !(getCtx s c).settling && (getCtx s c).bind.any (fun e => e.2 = k)

/-- The Bench 2 bytes of a frame, when that is where it lies. -/
def frameB2 (s : State) (c t : Nat) : Option (Nat × Nat × Nat) :=
  match unitAt s c t with
  | some u => if !extWritten u t then none else match u.back with
    | .b2 i o => some (i, o + (t - u.ofs), min 4096 (u.ofs + u.size - t))
    | .b1 _ => none
  | none => none

/-- One frame of a staging request: already staged frames move to the newest place when a hint names them; a frame in
Bench 2 is staged when its read has succeeded. -/
def stageOne (c : Nat) (hint : Option Nat) (s : State) (e : Nat × Nat) : State :=
  match stagedAt s e.1 c e.2 with
  | some x =>
    if hint.isSome then
      { s with tir := { s.tir with stamp := s.tir.stamp + 1, staged := s.tir.staged.map (fun y =>
        if y = x then { y with stamp := s.tir.stamp, hintStep := hint } else y) } }
    else s
  | none =>
    if !mayStage s c e.1 then s
    else
      let failed := (xfersOf s c 2).any (fun x => x.res = some false && (match frameB2 s c e.2 with
        | some (i, o, n) => decide (b2Key i o ≤ x.at_ ∧ x.at_ < b2Key i o + n)
        | none => false))
      if failed then s
      else match tierRead s c e.2 4096 (tirReq c) with
        | (d, _, s) => stageFrame s e.1 c e.2 hint d

/-- The Bench 2 reads that a list of frames needs: pieces as (key, length). -/
def stageReads (s : State) (c : Nat) (fs : List (Nat × Nat)) : List (Nat × Nat) :=
  (dedup ((fs.filter (fun e => (stagedAt s e.1 c e.2).isNone && mayStage s c e.1)).map (·.2))).flatMap (fun t =>
    match frameB2 s c t with
    | some (i, o, n) => (b2Pieces s i o n).map (fun e => (b2Key i e.1, e.2))
    | none => [])

/-- A staging request served: first the Bench 2 reads are sent, then, all answered, the frames are placed. `drop` takes the
request from its queue. -/
def stageServe (s : State) (c : Nat) (hint : Option Nat) (fs : List (Nat × Nat)) (drop : State → State) : State :=
  let xs := xfersOf s c 2
  if xs = [] ∧ stageReads s c fs ≠ [] then
    (stageReads s c fs).foldl (fun s e => startXfer s c 2 false false e.1 (List.replicate e.2 0)) s
  else if xs.any (fun x => x.res = none) then s
  else endXfers (fs.foldl (stageOne c hint) (drop s)) c 2

/-- STAGE: the tier manager serves the first hint, or the first miss when no hint waits (09 R311). -/
def stage (s : State) : State :=
  match s.tir.hints, s.tir.misses with
  | h :: r, _ =>
    if (getCtx s h.ctx.val).settling then s
    else match hintFrames s h with
      | none =>
        let x := getTirCtx s h.ctx.val
        setTirCtx { s with tir := { s.tir with hints := r } } h.ctx.val { x with hintsNoRegion := inc32 x.hintsNoRegion 1 }
      | some fs => stageServe s h.ctx.val (some h.step) fs (fun s => { s with tir := { s.tir with hints := r } })
  | [], m :: r =>
    if (getCtx s m.ctx.val).settling then s
    else stageServe s m.ctx.val none [(m.core, m.ofs)] (fun s => { s with tir := { s.tir with misses := r } })
  | [], [] => s

def execStage (s : State) : Host.Outcome State Fault Refusal := .next (if frozen s then s else guarded s (stage s))

/-- The stage map of a core emptied when its context releases it (09 R313). -/
def unstageCore (s : State) (k : Nat) : State :=
  { s with tir := { s.tir with staged := s.tir.staged.filter (fun e => e.core ≠ k)
                               misses := s.tir.misses.filter (fun m => m.core ≠ k) } }

/-- Staged copies of a tier range discarded (09 R313, R324). -/
def unstageRange (s : State) (c t n : Nat) : State :=
  { s with tir := { s.tir with staged := s.tir.staged.filter (fun e => !(e.ctx.val = c && overlap (e.ofs, 4096) (t, n))) } }

/-! ### Writes of backing by settle (09 R324, R325) -/

/-- The extents of a unit that a range writes for the first time: their other bytes read as zero (09 R302). -/
def freshExtents (u : TUnit) (t n : Nat) : List Nat :=
  (dedup ((pieces extent (t - u.ofs) n).map (fun e => e.1 / extent))).filter (fun j => !u.written.contains j)

/-- Bytes of one unit written in its backing. -/
def writeUnit (s : State) (u : TUnit) (t : Nat) (d : List Byte) : State :=
  let fr := freshExtents u t d.length
  let s := fr.foldl (fun s j =>
    let n := min extent (u.size - extent * j)
    match u.back with
    | .b1 o => b1Zero s (o + extent * j) n
    | .b2 i o => { s with tir := { s.tir with b2mem := mclear s.tir.b2mem (fun k =>
        decide (b2Key i (o + extent * j) ≤ k ∧ k < b2Key i (o + extent * j) + n)) } }) s
  let s := setUnit s u { u with written := u.written ++ fr, mig := none }
  match u.back with
  | .b1 o => b1Write s (o + (t - u.ofs)) d (tirReq u.ctx.val)
  | .b2 i o => { s with tir := { s.tir with b2mem := writeBytes s.tir.b2mem (b2Key i (o + (t - u.ofs))) d } }

/-- The parts of a tier range by unit of backing: (unit, start, length). -/
def unitParts (s : State) (c t n : Nat) : List (TUnit × Nat × Nat) :=
  (s.tir.units.filter (fun u => u.ctx.val = c && overlap (u.ofs, u.size) (t, n))).map (fun u =>
    let lo := max t u.ofs
    (u, lo, min (t + n) (u.ofs + u.size) - lo))

/-- Bytes written over a tier range: every backing copy. A unit being copied by a migration stays where it is (09 R319). -/
def tierWrite (s : State) (c t : Nat) (d : List Byte) : State :=
  let s := if (unitParts s c t d.length).any (fun e => e.1.mig.isSome) then endXfers s c 1 else s
  (unitParts s c t d.length).foldl (fun s e => writeUnit s e.1 e.2.1 ((d.drop (e.2.1 - t)).take e.2.2)) s

/-! ### Settle (09 R320-R326) -/

/-- A settle descriptor. -/
structure SDesc where
  kind : Nat
  core : Nat
  src : Nat
  dst : Nat
  len : Nat
  deriving DecidableEq, Repr

def parseSDesc (b : List Byte) : SDesc :=
  { kind := natAt b 0 8 % 4, core := bits (natAt b 0 8) 10 2, src := natAt b 8 8, dst := natAt b 16 8 % 2 ^ 41,
    len := natAt b 24 4 }

/-- Cmax (09 R320). -/
def cMax (w : HomeWin) : Nat := (w.size - 64) / 32

/-- COUNT and the descriptors of a list, as its home unit holds them. -/
def peekList (s : State) (w : HomeWin) : Nat × List SDesc :=
  let n := natOf (peekHome s w.b1 4)
  (n, (List.range (min n (cMax w))).map (fun i => parseSDesc (peekHome s (w.b1 + 64 + 32 * i) 32)))

/-- The core of a Bench 0 source, when the context holds it. -/
def settleCore (s : State) (c : Nat) (d : SDesc) : Option Nat :=
  ((getCtx s c).bind.find? (fun e => e.1 = d.core)).map (·.2)

/-- A descriptor that is not skipped (09 R323). -/
def sdescOk (s : State) (c : Nat) (d : SDesc) : Bool :=
  decide (d.kind ≠ 3) && d.src % 64 = 0 && d.dst % 64 = 0 && d.len % 64 = 0 && decide (d.len ≠ 0) &&
  (match regionAt s c d.dst with | some r => decide (d.dst + d.len ≤ r.base + r.size) | none => false) &&
  (match d.kind with
   | 0 => decide (d.src + d.len ≤ 0x280000) && (settleCore s c d).isSome
   | 1 => (findWindow s d.src d.len).isSome
   | _ => true)

/-- The progress of one descriptor through the transfers it needs beyond Bench 1. -/
inductive Prog where
  | need (wr companion : Bool) (at_ : Nat) (data : List Byte)
  | wait
  | done (good : Nat) (data : List Byte) (rest : List Xfer)
  deriving DecidableEq, Repr

/-- Requests taken one after another: the first that fails ends them. `ps` are (bytes before it, at, data). -/
def walkXfers (wr companion : Bool) : List (Nat × Nat × List Byte) → List Xfer → Nat → List Byte → Prog
  | [], xs, good, acc => .done good acc xs
  | (k, a, d) :: r, xs, good, acc =>
    match xs with
    | [] => .need wr companion a d
    | x :: xs => match x.res with
      | none => .wait
      | some false => .done k acc xs
      | some true => walkXfers wr companion r xs good (acc ++ x.data)

/-- The bytes of a descriptor's source that need no transfer. -/
def settleSrc (s : State) (c : Nat) (d : SDesc) : List Byte :=
  match d.kind with
  | 0 => match settleCore s c d with
    | some k => readBytes (getCore s k).b0 d.src d.len
    | none => []
  | 1 => match findWindow s d.src d.len with
    | some w => peekHome s (w.b1 + (d.src - w.fofs)) d.len
    | none => []
  | _ => []

/-- The writes of Bench 2 backing that a descriptor makes, in order. -/
def settleWrites (s : State) (c : Nat) (d : SDesc) (data : List Byte) : List (Nat × Nat × List Byte) :=
  (unitParts s c d.dst data.length).flatMap (fun e =>
    match e.1.back with
    | .b1 _ => []
    | .b2 i o =>
      let x := o + (e.2.1 - e.1.ofs)
      (b2Pieces s i x e.2.2).map (fun p => (e.2.1 - d.dst + (p.1 - x), b2Key i p.1, (data.drop (e.2.1 - d.dst + (p.1 - x))).take p.2)))

/-- One descriptor: companion reads first, then writes of Bench 2 backing. -/
def descProg (s : State) (c : Nat) (d : SDesc) (xs : List Xfer) : Prog :=
  let rd := if d.kind = 2 then
      walkXfers false true ((pieces 512 d.src d.len).map (fun p => (p.1 - d.src, p.1, List.replicate p.2 0))) xs d.len []
    else .done d.len (settleSrc s c d) xs
  match rd with
  | .done g data xs =>
    match walkXfers true false (settleWrites s c d (data.take g)) xs g [] with
    | .done g' _ xs => .done g' (data.take g') xs
    | p => p
  | p => p

/-- All descriptors in order: the next transfer to start, a wait, or for each its good bytes. -/
def listProg (s : State) (c : Nat) : List SDesc → List Xfer → List (SDesc × Option (List Byte)) → Sum (List (SDesc × Option (List Byte))) Prog
  | [], _, acc => .inl acc
  | d :: r, xs, acc =>
    if sdescOk s c d then
      match descProg s c d xs with
      | .done _ data xs => listProg s c r xs (acc ++ [(d, some data)])
      | p => .inr p
    else listProg s c r xs (acc ++ [(d, none)])

/-- One descriptor's effect: its source read, its bytes written, its counts (09 R323-R325). -/
def applyDesc (c : Nat) (s : State) (e : SDesc × Option (List Byte)) : State :=
  let x := getTirCtx s c
  match e.2 with
  | none => setTirCtx s c { x with settleRejects := inc32 x.settleRejects 1 }
  | some data =>
    let s := match e.1.kind with
      | 1 => match findWindow s e.1.src e.1.len with
        | some w => takeHome (homeRead s (w.b1 + (e.1.src - w.fofs)) e.1.len).2 (pieces 2048 e.1.src e.1.len).length
        | none => s
      | _ => s
    let s := tierWrite (unstageRange s c e.1.dst e.1.len) c e.1.dst data
    let x := getTirCtx s c
    setTirCtx s c { x with settleBytes := inc64 x.settleBytes data.length,
                           settleFails := if data.length < e.1.len then inc32 x.settleFails 1 else x.settleFails }

/-- The settle of a context carried as far as it can go: transfers started one by one, and, all answered, its effect; true
when it has completed (09 R321). -/
def settleRun (s : State) (c : Nat) : Bool × State :=
  match settleList s c with
  | none => (true, s)
  | some w =>
    match peekList s w with
    | (n, ds) =>
      match listProg s c ds (xfersOf s c 0) [] with
      | .inr (.need wr co a d) => (false, startXfer s c 0 wr co a d)
      | .inr _ => (false, s)
      | .inl l =>
        let s := takeHome (homeRead s w.b1 64).2 1
        let s := if ds = [] then s else takeHome (homeRead s (w.b1 + 64) (32 * ds.length)).2 1
        let s := l.foldl (applyDesc c) s
        let x := getTirCtx s c
        let s := setTirCtx s c { x with settles := inc32 x.settles 1,
                                        settleRejects := inc32 x.settleRejects (n - min n (cMax w)) }
        (true, endXfers (homeWrite s w.b1 [0, 0, 0, 0]) c 0)

/-- A store to a source range that a settle has not read yet is held by the home (09 R326). -/
def settleHolds (s : State) (o n : Nat) : Bool :=
  (List.range 16).any (fun c => (getCtx s c).settling && (match settleList s c with
    | some w => (peekList s w).2.any (fun d => d.kind = 1 && sdescOk s c d && overlap (d.src, d.len) (o, n))
    | none => false))

/-- SETTLE of TIR_CMD (09 R325, R336): refused with STATE, NO_LIST or BUSY. -/
def settleCmd (s : State) (c : Nat) : State :=
  let x := getCtx s c
  let err := if !(x.st = .declared || x.st = .done || x.st = .saved) then 1
    else if (settleList s c).isNone then 2 else if x.settling then 3 else 0
  let s := { s with tir := { s.tir with err := BitVec.ofNat 8 err, cmdCtx := BitVec.ofNat 4 c } }
  if err = 0 then setCtx { s with tir := { s.tir with done := false } } c { x with settling := true, settleByCmd := true }
  else s

def execSettle (c : Fin 16) (s : State) : Host.Outcome State Fault Refusal := .next (if frozen s then s else settleCmd s c.val)

/-! ### Migration (09 R317-R319) -/

/-- Units of a context that may move. -/
def migrants (s : State) (c : Nat) (p : TUnit → Bool) : List TUnit :=
  s.tir.units.filter (fun u => u.ctx.val = c && u.mig.isNone && p u)

def inB1 (u : TUnit) : Bool := match u.back with | .b1 _ => true | .b2 .. => false

/-- The coldest Bench 1 unit that may be demoted, ties to the higher offset. -/
def coldest (s : State) (c : Nat) : Option TUnit :=
  (migrants s c (fun u => inB1 u && !((getCtx s c).lc && u.kind = 0))).foldl (fun a u =>
    match a with
    | none => some u
    | some v => if u.heat < v.heat ∨ (u.heat = v.heat ∧ v.ofs < u.ofs) then some u else a) none

/-- One candidate for promotion considered; `a` carries the bytes scheduled so far (09 R318). -/
def promote (c : Nat) (a : Nat × State) (u : TUnit) : Nat × State :=
  match a with
  | (m, s) =>
    let q := quotaOf s c
    let lim := s.tir.migMax.toNat * mib
    if b1Used s c + u.size ≤ q.b1 * mib then
      match b1Alloc s u.size with
      | some b => if m + u.size ≤ lim then (m + u.size, setUnit s u { u with mig := some b }) else (m, s)
      | none => (m, s)
    else match coldest s c with
      | none => (m, s)
      | some v =>
        if 2 * v.heat < u.heat ∧ b2Used s c + v.size ≤ q.b2 * mib ∧ b1Used s c + u.size ≤ q.b1 * mib + v.size ∧
            m + v.size + u.size ≤ lim then
          match b2Alloc s v.size with
          | none => (m, s)
          | some w =>
            let s := setUnit s v { v with mig := some w }
            match b1Alloc s u.size with
            | some b => (m + v.size + u.size, setUnit s u { u with mig := some b })
            | none => (m, s)
        else (m, s)

/-- The evaluation at a step end, and the halving of every heat of the context (09 R317, R318). -/
def migrateEval (s : State) (c : Nat) : State :=
  let cand := (sortBy (·.ofs) (migrants s c (fun u => !inB1 u && decide (s.tir.promoteHeat.toNat ≤ u.heat))))
  let cand := sortBy (fun u => 65535 - u.heat) cand
  let s := (cand.foldl (promote c) (0, s)).2
  { s with tir := { s.tir with units := s.tir.units.map (fun u => if u.ctx.val = c then { u with heat := u.heat / 2 } else u) } }

/-- The written extents of a unit: (offset in it, length). -/
def writtenParts (u : TUnit) : List (Nat × Nat) := u.written.map (fun j => (extent * j, min extent (u.size - extent * j)))

/-- The requests of a copy to or from Bench 2. -/
def copyXfers (s : State) (c : Nat) (u : TUnit) (b : Backing) : State :=
  let go := fun (s : State) (wr : Bool) (i o : Nat) (data : Nat → Nat → List Byte) =>
    (writtenParts u).foldl (fun s p => (b2Pieces s i (o + p.1) p.2).foldl (fun s e =>
      startXfer s c 1 wr false (b2Key i e.1) (data (e.1 - o) e.2)) s) s
  match u.back, b with
  | .b2 i o, _ => go s false i o (fun _ n => List.replicate n 0)
  | .b1 x, .b2 i o => go s true i o (fun k n => match place s.bench1 (x + k) with
      | some p => readBytes s.bench1 p n
      | none => List.replicate n 0)
  | .b1 _, .b1 _ => s

/-- The bytes of a unit's written extents moved to a new place. -/
def copyUnit (s : State) (c : Nat) (u : TUnit) (b : Backing) : State :=
  (writtenParts u).foldl (fun s p =>
    let (d, s) := match u.back with
      | .b1 x => b1Read s (x + p.1) p.2 (tirReq c)
      | .b2 i o => (readBytes s.tir.b2mem (b2Key i (o + p.1)) p.2, s)
    match b with
    | .b1 x => b1Write s (x + p.1) d (tirReq c)
    | .b2 i o => { s with tir := { s.tir with b2mem := writeBytes s.tir.b2mem (b2Key i (o + p.1)) d } }) s

/-- MIGRATION_SWITCH: the first migration of the context: its transfers are sent, and, all answered, the backing switches, or
the unit stays where it was when one failed (09 R319). -/
def migrationSwitch (s : State) (c : Nat) : State :=
  match s.tir.units.find? (fun u => u.ctx.val = c && u.mig.isSome) with
  | none => s
  | some u =>
    match u.mig with
    | none => s
    | some b =>
      let xs := xfersOf s c 1
      let b2 : Bool := match u.back, b with | .b1 _, .b1 _ => false | _, _ => true
      if xs = [] ∧ b2 = true ∧ u.written ≠ [] then copyXfers s c u b
      else if xs.any (fun x => x.res = none) then s
      else
        let s := endXfers s c 1
        let x := getTirCtx s c
        if xs.any (fun x => x.res = some false) then
          setTirCtx (setUnit s u { u with mig := none }) c { x with migFails := inc32 x.migFails 1 }
        else
          let s := copyUnit s c u b
          let s := setUnit s u { u with mig := none, back := b }
          match b with
          | .b1 _ => setTirCtx s c { x with promoted := inc64 x.promoted u.size }
          | .b2 .. => setTirCtx s c { x with demoted := inc64 x.demoted u.size }

def execMigrationSwitch (c : Fin 16) (s : State) : Host.Outcome State Fault Refusal :=
  .next (if frozen s then s else guarded s (migrationSwitch s c.val))

end Sys2Proof.Machine
end

