-- ==== Sys2Proof/Machine/Issue.lean ====
section
/-!
DEFINITION. What every slot-program instruction shares (04 R124-R132): the registers of a core, the advance of the program
counter through loops, faults, the scoreboard and the operation queues, the wake of waiting cores, and deposits into
Bench 0 (R128, 03 R107).
-/
namespace Sys2Proof.Machine

/-! ### Registers (04 R121, R125) -/

def getS (c : Core) (i : BitVec 5) : W64 := if i = 0 then 0 else mget 0 c.s i.toNat
def setS (c : Core) (i : BitVec 5) (v : W64) : Core := if i = 0 then c else { c with s := mput 0 c.s i.toNat v }
def getA (c : Core) (i : BitVec 4) : W64 := mget 0 c.a i.toNat
def setA (c : Core) (i : BitVec 4) (v : W64) : Core := { c with a := mput 0 c.a i.toNat v }
/-- A lane of a vector register: the low bits of its 64-bit slot (05 R173). -/
def getV (c : Core) (v : BitVec 5) (lane : Nat) : Nat := (mget 0 c.v (64 * v.toNat + lane)).toNat
def setV (c : Core) (v : BitVec 5) (lane x : Nat) : Core :=
  { c with v := mput 0 c.v (64 * v.toNat + lane) (BitVec.ofNat 64 x) }
/-- m0 reads as all ones and ignores writes (R125). -/
def getM (c : Core) (i : BitVec 3) : W64 := if i = 0 then BitVec.allOnes 64 else mget 0 c.m i.toNat
def setM (c : Core) (i : BitVec 3) (v : W64) : Core := if i = 0 then c else { c with m := mput 0 c.m i.toNat v }
def getC (c : Core) (i : Nat) : W32 := mget 0 c.c i
def setC (c : Core) (i : Nat) (v : W32) : Core := { c with c := mput 0 c.c i v }

/-- Sign extension of IMM32 (04 R137). -/
def sx32 (imm : BitVec 32) : W64 := imm.signExtend 64

/-- The end of Bench 0 (04 R122). -/
def b0End : Nat := 0x280000

/-! ### Fault codes (04 R165) -/

def fIllegal : Nat := 1
def fAlign : Nat := 2
def fBounds : Nat := 3
def fLoop : Nat := 4
def fMuster : Nat := 5
def fArith : Nat := 6
def fProgEnd : Nat := 7

/-! ### Issue and the program counter -/

/-- The word of a committed program at a program counter; none past its end. -/
def wordAt (s : State) (prog pc : Nat) : Option W64 :=
  (s.tab.programs.find? (fun p => p.1 = prog)).bind (fun p => p.2[pc]?)

/-- CLASS and OP of a word name an instruction (04 R134). -/
def opKnown (w : Nat) : Bool :=
  match bits w 63 60 with
  | 0 => decide (bits w 59 54 ≤ 0x16)
  | 1 => decide (bits w 59 54 ≤ 0x04)
  | 2 => decide (bits w 59 54 ≤ 0x05)
  | 3 => decide (bits w 59 54 ≤ 0x1E)
  | 4 => decide (bits w 59 54 = 0)
  | 5 => decide (bits w 59 54 ≤ 0x01)
  | _ => false

/-- The word at a core's pc has a reserved CLASS or OP. -/
def reservedNext (s : State) (k : Nat) : Bool :=
  ((wordAt s (getCore s k).prog (getCore s k).pc).map (fun w => !opKnown w.toNat)).getD false

/-- The sequencer of core `k` turns to its next word: the core is RUNNING, its program has not ended, and it does not wait
(04 R126, R130, R139). -/
def sequences (s : State) (k : Nat) : Bool :=
  let c := getCore s k
  !frozen s && (getFace s k).st = .running && !c.ended && c.wait = .none

/-- The sequencer of core `k` issues its next instruction: it turns to it, and its CLASS and OP are not reserved (04 R134). -/
def canIssue (s : State) (k : Nat) : Bool := sequences s k && !reservedNext s k

/-- The context that owns a core. -/
def coreCtx (s : State) (k : Nat) : Nat := ((getFace s k).owner.map (·.val)).getD 0

/-- Instructions of the program that a core runs. -/
def progLen (s : State) (c : Core) : Nat := ((s.tab.programs.find? (fun p => p.1 = c.prog)).map (fun p => p.2.length)).getD 0

/-- The loops whose last instruction has been passed: run again from the first while runs are left, else left (04 R137). -/
def popLoops (pc : Nat) : List LoopF → Nat × List LoopF
  | [] => (pc, [])
  | f :: r =>
    if f.first + f.len = pc then
      if 1 < f.left then (f.first, { f with left := f.left - 1 } :: r) else popLoops pc r
    else (pc, f :: r)

/-- The program counter moves on to `pc`; past the last instruction the core faults with PROG_END (04 R130). -/
def advance (s : State) (k pc : Nat) : State :=
  let c := getCore s k
  match popLoops pc c.loops with
  | (p, l) =>
    let s' := setCore s k { c with pc := p, loops := l, stall := 0 }
    if progLen s c ≤ p then unitFault s' k fProgEnd else s'

/-- The instruction after this one. -/
def next (s : State) (k : Nat) : State := advance s k ((getCore s k).pc + 1)

/-- A core whose program has ended and whose operations have all completed is IDLE (03 R89). -/
def settleIdle (s : State) (k : Nat) : State :=
  let c := getCore s k
  if c.ended && c.ops = [] then idleUnit s k else s

/-- The sequencer resumes after a wait. -/
def resume (s : State) (k : Nat) : State :=
  let f := getFace s k
  let s := setFace s k { f with st := .running, arrived := false }
  next (setCore s k { getCore s k with wait := .none }) k

/-! ### The scoreboard and the queues (04 R126, R127) -/

/-- Some range of one list overlaps some range of the other. -/
def anyOverlap (xs ys : List (Nat × Nat)) : Bool := xs.any (fun x => ys.any (overlap x))

/-- The scoreboard admits an operation. -/
def admits (c : Core) (rd wr : List (Nat × Nat)) : Bool :=
  decide (c.ops.length < 32) && c.ops.all (fun o => !anyOverlap rd o.wr && !anyOverlap wr o.rd && !anyOverlap wr o.wr)

/-- Entries of a queue (04 R121). -/
def queueCap (q : Nat) : Nat := if q < 6 then 4 else 8

/-- The queue of an operation has a free entry. -/
def queueRoom (c : Core) (q : Nat) : Bool := decide ((c.ops.filter (fun o => o.q = q)).length < queueCap q)

/-- The sequencer waits: 1 for a queue entry, 2 for the scoreboard. -/
def stallCore (s : State) (k n : Nat) : State := setCore s k { getCore s k with stall := n }

/-- An operation issued on a queue when it has room and the scoreboard admits it; until then the sequencer waits. `mk` gives
the core after its register effects, the operation, and any requests sent. -/
def issueOp (s : State) (k q : Nat) (rd wr : List (Nat × Nat)) (mk : State → Core → Op × State) : State :=
  let c := getCore s k
  if !queueRoom c q then stallCore s k 1
  else if !admits c rd wr then stallCore s k 2
  else
    match mk s c with
    | (o, s) =>
      let c := getCore s k
      next (setCore s k { c with ops := c.ops ++ [{ o with id := c.nextOp, q := q, rd := rd, wr := wr }],
                                 nextOp := c.nextOp + 1 }) k

/-- A blank operation. -/
def op0 (kind : OpKind) : Op :=
  { id := 0, q := 0, kind := kind, rd := [], wr := [], out := [], bytes := 0, pieces := 0, srConv := 0 }

/-! ### Deposits (04 R128, R140; 03 R107) -/

/-- A core that waits on a count tests it again; TAKEC subtracts when it is admitted. -/
def wakeCount (s : State) (k : Nat) : State :=
  let c := getCore s k
  match c.wait with
  | .count i v take =>
    if (getFace s k).st = .waiting ∧ !frozen s ∧ v.toNat ≤ (getC c i.toNat).toNat then
      resume (if take then setCore s k (setC c i.toNat (getC c i.toNat - v)) else s) k
    else s
  | _ => s

/-- A count of a core incremented, and counted in DEPOSITS. -/
def countUp (s : State) (k : Nat) (cnt : Nat) : State :=
  let c := getCore s k
  wakeCount (bump (setCore s k (setC c cnt (inc32 (getC c cnt) 1))) k 15 1) k

/-- The bytes of a core record in a context's frame. -/
def recordOfs (c n a : Nat) : Nat := frameBase + c * frameSize + 0x10000 + n * 0x2C0000 + a

/-- The requester of the context table. -/
def ctReq (c : Nat) : Req := { kind := 7, index := 0, ctx := some c }

/-- A saved core changed. -/
def mapSaved (s : State) (c n : Nat) (f : Core → Core) : State :=
  { s with saved := s.saved.map (fun e => if e.ctx.val = c ∧ e.logical = n then { e with core := f e.core } else e) }

/-- Bytes written into Bench 0 of logical core `n` of context `c`, wherever that is: the core, the frame of a saved context,
or both while a record is written or read (03 R107). -/
def b0Write (s : State) (c n a : Nat) (d : List Byte) : State :=
  let st := (getCtx s c).st
  let s := if st = .saving ∨ st = .saved ∨ st = .restoring then b1Write s (recordOfs c n a) d (ctReq c) else s
  if st = .saved then s
  else match physIn s c n with
    | some k => let x := getCore s k; setCore s k { x with b0 := writeBytes x.b0 a d }
    | none => s

/-- A deposit: its bytes, then the count its sender names (04 R128). -/
def deposit (s : State) (c n a : Nat) (d : List Byte) (cnt : Option Nat) : State :=
  let s := b0Write s c n a d
  match cnt with
  | none => s
  | some i =>
    let st := (getCtx s c).st
    if st = .saved ∨ st = .restoring then mapSaved s c n (fun x => setC x i (inc32 (getC x i) 1))
    else match physIn s c n with
      | some k => countUp s k i
      | none => s

/-- Bench 0 bytes of a logical core of a context. -/
def b0Read (s : State) (c n a len : Nat) : List Byte :=
  match physIn s c n with
  | some k => readBytes (getCore s k).b0 a len
  | none => List.replicate len 0

end Sys2Proof.Machine
end

