-- ==== Sys2Proof/Machine/Ctl.lean ====
section
/-!
DEFINITION. CTL instructions (04 R136-R138): scalar arithmetic, bounded loops, forward branches, address registers, system
values, and the loads and stores of the sequencer.
-/
namespace Sys2Proof.Machine

/-- An instruction of core `k` has its effect when the core issues it. -/
def issue (s : State) (k : Nat) (f : Core → State) : State :=
  if canIssue s k then f (getCore s k)
  else if sequences s k then unitFault s k fIllegal
  else s

/-- s[SD] := v, and on to the next instruction. -/
def writeS (s : State) (k : Nat) (c : Core) (sd : BitVec 5) (v : W64) : State := next (setCore s k (setS c sd v)) k

/-- s[SD] := s[SA] op (s[SB] + sext(IMM32)) (R137). -/
def alu (op : W64 → W64 → W64) (k : Nat) (sd sa sb : BitVec 5) (imm : BitVec 32) (s : State) : State :=
  issue s k (fun c => writeS s k c sd (op (getS c sa) (getS c sb + sx32 imm)))

/-- NOP (R137). -/
def execNop (k : Fin 512) (s : State) : Host.Outcome State Fault Refusal := .next (issue s k (fun _ => next s k))

/-- END (R130): nothing further is issued; the core is IDLE once its operations have completed. -/
def execEndProg (k : Fin 512) (s : State) : Host.Outcome State Fault Refusal :=
  .next (issue s k (fun c => settleIdle (setCore s k { c with ended := true, stall := 0 }) k))

/-- The runs of a loop: s[SA][31:0] + IMM32[15:0], saturating at 2^32 - 1 (R137). -/
def loopRuns (c : Core) (sa : BitVec 5) (imm : BitVec 32) : Nat :=
  min (2 ^ 32 - 1) ((getS c sa).toNat % 2 ^ 32 + imm.toNat % 2 ^ 16)

/-- LOOP (R137, R138). -/
def execLoop (k : Fin 512) (sa : BitVec 5) (imm : BitVec 32) (s : State) : Host.Outcome State Fault Refusal :=
  .next (issue s k (fun c =>
    let l := imm.toNat / 2 ^ 16
    let n := loopRuns c sa imm
    if l = 0 then unitFault s k fIllegal
    else if n = 0 then advance s k (c.pc + 1 + l)
    else if 8 ≤ c.loops.length then unitFault s k fLoop
    else next (setCore s k { c with loops := { first := c.pc + 1, len := l, left := n } :: c.loops }) k))

/-- A branch condition; none for the reserved code (R137). -/
def condHolds (cond : BitVec 3) (x y : W64) : Option Bool :=
  match cond.toNat with
  | 0 => some true
  | 1 => some (x = y)
  | 2 => some (x ≠ y)
  | 3 => some (x.slt y)
  | 4 => some (!x.slt y)
  | 5 => some (x.ult y)
  | 6 => some (!x.ult y)
  | _ => none

/-- BR (R137, R138): a target past the end of the program faults with PROG_END; a taken branch past the innermost loop body
faults with LOOP. -/
def execBr (k : Fin 512) (cond : BitVec 3) (sa sb : BitVec 5) (imm : BitVec 32) (s : State) :
    Host.Outcome State Fault Refusal :=
  .next (issue s k (fun c =>
    let t := c.pc + 1 + imm.toNat
    match condHolds cond (getS c sa) (getS c sb) with
    | none => unitFault s k fIllegal
    | some taken =>
      if progLen s c ≤ t then unitFault s k fProgEnd
      else if !taken then next s k
      else match c.loops with
        | f :: _ => if f.first + f.len ≤ t then unitFault s k fLoop
                    else setCore s k { c with pc := t, stall := 0 }
        | [] => setCore s k { c with pc := t, stall := 0 }))

/-- LI (R137). -/
def execLi (k : Fin 512) (sd : BitVec 5) (imm : BitVec 32) (s : State) : Host.Outcome State Fault Refusal :=
  .next (issue s k (fun c => writeS s k c sd (sx32 imm)))

/-- LIH (R137): bits [31:0] unchanged. -/
def execLih (k : Fin 512) (sd : BitVec 5) (imm : BitVec 32) (s : State) : Host.Outcome State Fault Refusal :=
  .next (issue s k (fun c => writeS s k c sd (imm ++ (getS c sd).setWidth 32)))

/-- ADD (R137). -/
def execAdd (k : Fin 512) (sd sa sb : BitVec 5) (imm : BitVec 32) (s : State) : Host.Outcome State Fault Refusal :=
  .next (alu (· + ·) k sd sa sb imm s)

/-- SUB (R137). -/
def execSub (k : Fin 512) (sd sa sb : BitVec 5) (imm : BitVec 32) (s : State) : Host.Outcome State Fault Refusal :=
  .next (alu (· - ·) k sd sa sb imm s)

/-- MUL (R137): the low 64 bits. -/
def execMul (k : Fin 512) (sd sa sb : BitVec 5) (imm : BitVec 32) (s : State) : Host.Outcome State Fault Refusal :=
  .next (alu (· * ·) k sd sa sb imm s)

/-- AND (R137). -/
def execAnd (k : Fin 512) (sd sa sb : BitVec 5) (imm : BitVec 32) (s : State) : Host.Outcome State Fault Refusal :=
  .next (alu (· &&& ·) k sd sa sb imm s)

/-- OR (R137). -/
def execOr (k : Fin 512) (sd sa sb : BitVec 5) (imm : BitVec 32) (s : State) : Host.Outcome State Fault Refusal :=
  .next (alu (· ||| ·) k sd sa sb imm s)

/-- XOR (R137). -/
def execXor (k : Fin 512) (sd sa sb : BitVec 5) (imm : BitVec 32) (s : State) : Host.Outcome State Fault Refusal :=
  .next (alu (· ^^^ ·) k sd sa sb imm s)

/-- SHL (R137): the count modulo 64. -/
def execShl (k : Fin 512) (sd sa sb : BitVec 5) (imm : BitVec 32) (s : State) : Host.Outcome State Fault Refusal :=
  .next (alu (fun x y => x <<< (y.toNat % 64)) k sd sa sb imm s)

/-- SHR (R137): logical. -/
def execShr (k : Fin 512) (sd sa sb : BitVec 5) (imm : BitVec 32) (s : State) : Host.Outcome State Fault Refusal :=
  .next (alu (fun x y => x >>> (y.toNat % 64)) k sd sa sb imm s)

/-- SRA (R137): arithmetic. -/
def execSra (k : Fin 512) (sd sa sb : BitVec 5) (imm : BitVec 32) (s : State) : Host.Outcome State Fault Refusal :=
  .next (alu (fun x y => x.sshiftRight (y.toNat % 64)) k sd sa sb imm s)

/-- MIN (R137): signed. -/
def execMin (k : Fin 512) (sd sa sb : BitVec 5) (imm : BitVec 32) (s : State) : Host.Outcome State Fault Refusal :=
  .next (alu (fun x y => if x.slt y then x else y) k sd sa sb imm s)

/-- MAX (R137): signed. -/
def execMax (k : Fin 512) (sd sa sb : BitVec 5) (imm : BitVec 32) (s : State) : Host.Outcome State Fault Refusal :=
  .next (alu (fun x y => if x.slt y then y else x) k sd sa sb imm s)

/-- ASET (R137). -/
def execAset (k : Fin 512) (ad : BitVec 4) (sa : BitVec 5) (imm : BitVec 32) (s : State) : Host.Outcome State Fault Refusal :=
  .next (issue s k (fun c => next (setCore s k (setA c ad (getS c sa + sx32 imm))) k))

/-- AADD (R137). -/
def execAadd (k : Fin 512) (ad : BitVec 4) (sa : BitVec 5) (imm : BitVec 32) (s : State) : Host.Outcome State Fault Refusal :=
  .next (issue s k (fun c => next (setCore s k (setA c ad (getA c ad + getS c sa + sx32 imm))) k))

/-- AGET (R137). -/
def execAget (k : Fin 512) (sd : BitVec 5) (ad : BitVec 4) (s : State) : Host.Outcome State Fault Refusal :=
  .next (issue s k (fun c => writeS s k c sd (getA c ad)))

/-- The rank of a core in its slot's gang on this node (01 R30). -/
def coreRank (s : State) (k : Nat) (c : Core) : Nat :=
  match logicalIn s (coreCtx s k) k with
  | some n => (coreOrder s c.gang).idxOf n
  | none => 0

/-- A system value; none for the reserved ones (R137). -/
def sysValue (s : State) (k : Nat) (c : Core) (v : Nat) : Option Nat :=
  let x := getCtx s (coreCtx s k)
  match v with
  | 0 => some ((logicalIn s (coreCtx s k) k).getD 0)
  | 1 => some (coreRank s k c)
  | 2 => some (unitsOf s (coreCtx s k) c.gang).length
  | 3 => some x.tick.toNat
  | 4 => some x.step.toNat
  | 5 => some x.stepsDone.toNat
  | 6 => some (node s)
  | 7 => some (getFace s k).slot.toNat
  | _ => none

/-- RDSYS (R137): values 8-15 are reserved. -/
def execRdsys (k : Fin 512) (sd : BitVec 5) (imm : BitVec 32) (s : State) : Host.Outcome State Fault Refusal :=
  .next (issue s k (fun c =>
    match sysValue s k c (imm.toNat % 16) with
    | some v => writeS s k c sd (BitVec.ofNat 64 v)
    | none => unitFault s k fIllegal))

/-- An 8-byte access of the sequencer: aligned, within Bench 0, and admitted by the scoreboard (R127, R138, R165). -/
def seqAccess (s : State) (k a : Nat) (rd : Bool) (f : Core → State) : State :=
  issue s k (fun c =>
    if a % 8 ≠ 0 then unitFault s k fAlign
    else if b0End < a + 8 then unitFault s k fBounds
    else if !admits c (if rd then [(a, 8)] else []) (if rd then [] else [(a, 8)]) then stallCore s k 2
    else f c)

/-- SLD (R137). -/
def execSld (k : Fin 512) (sd : BitVec 5) (ad : BitVec 4) (imm : BitVec 32) (s : State) : Host.Outcome State Fault Refusal :=
  let a := (getA (getCore s k) ad + sx32 imm).toNat
  .next (seqAccess s k a true (fun c => writeS s k c sd (BitVec.ofNat 64 (readNat c.b0 a 8))))

/-- SST (R137). -/
def execSst (k : Fin 512) (sa : BitVec 5) (ad : BitVec 4) (imm : BitVec 32) (s : State) : Host.Outcome State Fault Refusal :=
  let a := (getA (getCore s k) ad + sx32 imm).toNat
  .next (seqAccess s k a false (fun c => next (setCore s k { c with b0 := writeBytes c.b0 a (bytesOf 8 (getS c sa).toNat) }) k))

end Sys2Proof.Machine
end

