-- ==== Sys2Proof/Machine/Syn.lean ====
section
/-!
DEFINITION. SYN instructions (04 R139-R141): waits on the tick, on counts and on queues, and the muster of a gang
(01 R36, R37).
-/
namespace Sys2Proof.Machine

/-- A core begins to wait: it is WAITING on a muster, tick or count (01 R27). -/
def startWait (s : State) (k : Nat) (w : WaitS) : State :=
  let f := getFace s k
  setCore (setFace s k { f with st := .waiting }) k { getCore s k with wait := w, stall := 0 }

/-- WAITTICK (R139, R141): a target that has passed completes at once. -/
def execWaittick (k : Fin 512) (imm : BitVec 20) (s : State) : Host.Outcome State Fault Refusal :=
  .next (issue s k (fun _ =>
    let t := s.tick.last + imm.toNat
    if t ≤ s.halyard then next s k else startWait s k (.tick t)))

/-- WAITTICK_TARGET: the Halyard reaches the target of a core's WAITTICK. -/
def execWaittickTarget (k : Fin 512) (s : State) : Host.Outcome State Fault Refusal :=
  .next (if frozen s then s
    else match (getCore s k).wait with
      | .tick t =>
        if (getFace s k).st = .waiting then resume (advanceTo s t) k else s
      | _ => s)

/-- A unit's arrival at the muster of gang `g` (01 R36). -/
def unitArrived (s : State) (g u : Nat) : Bool :=
  decide (u < 512) && (getFace s u).st = .waiting && (match (getCore s u).wait with | .muster h => h = g | _ => false)

/-- A gang beneath `g` has arrived when all of its members on this node have (01 R36, R37). -/
def gangArrived : Nat → State → Nat → Nat → Nat → Bool
  | 0, _, _, _, _ => false
  | fuel + 1, s, c, g, h => (members s h).all (fun m =>
      if m.kind = 0 then gangArrived fuel s c g m.id
      else decide (m.node ≠ node s) || (match unitOf s c m with
        | some u => unitArrived s g u
        | none => true))

/-- A muster completes: every unit beneath the gang is released, and MUSTER_GEN advances once on the gang, on every gang
beneath it and on every unit released (01 R36). -/
def musterDone (s : State) (c g : Nat) : State :=
  let us := (unitsOf s c g).filter (unitArrived s g)
  let s := (gangsIn s g).foldl (fun s h => let f := getGangFace s h; setGangFace s h { f with gen := f.gen + 1 }) s
  us.foldl (fun s u =>
    let f := getFace s u
    resume (setFace s u { f with gen := f.gen + 1 }) u) s

/-- The muster of gang `g` completes when every direct member has arrived. -/
def tryMuster (s : State) (c g : Nat) : State :=
  if gangArrived (treeFuel s) s c g g then musterDone s c g else s

/-- MUSTER (R139, R141): a gang that does not contain the core faults it. -/
def execMuster (k : Fin 512) (gang : BitVec 12) (s : State) : Host.Outcome State Fault Refusal :=
  .next (issue s k (fun _ =>
    let c := coreCtx s k
    let g := gang.toNat
    if (unitsOf s c g).contains k.val then
      let s := startWait s k (.muster g)
      let f := getFace s k
      tryMuster (setFace s k { f with arrived := true }) c g
    else unitFault s k fMuster))

/-- The test of WAITC and TAKEC (R139, R140). -/
def waitCount (k : Nat) (sv : BitVec 5) (cnt : BitVec 4) (take : Bool) (s : State) : State :=
  issue s k (fun c =>
    let v := (getS c sv).setWidth 32
    let x := getC c cnt.toNat
    if v.toNat ≤ x.toNat then next (if take then setCore s k (setC c cnt.toNat (x - v)) else s) k
    else startWait s k (.count cnt v take))

/-- WAITC (R139). -/
def execWaitc (k : Fin 512) (sv : BitVec 5) (cnt : BitVec 4) (s : State) : Host.Outcome State Fault Refusal :=
  .next (waitCount k sv cnt false s)

/-- TAKEC (R139, R140). -/
def execTakec (k : Fin 512) (sv : BitVec 5) (cnt : BitVec 4) (s : State) : Host.Outcome State Fault Refusal :=
  .next (waitCount k sv cnt true s)

/-- Every queue named by a mask is empty. -/
def queuesEmpty (c : Core) (mask : BitVec 8) : Bool := c.ops.all (fun o => !mask.getLsbD o.q)

/-- FENCE (R139): the core stays RUNNING while it waits for its queues. -/
def execFence (k : Fin 512) (qmask : BitVec 8) (s : State) : Host.Outcome State Fault Refusal :=
  .next (issue s k (fun c =>
    if queuesEmpty c qmask then next s k else setCore s k { c with wait := .fence qmask, stall := 0 }))

end Sys2Proof.Machine
end

