-- ==== Sys2Proof/Machine/Mov.lean ====
section
/-!
DEFINITION. MOV instructions (04 R142-R144, 12 R422): copies within Bench 0, to peers, from tier space, to and from fabric
addresses, and atomics.
-/
namespace Sys2Proof.Machine

/-- The length of a MOV in bytes, or the fault it names: zero is ILLEGAL, above 65,535 units BOUNDS (R142). -/
def movLen (c : Core) (f : MovF) : Except Nat Nat :=
  let u := if f.lenSrc then (getS c (f.len.setWidth 5)).toNat else f.len.toNat
  if u = 0 then .error fIllegal else if 65535 < u then .error fBounds else .ok (64 * u)

/-- Bench 0 range beyond the end. -/
def beyond (a n : Nat) : Bool := decide (b0End < a + n)

/-- The logical number of a core in the context that owns it. -/
def logicalFin (s : State) (k : Nat) : Fin 512 := Fin.ofNat 512 ((logicalIn s (coreCtx s k) k).getD 0)

/-- The partition of a context, whose regulators its transfers pass (03 R117). -/
def ctxPart (s : State) (c : Nat) : Option Nat := some (getCtx s c).part.toNat

/-- The length, alignment and bounds of a MOV checked; `al` are the addresses that must be multiples of 64, `bs` the Bench 0
ranges. -/
def movChecked (s : State) (k : Nat) (f : MovF) (al : Core → List Nat) (bs : Core → List Nat) (g : Core → Nat → State) : State :=
  issue s k (fun c =>
    match movLen c f with
    | .error e => unitFault s k e
    | .ok n =>
      if (al c).any (fun a => a % 64 ≠ 0) then unitFault s k fAlign
      else if (bs c).any (fun a => beyond a n) then unitFault s k fBounds
      else g c n)

def srcA (c : Core) (f : MovF) : Nat := (getA c f.src).toNat
def dstA (c : Core) (f : MovF) : Nat := (getA c f.dst).toNat

/-- MOV.L: Bench 0 to Bench 0 of the same core. -/
def execMovL (k : Fin 512) (f : MovF) (s : State) : Host.Outcome State Fault Refusal :=
  .next (movChecked s k f (fun c => [srcA c f, dstA c f]) (fun c => [srcA c f, dstA c f]) (fun c n =>
    issueOp s k 7 [(srcA c f, n)] [(dstA c f, n)] (fun s c =>
      ({ op0 .movL with out := [(dstA c f, readBytes c.b0 (srcA c f) n)], bytes := n }, s))))

/-- MOV.P: Bench 0 to Bench 0 of a peer core that the context holds; the destination is a deposit (R128, R144). -/
def execMovP (k : Fin 512) (f : MovF) (s : State) : Host.Outcome State Fault Refusal :=
  .next (movChecked s k f (fun c => [srcA c f, dstA c f]) (fun c => [srcA c f, dstA c f]) (fun c n =>
    let peer := (getS c f.peer).toNat
    if (getCtx s (coreCtx s k)).bind.any (fun e => e.1 = peer) then
      issueOp s k 7 [(srcA c f, n)] [] (fun s c =>
        ({ op0 (.movP peer f.flag f.cnt) with out := [(dstA c f, readBytes c.b0 (srcA c f) n)], bytes := n }, s))
    else unitFault s k fBounds))

/-- The staged frames of a tier range in a core: every one of them, or none (09 R314, R315). -/
def allStaged (s : State) (k c : Nat) (rs : List (Nat × Nat)) : Bool :=
  rs.all (fun r => (pieces 4096 r.1 r.2).all (fun e => (stagedAt s k c e.1).isSome))

/-- The Bench 0 ranges where a staged tier range lies. -/
def stagedRanges (s : State) (k c t n : Nat) : List (Nat × Nat) :=
  (pieces 4096 t n).filterMap (fun e => (stagedAt s k c e.1).map (fun x =>
    (slotAddr s ((logicalIn s c k).getD 0) x.slot + e.1 % 4096, e.2)))

/-- The bytes of a staged tier range. -/
def stagedBytes (s : State) (k c t n : Nat) : List Byte :=
  (stagedRanges s k c t n).flatMap (fun r => readBytes (getCore s k).b0 r.1 r.2)

/-- The requests for the Bench 2 pieces of a read that core `k` waits for; the number sent. -/
def sendB2 (s : State) (k op : Nat) (ps : List (Nat × Nat × Nat)) : Nat × State :=
  let c := coreCtx s k
  let n := logicalFin s k
  (ps.flatMap (fun p => (b2Pieces s p.1 p.2.1 p.2.2).map (fun e => (p.1, e)))).foldl (fun a e =>
    (a.1 + 1, b2Request a.2 e.1 e.2.1 e.2.2 false [] (.b2 n op) (.b2 (ctxFin c) n op) c)) (0, s)

/-- MOV.T: tier space of the context to Bench 0, from the staged copies when every frame is staged, from backing otherwise
(09 R315, R316, R328). -/
def execMovT (k : Fin 512) (f : MovF) (s : State) : Host.Outcome State Fault Refusal :=
  .next (guarded s (movChecked s k f (fun c => [srcA c f, dstA c f]) (fun c => [dstA c f]) (fun c n =>
    let x := coreCtx s k
    if !tierInside s x (srcA c f) n then unitFault s k fBounds
    else if allStaged s k x [(srcA c f, n)] then
      issueOp s k 7 (stagedRanges s k x (srcA c f) n) [(dstA c f, n)] (fun s c =>
        ({ op0 .movT with out := [(dstA c f, stagedBytes s k x (srcA c f) n)], bytes := n }, s))
    else
      issueOp s k 7 [] [(dstA c f, n)] (fun s c =>
        match tierRead s x (srcA c f) n { kind := 0, index := k, ctx := some x } with
        | (d, ps, s) => match sendB2 s k c.nextOp ps with
          | (m, s) => ({ op0 .movT with out := [(dstA c f, d)], bytes := n, pieces := m }, s)))))

/-- A memory request of core `k`. -/
def coreRequest (s : State) (k : Nat) (addr op w3 w4 w5 : Nat) (payload : List Byte) (pennant : Bool) (o : Owner) : State :=
  let c := coreCtx s k
  sendRequest s { pkt := memPkt s c (fabNode addr) op w3 w4 w5 payload pennant, owner := o, part := ctxPart s c,
                  port := corePort k }

/-- MOV.HR: one LOAD for each piece of the range (12 R422). -/
def execMovHR (k : Fin 512) (f : MovF) (s : State) : Host.Outcome State Fault Refusal :=
  .next (movChecked s k f (fun c => [dstA c f]) (fun c => [dstA c f]) (fun c n =>
    issueOp s k 7 [] [(dstA c f, n)] (fun s c =>
      let o := fabOfs (srcA c f)
      let ps := pieces 2048 o n
      let s := ps.foldl (fun s p => coreRequest s k (srcA c f) 2 (p.1 % 2 ^ 48 + 2 ^ 52 * ceilDiv p.2 64) 0 0 [] false
        (.movHR (logicalFin s k) c.nextOp (dstA c f + (p.1 - o)))) s
      ({ op0 .movHR with bytes := n, pieces := ps.length }, s))))

/-- MOV.HW: one STORE for each piece, with the pennant when FLAG = 1 (12 R417, R422). -/
def execMovHW (k : Fin 512) (f : MovF) (s : State) : Host.Outcome State Fault Refusal :=
  .next (movChecked s k f (fun c => [srcA c f]) (fun c => [srcA c f]) (fun c n =>
    issueOp s k 7 [(srcA c f, n)] [] (fun s c =>
      let o := fabOfs (dstA c f)
      let ps := pieces 2048 o n
      let s := ps.foldl (fun s p => coreRequest s k (dstA c f) 1 (p.1 % 2 ^ 48) 0 0
        (padFlits (readBytes c.b0 (srcA c f + (p.1 - o)) p.2)) f.flag (.movHW (logicalFin s k) c.nextOp)) s
      ({ op0 .movHW with bytes := n, pieces := ps.length }, s))))

/-- NDC of a context advanced by one, with its event (14 R469, 15 R527): `kind` 0 first-arrival combine, 1 FP atomic. -/
def ndcInc (s : State) (c kind : Nat) : State :=
  let x := getCtx s c
  post (setCtx s c { x with ndc := inc64 x.ndc 1 }) evNdcInc (some (ctxFin c)) (inc64 x.ndc 1).toNat kind

/-- ATOM: one ATOMIC; FP atomics advance NDC at issue (R143, 12 R429). -/
def execAtom (k : Fin 512) (f : MovF) (s : State) : Host.Outcome State Fault Refusal :=
  .next (issue s k (fun c =>
    let a := srcA c f
    if 9 < f.atop.toNat then unitFault s k fIllegal
    else if a % 8 ≠ 0 then unitFault s k fAlign
    else issueOp s k 7 [] [] (fun s c =>
      let s := if 8 ≤ f.atop.toNat then
          ndcInc { s with fab := { s.fab with fpAtomics := inc64 s.fab.fpAtomics 1 } } (coreCtx s k) 1 else s
      let s := coreRequest s k a 3 (fabOfs a + 2 ^ 48 * f.atop.toNat) (getS c f.sv).toNat (getS c f.sc).toNat [] false
        (.atom (logicalFin s k) c.nextOp f.sr)
      ({ op0 (.atom f.sr) with bytes := 8, pieces := 1 }, s))))

end Sys2Proof.Machine
end

