-- ==== Sys2Proof/Machine/Vec.lean ====
section
/-!
DEFINITION. VEC instructions (04 R145-R149): the lanes and masks, the formats each operation takes, and what each computes.
A lane's result that the manual does not state is a free value of the run.
-/
namespace Sys2Proof.Machine

/-! ### Formats (R146) -/

def fmtAll (f : Nat) : Bool := decide (f < 15)
def fmtNoE8 (f : Nat) : Bool := decide (f < 15) && decide (f ≠ 9)
def fmtFloat (f : Nat) : Bool := (ffmt f).isSome
def fmtFP32 (f : Nat) : Bool := decide (f = 1)
def fmtInt (f : Nat) : Bool := decide (intW f ≠ 0)

/-! ### Lanes -/

/-- Lanes used, 1 to 64. -/
def lanesUsed (f : VecF) : Nat := f.lanes.toNat + 1

/-- The lanes used whose mask bit is 1. -/
def activeLanes (c : Core) (f : VecF) : List Nat := (List.range (lanesUsed f)).filter (fun i => (getM c f.mask).getLsbD i)

/-- A lane of a source register as an element of a format. -/
def laneOf (c : Core) (v : BitVec 5) (fmt i : Nat) : Nat := getV c v i % 2 ^ valBits fmt

/-- Its value. -/
def laneVal (c : Core) (v : BitVec 5) (fmt i : Nat) : FV := dec fmt (laneOf c v fmt i)

/-- A result, or the next free value of the run cut to the format. -/
def orFree (s : State) (fmt : Nat) : Option Nat → Nat × State
  | some x => (x, s)
  | none => ((Config.freeWord s.free).toNat % 2 ^ valBits fmt, { s with free := s.free + 1 })

/-- Lanes of the destination written with the results of `g` in a format. -/
def writeLanes (s : State) (k : Nat) (vd : BitVec 5) (fmt : Nat) (g : Nat → Option Nat) (ls : List Nat) : State :=
  ls.foldl (fun s i => match orFree s fmt (g i) with
    | (x, s) => setCore s k (setV (getCore s k) vd i x)) s

/-- The operation of a vector instruction that has written lanes of `vd`. -/
def vecOp (c : Core) (wx : Bool) (vd : BitVec 5) (ls : List Nat) : Op :=
  { op0 (.vec wx) with undo := ls.map (fun i => (64 * vd.toNat + i, BitVec.ofNat 64 (getV c vd i))) }

/-- A vector instruction on registers: its format checked, then issued on the vector queue; `dst` is the format of its
results and `g` gives the result of each lane of `ls`. -/
def vecIssue (k : Nat) (f : VecF) (ok : Nat → Bool) (wx : Bool) (dst : Nat) (ls : Core → List Nat)
    (g : Core → Nat → Option Nat) (s : State) : State :=
  issue s k (fun _ =>
    if !ok f.fmt.toNat then unitFault s k fIllegal
    else issueOp s k 6 [] [] (fun s c => (vecOp c wx f.vd (ls c), writeLanes s k f.vd dst (g c) (ls c))))

/-- One source. -/
def vec1 (k : Fin 512) (f : VecF) (ok : Nat → Bool) (op : Nat → FV → Option Nat) (s : State) : State :=
  vecIssue k f ok false f.fmt.toNat (fun c => activeLanes c f)
    (fun c i => op f.fmt.toNat (laneVal c f.va f.fmt.toNat i)) s

/-- Two sources. -/
def vec2 (k : Fin 512) (f : VecF) (ok : Nat → Bool) (wx : Bool) (op : Nat → FV → FV → Option Nat) (s : State) : State :=
  vecIssue k f ok wx f.fmt.toNat (fun c => activeLanes c f)
    (fun c i => op f.fmt.toNat (laneVal c f.va f.fmt.toNat i) (laneVal c f.vb f.fmt.toNat i)) s

/-! ### Bench 0 and lanes (05 R172, R173) -/

/-- The address of a vector load or store. -/
def vecAddr (c : Core) (f : VecF) : Nat := (getA c f.areg + BitVec.ofNat 64 (64 * f.imm.toNat)).toNat

/-- VLD: lanes := elements. -/
def execVld (k : Fin 512) (f : VecF) (s : State) : Host.Outcome State Fault Refusal :=
  .next (issue s k (fun c =>
    let fmt := f.fmt.toNat
    let a := vecAddr c f
    let n := elemBytes fmt (lanesUsed f)
    if !fmtAll fmt then unitFault s k fIllegal
    else if beyond a n then unitFault s k fBounds
    else issueOp s k 6 [(a, n)] [] (fun s c =>
      let es := unpackElems fmt (lanesUsed f) (readBytes c.b0 a n)
      (vecOp c false f.vd (activeLanes c f),
       writeLanes s k f.vd fmt (fun i => some (es.getD i 0)) (activeLanes c f)))))

/-- The bytes of a range that change, as runs. -/
def byteRuns : List (Nat × Byte) → List (Nat × List Byte)
  | [] => []
  | (a, b) :: r => match byteRuns r with
    | (x, d) :: t => if x = a + 1 then (a, b :: d) :: t else (a, [b]) :: (x, d) :: t
    | [] => [(a, [b])]

/-- The bytes that a VST writes: those that hold an unmasked lane, with a masked lane's bits in them kept. -/
def vstBytes (c : Core) (f : VecF) (a : Nat) : List (Nat × List Byte) :=
  let fmt := f.fmt.toNat
  let w := elemBits fmt
  let n := lanesUsed f
  let act := activeLanes c f
  let old := natOf (readBytes c.b0 a (elemBytes fmt n))
  let slots := (List.range n).map (fun i => if act.contains i then laneOf c f.va fmt i else old / 2 ^ (w * i) % 2 ^ w)
  let v := slots.foldr (fun x acc => x + acc * 2 ^ w) 0 + old / 2 ^ (w * n) * 2 ^ (w * n)
  byteRuns ((indexed (bytesOf (elemBytes fmt n) v)).filterMap (fun e =>
    if act.any (fun i => decide (w * i < 8 * e.1 + 8 ∧ 8 * e.1 < w * i + w)) then some (a + e.1, e.2) else none))

/-- VST: elements := lanes. -/
def execVst (k : Fin 512) (f : VecF) (s : State) : Host.Outcome State Fault Refusal :=
  .next (issue s k (fun c =>
    let fmt := f.fmt.toNat
    let a := vecAddr c f
    if !fmtAll fmt then unitFault s k fIllegal
    else if beyond a (elemBytes fmt (lanesUsed f)) then unitFault s k fBounds
    else
      let wr := (vstBytes c f a).map (fun e => (e.1, e.2.length))
      issueOp s k 6 [] wr (fun s c => ({ op0 (.vec false) with out := vstBytes c f a }, s))))

/-! ### Arithmetic -/

/-- Floating results round once; integer results saturate (R147). -/
def arith (fl : FV → FV → FV) (it : Int → Int → Int) (fmt : Nat) (a b : FV) : Option Nat :=
  if fmtInt fmt then
    match a, b with
    | .fin s m _, .fin t n _ =>
      some (satInt (intW fmt) (it (if s then -(m : Int) else m) (if t then -(n : Int) else n)))
    | _, _ => some 0
  else some (enc fmt none (fl a b))

/-- VADD. -/
def execVadd (k : Fin 512) (f : VecF) (s : State) : Host.Outcome State Fault Refusal :=
  .next (vec2 k f fmtNoE8 true (arith fadd (· + ·)) s)

/-- VSUB. -/
def execVsub (k : Fin 512) (f : VecF) (s : State) : Host.Outcome State Fault Refusal :=
  .next (vec2 k f fmtNoE8 true (arith (fun a b => fadd a (fneg b)) (· - ·)) s)

/-- VMUL. -/
def execVmul (k : Fin 512) (f : VecF) (s : State) : Host.Outcome State Fault Refusal :=
  .next (vec2 k f fmtNoE8 true (arith fmul (· * ·)) s)

/-- VFMA: one rounding. -/
def execVfma (k : Fin 512) (f : VecF) (s : State) : Host.Outcome State Fault Refusal :=
  .next (vecIssue k f fmtFloat true f.fmt.toNat (fun c => activeLanes c f) (fun c i =>
    let v := fun r => laneVal c r f.fmt.toNat i
    some (enc f.fmt.toNat none (fadd (fmul (v f.va) (v f.vb)) (v f.vc)))) s)

/-- VMAX (05 R178). -/
def execVmax (k : Fin 512) (f : VecF) (s : State) : Host.Outcome State Fault Refusal :=
  .next (vec2 k f fmtNoE8 false (fun fmt a b => some (enc fmt none (fmax a b))) s)

/-- VMIN (05 R178). -/
def execVmin (k : Fin 512) (f : VecF) (s : State) : Host.Outcome State Fault Refusal :=
  .next (vec2 k f fmtNoE8 false (fun fmt a b => some (enc fmt none (fmin a b))) s)

/-- The most negative number of an integer format, whose magnitude and negation the format does not hold. -/
def mostNeg (fmt : Nat) (a : FV) : Bool :=
  fmtInt fmt && (match a with | .fin true m _ => m = 2 ^ (intW fmt - 1) | _ => false)

/-- VABS; the manual states no result for the most negative integer. -/
def execVabs (k : Fin 512) (f : VecF) (s : State) : Host.Outcome State Fault Refusal :=
  .next (vec1 k f fmtNoE8 (fun fmt a => if mostNeg fmt a then none else some (enc fmt none (fabs a))) s)

/-- VNEG; the manual states no result for the most negative integer. -/
def execVneg (k : Fin 512) (f : VecF) (s : State) : Host.Outcome State Fault Refusal :=
  .next (vec1 k f fmtNoE8 (fun fmt a => if mostNeg fmt a then none else some (enc fmt none (fneg a))) s)

/-- The destination format of a VCVT: bits [37:34] (R145). -/
def cvtDst (f : VecF) : Nat := f.vc.toNat % 16

/-- VCVT (05 R183-R186). -/
def execVcvt (k : Fin 512) (f : VecF) (s : State) : Host.Outcome State Fault Refusal :=
  .next (vecIssue k f (fun x => fmtAll x && fmtAll (cvtDst f)) false (cvtDst f) (fun c => activeLanes c f)
    (fun c i => some (enc (cvtDst f) none (laneVal c f.va f.fmt.toNat i))) s)

/-- VEXP. -/
def execVexp (k : Fin 512) (f : VecF) (s : State) : Host.Outcome State Fault Refusal :=
  .next (vec1 k f fmtFP32 (fun _ a => some (enc 1 none (fexp a))) s)

/-- VLOG; the manual states no result at zero. -/
def execVlog (k : Fin 512) (f : VecF) (s : State) : Host.Outcome State Fault Refusal :=
  .next (vec1 k f fmtFP32 (fun _ a => (flog a).map (enc 1 none)) s)

/-- VTANH. -/
def execVtanh (k : Fin 512) (f : VecF) (s : State) : Host.Outcome State Fault Refusal :=
  .next (vec1 k f fmtFP32 (fun _ a => some (enc 1 none (ftanh a))) s)

/-- VRCP; the manual states no result at zero. -/
def execVrcp (k : Fin 512) (f : VecF) (s : State) : Host.Outcome State Fault Refusal :=
  .next (vec1 k f fmtFP32 (fun _ a => (frcp a).map (enc 1 none)) s)

/-- VRSQRT; the manual states no result at zero. -/
def execVrsqrt (k : Fin 512) (f : VecF) (s : State) : Host.Outcome State Fault Refusal :=
  .next (vec1 k f fmtFP32 (fun _ a => (frsqrt a).map (enc 1 none)) s)

/-- VSQRT. -/
def execVsqrt (k : Fin 512) (f : VecF) (s : State) : Host.Outcome State Fault Refusal :=
  .next (vec1 k f fmtFP32 (fun _ a => some (enc 1 none (fsqrt a))) s)

/-- VDIV. -/
def execVdiv (k : Fin 512) (f : VecF) (s : State) : Host.Outcome State Fault Refusal :=
  .next (vec2 k f fmtFP32 false (fun _ a b => some (enc 1 none (fdiv a b))) s)

/-- A comparison: with NaN, only not equal is true (05 R178); none for a reserved condition. -/
def cmpHolds (cond : Nat) (a b : FV) : Option Bool :=
  let o := fcmp a b
  match cond with
  | 0 => some (o == some .eq)
  | 1 => some (o != some .eq)
  | 2 => some (o == some .lt)
  | 3 => some (o == some .lt || o == some .eq)
  | 4 => some (o == some .gt)
  | 5 => some (o == some .gt || o == some .eq)
  | _ => none

/-- VCMP: the destination mask's bits of the active lanes. -/
def execVcmp (k : Fin 512) (f : VecF) (s : State) : Host.Outcome State Fault Refusal :=
  .next (issue s k (fun _ =>
    let fmt := f.fmt.toNat
    let cond := f.vc.toNat % 8
    if !fmtNoE8 fmt || (cmpHolds cond .nan .nan).isNone then unitFault s k fIllegal
    else issueOp s k 6 [] [] (fun s c =>
      let md := f.vd.setWidth 3
      let m := (activeLanes c f).foldl (fun (m : W64) i =>
        let b := BitVec.ofNat 64 (2 ^ i)
        if cmpHolds cond (laneVal c f.va fmt i) (laneVal c f.vb fmt i) = some true then m ||| b else m &&& ~~~b) (getM c md)
      (op0 (.vec false), setCore s k (setM c md m)))))

/-- VSEL: MASK selects between va and vb in every lane used. -/
def execVsel (k : Fin 512) (f : VecF) (s : State) : Host.Outcome State Fault Refusal :=
  .next (vecIssue k f fmtAll false f.fmt.toNat (fun _ => List.range (lanesUsed f)) (fun c i =>
    some (laneOf c (if (getM c f.mask).getLsbD i then f.va else f.vb) f.fmt.toNat i)) s)

/-- VBCAST. -/
def execVbcast (k : Fin 512) (f : VecF) (s : State) : Host.Outcome State Fault Refusal :=
  .next (vecIssue k f fmtAll false f.fmt.toNat (fun c => activeLanes c f) (fun c _ =>
    some ((getS c f.sreg).toNat % 2 ^ valBits f.fmt.toNat)) s)

/-- Lane 0 of the destination, when its mask bit is 1. -/
def lane0 (c : Core) (f : VecF) : List Nat := if (getM c f.mask).getLsbD 0 then [0] else []

/-- The values of the lanes used of va. -/
def vaVals (c : Core) (f : VecF) : List FV := (List.range (lanesUsed f)).map (laneVal c f.va f.fmt.toNat)

/-- VRSUM (R148): the tree in WX48, or in binary64 for FP64, its root converted once. -/
def execVrsum (k : Fin 512) (f : VecF) (s : State) : Host.Outcome State Fault Refusal :=
  .next (vecIssue k f fmtNoE8 true f.fmt.toNat (fun c => lane0 c f) (fun c _ =>
    some (enc f.fmt.toNat none (treeOf (if f.fmt = 0 then 0 else 14) (vaVals c f)))) s)

/-- A reduction that passes a single lane up unchanged (R148). -/
def reduceBy (op : FV → FV → FV) (c : Core) (f : VecF) : Nat :=
  match vaVals c f with
  | v :: w :: r => enc f.fmt.toNat none ((w :: r).foldl op v)
  | _ => laneOf c f.va f.fmt.toNat 0

/-- VRMAX. -/
def execVrmax (k : Fin 512) (f : VecF) (s : State) : Host.Outcome State Fault Refusal :=
  .next (vecIssue k f fmtNoE8 false f.fmt.toNat (fun c => lane0 c f) (fun c _ => some (reduceBy fmax c f)) s)

/-- VRMIN. -/
def execVrmin (k : Fin 512) (f : VecF) (s : State) : Host.Outcome State Fault Refusal :=
  .next (vecIssue k f fmtNoE8 false f.fmt.toNat (fun c => lane0 c f) (fun c _ => some (reduceBy fmin c f)) s)

/-- VACC (R148): the exact sum with the WX48 value of vd, rounded once. -/
def execVacc (k : Fin 512) (f : VecF) (s : State) : Host.Outcome State Fault Refusal :=
  .next (vecIssue k f fmtAll true 14 (fun c => activeLanes c f) (fun c i =>
    some (enc 14 none (fadd (laneVal c f.vd 14 i) (laneVal c f.va f.fmt.toNat i)))) s)

/-- VGETS: s[SREG] := lane IMM12[5:0] of va. -/
def execVgets (k : Fin 512) (f : VecF) (s : State) : Host.Outcome State Fault Refusal :=
  .next (issue s k (fun _ =>
    if !fmtAll f.fmt.toNat then unitFault s k fIllegal
    else issueOp s k 6 [] [] (fun s c =>
      (op0 (.vec false), setCore s k (setS c f.sreg (BitVec.ofNat 64 (laneOf c f.va f.fmt.toNat (f.imm.toNat % 64))))))))

/-- Bitwise operations on the lanes of integer formats. -/
def vecBits (k : Fin 512) (f : VecF) (op : Nat → Nat → Nat → Option Nat) (s : State) : State :=
  vecIssue k f fmtInt false f.fmt.toNat (fun c => activeLanes c f) (fun c i =>
    op (intW f.fmt.toNat) (laneOf c f.va f.fmt.toNat i) (laneOf c f.vb f.fmt.toNat i)) s

/-- VAND. -/
def execVand (k : Fin 512) (f : VecF) (s : State) : Host.Outcome State Fault Refusal :=
  .next (vecBits k f (fun _ a b => some (a &&& b)) s)

/-- VOR. -/
def execVor (k : Fin 512) (f : VecF) (s : State) : Host.Outcome State Fault Refusal :=
  .next (vecBits k f (fun _ a b => some (a ||| b)) s)

/-- VXOR. -/
def execVxor (k : Fin 512) (f : VecF) (s : State) : Host.Outcome State Fault Refusal :=
  .next (vecBits k f (fun _ a b => some (a ^^^ b)) s)

/-- VSHL: the count from vb; the manual states no result for a count of the width or more. -/
def execVshl (k : Fin 512) (f : VecF) (s : State) : Host.Outcome State Fault Refusal :=
  .next (vecBits k f (fun w a b => if b < w then some (a * 2 ^ b % 2 ^ w) else none) s)

/-- VSHR: logical; the manual states no result for a count of the width or more. -/
def execVshr (k : Fin 512) (f : VecF) (s : State) : Host.Outcome State Fault Refusal :=
  .next (vecBits k f (fun w a b => if b < w then some (a / 2 ^ b) else none) s)

end Sys2Proof.Machine
end

