-- ==== Sys2Proof/Machine/Arr.lean ====
section
/-!
DEFINITION. Dense array products (04 R150-R164, 05 R187-R192, 17 R564): the checks of a `matmul`, its operands in Bench 0 or
in tier space (09 R308, R314), and the accumulation in ascending k.
-/
namespace Sys2Proof.Machine

/-! ### Formats (R152, R153, R564) -/

def isFp8to4 (f : Nat) : Bool := decide (4 ≤ f ∧ f ≤ 8)
def isArrFloat (f : Nat) : Bool := decide (1 ≤ f ∧ f ≤ 8)
def isArrInt (f : Nat) : Bool := decide (f = 12 ∨ f = 13)
/-- An array input format. -/
def isArrIn (f : Nat) : Bool := decide (f = 0) || isArrFloat f || isArrInt f
/-- FP4 or INT4. -/
def isNibble (f : Nat) : Bool := decide (f = 8 ∨ f = 13)
/-- Element types of an MX input (R564). -/
def isMxIn (f : Nat) : Bool := isFp8to4 f || isArrInt f

/-- The pairs of R152. -/
def pairOk (a b : Nat) : Bool :=
  (isArrFloat a && isArrFloat b) || (isArrInt a && isArrInt b) || decide (a = 0 ∧ b = 0)

/-- The output rules of SR and OUT_MX (R153). -/
def roundOk (out : Nat) (sr outMx : Bool) : Bool := (!sr || isFp8to4 out) && (!outMx || isFp8to4 out)

/-- The format rules of a product (R152, R153, R564). -/
def productOk (a b out k : Nat) (mxA mxB sr outMx : Bool) : Bool :=
  pairOk a b && (!(isNibble a || isNibble b || mxA || mxB) || k % 32 = 0) &&
  decide (out ≠ 9 ∧ out ≠ 15) && (decide (a = 0) == decide (out = 0)) && roundOk out sr outMx &&
  (!mxA || isMxIn a) && (!mxB || isMxIn b)

/-- M of an instruction (R150, R155). -/
def mOf (c : Core) (mSrc : Bool) (mField : BitVec 8) : Nat :=
  if mSrc then roundUp (getS c (mField.setWidth 5)).toNat 16 else 16 * (mField.toNat + 1)

/-- K of an instruction. -/
def kOf (kField : BitVec 11) : Nat := 16 * (kField.toNat + 1)

/-- An address register and the one after it, modulo 16. -/
def regA (c : Core) (r : BitVec 4) : Nat := (getA c r).toNat
def regA1 (c : Core) (r : BitVec 4) : Nat := (getA c (r + 1)).toNat

/-- An operand that extends beyond Bench 0; one of length zero when its start lies beyond it (R151, R155). -/
def outside (r : Nat × Nat) : Bool := if r.2 = 0 then decide (b0End ≤ r.1) else decide (b0End < r.1 + r.2)

/-- Operands checked for alignment, then bounds: the fault, if any. -/
def operandFault (rs : List (Nat × Nat)) : Option Nat :=
  if rs.any (fun r => r.1 % 64 ≠ 0) then some fAlign else if rs.any outside then some fBounds else none

/-! ### The product (R161, R162) -/

/-- A row of elements of a format. -/
def rowElems (fmt n : Nat) (bs : List Byte) (i : Nat) : List Nat :=
  unpackElems fmt n ((bs.drop (i * elemBytes fmt n)).take (elemBytes fmt n))

/-- The value of an input element, with its scale byte in an MX operand (05 R187). -/
def inVal (fmt : Nat) (mx : Bool) (scale v : Nat) : FV := if mx then mxDec fmt scale v else dec fmt v

/-- Rows of A as values: `sc` are the scale bytes, K/32 to a row. -/
def aRows (fmt m k : Nat) (mx : Bool) (bs sc : List Byte) : List (List FV) :=
  (List.range m).map (fun i =>
    (indexed (rowElems fmt k bs i)).map (fun e =>
      inVal fmt mx (sc.getD (i * (k / 32) + e.1 / 32) 0).toNat e.2))

/-- Rows of B as values: scales in K/32 rows of 32 bytes. -/
def bRows (fmt k : Nat) (mx : Bool) (bs sc : List Byte) : List (List FV) :=
  (List.range k).map (fun i =>
    (indexed (rowElems fmt 32 bs i)).map (fun e => inVal fmt mx (sc.getD (i / 32 * 32 + e.1) 0).toNat e.2))

/-- One row of C: the products added in ascending k, each with one rounding to the accumulator's format. -/
def rowSum (acc : Nat) (init : List FV) (a : List FV) (b : List (List FV)) : List FV :=
  (a.zip b).foldl (fun cs e => (cs.zip e.2).map (fun p => rnd acc (fadd p.1 (fmul e.1 p.2)))) init

/-- A row of C written: element encodings, scale byte, elements converted with stochastic rounding. -/
def outRow (out : Nat) (sr outMx : Bool) (seed m : Nat) (vs : List FV) : List Nat × Nat × Nat :=
  let r := fun n => if sr then some (srBits seed m n) else none
  if outMx then
    match mxRow out r vs with
    | (sc, es, n) => (es, sc, n)
  else ((indexed vs).map (fun e => enc out (r e.1) e.2), 0, if sr then vs.length else 0)

/-- The starting values of a row of C (R161). -/
def initRow (out : Nat) (acc outMx : Bool) (cs sc : List Byte) (m : Nat) : List FV :=
  if acc then (rowElems out 32 cs m).map (fun v => inVal out outMx (sc.getD m 0).toNat v)
  else List.replicate 32 (.fin false 0 0)

/-- The results of a product: C's bytes by row, scale bytes, elements converted with stochastic rounding. -/
def product (fmtA out : Nat) (acc sr outMx : Bool) (seed : Nat) (a b : List (List FV)) (cs csc : List Byte) :
    List (List Byte) × List Byte × Nat :=
  let rows := (indexed a).map (fun e =>
    outRow out sr outMx seed e.1 (rowSum (if fmtA = 0 then 0 else 14) (initRow out acc outMx cs csc e.1) e.2 b))
  (rows.map (fun r => packElems out r.1), rows.map (fun r => BitVec.ofNat 8 r.2.1), rows.foldl (fun n r => n + r.2.2) 0)

/-! ### B in tier space (09 R307, R308) -/

/-- Pq, E and P of R307. -/
def panelBytes (fmt : Nat) : Nat := 128 * elemBytes fmt 32
def tileE (fmt : Nat) : Nat := 4 * panelBytes fmt
def tilePitch (fmt : Nat) (mx : Bool) : Nat := roundUp (tileE fmt + 512 * b2n mx) 4096

/-- The tier ranges of B: (start, length) of every segment, and of its scales (R308). -/
def tierSegs (fmt k b : Nat) (mx : Bool) : List (Nat × Nat) :=
  (List.range (ceilDiv k 128)).map (fun j => (b + j * tilePitch fmt mx, min 128 (k - 128 * j) * elemBytes fmt 32))

def tierScaleSegs (fmt k sc : Nat) : List (Nat × Nat) :=
  (List.range (ceilDiv k 128)).map (fun j => (sc + j * tilePitch fmt true, min 128 (k - 128 * j)))

/-- An engine-tile region of the context holds a range. -/
def inEngineTile (s : State) (c : Nat) (r : Nat × Nat) : Bool :=
  s.tab.regions.any (fun g => g.ctx = c && g.kind = 0 && decide (g.base ≤ r.1 ∧ r.1 + r.2 ≤ g.base + g.size))

/-- The checks of R308. -/
def tierOperandOk (s : State) (c fmt k b sc : Nat) (mx : Bool) : Bool :=
  [0, 1, 2, 3].any (fun q =>
    decide (q * panelBytes fmt ≤ b) &&
    (let t := b - q * panelBytes fmt
     t % 4096 = 0 && inEngineTile s c (t, 1) && (!mx || decide (sc = t + tileE fmt + 128 * q)))) &&
  ((tierSegs fmt k b mx) ++ (if mx then tierScaleSegs fmt k sc else [])).all (inEngineTile s c)

/-- The frames whose absence sends an instruction to the cheaper path join the misses (09 R311). -/
def noteMisses (s : State) (k c : Nat) (rs : List (Nat × Nat)) : State :=
  (rs.flatMap (fun r => (pieces 4096 r.1 r.2).map (fun e => e.1 / 4096 * 4096))).foldl (fun s t =>
    let m : Miss := { core := k, ctx := ctxFin c, ofs := t }
    if (stagedAt s k c t).isSome || s.tir.misses.contains m then s
    else { s with tir := { s.tir with misses := s.tir.misses ++ [m] } }) s

/-- Ranges read from backing, one after another. -/
def readRanges (s : State) (k c : Nat) (rs : List (Nat × Nat)) : List Byte × List (Nat × Nat × Nat) × State :=
  rs.foldl (fun a r => match tierRead a.2.2 c r.1 r.2 { kind := 0, index := k, ctx := some c } with
    | (d, ps, s) => (a.1 ++ d, a.2.1 ++ ps, s)) ([], [], s)

/-- The cheaper path reads B once for each 16-row group of M (09 R314). -/
def cheapRead (k c : Nat) (rs : List (Nat × Nat)) : Nat → State → List Byte × List (Nat × Nat × Nat) × State
  | 0, s => ([], [], s)
  | 1, s => readRanges s k c rs
  | n + 2, s => match readRanges s k c rs with
    | (_, ps, s) => match cheapRead k c rs (n + 1) s with
      | (d, qs, s) => (d, ps ++ qs, s)

/-! ### MATMUL -/

/-- Operands of a product other than B and its scales: A, A's scales, C, C's scales. -/
def acRanges (c : Core) (fmtA out m k : Nat) (mxA outMx : Bool) (aReg cReg : BitVec 4) : List (Nat × Nat) :=
  [(regA c aReg, m * elemBytes fmtA k)] ++ (if mxA then [(regA1 c aReg, m * (k / 32))] else []) ++
  [(regA c cReg, m * elemBytes out 32)] ++ (if outMx then [(regA1 c cReg, m)] else [])

/-- What C writes. -/
def cRanges (c : Core) (out m : Nat) (outMx : Bool) (cReg : BitVec 4) : List (Nat × Nat) :=
  [(regA c cReg, m * elemBytes out 32)] ++ (if outMx then [(regA1 c cReg, m)] else [])

/-- B and its scales in Bench 0. -/
def bRanges (c : Core) (fmtB k : Nat) (mxB : Bool) (bReg : BitVec 4) : List (Nat × Nat) :=
  [(regA c bReg, k * elemBytes fmtB 32)] ++ (if mxB then [(regA1 c bReg, k)] else [])

/-- A `matmul` whose operands have been checked, with B and its scales read: issued on its array. -/
def matmulRun (s : State) (k : Nat) (f : ArrF) (m kk : Nat) (rdB : List (Nat × Nat))
    (getB : State → Core → List Byte × List Byte × Nat × State) : State :=
  let a := f.fmtA.toNat
  let b := f.fmtB.toNat
  let out := f.outFmt.toNat
  let c := getCore s k
  issueOp s k f.array.toNat (acRanges c a out m kk f.mxA f.outMx f.aReg f.cReg ++ rdB) (cRanges c out m f.outMx f.cReg)
    (fun s c =>
      match getB s c with
      | (bs, bsc, n, s) =>
        let rd := fun (r : Nat × Nat) => readBytes c.b0 r.1 r.2
        let av := aRows a m kk f.mxA (rd (regA c f.aReg, m * elemBytes a kk))
          (if f.mxA then rd (regA1 c f.aReg, m * (kk / 32)) else [])
        match product a out f.acc f.sr f.outMx (getS c 31).toNat av (bRows b kk f.mxB bs bsc)
            (rd (regA c f.cReg, m * elemBytes out 32)) (if f.outMx then rd (regA1 c f.cReg, m) else []) with
        | (rows, scs, cnt) =>
          ({ op0 .arr with out := [(regA c f.cReg, rows.flatten)] ++ (if f.outMx then [(regA1 c f.cReg, scs)] else [])
                           pieces := n, srConv := cnt }, s))

/-- An instruction with M = 0: complete at once, nothing read or written (R155). -/
def emptyOp (s : State) (k : Nat) (cnt : List Nat) : State := next (cnt.foldl (fun s i => bump s k i 1) s) k

/-- MATMUL (R150-R156). -/
def execMatmul (k : Fin 512) (f : ArrF) (s : State) : Host.Outcome State Fault Refusal :=
  .next (guarded s (issue s k (fun c =>
    let a := f.fmtA.toNat
    let b := f.fmtB.toNat
    let out := f.outFmt.toNat
    let kk := kOf f.kField
    let m := mOf c f.mSrc f.mField
    let x := coreCtx s k
    if f.flow = 3 || !productOk a b out kk f.mxA f.mxB f.sr f.outMx then unitFault s k fIllegal
    else if 4096 < m then unitFault s k fBounds
    else
      match operandFault (acRanges c a out m kk f.mxA f.outMx f.aReg f.cReg ++
          (if f.bTier then [] else bRanges c b kk f.mxB f.bReg)) with
      | some e => unitFault s k e
      | none =>
        if f.bTier && !tierOperandOk s x b kk (regA c f.bReg) (regA1 c f.bReg) f.mxB then unitFault s k fBounds
        else if m = 0 then emptyOp s k [5, 13]
        else if !f.bTier then
          matmulRun s k f m kk (bRanges c b kk f.mxB f.bReg) (fun s c =>
            (readBytes c.b0 (regA c f.bReg) (kk * elemBytes b 32),
             if f.mxB then readBytes c.b0 (regA1 c f.bReg) kk else [], 0, s))
        else
          let segs := tierSegs b kk (regA c f.bReg) f.mxB
          let scs := if f.mxB then tierScaleSegs b kk (regA1 c f.bReg) else []
          if allStaged s k x (segs ++ scs) then
            let rs := (segs ++ scs).flatMap (fun r => stagedRanges s k x r.1 r.2)
            matmulRun s k f m kk rs (fun s _ =>
              (segs.flatMap (fun r => stagedBytes s k x r.1 r.2), scs.flatMap (fun r => stagedBytes s k x r.1 r.2), 0, s))
          else
            matmulRun s k f m kk [] (fun s c =>
              let s := noteMisses (bump s k 12 1) k x (segs ++ scs)
              match cheapRead k x (segs ++ scs) (m / 16) s with
              | (d, ps, s) => match sendB2 s k c.nextOp ps with
                | (n, s) =>
                  let nb := segs.foldl (fun n r => n + r.2) 0
                  (d.take nb, d.drop nb, n, s)))))

end Sys2Proof.Machine
end

