-- ==== Sys2Proof/Machine/Spr.lean ====
section
/-!
DEFINITION. The sparse engines (06): S8 tiles (R194-R201), their header and content checks (R209, R210), `spmm` (R202-R211,
R219) and `pack` (R212-R215).
-/
namespace Sys2Proof.Machine

/-! ### S8 tiles -/

/-- A tile header (R195). -/
structure S8Hdr where
  format : Nat
  kind : Nat
  dense : Bool
  maskOnly : Bool
  rows : Nat
  cols : Nat
  rsv : Bool
  count : Nat
  deriving DecidableEq, Repr

def parseS8 (v : Nat) : S8Hdr :=
  { format := bits v 3 0, kind := bits v 5 4, dense := bitAt v 6, maskOnly := bitAt v 7, rows := 16 * (bits v 19 8 + 1),
    cols := 16 * (bits v 30 20 + 1), rsv := bitAt v 31, count := bits v 63 32 }

/-- The header word of a tile. -/
def s8Word (h : S8Hdr) : Nat :=
  h.format + 16 * h.kind + 64 * b2n h.dense + 128 * b2n h.maskOnly + 256 * (h.rows / 16 - 1) + 2 ^ 20 * (h.cols / 16 - 1) +
  2 ^ 32 * h.count

/-- N of an N:8 kind; none for unstructured. -/
def perWindow (kind : Nat) : Option Nat := match kind with | 0 => some 4 | 1 => some 2 | 2 => some 1 | _ => none

/-- Lc, Lp, Lv, L and 8 + D (R198-R200). -/
def s8Lc (h : S8Hdr) : Nat := if (perWindow h.kind).isNone then h.rows * h.cols / 16 else 0
def s8Lp (h : S8Hdr) : Nat := 3 * ceilDiv h.count 8
def s8Lv (fmt n : Nat) : Nat :=
  if fmt = 8 ∨ fmt = 13 then ceilDiv n 2 else if fmt = 6 ∨ fmt = 7 then 3 * ceilDiv n 4 else n * (elemBits fmt / 8)
def s8Sparse (h : S8Hdr) : Nat := roundUp (8 + s8Lc h + s8Lp h + (if h.maskOnly then 0 else s8Lv h.format h.count)) 8
def s8Dense (fmt rows cols : Nat) : Nat := 8 + rows * cols * elemBits fmt / 8
def s8Len (h : S8Hdr) : Nat := if h.dense then s8Dense h.format h.rows h.cols else s8Sparse h

/-- The entries of one window from its codes: columns, or none when the codes do not ascend or the count is above 8. -/
def windowCols (cnt w : Nat) (code : Nat → Nat) : Option (List Nat) :=
  let cs := (List.range cnt).map code
  if 8 < cnt ∨ (List.range (cnt - 1)).any (fun i => decide (code (i + 1) ≤ code i)) then none
  else some (cs.map (fun p => 8 * w + p))

/-- The columns of a row's entries, window by window; `i` entries precede the row. -/
def rowCols (bs : List Byte) (h : S8Hdr) (r : Nat) : List Nat → Nat → Option (List Nat)
  | [], _ => some []
  | w :: ws, i =>
    let nib := r * (h.cols / 8) + w
    let cnt := match perWindow h.kind with
      | some n => n
      | none => natAt bs (8 + nib / 2) 1 / (if nib % 2 = 1 then 16 else 1) % 16
    let code := fun j => natAt bs (8 + s8Lc h + (i + j) / 8 * 3) 3 / 2 ^ (3 * ((i + j) % 8)) % 8
    if h.count < i + cnt then none
    else match windowCols cnt w code with
      | none => none
      | some l => (rowCols bs h r ws (i + cnt)).map (l ++ ·)

/-- The columns of every row's entries, and the first row whose content fails, if any (R210). -/
def tileCols (bs : List Byte) (h : S8Hdr) : List Nat → Nat → List (List Nat) → List (List Nat) × Option Nat
  | [], i, acc => (acc, if i = h.count then none else some (h.rows - 1))
  | r :: rs, i, acc =>
    match rowCols bs h r (List.range (h.cols / 8)) i with
    | none => (acc, some r)
    | some l => tileCols bs h rs (i + l.length) (acc ++ [l])

/-- A dense row from entry columns and values. -/
def spread8 (cols : Nat) (ls vs : List Nat) : List Nat :=
  (List.range cols).map (fun k => match (ls.zip vs).find? (fun e => e.1 = k) with
    | some e => e.2
    | none => 0)

/-- The rows of a tile as element encodings, +0 at every position it does not store; and the first failing row. -/
def tileRows (bs : List Byte) (h : S8Hdr) : List (List Nat) × Option Nat :=
  if h.dense then
    let es := unpackElems h.format (h.rows * h.cols) (bs.drop 8)
    ((List.range h.rows).map (fun r => (es.drop (r * h.cols)).take h.cols), none)
  else
    match tileCols bs h (List.range h.rows) 0 [] with
    | (ls, bad) =>
      let vs := unpackElems h.format h.count (bs.drop (8 + s8Lc h + s8Lp h))
      ((ls.foldl (fun (a : List (List Nat) × Nat) l =>
        (a.1 ++ [spread8 h.cols l ((vs.drop a.2).take l.length)], a.2 + l.length)) ([], 0)).1, bad)

/-- The header checks of R209 for the A of `spmm`. -/
def spmmHdrOk (h : S8Hdr) (f : SprF) (rows cols : Nat) : Bool :=
  !h.maskOnly && decide (h.format = f.fmtA.toNat) && decide (h.rows = rows ∧ h.cols = cols) &&
  (h.dense || decide (h.kind = f.maskKind.toNat)) &&
  (h.dense || (match perWindow h.kind with | some n => decide (h.count = h.rows * h.cols * n / 8) | none => true)) && !h.rsv

/-- The header checks of R213 for the mask of `pack`. -/
def maskHdrOk (h : S8Hdr) (f : SprF) (m k : Nat) : Bool :=
  h.maskOnly && !h.dense && decide (h.rows = m ∧ h.cols = k ∧ h.kind = f.maskKind.toNat) &&
  (match perWindow h.kind with | some n => decide (h.count = h.rows * h.cols * n / 8) | none => true) && !h.rsv

/-! ### SPMM -/

/-- Transposition of a matrix given by rows. -/
def transpose (cols : Nat) (rows : List (List Nat)) : List (List Nat) :=
  (List.range cols).map (fun j => rows.map (fun r => r.getD j 0))

/-- The rows of A as values, with the scale that R211 gives each element. -/
def spmmA (f : SprF) (m k : Nat) (rows : List (List Nat)) (sc : List Byte) : List (List FV) :=
  let mat := if f.transpose then transpose m rows else rows
  (indexed mat).map (fun r => (indexed r.2).map (fun e =>
    let i := if f.transpose then e.1 * (m / 32) + r.1 / 32 else r.1 * (k / 32) + e.1 / 32
    inVal f.fmtA.toNat f.mxA (sc.getD i 0).toNat e.2))

/-- Bytes of an abandoned or failed output: free values of the run. -/
def freeBytes (s : State) (k : Nat) (r : Nat × Nat) : State :=
  (List.range r.2).foldl (fun s i =>
    let c := getCore s k
    setCore { s with free := s.free + 1 } k { c with b0 := mput 0 c.b0 (r.1 + i) ((Config.freeWord s.free).setWidth 8) }) s

/-- Ranges of A's scales. -/
def spmmScales (c : Core) (f : SprF) (m k : Nat) : List (Nat × Nat) := if f.mxA then [(regA1 c f.aReg, m * k / 32)] else []

/-- An `spmm` whose tile fails a content check: the rows of the groups before it are written, the rest of C holds no stated
value, and the core faults (R210). -/
def spmmFail (s : State) (k : Nat) (f : SprF) (m g : Nat) (rows : List (List Byte)) (scs : List Byte) : State :=
  let c := getCore s k
  let n := 32 * g
  let w := elemBytes f.outFmt.toNat 32
  let s := setCore s k { c with b0 := writeBytes c.b0 (regA c f.cReg) (rows.take n).flatten }
  let s := freeBytes s k (regA c f.cReg + n * w, (m - n) * w)
  let s := if f.outMx then
      let c := getCore s k
      freeBytes (setCore s k { c with b0 := writeBytes c.b0 (regA1 c f.cReg) (scs.take n) }) k (regA1 c f.cReg + n, m - n)
    else s
  unitFault s k fIllegal

/-- SPMM (R208-R211). -/
def execSpmm (k : Fin 512) (f : SprF) (s : State) : Host.Outcome State Fault Refusal :=
  .next (issue s k (fun c =>
    let a := f.fmtA.toNat
    let b := f.fmtB.toNat
    let out := f.outFmt.toNat
    let kk := kOf f.kField
    let m := mOf c f.mSrc f.mField
    let ac := (acRanges c a out m kk f.mxA f.outMx f.aReg f.cReg)
    let rest := spmmScales c f m kk ++ cRanges c out m f.outMx f.cReg ++ bRanges c b kk f.mxB f.bReg
    if !productOk a b out kk f.mxA f.mxB f.sr f.outMx then unitFault s k fIllegal
    else if 4096 < m then unitFault s k fBounds
    else if f.mxA && f.transpose && m % 32 ≠ 0 then unitFault s k fIllegal
    else match operandFault ((regA c f.aReg, if m = 0 then 0 else 8) :: rest) with
      | some e => unitFault s k e
      | none =>
        if m = 0 then (if ac = [] then s else emptyOp s k [13])
        else if !admits c [(regA c f.aReg, 8)] [] then stallCore s k 2
        else
          let h := parseS8 (readNat c.b0 (regA c f.aReg) 8)
          let (rows, cols) := if f.transpose then (kk, m) else (m, kk)
          if !spmmHdrOk h f rows cols then unitFault s k fIllegal
          else if b0End < regA c f.aReg + s8Len h then unitFault s k fBounds
          else
            let rd := (regA c f.aReg, s8Len h) :: rest
            let wr := cRanges c out m f.outMx f.cReg
            if !queueRoom c (4 + f.engine.toNat) then stallCore s k 1
            else if !admits c rd wr then stallCore s k 2
            else
              let get := fun (r : Nat × Nat) => readBytes c.b0 r.1 r.2
              let (ar, bad) := tileRows (get (regA c f.aReg, s8Len h)) h
              let av := spmmA f m kk ar (match spmmScales c f m kk with | r :: _ => get r | [] => [])
              let bv := bRows b kk f.mxB (get (regA c f.bReg, kk * elemBytes b 32)) (if f.mxB then get (regA1 c f.bReg, kk) else [])
              match product a out f.acc f.sr f.outMx (getS c 31).toNat av bv (get (regA c f.cReg, m * elemBytes out 32))
                  (if f.outMx then get (regA1 c f.cReg, m) else []) with
              | (cr, scs, cnt) =>
                match bad with
                | some r => spmmFail s k f m (if f.transpose then 0 else r / 32) cr scs
                | none => issueOp s k (4 + f.engine.toNat) rd wr (fun s c =>
                    ({ op0 .spr with out := [(regA c f.cReg, cr.flatten)] ++ (if f.outMx then [(regA1 c f.cReg, scs)] else [])
                                     srConv := cnt }, s))))

/-! ### PACK -/

/-- The element at row r, column k of the dense input: K/32 panels of M rows of 32 elements (R212). -/
def panelElem (f : SprF) (m : Nat) (bs : List Byte) (r k : Nat) : Nat :=
  let fmt := f.fmtB.toNat
  let w := elemBytes fmt 32
  (unpackElems fmt 32 ((bs.drop (k / 32 * (m * w) + r * w)).take w)).getD (k % 32) 0

/-- The kept elements of one block of a row converted: their encodings, scale byte, stochastic conversions (R214). -/
def packBlock (f : SprF) (seed r kk : Nat) (j : Nat) (vs : List (Nat × FV)) : List Nat × Nat × Nat :=
  let out := f.outFmt.toNat
  let rb := fun (i : Nat) => if f.sr then some (srBits seed (r * (kk / 32) + j) ((vs.getD i (0, .nan)).1 % 32)) else none
  if vs = [] then ([], 0, 0)
  else if f.outMx then
    match mxRow out rb (vs.map (·.2)) with
    | (sc, es, n) => (es, sc, n)
  else ((indexed vs).map (fun e => enc out (rb e.1) e.2.2), 0, if f.sr then vs.length else 0)

/-- One row: entry columns to encodings, scale bytes of its blocks, stochastic conversions. -/
def packRow (f : SprF) (m kk seed : Nat) (bs : List Byte) (r : Nat) (cols : List Nat) : List Nat × List Nat × Nat :=
  let blocks := (List.range (kk / 32)).map (fun j =>
    packBlock f seed r kk j ((cols.filter (fun k => k / 32 = j)).map (fun k => (k, dec f.fmtB.toNat (panelElem f m bs r k)))))
  (blocks.flatMap (·.1), blocks.map (fun b => b.2.1), blocks.foldl (fun n b => n + b.2.2) 0)

/-- Codes of entries packed eight to three bytes (R196). -/
def packCodes (cs : List Nat) : List Byte :=
  (chunks 8 (cs.length + 1) cs).flatMap (fun g => bytesOf 3 ((indexed g).foldl (fun v e => v + e.2 * 2 ^ (3 * e.1)) 0))

/-- The output tile of `pack` (R212). -/
def packTile (f : SprF) (h : S8Hdr) (counts : List Byte) (cols : List (List Nat)) (vals : List (List Nat)) : List Byte :=
  let o : S8Hdr := { h with format := f.outFmt.toNat, dense := false, maskOnly := false }
  if s8Dense o.format o.rows o.cols ≤ s8Sparse o then
    bytesOf 8 (s8Word { o with dense := true, count := 0 }) ++
      ((cols.zip vals).flatMap (fun e => packElems o.format (spread8 h.cols e.1 e.2)))
  else
    padTo (s8Sparse o) (bytesOf 8 (s8Word o) ++ counts ++ packCodes (cols.flatten.map (· % 8)) ++
      packElems o.format vals.flatten)

/-- The ILLEGAL cases of `pack` that need no operand (R213, R153). -/
def packOk (f : SprF) (kk : Nat) : Bool :=
  !f.mxA && !f.mxB && !f.acc && !f.transpose && kk % 32 = 0 && decide (f.fmtB.toNat ≠ 9 ∧ f.fmtB.toNat ≠ 15) &&
  isArrIn f.outFmt.toNat && roundOk f.outFmt.toNat f.sr f.outMx

/-- PACK (R212-R215). -/
def execPack (k : Fin 512) (f : SprF) (s : State) : Host.Outcome State Fault Refusal :=
  .next (issue s k (fun c =>
    let out := f.outFmt.toNat
    let kk := kOf f.kField
    let m := mOf c f.mSrc f.mField
    let dense := (regA c f.bReg, m * kk * elemBits f.fmtB.toNat / 8)
    let wr := [(regA c f.cReg, if m = 0 then 0 else roundUp (s8Dense out m kk) 64)] ++
      (if f.outMx then [(regA1 c f.cReg, m * (kk / 32))] else [])
    if !packOk f kk then unitFault s k fIllegal
    else if 4096 < m then unitFault s k fBounds
    else match operandFault ((regA c f.aReg, if m = 0 then 0 else 8) :: dense :: wr) with
      | some e => unitFault s k e
      | none =>
        if m = 0 then emptyOp s k []
        else if !admits c [(regA c f.aReg, 8)] [] then stallCore s k 2
        else
          let h := parseS8 (readNat c.b0 (regA c f.aReg) 8)
          if !maskHdrOk h f m kk then unitFault s k fIllegal
          else if b0End < regA c f.aReg + s8Sparse h then unitFault s k fBounds
          else
            let rd := [(regA c f.aReg, s8Sparse h), dense]
            if !queueRoom c (4 + f.engine.toNat) then stallCore s k 1
            else if !admits c rd wr then stallCore s k 2
            else
              let mask := readBytes c.b0 (regA c f.aReg) (s8Sparse h)
              match tileCols mask h (List.range h.rows) 0 [] with
              | (_, some _) => unitFault s k fIllegal
              | (cols, none) =>
                let bs := readBytes c.b0 dense.1 dense.2
                let rows := (indexed cols).map (fun e => packRow f m kk (getS c 31).toNat bs e.1 e.2)
                let tile := packTile f h ((mask.drop 8).take (s8Lc h)) cols (rows.map (·.1))
                issueOp s k (4 + f.engine.toNat) rd wr (fun s c =>
                  ({ op0 .pack with
                     out := [(regA c f.cReg, tile)] ++
                       (if f.outMx then [(regA1 c f.cReg, (rows.flatMap (fun r => r.2.1)).map (BitVec.ofNat 8))] else [])
                     srConv := rows.foldl (fun n r => n + r.2.2) 0 }, s))))

end Sys2Proof.Machine
end

