-- ==== Sys2Proof/Machine/Recv.lean ====
section
/-!
DEFINITION. The receiving side of the end-to-end protocol (12 R402, R412, R415, R416): the delivery entries, duplicates and
stale sessions, the contexts that engine packets address (03 R111), and messages of several packets.
-/
namespace Sys2Proof.Machine

/-! ### Delivery entries (R415, R416) -/

def getDelivery (s : State) (src : Nat) : Delivery := mget {} s.fab.delivery src
def setDelivery (s : State) (src : Nat) (d : Delivery) : State :=
  { s with fab := { s.fab with delivery := mput {} s.fab.delivery src d } }

/-- A request against its sender's entry (R416). -/
inductive Fresh where
  | stale | dup | fresh
  deriving DecidableEq, Repr

/-- PSN is delivered in the entry's session: below the base, or marked above it. PSNs compare modulo 2^32. -/
def psnSeen (d : Delivery) (psn : Nat) : Bool :=
  let gap := (psn + 2 ^ 32 - d.base) % 2 ^ 32
  decide (2 ^ 31 ≤ gap) || d.seen.contains psn

def freshOf (s : State) (p : Packet) : Fresh :=
  let d := getDelivery s p.src.toNat
  if p.session.toNat < d.session.toNat then .stale
  else if p.session.toNat = d.session.toNat ∧ psnSeen d p.psn.toNat then .dup
  else .fresh

/-- A newer session clears the entry. -/
def openSession (s : State) (p : Packet) : State :=
  if (getDelivery s p.src.toNat).session.toNat < p.session.toNat then setDelivery s p.src.toNat { session := p.session } else s

/-- The base moved over delivered PSNs that follow it. -/
def slideBase : Nat → Nat → List Nat → Nat × List Nat
  | 0, b, l => (b, l)
  | fuel + 1, b, l => if l.contains b then slideBase fuel ((b + 1) % 2 ^ 32) (l.filter (· ≠ b)) else (b, l)

/-- A request delivered: its PSN is marked in the map of the 256 above the base, an atomic's old value is kept among the last
32 (R415). -/
def recordPsn (s : State) (p : Packet) (old : Option W64) : State :=
  let d := getDelivery s p.src.toNat
  let n := p.psn.toNat
  let gap := (n + 2 ^ 32 - d.base) % 2 ^ 32
  let base := if 256 ≤ gap then (n + 2 ^ 32 - 255) % 2 ^ 32 else d.base
  let seen := d.seen.filter (fun x => decide ((x + 2 ^ 32 - base) % 2 ^ 32 < 256)) ++ [n]
  match slideBase 257 base seen with
  | (b, l) => setDelivery s p.src.toNat { d with base := b, seen := l, olds := match old with
      | some v => (d.olds ++ [(n, v)]).drop (d.olds.length - 31)
      | none => d.olds }

/-- OP is none of R402. -/
def badOp (p : Packet) : Bool :=
  if p.long then !([1, 2, 3, 4, 8, 9, 10].contains p.op.toNat) else !([1, 2].contains p.op.toNat)

/-- A request delivered at this node: a packet beyond its CRC is dropped (11 R374), a reserved OP counted (R402), a stale
session dropped, a duplicate answered again; a new one goes to its receiver, which may leave it waiting in the Yard (none). -/
def recv (s : State) (p : Packet) (dup : State → State) (act : State → Option State) : State :=
  if p.dest.toNat ≠ node s then s
  else match takeDelivery s p with
    | none => crcDrop s p
    | some t =>
      if badOp p then { t with fab := { t.fab with badPackets := inc32 t.fab.badPackets 1 } }
      else match freshOf t p with
        | .stale => { t with fab := { t.fab with staleSession := inc32 t.fab.staleSession 1 } }
        | .dup => dup { t with fab := { t.fab with duplicates := inc64 t.fab.duplicates 1 } }
        | .fresh => (act (openSession t p)).getD s

/-- The answer OK, with the request recorded as delivered. -/
def accept (s : State) (port : Nat) (p : Packet) : State := sendAck (recordPsn s p none) port p 0 0

/-! ### Packets that address a context (R403, 03 R111) -/

/-- What a TRAMWAY or COLLECTIVE packet meets at its context: NOT_READY without a committed image or for a context without
cores, CONTEXT_GONE with the count CTX_DROPPED_IN for one that is torn down, and its engine otherwise. -/
def engineGate (s : State) (port : Nat) (p : Packet) (k : State → Option State) : Option State :=
  let c := p.ctx.toNat
  let x := getCtx s c
  if noImage s then some (sendAck s port p 2 0)
  else match x.st with
    | .teardown | .gone => some (sendAck (setCtx s c { x with droppedIn := inc64 x.droppedIn 1 }) port p 1 0)
    | .absent | .declared | .done => some (sendAck s port p 2 0)
    | _ => k s

/-! ### Messages (R402) -/

/-- A list cut into pieces of `n`. -/
def cut {α : Type} (n : Nat) (l : List α) : List (List α) := chunks n l.length l

/-- PART_OFS and MSG_FLITS. -/
def partOfs (p : Packet) : Nat := p.w3.toNat % 2 ^ 32
def msgFlits (p : Packet) : Nat := p.w3.toNat / 2 ^ 32

/-- A packet and a message being received belong together. -/
def ofMsg (p : Packet) (m : EMsg) : Bool :=
  m.src = p.src && m.session = p.session && m.stream = p.w4 && m.word5 = p.w5

/-- The payload at the start of a packet's message: its own, or one received before. -/
def msgFirst (s : State) (p : Packet) : Option (List Byte) :=
  if partOfs p = 0 then some p.payload
  else (s.fab.msgs.find? (ofMsg p)).bind (fun m => (m.got.find? (fun g => g.1 = 0)).map (·.2))

/-- A packet added to its message: the whole message once every flit has come. -/
def msgAdd (s : State) (p : Packet) : Option (List Byte) × State :=
  let old := ((s.fab.msgs.find? (ofMsg p)).map (·.got)).getD []
  let got := insertBy (fun (g : Nat × List Byte) => g.1) (partOfs p, p.payload) (old.filter (fun g => g.1 ≠ partOfs p))
  let rest := s.fab.msgs.filter (fun m => !ofMsg p m)
  if msgFlits p ≤ got.foldl (fun n g => n + ceilDiv g.2.length 64) 0 then
    (some (got.flatMap (·.2)), { s with fab := { s.fab with msgs := rest } })
  else (none, { s with fab := { s.fab with msgs := rest ++
    [{ src := p.src, session := p.session, stream := p.w4, word5 := p.w5, got := got }] } })

/-- The packets of a message of an engine: payloads of up to 2,048 bytes, in order. -/
def msgPackets (s : State) (ctx dest op vc w4 w5 : Nat) (b : List Byte) : List Packet :=
  let total := ceilDiv b.length 64
  let mk := fun (ofs : Nat) (d : List Byte) =>
    { pkt0 with dest := BitVec.ofNat 14 dest, src := BitVec.ofNat 14 (node s), vc := BitVec.ofNat 3 vc,
                op := BitVec.ofNat 5 op, ctx := BitVec.ofNat 4 ctx, w3 := BitVec.ofNat 64 (ofs + 2 ^ 32 * total),
                w4 := BitVec.ofNat 64 w4, w5 := BitVec.ofNat 64 w5, payload := padFlits d }
  if b = [] then [mk 0 []]
  else (indexed (cut 2048 b)).map (fun e => mk (32 * e.1) e.2)

/-! ### Compression on the wire (08 R276, R277) -/

/-- A chunk of 64 zero bytes. -/
def zeroChunk (c : List Byte) : Bool := c.all (fun b => b = 0)

/-- The body of a part in its chosen form: the Z64 form when it is allowed and shorter than the dense form. -/
def bodyBytes (zcomp : Bool) (rows : List Byte) : List Byte :=
  let cs := (cut 64 rows).map (padTo 64)
  let n := cs.length
  let present := cs.filter (fun c => !zeroChunk c)
  if zcomp ∧ 8 + 8 * ceilDiv n 64 + 64 * present.length < 8 + 64 * n then
    bytesOf 8 n ++
    bytesOf (8 * ceilDiv n 64) ((indexed cs).foldl (fun a e => if zeroChunk e.2 then a else a + 2 ^ e.1) 0) ++
    present.flatten
  else bytesOf 8 (n + 2 ^ 32) ++ cs.flatten

/-- The length of the body at the head of some bytes, by its own header. -/
def bodyLen (b : List Byte) : Nat :=
  let n := natAt b 0 4
  if bitAt (natAt b 0 8) 32 then 8 + 64 * n
  else 8 + 8 * ceilDiv n 64 + 64 * ((List.range n).countP (fun i => bitAt (natAt b 8 (8 * ceilDiv n 64)) i))

/-- The chunks of a Z64 body. -/
def expandZ : List Bool → List (List Byte) → List Byte
  | [], _ => []
  | false :: m, cs => List.replicate 64 0 ++ expandZ m cs
  | true :: m, c :: cs => padTo 64 c ++ expandZ m cs
  | true :: m, [] => List.replicate 64 0 ++ expandZ m []

/-- The rows that a body carries. -/
def bodyRows (b : List Byte) : List Byte :=
  let n := natAt b 0 4
  if bitAt (natAt b 0 8) 32 then padTo (64 * n) ((b.drop 8).take (64 * n))
  else
    let w := 8 * ceilDiv n 64
    let map := natAt b 8 w
    expandZ ((List.range n).map (fun i => bitAt map i)) (cut 64 (b.drop (8 + w)))

end Sys2Proof.Machine
end

