-- ==== Sys2Proof/Machine/Rings.lean ====
section
/-!
DEFINITION. The digest ring and the sample ring in Bench 1 (14 R474, R495; 11 R388, R390), layer digests (14 R470-R472),
spoil counts (R473), and the measurement slots (15 R538).
-/
namespace Sys2Proof.Machine

/-! ### Rings -/

/-- A ring is in use: its size lies in 16-30 (14 R474). -/
def ringOn (r : Ring) : Bool := decide (16 ≤ r.size.toNat ∧ r.size.toNat ≤ 30)

/-- Records of `sz` bytes that a ring holds. -/
def ringSlots (r : Ring) (sz : Nat) : Nat := 2 ^ r.size.toNat / sz

/-- The requester of ring writers. -/
def ringReq : Req := { kind := 9, index := 0, ctx := none }

/-- A record appended to a ring: nothing while it is off, counted as lost when it is full (14 R474, 11 R390). -/
def ringPut (s : State) (r : Ring) (rec : List Byte) : Ring × State :=
  if !ringOn r then (r, s)
  else if (r.wr - r.rd).toNat = ringSlots r rec.length then ({ r with lost := inc64 r.lost 1 }, s)
  else
    let ofs := r.base.toNat + rec.length * (r.wr.toNat % ringSlots r rec.length)
    ({ r with wr := inc32 r.wr 1 }, b1Write s ofs rec ringReq)

/-- A record of the digest ring. -/
def digPut (s : State) (rec : List Byte) : State :=
  match ringPut s s.dbg.dig rec with
  | (r, s) => { s with dbg := { s.dbg with dig := r } }

/-- A record of the sample ring. -/
def sampPut (s : State) (rec : List Byte) : State :=
  match ringPut s s.dbg.samp rec with
  | (r, s) => { s with dbg := { s.dbg with samp := r } }

/-! ### Layer digests (14 R470-R472) -/

/-- The 32-byte coordinate record (R470). -/
def coordRec (cls key c1 c2 c3 : Nat) : List Byte :=
  bytesOf 2 cls ++ bytesOf 2 key ++ bytesOf 4 c1 ++ bytesOf 8 c2 ++ bytesOf 8 c3 ++ List.replicate 8 0

/-- A tile folded into the digest of its context, class, key and step (R470, R471): late folds and folds that find 2,048
accumulators in use go into DIG_TOTAL alone. -/
def fold (s : State) (c cls key c1 c2 c3 : Nat) (step : W64) (tile : List Byte) : State :=
  let h := crc64 (coordRec cls key c1 c2 c3 ++ tile)
  let x := getCtx s c
  let x := { x with digTotal := x.digTotal + h }
  if step.toNat < x.written then setCtx s c { x with lateFolds := inc32 x.lateFolds 1 }
  else
    let same := fun (a : DigAcc) => a.ctx.val = c && a.cls = cls && a.key = key && a.step = step
    if s.dbg.accs.any same then
      setCtx { s with dbg := { s.dbg with accs := s.dbg.accs.map (fun a => if same a then { a with sum := a.sum + h } else a) } } c x
    else if 2048 ≤ s.dbg.accs.length then setCtx s c { x with digOverflow := inc32 x.digOverflow 1 }
    else setCtx { s with dbg := { s.dbg with accs := s.dbg.accs ++
      [{ ctx := ctxFin c, cls := cls, key := key, step := step, sum := h }] } } c x

/-- Spoil counted for a step of a context (R473). -/
def addSpoil (s : State) (c : Nat) (step : W64) (n : Nat) : State :=
  if n = 0 then s
  else
    let x := getCtx s c
    let s := setCtx s c { x with spoilTotal := inc64 x.spoilTotal n }
    if step.toNat < x.written then s
    else
      let same := fun (e : Fin 16 × W64 × Nat) => e.1.val = c && e.2.1 = step
      let l := if s.dbg.spoils.any same then s.dbg.spoils.map (fun e => if same e then (e.1, e.2.1, e.2.2 + n) else e)
               else s.dbg.spoils ++ [(ctxFin c, step, n)]
      { s with dbg := { s.dbg with spoils := l } }

/-- A record of the digest ring (R474). -/
def digRec (step c cls key digest spoil ndc : Nat) : List Byte :=
  bytesOf 8 step ++ bytesOf 8 (c + 16 * cls + 64 * key) ++ bytesOf 8 digest ++ bytesOf 4 spoil ++ bytesOf 4 ndc

/-- The records of one step written, in ascending class and key, then the step record; its accumulators are freed (R472). -/
def digestStep (s : State) (c step : Nat) : State :=
  let mine := sortBy (fun (a : DigAcc) => a.cls * 65536 + a.key)
    (s.dbg.accs.filter (fun a => a.ctx.val = c && a.step.toNat = step))
  let sum := mine.foldl (fun (t : W64) a => t + a.sum) 0
  let spoil := (s.dbg.spoils.filter (fun e => e.1.val = c && e.2.1.toNat = step)).foldl (fun t e => t + e.2.2) 0
  let s := mine.foldl (fun s a => digPut s (digRec step c a.cls a.key a.sum.toNat 0 0)) s
  let s := digPut s (digRec step c 3 0 sum.toNat spoil (getCtx s c).ndc.toNat)
  let x := getCtx s c
  setCtx { s with dbg := { s.dbg with
      accs := s.dbg.accs.filter (fun a => !(a.ctx.val = c && a.step.toNat = step))
      spoils := s.dbg.spoils.filter (fun e => !(e.1.val = c && e.2.1.toNat = step)) } } c
    { x with written := max x.written (step + 1) }

/-- The records due when `done` steps have ended: of every step up to `upto` not yet written. -/
def digestUpTo (s : State) (c upto : Nat) : State :=
  ((List.range upto).filter (fun i => decide ((getCtx s c).written ≤ i))).foldl (fun s i => digestStep s c i) s

/-- A context's digests, spoil counts and NDC at zero: LAUNCH and a full commit (R469, R471). -/
def digestClear (s : State) (c : Nat) : State :=
  let x := getCtx s c
  setCtx { s with dbg := { s.dbg with accs := s.dbg.accs.filter (fun a => a.ctx.val ≠ c)
                                      spoils := s.dbg.spoils.filter (fun e => e.1.val ≠ c) } } c
    { x with ndc := 0, digTotal := 0, lateFolds := 0, digOverflow := 0, spoilTotal := 0, written := 0 }

/-! ### Measurement slots (15 R538) -/

def getMeas (s : State) (m : Nat) : Meas := mget {} s.aon.meas m
def setMeas (s : State) (m : Nat) (x : Meas) : State := { s with aon := { s.aon with meas := mput {} s.aon.meas m x } }

/-- A slot takes a value; MCOUNT advances when it changes. -/
def measSet (s : State) (m : Nat) (v : List Byte) : State :=
  let x := getMeas s m
  setMeas s m { value := v, pending := false, next := [], count := if x.value = v then x.count else inc32 x.count 1 }

/-- The recomputation of a slot begins; MEASUREMENT_RECOMPUTED ends it. -/
def measStart (s : State) (m : Nat) (v : List Byte) : State :=
  let x := getMeas s m
  setMeas s m { x with pending := true, next := v }

end Sys2Proof.Machine
end

