-- ==== Sys2Proof/Machine/Riddle.lean ====
section
/-!
DEFINITION. The Riddle (07 R223-R256): its commands, the score block, normalisation, selection and weights, capacity and
spoil, the dispatch list and its common handover, load histograms and the activation predictor, stops and faults.
-/
namespace Sys2Proof.Machine

/-! ### Engines and groups (R223-R225) -/

/-- The unit code of an engine. -/
def rdlUnit (e : Nat) : Nat := 512 + e

/-- The context that owns an engine. -/
def rdlCtx (s : State) (e : Nat) : Nat := ((getFace s (rdlUnit e)).owner.map (·.val)).getD 0

/-- The routing group of an engine on this node, in rank order (R224). -/
def rdlGroup (s : State) (e : Nat) : List Nat :=
  ((unitsOf s (rdlCtx s e) (getRiddle s e).gang).filter (fun u => decide (512 ≤ u ∧ u < 544))).map (· - 512)

/-- Words of the command program that an engine runs: at most 256. -/
def rdlWords (s : State) (r : Riddle) : Nat :=
  min 256 (((s.tab.programs.find? (fun p => p.1 = r.prog)).map (fun p => p.2.length)).getD 0)

/-- The engine moves on by `n` words; past the last one it faults with PROG_END (R225). -/
def rdlAdvance (s : State) (e n : Nat) : State :=
  let r := getRiddle s e
  let p := r.pc.toNat + n
  if rdlWords s r ≤ p then unitFault (setRiddle s e { r with phase := .idle }) (rdlUnit e) fProgEnd
  else setRiddle s e { r with pc := BitVec.ofNat 8 p, phase := .idle }

/-- RUN_SLOT on an engine (R225, R252). -/
def riddleRun (s : State) (e prog gang : Nat) : State :=
  let r := { getRiddle s e with prog := prog, gang := gang, ended := false, pc := 0, phase := .idle, lr := none, lane := [],
                                op := none }
  let s := setRiddle s e r
  if rdlWords s r = 0 then unitFault s (rdlUnit e) fProgEnd else s

/-- An engine turns to its next command. -/
def rdlTurns (s : State) (e : Nat) : Bool :=
  !frozen s && (getFace s (rdlUnit e)).st = .running && !(getRiddle s e).ended && (getRiddle s e).op.isNone

/-- RCMD of the word at an engine's pc is reserved (R226). -/
def rdlReserved (s : State) (e : Nat) : Bool :=
  ((wordAt s (getRiddle s e).prog (getRiddle s e).pc.toNat).map (fun w => decide (2 < bits w.toNat 63 60))).getD false

/-- An engine starts its next command. -/
def rdlIssues (s : State) (e : Nat) : Bool := rdlTurns s e && !rdlReserved s e

/-- A command row comes for an engine: the command starts; a reserved RCMD at the pc faults it with ILLEGAL. -/
def rdlCommand (s : State) (e : Nat) (act : State) : State :=
  if rdlIssues s e then act else if rdlTurns s e then unitFault s (rdlUnit e) fIllegal else s

/-- A command of `n` words at `pc` runs past the last word of its program. -/
def cutShort (words pc n : Nat) : Bool := decide (pc < words ∧ words < pc + n)

/-- Fault code SOURCE (R253). -/
def fSource : Nat := 9

/-! ### Choices per token (R233) -/

/-- Group size and number of groups. -/
def grpSize (c : RiddleCfg) : Nat := max 1 (ceilDiv c.experts (max 1 c.groups))
def grpCount (c : RiddleCfg) : Nat := ceilDiv c.experts (grpSize c)
/-- Groups kept. -/
def grpKept (c : RiddleCfg) : Nat := min (max c.topGroups 1) (grpCount c)

/-- E_g: the smallest number of eligible experts a token can have. -/
def eligMin (c : RiddleCfg) : Nat :=
  if c.groups = 0 then c.experts
  else c.experts - (grpCount c - 1) * grpSize c + (grpKept c - 1) * grpSize c

/-- k_eff. -/
def kEff (c : RiddleCfg) : Nat := min c.k (eligMin c)

/-! ### Geometry of the score block and the low-rank table (R228, R231) -/

/-- SCORE_FMT as a format code. -/
def scoreCode (f : BitVec 2) : Nat := if f = 0 then 1 else if f = 1 then 3 else 2

/-- r and d of a low-rank table. -/
def lrRank (f : LrtabF) : Nat := 16 * 2 ^ f.rank.toNat
def lrDim (f : LrtabF) : Nat := 64 * (f.dField.toNat + 1)

/-- Bytes of a row of `n` BF16 values. -/
def bfRow (n : Nat) : Nat := roundUp (2 * n) 64

/-- Z. -/
def lrSize (f : LrtabF) (experts : Nat) : Nat := lrDim f * bfRow (lrRank f) + lrRank f * bfRow experts

/-- Elements of a row of the score block. -/
def rowLen (c : RiddleCfg) (lr : Option LrtabF) : Nat :=
  if c.lowRank then (lr.map lrDim).getD 0 else c.experts

/-- Lrow. -/
def rowBytes (c : RiddleCfg) (lr : Option LrtabF) (fmt : BitVec 2) : Nat :=
  roundUp (rowLen c lr * elemBytes (scoreCode fmt) 1) 64

/-! ### ROUTE: the checks (R226, R227) -/

/-- The pool rules of R227. -/
def routePoolOk (s : State) (c pool need : Nat) : Bool :=
  let q := getPool s pool
  s.tab.parts.any (fun r => r.part = (getCtx s c).part.toNat && r.poolMask.getLsbD pool) && q.declared &&
  decide (need ≤ 2 ^ q.sizeLog2)

/-- ILLEGAL checks of a configuration. -/
def routeCfgOk (c : RiddleCfg) : Bool :=
  decide (1 ≤ c.experts ∧ c.experts ≤ 65536 ∧ 1 ≤ c.k ∧ c.k ≤ 16) &&
  c.capacity % 16 = 0 && decide (16 ≤ c.capacity ∧ c.capacity ≤ 4096)

/-- The source core of an engine of rank `rho`, as a logical core number. -/
def srcCoreOf (f : RouteF) (rho : Nat) : Nat := f.srcCore.toNat + rho * f.srcStride.toNat

/-- The first check that fails, in the order of R227's table. -/
def routeFault (s : State) (e rho : Nat) (f : RouteF) (cfg : Option RiddleCfg) : Option Nat :=
  let ctx := rdlCtx s e
  let r := getRiddle s e
  let t := f.tM1.toNat + 1
  if cutShort (rdlWords s r) r.pc.toNat 2 then some fProgEnd
  else match cfg with
  | none => some fIllegal
  | some c =>
    if f.scoreFmt = 3 ∨ routeCfgOk c = false ∨ 4092 < t * kEff c ∨
        routePoolOk s ctx f.pool.toNat (64 + 16 * t * kEff c) = false ∨
        (c.lowRank ∧ (match r.lr with | some l => decide (4 * 2 ^ 20 < lrSize l c.experts) | none => true) = true) then
      some fIllegal
    else if !(getCtx s ctx).bind.any (fun b => b.1 = srcCoreOf f rho) then some fSource
    else if beyond0 (64 * f.scoreAddr.toNat + 64 + t * rowBytes c r.lr f.scoreFmt) ||
        (c.biasEn && !tierInside s ctx c.biasAddr (4 * c.experts)) ||
        (c.lowRank && (match r.lr with
          | some l => !tierInside s ctx (64 * l.addr.toNat) (lrSize l c.experts)
          | none => false)) then some fBounds
    else none
where beyond0 (a : Nat) : Bool := decide (b0End < a)

/-! ### The consumed mark and SEQ (R229) -/

/-- The expected SEQ. -/
def seqOf (step : W64) (tag : BitVec 16) : Nat := step.toNat % 65536 * 65536 + tag.toNat

/-- The command completes at once on the consumed mark: it counts in ROUTES alone. -/
def routeConsumed (s : State) (e : Nat) : State :=
  let s := bump s (rdlUnit e) 4 1
  let f := getFace s (rdlUnit e)
  rdlAdvance (setRiddle (setFace s (rdlUnit e) { f with st := .running }) e { getRiddle s e with op := none }) e 2

/-- The header read: the block is routed, the command completes at once, or the engine waits for SEQ. -/
def seqCheck (s : State) (e : Nat) (o : ROp) : State :=
  let h := b0Read s (rdlCtx s e) (srcCoreOf o.f o.rho) (64 * o.f.scoreAddr.toNat) 16
  let seq := natAt h 4 4
  let want := seqOf o.step o.f.tag
  let f := getFace s (rdlUnit e)
  if seq = want then
    let o := { o with tokens := min (natAt h 0 4) (o.f.tM1.toNat + 1), tokenBase := BitVec.ofNat 64 (natAt h 8 8) }
    setRiddle (setFace s (rdlUnit e) { f with st := .running }) e { getRiddle s e with op := some o, phase := .load }
  else if seq = want ^^^ 0x80000000 then routeConsumed s e
  else setRiddle (setFace s (rdlUnit e) { f with st := .waiting }) e { getRiddle s e with op := some o, phase := .seqWait }

/-- ROUTE (R226-R229): the checks, the snapshot of the configuration, the placement and the step, and the first read of SEQ. -/
def route (s : State) (e : Nat) (f : RouteF) : State :=
  let ctx := rdlCtx s e
  let rho := (rdlGroup s e).idxOf e
  let cfg := s.tab.riddle.find? (fun c => c.cfg = f.cfg.toNat)
  let step := (getCtx s ctx).stepsDone
  match routeFault s e rho f cfg, cfg with
  | some x, _ => unitFault s (rdlUnit e) x
  | none, none => s
  | none, some c =>
    let r := getRiddle s e
    let s := setRiddle s e { r with cfgId := f.cfg, tag := f.tag, rank := BitVec.ofNat 8 rho }
    seqCheck s e { f := f, rho := rho, gang := r.gang, step := step, cfg := c,
                   place := s.tab.placement.filter (fun p => p.cfg = c.cfg && decide (p.expert < c.experts)),
                   keff := kEff c, tokens := 0, tokenBase := 0, choices := [], nanTokens := 0, list := none,
                   reserved := false }

def execRoute (e : Fin 32) (f : RouteF) (s : State) : Host.Outcome State Fault Refusal :=
  .next (rdlCommand s e.val (route s e.val f))

/-- LRTAB (R226, R231): a different table empties the lane store. -/
def execLrtab (e : Fin 32) (f : LrtabF) (s : State) : Host.Outcome State Fault Refusal :=
  .next (rdlCommand s e.val (
      if f.rank = 3 then unitFault s (rdlUnit e.val) fIllegal
      else
        let r := getRiddle s e.val
        rdlAdvance (setRiddle s e.val { r with lr := some f, lane := if r.lr = some f then r.lane else [] }) e.val 1))

/-- END (R225): nothing further is issued; the engine is IDLE. -/
def execRiddleEnd (e : Fin 32) (s : State) : Host.Outcome State Fault Refusal :=
  .next (rdlCommand s e.val
    (idleUnit (setRiddle s e.val { getRiddle s e.val with ended := true, phase := .idle }) (rdlUnit e.val)))

/-! ### Scoring (R231-R235) -/

/-- The requester of an engine's Bench 1 accesses. -/
def rdlReq (e ctx : Nat) : Req := { kind := 1, index := e, ctx := some ctx }

def fv0 : FV := .fin false 0 0
def fv1 : FV := .fin false 1 0

/-- sigmoid32: the FP32 value nearest 1 / (1 + e^-x). -/
def sigmoid32 (a : FV) : FV := rnd 1 (fdiv fv1 (fadd fv1 (fexp (fneg a))))

/-- exp32 of an FP32 value. -/
def exp32 (a : FV) : FV := rnd 1 (fexp a)

/-- tree_sum: the tree of R148 in WX48, rounded once to FP32. -/
def treeSum32 (l : List FV) : FV := rnd 1 (treeOf 14 l)

/-- p of a token's scores (R232). -/
def normalise (norm : Nat) (sc : List FV) : List FV :=
  if norm = 0 then
    match sc with
    | [] => []
    | v :: r =>
      let m := r.foldl fmax v
      let x := sc.map (fun a => exp32 (rnd 1 (fadd a (fneg m))))
      let z := treeSum32 x
      x.map (fun a => rnd 1 (fdiv a z))
  else sc.map sigmoid32

/-- Key order (R233): whether `a` goes before `b`; each is an index and a key. -/
def keyBefore (a b : Nat × FV) : Bool :=
  match a.2, b.2 with
  | .nan, .nan => decide (a.1 < b.1)
  | .nan, _ => false
  | _, .nan => true
  | x, y => match fcmp x y with
    | some .gt => true
    | some .eq => decide (a.1 < b.1)
    | _ => false

/-- The first entry in key order. -/
def keyFirst : List (Nat × FV) → Option (Nat × FV)
  | [] => none
  | a :: r => match keyFirst r with
    | some b => some (if keyBefore a b then a else b)
    | none => some a

/-- The first `n` indices in key order. -/
def keyTop : Nat → List (Nat × FV) → List Nat
  | 0, _ => []
  | n + 1, l => match keyFirst l with
    | some a => a.1 :: keyTop n (l.filter (fun b => b.1 ≠ a.1))
    | none => []

/-- The eligible experts with their keys (R232). -/
def eligible (c : RiddleCfg) (keys : List FV) : List (Nat × FV) :=
  let l := indexed keys
  if c.groups = 0 then l
  else
    let g := grpSize c
    let firsts := (List.range (grpCount c)).filterMap (fun j =>
      (keyFirst (l.filter (fun a => a.1 / g = j))).map (fun a => (j, a.2)))
    let kept := keyTop (grpKept c) firsts
    l.filter (fun a => kept.contains (a.1 / g))

/-- The choices of one token, in choice order, with their weights, and whether some p is NaN (R232, R235). -/
def tokenChoices (c : RiddleCfg) (keff : Nat) (bias : List FV) (sc : List FV) : List (Nat × W32) × Bool :=
  let p := normalise c.norm sc
  let keys := if c.biasEn then (indexed p).map (fun a => rnd 1 (fadd a.2 (bias.getD a.1 fv0))) else p
  let ch := keyTop keff (eligible c keys)
  let ps := ch.map (fun i => p.getD i fv0)
  let w := treeSum32 ps
  let ws := ps.map (fun a => if w.isZero then fv0 else rnd 1 (fdiv a w))
  (ch.zip (ws.map (fun a => BitVec.ofNat 32 (enc 1 none a))), p.any (· == .nan))

/-- Scores of a token in the low-rank lane (R231). -/
def laneScores (l : LrtabF) (experts : Nat) (tab : List Byte) (x : List FV) : List FV :=
  let r := lrRank l
  let d := lrDim l
  let u := (List.range d).map (fun k => (unpackElems 3 r (tab.drop (k * bfRow r))).map (dec 3))
  let v := (List.range r).map (fun j => (unpackElems 3 experts (tab.drop (d * bfRow r + j * bfRow experts))).map (dec 3))
  let h := (rowSum 14 (List.replicate r fv0) x u).map (rnd 1)
  (rowSum 14 (List.replicate experts fv0) h v).map (rnd 1)

/-- The table in the lane store, loaded at the first use (R231). -/
def loadLane (s : State) (e : Nat) (o : ROp) : List Byte × State :=
  let r := getRiddle s e
  match r.lr with
  | none => ([], s)
  | some l =>
    if o.cfg.lowRank = false then ([], s)
    else if r.lane ≠ [] then (r.lane, s)
    else match tierRead s (rdlCtx s e) (64 * l.addr.toNat) (lrSize l o.cfg.experts) (rdlReq e (rdlCtx s e)) with
      | (t, _, s) => (t, setRiddle s e { getRiddle s e with lane := t })

/-- The bias vector, read at every command (R234). -/
def loadBias (s : State) (e : Nat) (o : ROp) : List FV × State :=
  if o.cfg.biasEn then
    match tierRead s (rdlCtx s e) o.cfg.biasAddr (4 * o.cfg.experts) (rdlReq e (rdlCtx s e)) with
    | (b, _, s) => ((unpackElems 1 o.cfg.experts b).map (dec 1), s)
  else ([], s)

/-- Every row of the block scored and its choices made. -/
def scoreRows (s : State) (e : Nat) (o : ROp) (tab : List Byte) (bias : List FV) : List (Nat × Nat × Nat × W32) × Nat :=
  let r := getRiddle s e
  let lrow := rowBytes o.cfg r.lr o.f.scoreFmt
  let n := rowLen o.cfg r.lr
  let fmt := scoreCode o.f.scoreFmt
  (List.range o.tokens).foldl (fun (a : List (Nat × Nat × Nat × W32) × Nat) i =>
    let bs := b0Read s (rdlCtx s e) (srcCoreOf o.f o.rho) (64 * o.f.scoreAddr.toNat + 64 + i * lrow) lrow
    let x := (unpackElems fmt n bs).map (dec fmt)
    let sc := match r.lr with
      | some l => if o.cfg.lowRank then laneScores l o.cfg.experts tab x else x
      | none => x
    match tokenChoices o.cfg o.keff bias sc with
    | (ch, nan) => (a.1 ++ (indexed ch).map (fun c => (i, c.1, c.2.1, c.2.2)), a.2 + b2n nan)) ([], 0)

/-- SCORE_BLOCK: an engine that waits reads the header again; one whose block is ready scores it. A residue that does not
match ends the command with ARITH (R235). -/
def scoreBlock (s : State) (e : Nat) (residueOk : Bool) : State :=
  match (getRiddle s e).op with
  | none => s
  | some o =>
    if (getRiddle s e).phase = .seqWait then seqCheck s e o
    else if (getRiddle s e).phase ≠ .load then s
    else if !residueOk then
      unitFault (setRiddle s e { getRiddle s e with op := none, phase := .idle }) (rdlUnit e) fArith
    else match loadLane s e o with
      | (tab, s) => match loadBias s e o with
        | (bias, s) => match scoreRows s e o tab bias with
          | (ch, nan) => setRiddle s e { getRiddle s e with
              op := some { o with choices := ch, nanTokens := nan }, phase := .exchange }

/-- An engine acts: it runs or waits in a slot, and no cut is in force. -/
def rdlActs (s : State) (e : Nat) : Bool :=
  !frozen s && ((getFace s (rdlUnit e)).st = .running || (getFace s (rdlUnit e)).st = .waiting)

def execScoreBlock (e : Fin 32) (residueOk : Bool) (s : State) : Host.Outcome State Fault Refusal :=
  .next (if rdlActs s e.val then guarded s (scoreBlock s e.val residueOk) else s)

/-! ### Capacity, placement and the list (R236-R241) -/

/-- q (R239). -/
def replicaOf (step tokenBase : W64) (i n : Nat) : Nat :=
  let a := step.toNat % 2 ^ 32 * 0x9E3779B1 % 2 ^ 32
  let b := (tokenBase.toNat + i) % 2 ^ 32 * 0x85EBCA77 % 2 ^ 32
  (a ^^^ b) / 65536 * n / 65536

/-- The target of a choice, with its replica; none when it is unplaced (R236, R239). -/
def targetOf (o : ROp) (tok expert : Nat) : Option (Nat × Target) :=
  match o.place.find? (fun p => p.expert = expert) with
  | none => none
  | some p =>
    let q := replicaOf o.step o.tokenBase tok p.targets.length
    match p.targets[q]? with
    | some t => if t.gang = 0 then none else some (q, t)
    | none => none

/-- The demand of an engine for each expert: its placed choices. -/
def demand (o : ROp) : List Nat :=
  o.choices.filterMap (fun c => if (targetOf o c.1 c.2.2.1).isSome then some c.2.2.1 else none)

/-- One choice charged (R236): the descriptors so far and the counts per expert. -/
def chargeOne (o : ROp) (a : List DDesc × SMap Nat) (c : Nat × Nat × Nat × W32) : List DDesc × SMap Nat :=
  let spoiled := fun (u : Bool) => ({ token := c.1, expert := c.2.2.1, choice := c.2.1, spoil := true, unplaced := u, replica := 0,
                                      row := 0, capSlot := 0, node := 0, gang := 0, weight := 0 } : DDesc)
  match targetOf o c.1 c.2.2.1 with
  | none => (a.1 ++ [spoiled true], a.2)
  | some (q, t) =>
    let n := mget 0 a.2 c.2.2.1
    if n < o.cfg.capacity then
      (a.1 ++ [{ token := c.1, expert := c.2.2.1, choice := c.2.1, spoil := false, unplaced := false, replica := q, row := 0,
                 capSlot := n, node := t.node, gang := t.gang, weight := c.2.2.2 }], mput 0 a.2 c.2.2.1 (n + 1))
    else (a.1 ++ [spoiled false], a.2)

/-- ROW of each live descriptor in order: its position among those of the same expert, node and gang. -/
def rowNumbers : List DDesc → List DDesc → List DDesc
  | [], _ => []
  | d :: r, seen =>
    { d with row := seen.countP (fun x => x.expert = d.expert && x.node = d.node && x.gang = d.gang) } ::
      rowNumbers r (seen ++ [d])

/-- The order of live descriptors (R241). -/
def liveKey (d : DDesc) : Nat := ((d.node * 4096 + d.gang) * 65536 + d.expert) * 4096 + d.token

/-- The list of an engine, given the counts its group's lower ranks leave (R236, R240, R241). -/
def buildList (o : ROp) (ctx : Nat) (start : SMap Nat) : DList :=
  let ds := (o.choices.foldl (chargeOne o) ([], start)).1
  let live := rowNumbers (sortBy liveKey (ds.filter (fun d => !d.spoil))) []
  let sp := sortBy (fun d => d.token * 16 + d.choice) (ds.filter (·.spoil))
  { cfg := o.cfg.cfg, tag := o.f.tag.toNat, tokens := o.tokens, rank := o.rho, tokenBase := o.tokenBase, step := o.step,
    live := live.length, spoil := sp.length, dests := (dedup (live.map (fun d => d.node * 4096 + d.gang))).length,
    srcCore := srcCoreOf o.f o.rho, actAddr := o.f.actAddr.toNat, ctx := ctxFin ctx, descs := live ++ sp, pool := o.f.pool.toNat,
    buf := 0 }

/-- The 16 bytes of a descriptor (R240). -/
def descBytes (d : DDesc) : List Byte :=
  bytesOf 8 (d.token + 2 ^ 16 * d.expert + 2 ^ 32 * d.choice + 2 ^ 36 * b2n d.spoil + 2 ^ 37 * b2n d.unplaced +
    2 ^ 38 * d.replica + 2 ^ 40 * d.row + 2 ^ 52 * d.capSlot) ++
  bytesOf 8 (d.node + 2 ^ 16 * d.gang + 2 ^ 32 * d.weight.toNat)

/-- The bytes of a list: its header and descriptors (R240). -/
def listBytes (l : DList) : List Byte :=
  bytesOf 8 (l.cfg + 2 ^ 16 * l.tag + 2 ^ 32 * l.tokens + 2 ^ 48 * l.rank) ++ bytesOf 8 l.tokenBase.toNat ++
  bytesOf 8 l.step.toNat ++ bytesOf 8 (l.live + 2 ^ 16 * l.spoil + 2 ^ 32 * l.dests) ++
  bytesOf 8 (l.srcCore + 2 ^ 16 * l.actAddr + 2 ^ 32 * l.ctx.val) ++ List.replicate 24 0 ++ l.descs.flatMap descBytes

/-- Free entries of a Tramway list queue beyond those reserved by the engines of its die (R242). -/
def queueFree (s : State) (t : Nat) : Nat :=
  64 - (getTrw s t).queue.length -
    ([0, 1, 2, 3].filter (fun j => ((getRiddle s (4 * t + j)).op.map (·.reserved)).getD false)).length

/-- An engine with its list built reserves a free queue entry. -/
def tryReserve (s : State) (e : Nat) : State :=
  match (getRiddle s e).op with
  | some o =>
    if o.list.isSome ∧ o.reserved = false ∧ queueFree s (e / 4) ≠ 0 then
      setRiddle s e { getRiddle s e with op := some { o with reserved := true }, phase := .emit }
    else s
  | none => s

/-- A buffer for the list of an engine: its bytes are written into it (R240). -/
def riddleBuffer (s : State) (e p buf : Nat) : State :=
  match (getRiddle s e).op with
  | none => poolRelease s p buf
  | some o =>
    match o.list with
    | none => s
    | some l =>
      let l := { l with buf := buf }
      let s := bufWrite s l.pool buf 0 (listBytes l) (rdlReq e (rdlCtx s e))
      tryReserve (setRiddle s e { getRiddle s e with op := some { o with list := some l }, phase := .outWait }) e

/-- The list of an engine is being built or waits for its buffer. -/
def listWaits (s : State) (e : Nat) : Bool :=
  (getPool s (((getRiddle s e).op.map (fun o => o.f.pool.toNat)).getD 0)).waiters.any (fun w => match w.1 with
    | .riddle x => x.val = e
    | _ => false)

/-- CAPACITY_EXCHANGE: every engine of the group has scored; the engine takes the demand of the lower ranks, builds its list
and takes a buffer, or waits for one (R236, R240). -/
def capacityExchange (s : State) (e : Nat) : State :=
  let g := rdlGroup s e
  let ops := g.filterMap (fun x => (getRiddle s x).op.map (fun o => (x, o, (getRiddle s x).phase)))
  match (getRiddle s e).op with
  | none => s
  | some o =>
    if (getRiddle s e).phase = .exchange ∧ ops.length = g.length ∧
        ops.all (fun x => x.2.1.f.tag = o.f.tag && x.2.1.f.cfg = o.f.cfg &&
          (x.2.2 = .exchange || x.2.2 = .sort || x.2.2 = .outWait || x.2.2 = .emit)) = true then
      let start := ((ops.filter (fun x => decide (x.2.1.rho < o.rho))).flatMap (fun x => demand x.2.1)).foldl
        (fun (m : SMap Nat) i => mput 0 m i (min o.cfg.capacity (mget 0 m i + 1))) []
      let l := buildList o (rdlCtx s e) start
      let s := setRiddle s e { getRiddle s e with op := some { o with list := some l }, phase := .outWait }
      match poolAlloc s l.pool 1 1 with
      | some (b, s) => riddleBuffer s e l.pool (b.headD 0)
      | none => poolWait s l.pool (.riddle (Fin.ofNat 32 e)) 1
    else s

def execCapacityExchange (e : Fin 32) (s : State) : Host.Outcome State Fault Refusal :=
  .next (if rdlActs s e.val then guarded s (capacityExchange s e.val) else s)

/-! ### The Riddle area (R245-R248) -/

/-- H_j and P_j of the configurations in section order, with their records. -/
def areaLayout : List RiddleCfg → Nat → Nat → List (RiddleCfg × Nat × Nat)
  | [], _, _ => []
  | c :: r, h, p => (c, h, p) :: areaLayout r (h + roundUp (8 * c.experts) 64) (p + roundUp (4 * c.experts) 64)

/-- The leading configurations that have a histogram and predictor words. -/
def areaCfgs (s : State) : List (RiddleCfg × Nat × Nat) :=
  (areaLayout s.tab.riddle 0 0).takeWhile (fun a => decide (a.2.1 + 8 * a.1.experts ≤ 64 * 2 ^ 20))

/-- The Bench 1 offset of a histogram entry, and of a predictor word. -/
def histAt (s : State) (cfg expert : Nat) : Option Nat :=
  ((areaCfgs s).find? (fun a => a.1.cfg = cfg)).map (fun a => rdlBase + a.2.1 + 8 * expert)
def lastAt (s : State) (cfg expert : Nat) : Option Nat :=
  ((areaCfgs s).find? (fun a => a.1.cfg = cfg)).map (fun a => rdlBase + 64 * 2 ^ 20 + a.2.2 + 4 * expert)

/-- One expert's counts added, each half modulo 2^32 (R246). -/
def histAdd (e : Nat) (cfg : Nat) (s : State) (x : Nat × Nat × Nat) : State :=
  match histAt s cfg x.1 with
  | none => s
  | some a =>
    let q : Req := { kind := 1, index := e, ctx := none }
    match b1Nat s a 8 q with
    | (v, s) => b1Write s a (bytesOf 4 (v % 2 ^ 32 + x.2.1) ++ bytesOf 4 (v / 2 ^ 32 + x.2.2)) q

/-- The counts of a list by expert: chosen and spoiled. -/
def histCounts (l : DList) : List (Nat × Nat × Nat) :=
  (sortBy id (dedup (l.descs.map (·.expert)))).map (fun x =>
    (x, l.descs.countP (fun d => d.expert = x), l.descs.countP (fun d => d.expert = x && d.spoil)))

/-- The report of a delivered block that is not EMPTY (R247). -/
def predictorReport (s : State) (c cfg expert : Nat) : State :=
  match lastAt s cfg expert with
  | none => s
  | some a =>
    let q : Req := { kind := 1, index := 0, ctx := none }
    let n := (getCtx s c).stepsDone.toNat
    match b1Nat s a 4 q with
    | (v, s) =>
      let s := if s.tab.mode.predictor && n ≠ 0 && v ≠ n % 2 ^ 32 && v ≠ (n + 1) % 2 ^ 32 then
        { s with rdl := { s.rdl with unhinted := inc64 s.rdl.unhinted 1 } } else s
      b1Write s a (bytesOf 4 (n + 1)) q

/-- The predictor's walk over one expert (R248). -/
def walkExpert (c n : Nat) (cfg : Nat) (s : State) (p : PlaceRec) : State :=
  let inner := gangsIn s (ctxGang s c)
  let local_ := p.targets.filter (fun t => t.node = node s && t.gang ≠ 0 && inner.contains t.gang)
  match lastAt s cfg p.expert with
  | none => s
  | some a =>
    if local_ = [] then s
    else match b1Nat s a 4 { kind := 1, index := 0, ctx := none } with
      | (v, s) =>
        if v = n % 2 ^ 32 then
          let gs := dedup (local_.map (·.gang))
          { s with rdl := { s.rdl with hints := inc64 s.rdl.hints gs.length }
                   tir := { s.tir with hints := s.tir.hints ++ gs.map (fun g =>
                     { ctx := ctxFin c, cfg := cfg, expert := p.expert, gang := g, step := n }) } }
        else if v = (n - 1) % 2 ^ 32 ∧ 2 ≤ n then { s with rdl := { s.rdl with unused := inc64 s.rdl.unused 1 } }
        else s

/-- The predictor's walk at the start of a step from 1 on, configurations in record order, experts ascending (R248). -/
def predictorWalk (s : State) (c : Nat) : State :=
  (areaCfgs s).foldl (fun s a =>
    (sortBy (·.expert) (s.tab.placement.filter (fun p => p.cfg = a.1.cfg && decide (p.expert < a.1.experts)))).foldl
      (walkExpert c (getCtx s c).stepsDone.toNat a.1.cfg) s) s

/-! ### Handover (R242) -/

/-- What one engine does in the common step. -/
def handOne (s : State) (e : Nat) : State :=
  match (getRiddle s e).op with
  | none => s
  | some o =>
    match o.list with
    | none => s
    | some l =>
      let c := rdlCtx s e
      let u := rdlUnit e
      let w := getTrw s (e / 4)
      let s := setTrw s (e / 4) { w with queue := w.queue ++ [l] }
      let s := (histCounts l).foldl (histAdd e l.cfg) s
      let s := b0Write s c l.srcCore (64 * o.f.scoreAddr.toNat + 4) (bytesOf 4 (seqOf o.step o.f.tag ^^^ 0x80000000))
      let un := l.descs.countP (·.unplaced)
      let s := [(4, 1), (5, l.tokens), (6, l.live), (7, l.spoil), (8, un), (9, o.nanTokens)].foldl
        (fun s x => if x.2 = 0 then s else bump s u x.1 x.2) s
      let s := { s with rdl := { s.rdl with routes := inc64 s.rdl.routes 1 } }
      let s := addSpoil (fold s c 0 l.cfg o.rho o.f.tag.toNat 0 l.step (listBytes l)) c l.step l.spoil
      let r := getRiddle s e
      rdlAdvance (setRiddle s e { r with op := none, lastTokens := BitVec.ofNat 16 l.tokens,
                                         lastLive := BitVec.ofNat 16 l.live, lastSpoil := BitVec.ofNat 16 l.spoil,
                                         lastUnplaced := BitVec.ofNat 16 un, lastStep := l.step }) e 2

/-- The list of an engine is built in its buffer. -/
def listBuilt (s : State) (e : Nat) : Bool :=
  (((getRiddle s e).op.map (fun o => o.list.isSome)).getD false) && !listWaits s e

/-- HANDOVER: every engine of the group that can reserves a queue entry; once all have built and reserved and none has seen a
stop, all hand over in one step. -/
def handover (s : State) (e : Nat) : State :=
  let g := rdlGroup s e
  let s := g.foldl (fun s x => if listBuilt s x then tryReserve s x else s) s
  if g.contains e ∧ g.all (fun x => listBuilt s x && ((getRiddle s x).op.map (·.reserved)).getD false &&
      !(getFace s (rdlUnit x)).stopIn) = true then g.foldl handOne s
  else s

def execHandover (e : Fin 32) (s : State) : Host.Outcome State Fault Refusal :=
  .next (if rdlActs s e.val then guarded s (handover s e.val) else s)

/-! ### Stops (R242, R251) -/

/-- The command in progress on an engine abandoned: its buffer released, nothing marked or counted but ABANDONED; it issues
nothing further. -/
def rdlAbandon (s : State) (e : Nat) : State :=
  let r := getRiddle s e
  match r.op with
  | none => s
  | some o =>
    let waits := listWaits s e
    let s := if waits then
        let q := getPool s o.f.pool.toNat
        setPool s o.f.pool.toNat { q with waiters := q.waiters.filter (fun w => w.1 ≠ .riddle (Fin.ofNat 32 e)) }
      else match o.list with
        | some l => poolRelease s l.pool l.buf
        | none => s
    let s := bump s (rdlUnit e) 13 1
    let f := getFace s (rdlUnit e)
    setRiddle (setFace s (rdlUnit e) { f with st := if f.st = .waiting then .running else f.st }) e
      { getRiddle s e with op := none, phase := .idle, ended := true }

/-- A stop reaches the boundary of an engine: the commands of its whole group are abandoned, and it holds nothing for the
context. -/
def riddleStop (s : State) (e : Nat) : State :=
  let s := if (getRiddle s e).ended then s else (rdlGroup s e).foldl rdlAbandon s
  let s := rdlAbandon s e
  setRiddle s e { getRiddle s e with ended := true, lr := none, lane := [], phase := .idle }

end Sys2Proof.Machine
end

