-- ==== Sys2Proof/Machine/Tram.lean ====
section
/-!
DEFINITION. What the commands of a Tramway engine share (08 R257-R298): its program, the geometry of rows, batches, tables and
areas, its messages and injection credit, its requests for buffers, and the batches and answers of both roles.
-/
namespace Sys2Proof.Machine

/-! ### The engine and its program (R257, R258) -/

def trwUnit (t : Nat) : Nat := 544 + t

/-- The context that owns an engine. -/
def trwCtx (s : State) (t : Nat) : Nat := ((getFace s (trwUnit t)).owner.map (·.val)).getD 0

/-- Words of an engine's command program: at most 256. -/
def trwWords (s : State) (w : Tramway) : Nat :=
  min 256 (((s.tab.programs.find? (fun p => p.1 = w.prog)).map (fun p => p.2.length)).getD 0)

/-- A fault of an engine in the work of context `c` (R296): the engine faults when it runs for that context; the context is torn
down in either case. -/
def trwFault (s : State) (t c code : Nat) : State :=
  if (getFace s (trwUnit t)).owner = some (ctxFin c) then unitFault s (trwUnit t) code
  else teardown s c 2 (some { kind := 2, index := t, code := BitVec.ofNat 8 code })

/-- The engine moves on by `n` words; past the last one it faults with PROG_END. -/
def trwAdvance (s : State) (t n : Nat) : State :=
  let w := getTrw s t
  let p := w.pc.toNat + n
  if trwWords s w ≤ p then unitFault (setTrw s t { w with phase := .idle }) (trwUnit t) fProgEnd
  else setTrw s t { w with pc := BitVec.ofNat 8 p, phase := .idle }

/-- RUN_SLOT on an engine. -/
def trwRun (s : State) (t prog gang : Nat) : State :=
  let s := setTrw s t { getTrw s t with prog := prog, gang := gang, ended := false, pc := 0, phase := .idle, op := none }
  if trwWords s (getTrw s t) = 0 then unitFault s (trwUnit t) fProgEnd else s

/-- An engine turns to its next command. -/
def trwTurns (s : State) (t : Nat) : Bool :=
  !frozen s && (getFace s (trwUnit t)).st = .running && !(getTrw s t).ended && (getTrw s t).op.isNone

/-- TCMD of the word at an engine's pc is reserved (R260). -/
def trwReserved (s : State) (t : Nat) : Bool :=
  ((wordAt s (getTrw s t).prog (getTrw s t).pc.toNat).map (fun w => decide (3 < bits w.toNat 63 60))).getD false

/-- An engine starts its next command. -/
def trwIssues (s : State) (t : Nat) : Bool := trwTurns s t && !trwReserved s t

/-- A command row comes for an engine: the command starts; a reserved TCMD at the pc faults it with ILLEGAL. -/
def trwCommand (s : State) (t : Nat) (act : State) : State :=
  if trwIssues s t then act else if trwTurns s t then unitFault s (trwUnit t) fIllegal else s

/-- The three words of a command at an engine's pc run past the end of its program. -/
def trwCut (s : State) (t : Nat) : Bool := cutShort (trwWords s (getTrw s t)) (getTrw s t).pc.toNat 3

/-- An engine may send for a context: it runs, no stop has reached it, and the context runs. -/
def trwSends (s : State) (t c : Nat) : Bool :=
  !frozen s && (getFace s (trwUnit t)).st = .running && !(getFace s (trwUnit t)).stopIn &&
  ((getCtx s c).st = .running || (getCtx s c).st = .ending)

/-- Operations of an engine: the one in progress and those of saved contexts. -/
def trwOps (w : Tramway) : List TOp := w.op.toList ++ w.parked.filterMap (·.op)

/-- An operation changed, wherever it is kept. -/
def mapOp (w : Tramway) (seq : W32) (f : TOp → TOp) : Tramway :=
  { w with op := w.op.map (fun o => if o.seq = seq then f o else o)
           parked := w.parked.map (fun k => { k with op := k.op.map (fun o => if o.seq = seq then f o else o) }) }

/-- The requester of an engine's Bench 1 accesses. -/
def trwReq (t c : Nat) : Req := { kind := 2, index := t, ctx := some c }

/-- A number of the model's own. -/
def newId (s : State) : Nat × State := (s.fab.nextId, { s with fab := { s.fab with nextId := s.fab.nextId + 1 } })

/-! ### Geometry -/

/-- Bytes of a row of `n` elements, padded to 64 (R265). -/
def rowPitch (fmt n : Nat) : Nat := roundUp (elemBytes fmt n) 64

def dispD (f : DispatchF) : Nat := 16 * (f.dField.toNat + 1)
def dispRows (f : DispatchF) : Nat := 16 * (f.batchField.toNat + 1)
/-- ROW_BYTES. -/
def dispPitch (f : DispatchF) : Nat := rowPitch f.rowFmt.toNat (dispD f)
/-- Bytes of a 32-token panel (R274). -/
def dispPanel (f : DispatchF) : Nat := rowPitch f.rowFmt.toNat (32 * dispD f)
/-- Bytes of a batch, header and rows. -/
def batchLen (f : DispatchF) : Nat :=
  64 + (if f.layout then ceilDiv (dispRows f) 32 * dispPanel f else dispRows f * dispPitch f)
/-- The address of the batch of index j (R271). -/
def batchAt (f : DispatchF) (j : Nat) : Nat := 64 * (f.batchAddr.toNat + j * f.batchStride.toNat)

/-- The gang of a collective group. -/
def groupGang (s : State) (g : Nat) : Option Nat := (s.tab.groups.find? (fun r => r.group = g)).map (·.gang)

/-- The members of a gang over all nodes, in a depth-first walk: node and logical core, each at its first occurrence (R285,
13 R434). -/
def gangCores (s : State) (g : Nat) : List (Nat × Nat) :=
  ((leaves s g).filterMap (fun m => if m.kind = 1 then some (m.node, m.id) else none)).foldl
    (fun l x => if l.contains x then l else l ++ [x]) []

/-- S: the nodes of a gang, ascending (R272). -/
def gangNodes (s : State) (g : Nat) : List Nat := sortBy id (dedup ((gangCores s g).map (·.1)))

/-- The die of a logical core of context `c` on this node. -/
def dieOf (s : State) (c n : Nat) : Nat := (physIn s c n).getD 0 / 64

/-- The engine that serves a gang of this node: that of the die of its lowest-ranked core (R259). -/
def gangDie (s : State) (c g : Nat) : Option Nat := ((coreOrder s g).head?).map (dieOf s c)

/-- The placement of a configuration as a command finds it at its start (R264). -/
def placeOf (s : State) (cfg : Nat) : List PlaceRec :=
  match s.tab.riddle.find? (fun r => r.cfg = cfg) with
  | some r => sortBy (·.expert) (s.tab.placement.filter (fun p => p.cfg = cfg && decide (p.expert < r.experts)))
  | none => []

/-- An expert has a target. -/
def hasTarget (p : PlaceRec) (nd g : Nat) : Bool := p.targets.any (fun t => t.node = nd && t.gang = g)

/-- j: the index of an expert among those with a target (R271). -/
def expertIdx (place : List PlaceRec) (nd g expert : Nat) : Nat :=
  place.countP (fun p => decide (p.expert < expert) && hasTarget p nd g)

/-- The local targets that engine `t` serves: expert and gang, each once. -/
def localTargets (s : State) (t c : Nat) (place : List PlaceRec) : List (Nat × Nat) :=
  place.flatMap (fun p => (dedup ((p.targets.filter (fun x => x.node = node s && x.gang ≠ 0)).map (·.gang))).filterMap
    (fun g => if gangDie s c g = some t then some (p.expert, g) else none))

/-- A pool named in the partition's mask and declared (R261). -/
def poolNamed (s : State) (c p : Nat) : Bool :=
  (getPool s p).declared && s.tab.parts.any (fun r => r.part = (getCtx s c).part.toNat && r.poolMask.getLsbD p)

/-- Bytes of a buffer. -/
def bufSize (s : State) (p : Nat) : Nat := 2 ^ (getPool s p).sizeLog2

/-- Buffers that a size takes (R262). -/
def bufNeed (s : State) (p n : Nat) : Nat := ceilDiv n (bufSize s p)

/-- Bytes of a count table (R262). -/
def tableSize (nodes : Nat) (f : DispatchF) : Nat := 64 + 16 * nodes + 16 * dispRows f

/-- Bytes spread over several buffers in order: read and written (R262). -/
def areaWrite (s : State) (p : Nat) (l : List Nat) (o : Nat) (d : List Byte) (r : Req) : State :=
  (pieces (bufSize s p) o d.length).foldl (fun s e =>
    match l[e.1 / bufSize s p]? with
    | some i => bufWrite s p i (e.1 % bufSize s p) ((d.drop (e.1 - o)).take e.2) r
    | none => s) s

def areaRead (s : State) (p : Nat) (l : List Nat) (o n : Nat) (r : Req) : List Byte × State :=
  (pieces (bufSize s p) o n).foldl (fun (a : List Byte × State) e =>
    match l[e.1 / bufSize s p]? with
    | some i => match bufRead a.2 p i (e.1 % bufSize s p) e.2 r with
      | (d, s) => (a.1 ++ d, s)
    | none => (a.1 ++ List.replicate e.2 0, a.2)) ([], s)

/-! ### Messages and the injection credit (R266, R288) -/

/-- CREDIT_NOW: packets of an engine that await an acknowledgement. -/
def creditNow (s : State) (t : Nat) : Nat :=
  let mine := fun (o : Owner) => match o with
    | .trw u _ => decide (u.val = t)
    | _ => false
  s.fab.table.countP (fun e => mine e.owner) + s.fab.held.countP (fun h => mine h.owner)

/-- The limit for a packet whose data lies in a pool. -/
def creditLimit (s : State) (t p : Nat) : Nat :=
  match (getPool s p).st with
  | .green => (getTrw s t).creditMax.toNat
  | .amber => (getTrw s t).creditMax.toNat / 2
  | .red => 0

/-- A held packet may be injected. -/
def mayInject (s : State) (t : Nat) (h : THeld) : Bool :=
  trwSends s t h.pkt.ctx.toNat && (match h.pool with
    | some p => decide (creditNow s t < creditLimit s t p)
    | none => true)

/-- The packets that credit and pools let through are injected, in order. -/
def trwDrain (s : State) (t : Nat) : State :=
  let l := (getTrw s t).held
  l.foldl (fun s h =>
    if mayInject s t h then
      sendRequest s { pkt := h.pkt, owner := .trw (Fin.ofNat 8 t) h.msg, part := some (getCtx s h.pkt.ctx.toNat).part.toNat,
                      port := t }
    else let w := getTrw s t; setTrw s t { w with held := w.held ++ [h] })
    (setTrw s t { getTrw s t with held := [] })

/-- A message of an operation made ready: its packets wait for credit, its buffers are released at its acknowledgement. -/
def trwMessage (s : State) (t c : Nat) (seq : W32) (dest vc : Nat) (pool : Option Nat) (bufs : List Nat) (b : List Byte) : State :=
  match newId s with
  | (m, s) =>
    let ps := msgPackets s c dest 8 vc m 0 b
    let w := getTrw s t
    setTrw s t { w with
      held := w.held ++ ps.map (fun p => { pool := pool, pkt := p, msg := m })
      out := w.out ++ [{ msg := m, ctx := ctxFin c, seq := seq, pool := pool.getD 0, bufs := bufs, left := ps.length,
                         dest := dest, hdr := b.take 64 }] }

/-- A packet of a message is answered, or discarded: with the last one its buffers are released. -/
def trwLess (s : State) (t m n : Nat) : State :=
  let w := getTrw s t
  match w.out.find? (fun o => o.msg = m) with
  | none => s
  | some o =>
    if o.left ≤ n then poolReleaseAll (setTrw s t { w with out := w.out.erase o }) o.pool o.bufs
    else setTrw s t { w with out := w.out.map (fun x => if x.msg = m then { x with left := x.left - n } else x) }

/-- The 64-byte part header (R269). -/
def partHdr (cfg tag expert gang kind : Nat) (step : W64) (base rows units len : Nat) : List Byte :=
  bytesOf 8 (cfg + 2 ^ 16 * tag + 2 ^ 32 * expert + 2 ^ 48 * gang + 2 ^ 60 * kind) ++ bytesOf 8 step.toNat ++
  bytesOf 8 (base + 2 ^ 16 * rows + 2 ^ 32 * units) ++ bytesOf 8 len ++ List.replicate 32 0

/-- The fields of a part header. -/
structure PHdr where
  cfg : Nat
  tag : Nat
  expert : Nat
  gang : Nat
  kind : Nat
  step : W64
  base : Nat
  rows : Nat
  units : Nat
  len : Nat
  deriving DecidableEq, Repr

def parsePart (b : List Byte) : PHdr :=
  let w0 := natAt b 0 8
  { cfg := bits w0 15 0, tag := bits w0 31 16, expert := bits w0 47 32, gang := bits w0 59 48, kind := bits w0 63 60,
    step := BitVec.ofNat 64 (natAt b 8 8), base := natAt b 16 2, rows := natAt b 18 2, units := natAt b 20 2,
    len := natAt b 24 4 }

/-- The length of a body in dense measure, that of its dense form (R276); a part without a body has none. -/
def denseLen (rows body : List Byte) : Nat := if body = [] then 0 else 8 + 64 * ceilDiv rows.length 64

/-- The counters of a body: dense measure and as sent (R298). -/
def countBody (s : State) (t : Nat) (rows body : List Byte) : State :=
  bump (bump s (trwUnit t) 15 (denseLen rows body)) (trwUnit t) 16 body.length

/-! ### Records and tables -/

/-- A record of an engine changed. -/
def mapRec (s : State) (t n : Nat) (f : TRec → TRec) : State :=
  let w := getTrw s t
  setTrw s t { w with recs := w.recs.map (fun r => if r.n = n then f r else r) }

def findRec (s : State) (t n : Nat) : Option TRec := (getTrw s t).recs.find? (fun r => r.n = n)

/-- A record is freed with its list buffer and answer area; its EPOCH is zero from then on (R284). -/
def freeRec (s : State) (t : Nat) (r : TRec) : State :=
  let w := getTrw s t
  let s := setTrw s t { w with recs := w.recs.filter (fun x => x.n ≠ r.n) }
  let s := match r.area with
    | some (p, l) => poolReleaseAll s p l
    | none => s
  poolRelease (poolRelease s r.pool r.idx) r.list.pool r.list.buf

/-- A count table of an engine changed. -/
def mapTab (s : State) (t n : Nat) (f : CountTab → CountTab) : State :=
  let w := getTrw s t
  setTrw s t { w with tabs := w.tabs.map (fun r => if r.n = n then f r else r) }

def tabOf (s : State) (t n : Nat) : Option CountTab := (getTrw s t).tabs.find? (fun r => r.n = n)

/-- The count table that a block names, with its engine; one whose buffers are still awaited does not exist yet (R272). -/
def findTab (s : State) (c cfg tag : Nat) (step : W64) (expert gang : Nat) : Option (Nat × CountTab) :=
  (List.range 8).findSome? (fun t =>
    ((getTrw s t).tabs.find? (fun r => r.ctx.val = c && r.cfg = cfg && r.tag = tag && r.step = step && r.expert = expert &&
      r.gang = gang && r.bufs ≠ [])).map (fun r => (t, r)))

/-- The table holds every descriptor (R273). -/
def tabFull (r : CountTab) : Bool := r.srcs.all (fun e => e.2.isSome)

/-- The rows that the descriptors announce. -/
def tabTotal (r : CountTab) : Nat := r.srcs.foldl (fun n e => n + e.2.getD 0) 0

/-- The first batch row of a source's block (R273). -/
def tabBase (r : CountTab) (nd : Nat) : Nat := (r.srcs.filter (fun e => decide (e.1 < nd))).foldl (fun n e => n + e.2.getD 0) 0

/-- Valid rows of the batch. -/
def tabRows (r : CountTab) : Nat := min (tabTotal r) (dispRows r.f)

/-- A count table is freed. -/
def freeTab (s : State) (t : Nat) (r : CountTab) : State :=
  let w := getTrw s t
  poolReleaseAll (setTrw s t { w with tabs := w.tabs.filter (fun x => x.n ≠ r.n) }) r.pool r.bufs

/-! ### Batches at the target (R273-R275) -/

/-- Bench 0 bytes of a logical core of a context, in its frame while it is saved (03 R107). -/
def b0Peek (s : State) (c n a len : Nat) : List Byte × State :=
  if (getCtx s c).st = .saved then b1Read s (recordOfs c n a) len (ctReq c) else (b0Read s c n a len, s)

/-- Element `i` of a packed sequence in Bench 0 written: whole bytes, or bits of the bytes that hold it. -/
def putElem (s : State) (c n a fmt i v : Nat) : State :=
  let w := elemBits fmt
  let lo := i * w / 8
  let hi := ceilDiv ((i + 1) * w) 8
  if w % 8 = 0 then b0Write s c n (a + lo) (bytesOf (w / 8) v)
  else match b0Peek s c n (a + lo) (hi - lo) with
    | (d, s) =>
      let x := natOf d
      let sh := i * w - 8 * lo
      b0Write s c n (a + lo) (bytesOf (hi - lo) (x - bits x (sh + w - 1) sh * 2 ^ sh + v % 2 ^ w * 2 ^ sh))

/-- A row of a batch written into one core: row-major, or a column of a feature-major panel (R274). -/
def putRow (s : State) (tb : CountTab) (r : Nat) (row : List Byte) (n : Nat) : State :=
  let f := tb.f
  let c := tb.ctx.val
  let a := batchAt f tb.j + 64
  if f.layout then
    (indexed (unpackElems f.rowFmt.toNat (dispD f) row)).foldl
      (fun s e => putElem s c n (a + r / 32 * dispPanel f) f.rowFmt.toNat (32 * e.1 + r % 32) e.2) s
  else b0Write s c n (a + r * dispPitch f) (padTo (dispPitch f) (row.take (dispPitch f)))

/-- A row written into every core of the gang. -/
def putRowAll (s : State) (tb : CountTab) (r : Nat) (row : List Byte) : State :=
  (coreOrder s tb.gang).foldl (fun s n => putRow s tb r row n) s

/-- The batch header (R271). -/
def batchHdr (tb : CountTab) : List Byte :=
  bytesOf 8 (tb.cfg + 2 ^ 16 * tb.tag + 2 ^ 32 * tb.expert) ++ bytesOf 8 (tabRows tb) ++ bytesOf 8 tb.step.toNat ++
  bytesOf 8 (tabTotal tb - tabRows tb) ++ List.replicate 32 0

/-- Rows of padding: to a multiple of 16, or the unused columns of the last panel (R274). -/
def padRows (tb : CountTab) : List Nat :=
  let n := tabRows tb
  (List.range (roundUp n (if tb.f.layout then 32 else 16) - n)).map (· + n)

/-- A complete batch is deposited: padding, header and the count in every core, and the predictor report (R275). -/
def deposits (s : State) (t n : Nat) : State :=
  match tabOf s t n with
  | none => s
  | some tb =>
    if !tabFull tb || tb.deposited || tb.rows.length < tabTotal tb then s
    else
      let s := mapTab s t n (fun x => { x with deposited := true })
      let s := (padRows tb).foldl (fun s r => putRowAll s tb r (List.replicate (dispPitch tb.f) 0)) s
      let s := (coreOrder s tb.gang).foldl (fun s k =>
        deposit s tb.ctx.val k (batchAt tb.f tb.j) (batchHdr tb) (some tb.f.cnt.toNat)) s
      let s := bump s (trwUnit t) 7 1
      if tabRows tb = 0 then s else predictorReport s tb.ctx.val tb.cfg tb.expert

/-- One row of a part taken: beyond BATCH_ROWS it is dropped, otherwise written; its tag and source are kept. A row already
cancelled or taken stays as it is (R273, R293). -/
def takeRow (t n : Nat) (s : State) (e : Nat × Nat × W64 × List Byte) : State :=
  match tabOf s t n with
  | none => s
  | some tb =>
    if tb.rows.any (fun x => x.row = e.1) then s
    else
      let drop := decide (dispRows tb.f ≤ e.1)
      let s := mapTab s t n (fun x => { x with rows := x.rows ++
        [{ row := e.1, node := e.2.1, tag := e.2.2.1, dropped := drop, cancelled := false }] })
      if drop then bump s (trwUnit t) 8 1 else putRowAll s tb e.1 e.2.2.2

/-- A ROWS part taken from node `src`. -/
def rowsIn (s : State) (t n : Nat) (src : Nat) (b : List Byte) : State :=
  match tabOf s t n with
  | none => s
  | some tb =>
    let h := parsePart b
    let rows := cut (64 * max 1 h.units) (bodyRows (b.drop (64 + 8 * h.rows)))
    let base := tabBase tb src + h.base
    let s := (List.range h.rows).foldl (fun s i =>
      takeRow t n s (base + i, src, BitVec.ofNat 64 (natAt b (64 + 8 * i) 8), rows.getD i [])) s
    deposits s t n

/-- A CANCELLED part (R293): its rows are marked and written as zeros. -/
def cancelIn (s : State) (t n : Nat) (src : Nat) (h : PHdr) : State :=
  match tabOf s t n with
  | none => s
  | some tb =>
    let base := tabBase tb src + h.base
    let s := (List.range h.rows).foldl (fun s i =>
      let r := base + i
      let s := mapTab s t n (fun x => { x with rows := x.rows.filter (fun y => y.row ≠ r) ++
        [{ row := r, node := src, tag := 0, dropped := false, cancelled := true }] })
      if dispRows tb.f ≤ r then s else putRowAll s tb r (List.replicate (dispPitch tb.f) 0)) s
    deposits s t n

/-! ### Answers and combines at the source (R280-R284) -/

def combW (f : CombineF) : Nat := 16 * (f.wField.toNat + 1)

/-- G: the cores of a configuration's target gangs on their node (R279). -/
def combG (s : State) (cfg : Nat) : Nat :=
  match (placeOf s cfg).flatMap (fun p => p.targets.filter (fun t => t.gang ≠ 0)) with
  | t :: _ => (coreOrderAt s t.gang t.node).length
  | [] => 1

/-- D_out. -/
def combD (s : State) (f : CombineF) : Nat := combG s f.cfg.toNat * combW f

/-- Bytes of an answer row, and of an answer area (R262). -/
def ansPitch (s : State) (f : CombineF) : Nat := rowPitch f.resFmt.toNat (combD s f)
def areaSize (s : State) (f : CombineF) (live : Nat) : Nat := 64 + live * ansPitch s f

/-- First-arrival combines are in force for a command (R282). -/
def faOn (s : State) (f : CombineF) : Bool := f.fa && s.tab.mode.faCombine

/-- The live descriptors of a list. -/
def liveDescs (l : DList) : List DDesc := l.descs.take l.live

/-- An answer added into a token's accumulators: acc := round_wx48(acc + w × y) (R280). -/
def accRow (w : W32) (acc ys : List FV) : List FV :=
  (acc.zip ys).map (fun e => accAdd e.1 (fmul (dec 1 w.toNat) e.2))

/-- The values of an answer row. -/
def ansVals (f : CombineF) (d : Nat) (row : List Byte) : List FV := (unpackElems f.resFmt.toNat d row).map (dec f.resFmt.toNat)

/-- The accumulators of token `i` in ascending choice (R280). -/
def combineToken (s : State) (t : Nat) (r : TRec) (f : CombineF) (i : Nat) : List FV × State :=
  let d := combD s f
  let ch := sortBy (fun (e : Nat × DDesc) => e.2.choice)
    ((indexed (liveDescs r.list)).filter (fun e => e.2.token = i && r.answers.contains (e.1, true)))
  ch.foldl (fun (a : List FV × State) e =>
    match r.area with
    | some (p, l) => match areaRead a.2 p l (64 + e.1 * ansPitch s f) (ansPitch s f) (trwReq t r.list.ctx.val) with
      | (b, s) => (accRow e.2.weight a.1 (ansVals f d b), s)
    | none => a) (List.replicate d fv0, s)

/-- The accumulators of token `i` in arrival order. -/
def faToken (s : State) (r : TRec) (f : CombineF) (i : Nat) : List FV :=
  match r.fa.find? (fun e => e.1 = i) with
  | some e => e.2.map (dec 14)
  | none => List.replicate (combD s f) fv0

/-- One combined row written; its elements go into the tile of the digest (R280, R283). -/
def combineRow (t : Nat) (r : TRec) (f : CombineF) (a : List Nat × State) (i : Nat) : List Nat × State :=
  let d := combD a.2 f
  match (if faOn a.2 f then (faToken a.2 r f i, a.2) else combineToken a.2 t r f i) with
  | (acc, s) =>
    let out := acc.map (enc f.outFmt.toNat none)
    let pitch := rowPitch f.outFmt.toNat d
    (a.1 ++ out, b0Write s r.list.ctx.val r.list.srcCore (64 * f.outAddr.toNat + i * pitch) (padTo pitch (packElems f.outFmt.toNat out)))

/-- A list whose every live descriptor has its answer is combined, counted, folded and freed; a residue that does not match
ends it with ARITH and ARITH_CHECK (R280-R284). -/
def combineList (s : State) (t n : Nat) (residueOk : Bool) : State :=
  match findRec s t n with
  | none => s
  | some r =>
    match r.comb with
    | none => s
    | some f =>
      let c := r.list.ctx.val
      if r.area.isNone || r.answers.length < r.list.live then s
      else if !residueOk then
        postArith (trwFault s t c fArith) (some (ctxFin c)) 2 t (r.list.cfg + 65536 * r.list.tag)
      else match (List.range r.list.tokens).foldl (combineRow t r f) ([], s) with
        | (tile, s) =>
          let s := fold s c 1 r.list.cfg r.list.rank r.list.tag (node s) r.list.step (packElems f.outFmt.toNat tile)
          let s := if faOn s f then bump (ndcInc s c 0) (trwUnit t) 11 1 else s
          let s := deposit s c r.list.srcCore (64 * f.outAddr.toNat) [] (some f.cnt.toNat)
          freeRec s t r

/-- The record that an answer's row tag names: none when the answer is stale (R270, R290). -/
def tagRec (s : State) (c : Nat) (tag : W64) : Option TRec :=
  let v := tag.toNat
  (getTrw s (bits v 62 60)).recs.find? (fun r => r.list.ctx.val = c && r.idx = bits v 59 44 && r.epoch.toNat = bits v 31 0)

/-- A stale answer: counted, reported once per record, and nothing else (R290). -/
def staleAnswer (s : State) (c : Nat) (tag : W64) : State :=
  let t := bits tag.toNat 62 60
  let k := (bits tag.toNat 59 44, BitVec.ofNat 32 tag.toNat)
  let s := bump s (trwUnit t) 10 1
  let w := getTrw s t
  if w.staleSeen.contains k then s
  else post (setTrw s t { w with staleSeen := w.staleSeen ++ [k] }) evStaleReturn (some (ctxFin c)) (t + 65536 * k.1) k.2.toNat

/-- One answer: stale, dropped at its target (a spoil), or a row written to its slot or added to its token (R280, R282). -/
def answer (s : State) (c : Nat) (tag : W64) (row : List Byte) : State :=
  match tagRec s c tag with
  | none => staleAnswer s c tag
  | some r =>
    let t := bits tag.toNat 62 60
    let d := bits tag.toNat 43 32
    match r.comb, (liveDescs r.list)[d]? with
    | some f, some x =>
      if r.answers.any (fun a => a.1 = d) then s
      else if bitAt tag.toNat 63 then
        addSpoil (mapRec s t r.n (fun y => { y with answers := y.answers ++ [(d, false)] })) c r.list.step 1
      else
        let s := bump (mapRec s t r.n (fun y => { y with answers := y.answers ++ [(d, true)] })) (trwUnit t) 9 1
        if faOn s f then
          let acc := accRow x.weight (faToken s r f x.token) (ansVals f (combD s f) row)
          mapRec s t r.n (fun y => { y with fa := y.fa.filter (fun e => e.1 ≠ x.token) ++ [(x.token, acc.map (enc 14 none))] })
        else match r.area with
          | some (p, l) => areaWrite s p l (64 + d * ansPitch s f) (padTo (ansPitch s f) (row.take (ansPitch s f))) (trwReq t c)
          | none => s
    | _, _ => s

/-- The tags of a RESULT part, and which of the part's body rows each carries. -/
def resultTags (b : List Byte) : List (W64 × Option Nat) :=
  let h := parsePart b
  ((List.range h.rows).foldl (fun (a : List (W64 × Option Nat) × Nat) i =>
    let v := BitVec.ofNat 64 (natAt b (64 + 8 * i) 8)
    if bitAt v.toNat 63 then (a.1 ++ [(v, none)], a.2) else (a.1 ++ [(v, some a.2)], a.2 + 1)) ([], 0)).1

/-- A RESULT part taken: every answer, then the lists that are complete. -/
def resultIn (s : State) (c : Nat) (b : List Byte) (residueOk : Bool) : State :=
  let h := parsePart b
  let rows := cut (64 * max 1 h.units) (bodyRows (b.drop (64 + 8 * h.rows)))
  let tags := resultTags b
  let recs := tags.filterMap (fun e => (tagRec s c e.1).map (fun r => (bits e.1.toNat 62 60, r.n)))
  let s := tags.foldl (fun s e => answer s c e.1 ((e.2.map (fun i => rows.getD i [])).getD [])) s
  recs.foldl (fun s e => combineList s e.1 e.2 residueOk) s

/-! ### Requests for buffers (R262) -/

/-- A request that waits. -/
def trwWant (s : State) (t c pool n : Nat) (k : TWantK) : State :=
  match newId s with
  | (i, s) =>
    let w := getTrw s t
    poolWait (setTrw s t { w with wants := w.wants ++ [{ id := i, ctx := ctxFin c, pool := pool, kind := k }] }) pool
      (.tramway (Fin.ofNat 8 t) i) n

/-- A request withdrawn. -/
def trwUnwant (s : State) (t : Nat) (p : TWant → Bool) : State :=
  let w := getTrw s t
  let gone := w.wants.filter p
  gone.foldl (fun s x =>
    let q := getPool s x.pool
    setPool s x.pool { q with waiters := q.waiters.filter (fun y => y.1 ≠ .tramway (Fin.ofNat 8 t) x.id) })
    (setTrw s t { w with wants := w.wants.filter (fun x => !p x) })

/-- The work at the head of an engine's operation waits for buffers. -/
def sendWaits (s : State) (t : Nat) : Bool := (getTrw s t).wants.any (fun w => w.kind = .send)

end Sys2Proof.Machine
end

