-- ==== Sys2Proof/Machine/Coll.lean ====
section
/-!
DEFINITION. Collective operations (13 R433-R465): descriptors, the tree and its placement, headers and the verdict, chunks,
windows, credit, reduction in tree order, delivery of results, completion, and the reduction store's grants (11 R379-R382).
-/
namespace Sys2Proof.Machine

/-! ### Groups and members (R434) -/

/-- The members of a group in rank order: node and logical core. -/
def cMembers (s : State) (g : Nat) : List (Nat × Nat) := ((groupGang s g).map (gangCores s)).getD []

/-- The group's record. -/
def cGroupRec (s : State) (g : Nat) : GroupRec :=
  (s.tab.groups.find? (fun r => r.group = g)).getD { group := g, gang := 0, weight := 1, inFlight := 4, capacity := 0 }

/-- Members of this node: rank and logical core. -/
def cLocal (s : State) (g : Nat) : List (Nat × Nat) :=
  (indexed (cMembers s g)).filterMap (fun e => if e.2.1 = node s then some (e.1, e.2.2) else none)

/-- The member nodes, each once. -/
def cNodes (s : State) (g : Nat) : List Nat := dedup ((cMembers s g).map (·.1))

/-- The engine that serves the lowest-ranked member of this node. -/
def cLead (s : State) (c g : Nat) : Nat := (((cLocal s g).head?).map (fun e => dieOf s c e.2)).getD 0

/-! ### Descriptors (R437, R438, R449) -/

def parseCDesc (s : State) (c : Nat) (b : List Byte) : CDesc :=
  let w0 := natAt b 0 8
  let w1 := natAt b 8 8
  let w2 := natAt b 16 8
  { group := bits w0 5 0, kind := bits w0 11 8, rop := bits w0 13 12, fmt := BitVec.ofNat 4 (w0 / 2 ^ 14), var_ := bitAt w0 18,
    empty := bitAt w0 19, sparse := bitAt w0 20, zcomp := bitAt w0 21, cnt := BitVec.ofNat 4 (w0 / 2 ^ 22),
    stagePool := bits w0 29 26, cseq := BitVec.ofNat 16 (w0 / 2 ^ 32), core := bits w0 56 48, srcAddr := bits w1 15 0,
    dstAddr := bits w1 31 16, statusAddr := bits w1 47 32, len := bits w2 21 0, arg := bits w2 47 24,
    granules := bits w2 54 48, ctx := ctxFin c, step := (getCtx s c).stepsDone }

/-- C (R441). -/
def cSize (s : State) (d : CDesc) : Nat := if d.var_ then (cGroupRec s d.group).capacity else d.len

/-- Reductions. -/
def cRed (d : CDesc) : Bool := decide (d.kind < 2)

/-- Bytes that a member's output takes. -/
def cOutLen (s : State) (d : CDesc) (n : Nat) : Nat :=
  let c := cSize s d
  match d.kind with
  | 1 => roundUp (ceilDiv (ceilDiv (c * 8 / elemBits d.fmt.toNat) (max 1 n) * elemBits d.fmt.toNat) 8) 64
  | 2 => n * c + (if d.var_ then 4 * n else 0)
  | _ => c

/-- A bad descriptor of a member (R438). -/
def cBad (s : State) (d : CDesc) : Bool :=
  let n := (cMembers s d.group).length
  let w := elemBits d.fmt.toNat
  decide (4 < d.kind) || (cRed d && (d.rop = 3 || d.fmt = 15 || d.fmt = 9 || decide (d.len * 8 % w ≠ 0))) ||
  decide (d.len = 0) || (d.var_ && decide (0x280000 < cSize s d)) ||
  (!d.empty && decide (b0End < 64 * d.srcAddr + min d.len (cSize s d))) ||
  decide (b0End < 64 * d.dstAddr + cOutLen s d n) || decide (b0End < 64 * d.statusAddr + 64) ||
  !poolNamed s d.ctx.val d.stagePool || decide (bufSize s d.stagePool < 65536) || decide (64 < d.granules) ||
  (d.kind = 3 && decide (n ≤ d.arg))

/-- The descriptor hash (R449). -/
def cHash (s : State) (d : CDesc) : BitVec 16 :=
  let m32 := fun (a b : Nat) => a % 2 ^ 32 * b % 2 ^ 32
  let k := cSize s d % 2 ^ 22 + (if cRed d then 2 ^ 22 * d.fmt.toNat + 2 ^ 30 * d.rop else 0) + 2 ^ 26 * d.kind +
    (if d.kind = 3 ∨ d.kind = 4 then 2 ^ 32 * d.arg else 0) + 2 ^ 56 * b2n d.sparse + 2 ^ 57 * b2n d.var_
  let h := (m32 k 0x9E3779B1) ^^^ (m32 (k / 2 ^ 32) 0x85EBCA77) ^^^ (m32 d.group 0xC2B2AE3D)
  BitVec.ofNat 16 (h / 65536) ^^^ BitVec.ofNat 16 h

/-! ### Completion (R439) -/

/-- The completion record written and the count incremented. -/
def cRecord (s : State) (d : CDesc) (status lost nFailed firstFailed : Nat) : State :=
  deposit s d.ctx.val d.core (64 * d.statusAddr)
    (bytesOf 8 (status + 2 ^ 16 * d.cseq.toNat + 2 ^ 32 * d.group) ++ bytesOf 8 lost ++
     bytesOf 8 (nFailed + 2 ^ 32 * firstFailed) ++ bytesOf 8 (cHash s d).toNat ++ List.replicate 32 0) (some d.cnt.toNat)

/-- BAD_DESC counted. -/
def countBad (s : State) (d : Nat) : State :=
  let x := getColl s d
  setColl s d { x with badDescs := inc32 x.badDescs 1 }

/-- A descriptor taken from the doorbell into its engine's queue (R436, R438): none while the queue is full. One whose group is
not declared or whose core is no member held by the context completes with BAD_DESC. -/
def collTake (s : State) (c : Nat) (b : List Byte) : Option State :=
  let d := parseCDesc s c b
  let e := dieOf s c d.core
  let x := getColl s e
  if 256 ≤ x.queue.length then none
  else if (groupGang s d.group).isNone ∨ (cLocal s d.group).any (fun m => m.2 = d.core) = false ∨
      (physIn s c d.core).isNone ∨ (getCtx s c).bind.any (fun m => m.1 = d.core) = false then
    some (cRecord (countBad s e) d 4 0 0 0)
  else some (setColl s e { x with queue := x.queue ++ [d] })

/-! ### Geometry of an operation (R441, R444, R453) -/

/-- The value arrays of a sequence of S8 tiles: byte offset and elements of each (06 R194, R200). -/
def tileRanges : Nat → List Byte → Nat → List (Nat × Nat)
  | 0, _, _ => []
  | fuel + 1, b, o =>
    if b.length < o + 8 then []
    else
      let h := parseS8 (natAt b o 8)
      (if h.dense then (o + 8, h.rows * h.cols)
       else (o + 8 + s8Lc h + s8Lp h, if h.maskOnly then 0 else h.count)) :: tileRanges fuel b (o + s8Len h)

/-- What the operation's kind and sizes give: N, C, the element format, E, Q, the ranges of the output that are reduced (byte
offset, elements), chunks per full segment and in all. -/
structure CGeo where
  n : Nat
  c : Nat
  fmt : Nat
  e : Nat
  q : Nat
  ranges : List (Nat × Nat)
  cps : Nat
  k : Nat
  deriving DecidableEq, Repr

/-- The input of a member: its first C bytes, zeros after LEN, zeros for EMPTY (R442, R443). -/
def cInput (s : State) (d : CDesc) : List Byte :=
  let c := cSize s d
  if d.empty then List.replicate c 0
  else padTo c (b0Read s d.ctx.val d.core (64 * d.srcAddr) (min d.len c))

def cGeo (s : State) (o : COp) : CGeo :=
  match o.mems with
  | [] => { n := 0, c := 0, fmt := 0, e := 0, q := 0, ranges := [], cps := 0, k := 0 }
  | m :: _ =>
    let d := m.desc
    let n := (cMembers s o.group).length
    let c := cSize s d
    let f := d.fmt.toNat
    if cRed d then
      let rs := if d.sparse then tileRanges (c / 8 + 1) (cInput s d) 0 else [(0, c * 8 / elemBits f)]
      let e := rs.foldl (fun t r => t + r.2) 0
      let q := ceilDiv e (max 1 n)
      let cps := ceilDiv q 8192
      { n := n, c := c, fmt := f, e := e, q := q, ranges := rs, cps := cps,
        k := e / max 1 q * cps + ceilDiv (e % max 1 q) 8192 }
    else { n := n, c := c, fmt := f, e := 0, q := 0, ranges := [], cps := 0, k := ceilDiv c 65536 }

/-- The segment of a chunk, its first element and its elements. -/
def chunkSeg (g : CGeo) (k : Nat) : Nat := k / max 1 g.cps
def chunkAt (g : CGeo) (k : Nat) : Nat := chunkSeg g k * g.q + k % max 1 g.cps * 8192
def chunkLen (g : CGeo) (k : Nat) : Nat := min 8192 (min ((chunkSeg g k + 1) * g.q) g.e - chunkAt g k)

/-- The bit offset of element `i` in the ranges of an input. -/
def elemAt (fmt : Nat) : List (Nat × Nat) → Nat → Nat
  | [], _ => 0
  | r :: rs, i => if i < r.2 then 8 * r.1 + i * elemBits fmt else elemAt fmt rs (i - r.2)

/-! ### The tree (R445, R446) -/

/-- p(a, b, s) for the node of level L that starts at a. -/
def treeLoc (n seg a l : Nat) : Nat :=
  let w := max 1 (min (a + 2 ^ l) n - a)
  a + (seg + w * (a / w + 1) - a) % w

/-- The rounds of the tree. -/
def cDepth (n : Nat) : Nat := treeDepth n

/-- A rank that an operation's engine serves. -/
def rankOn (o : COp) (r : Nat) : Bool := o.mems.any (fun m => m.rank = r)

/-- The start of the parent of a node. -/
def parentLo (a l : Nat) : Nat := a / 2 ^ (l + 1) * 2 ^ (l + 1)

/-- Nodes on this engine whose value leaves it: those whose parent lies on another, and the root. -/
def exports (n seg : Nat) (o : COp) : List (Nat × Nat) :=
  o.mems.flatMap (fun m => (List.range (cDepth n + 1)).filterMap (fun l =>
    let a := m.rank / 2 ^ l * 2 ^ l
    if treeLoc n seg a l = m.rank ∧ (l = cDepth n ∨ rankOn o (treeLoc n seg (parentLo a l) (l + 1)) = false) then some (a, l)
    else none))

/-- Children that lie elsewhere of the nodes on this engine: start, level, and the rank where each lies. -/
def remoteKids (n seg : Nat) (o : COp) : List (Nat × Nat × Nat) :=
  o.mems.flatMap (fun m => (List.range (cDepth n)).flatMap (fun l =>
    let a := m.rank / 2 ^ (l + 1) * 2 ^ (l + 1)
    if treeLoc n seg a (l + 1) = m.rank then
      ([a, a + 2 ^ l].filter (fun x => decide (x < n))).filterMap (fun x =>
        let p := treeLoc n seg x l
        if rankOn o p then none else some (x, l, p))
    else []))

/-- Two-child nodes of a segment that this device computes. -/
def deviceNodes (s : State) (g n seg : Nat) : Nat :=
  (cLocal s g).foldl (fun t m => t + (List.range (cDepth n)).countP (fun l =>
    let a := m.1 / 2 ^ (l + 1) * 2 ^ (l + 1)
    treeLoc n seg a (l + 1) = m.1 && decide (a + 2 ^ l < n))) 0

/-- H (R454). -/
def cH (s : State) (g : Nat) (geo : CGeo) : Nat :=
  (List.range (chunkSeg geo (geo.k - 1) + 1)).foldl (fun h seg => max h (deviceNodes s g geo.n seg)) 0

/-! ### Operations of an engine -/

def findCop (s : State) (d g : Nat) (q : BitVec 16) : Option COp :=
  (getColl s d).ops.find? (fun o => o.group = g && o.cseq = q)

/-- An operation changed. -/
def mapCop (s : State) (d g : Nat) (q : BitVec 16) (f : COp → COp) : State :=
  let x := getColl s d
  setColl s d { x with ops := x.ops.map (fun o => if o.group = g ∧ o.cseq = q then f o else o) }

/-- The operation on every engine of the node. -/
def nodeCops (s : State) (g : Nat) (q : BitVec 16) : List (Nat × COp) :=
  (List.range 8).filterMap (fun d => (findCop s d g q).map (fun o => (d, o)))

/-- The collective header of words 4 and 5 (R453). -/
def collW4 (g : Nat) (q : BitVec 16) (phase chunk : Nat) : Nat := g + 2 ^ 8 * q.toNat + 2 ^ 24 * phase + 2 ^ 32 * chunk
def collW5 (hash : Nat) (mis empty : Bool) (level lo : Nat) : Nat :=
  hash + 2 ^ 16 * b2n mis + 2 ^ 17 * b2n empty + 2 ^ 18 * level + 2 ^ 24 * lo

/-- The context runs, so that its engines send. -/
def collSends (s : State) (c : Nat) : Bool := !frozen s && ((getCtx s c).st = .running || (getCtx s c).st = .ending)

/-- A message of an operation sent to a node; a chunk counts against IN_FLIGHT until its last packet is answered (R455). -/
def collSend (s : State) (d : Nat) (o : COp) (tgt : Nat × Option Nat) (vc w4 w5 : Nat) (b : List Byte) (chunk : Option Nat) : State :=
  match newId s with
  | (m, s) =>
    let ps := (msgPackets s o.ctx.val tgt.1 9 vc w4 w5 b).map (fun p =>
      match tgt.2 with
      | some x => { p with mcast := true, mdim := BitVec.ofNat 2 x }
      | none => p)
    let s := match chunk with
      | some k => mapCop s d o.group o.cseq (fun x => { x with out := x.out ++ [(m, k, ps.length)] })
      | none => s
    ps.foldl (fun s p => sendRequest s { pkt := p, owner := .coll (Fin.ofNat 8 d) o.group o.cseq m,
                                         part := some (getCtx s o.ctx.val).part.toNat, port := d }) s

/-- A chunk counted as sent with its payload (R464). -/
def countSent (s : State) (d : Nat) (raw body : List Byte) : State :=
  let x := getColl s d
  setColl s d { x with chunksSent := inc64 x.chunksSent 1, denseBytes := inc64 x.denseBytes raw.length,
                       wireBytes := inc64 x.wireBytes body.length }

def countRecv (s : State) (d : Nat) : State :=
  let x := getColl s d
  setColl s d { x with chunksRecv := inc64 x.chunksRecv 1 }

/-! ### Delivery by dimension stages (R459) -/

/-- The partners over up adits of a role. -/
def peers (s : State) (r : Nat) : List Nat :=
  dedup ((List.range 24).filterMap (fun a =>
    let x := getAdit s a
    if role a = r ∧ x.st = .up ∧ x.partnerNodeValid then some x.partnerNode.toNat else none))

/-- Two lists of nodes hold the same nodes. -/
def sameNodes (a b : List Nat) : Bool := a.length = b.length && a.all (fun x => b.contains x)

/-- The member nodes are the devices of the chassis of this node, by the numbering of 12 R408. -/
def wholeChassis (s : State) (ns : List Nat) : Bool :=
  sameNodes ns ((List.range 64).map (fun i => node s / 64 * 64 + i))

/-- Where a datum that this node holds goes: every other member node, by multicast of a dimension or by unicast. -/
def deliverTo (s : State) (g : Nat) : List (Nat × Option Nat) :=
  let ns := cNodes s g
  let stage := fun (r : Nat) => (peers s r).map (fun n => (n, some r))
  if sameNodes ns (node s :: peers s 0) then stage 0
  else if sameNodes ns (node s :: peers s 1) then stage 1
  else if sameNodes ns (node s :: peers s 2) then stage 2
  else if wholeChassis s ns ∧ (peers s 0).length = 3 ∧ (peers s 1).length = 3 ∧ (peers s 2).length = 3 then
    stage 0 ++ stage 1 ++ stage 2
  else (ns.filter (· ≠ node s)).map (fun n => (n, none))

/-- The later stages of a multicast that a node passes on. -/
def relayTo (s : State) (g : Nat) (p : Packet) : List (Nat × Option Nat) :=
  if !p.mcast || !wholeChassis s (cNodes s g) then []
  else ([1, 2].filter (fun r => decide (p.mdim.toNat < r))).flatMap (fun r => (peers s r).map (fun n => (n, some r)))

/-- A message passed on by the node's lead engine. -/
def relay (s : State) (c g : Nat) (q : BitVec 16) (p : Packet) (b : List Byte) : State :=
  let d := cLead s c g
  match findCop s d g q with
  | some o => (relayTo s g p).foldl (fun s tgt => collSend s d o tgt p.vc.toNat p.w4.toNat p.w5.toNat b none) s
  | none => s

/-! ### Ends of members and operations (R439, R442, R463) -/

/-- The chunks that a member's output awaits. -/
def expects (o : COp) (geo : CGeo) (m : CMem) : List Nat :=
  let all := List.range geo.k
  match m.desc.kind with
  | 0 => all
  | 1 => all.filter (fun k => chunkSeg geo k = m.rank)
  | 2 => (List.range geo.n).flatMap (fun r => all.map (fun k => r * 2 ^ 32 + k))
  | 3 => all.map (fun k => m.desc.arg * 2 ^ 32 + k)
  | _ =>
    let n := max 1 geo.n
    let r := wrap 32 ((m.rank : Int) - sext 24 m.desc.arg + (2 ^ 24 * n : Nat)) % n
    all.map (fun k => r * 2 ^ 32 + k)

/-- STATUS of a member (R439). -/
def memStatus (o : COp) (m : CMem) : Nat :=
  if m.bad then 4 else if o.verdict = some true then 1 else if o.unreachable then 3 else if m.failed ≠ [] then 2 else 0

/-- Bytes after a scattered segment, and the length entries of a gather (R441, R442). -/
def closeOutput (s : State) (o : COp) (geo : CGeo) (m : CMem) : State :=
  let c := o.ctx.val
  let dst := 64 * m.desc.dstAddr
  if memStatus o m ≠ 0 ∧ memStatus o m ≠ 2 then s
  else if m.desc.kind = 1 then
    let got := min ((m.rank + 1) * geo.q) geo.e - m.rank * geo.q
    let w := elemBits geo.fmt
    let last := if w % 8 = 0 then got else roundUp got 4
    let s := ((List.range (last - got)).map (· + got)).foldl (fun s i => putElem s c m.desc.core dst geo.fmt i 0) s
    let a := last * w / 8
    b0Write s c m.desc.core (dst + a) (List.replicate (roundUp (ceilDiv (geo.q * w) 8) 64 - a) 0)
  else if m.desc.kind = 2 ∧ m.desc.var_ then
    (List.range geo.n).foldl (fun s r =>
      b0Write s c m.desc.core (dst + geo.n * geo.c + 4 * r)
        (bytesOf 4 (((o.lens.find? (fun e => e.1 = r)).map (·.2)).getD geo.c))) s
  else s

/-- One member completes. -/
def finishMem (s : State) (d : Nat) (o : COp) (m : CMem) : State :=
  let s := closeOutput s o (cGeo s o) m
  let s := mapCop s d o.group o.cseq (fun x => { x with mems := x.mems.map (fun y => if y.rank = m.rank then { y with finished := true } else y) })
  let s := if m.bad then countBad s d else s
  let f := sortBy id m.failed
  cRecord s m.desc (memStatus o m) m.dropped f.length (f.headD 0)

/-- Members whose output is whole complete. -/
def finishMems (s : State) (d g : Nat) (q : BitVec 16) : State :=
  match findCop s d g q with
  | none => s
  | some o =>
    let geo := cGeo s o
    (o.mems.filter (fun m => !m.finished && (expects o geo m).all (fun k => m.done.contains k || m.failed.contains k))).foldl
      (fun s m => finishMem s d o m) s

/-- Granules released (11 R381). -/
def rsRelease (s : State) (p : Grant → Bool) : State :=
  { s with yard := { s.yard with grants := s.yard.grants.filter (fun x => !p x) } }

/-- The operation leaves an engine: its buffers and grants are released; with the last engine of the node the group's registers
take it (R465). -/
def endCop (s : State) (d g : Nat) (q : BitVec 16) : State :=
  match findCop s d g q with
  | none => s
  | some o =>
    let pool := ((o.mems.head?).map (fun m => m.desc.stagePool)).getD 0
    let s := o.dests.foldl (fun s e => poolReleaseAll s pool e.2) s
    let x := getColl s d
    let s := setColl s d { x with ops := x.ops.filter (fun y => !(y.group = g && y.cseq = q)),
                                  last := mput 0 x.last g (q.toNat + 1), opsDone := inc64 x.opsDone 1 }
    if nodeCops s g q = [] then
      let r := getCGroup s g
      let st := ((o.mems.head?).map (memStatus o)).getD 0
      rsRelease (setCGroup s g { r with lastCseq := q, ops := inc64 r.ops 1, lastStatus := BitVec.ofNat 8 st }) (fun y => y.group = g && y.cseq = q)
    else s

/-- Every member of an engine completes at once, and the operation ends there (R451, R463). -/
def failCop (s : State) (d g : Nat) (q : BitVec 16) : State :=
  match findCop s d g q with
  | none => s
  | some o => endCop ((o.mems.filter (fun m => !m.finished)).foldl (fun s m => finishMem s d o m) s) d g q

/-! ### Windows, destinations and credit (R454, R456; 11 R380) -/

/-- A claim of granules: granted whole or refused (11 R380). -/
def rsClaim (s : State) (part : Nat) (gr : Grant) : Bool × State :=
  let used := s.yard.grants.foldl (fun n x => n + x.granules) 0
  let mine := (s.yard.grants.filter (fun x => x.part = part)).foldl (fun n x => n + x.granules) 0
  if used + gr.granules ≤ 1024 ∧ mine + gr.granules ≤ (mget 0x400 s.yard.rsLimit part).toNat then
    (true, { s with yard := { s.yard with grants := s.yard.grants ++ [gr], rsGrants := inc64 s.yard.rsGrants 1 } })
  else (false, { s with yard := { s.yard with rsRefusals := inc64 s.yard.rsRefusals 1 } })

/-- The device's window that holds chunk `k` is opened by the lead engine (R454). -/
def openWin (s : State) (c g : Nat) (q : BitVec 16) (k : Nat) : State :=
  let d := cLead s c g
  match findCop s d g q with
  | none => s
  | some o =>
    if o.wins.any (fun w => decide (w.1 ≤ k ∧ k < w.2.1)) then s
    else
      let geo := cGeo s o
      let h := cH s g geo
      let rs := ((o.mems.head?).map (fun m => m.desc.granules)).getD 0
      let add := fun (s : State) (n : Nat) (b : Bool) => mapCop s d g q (fun x => { x with wins := x.wins ++ [(k, k + n, b)] })
      if h = 0 ∨ rs < h then add s 1 false
      else
        let part := (getCtx s c).part.toNat
        match rsClaim s part { part := part, ctx := ctxFin c, group := g, cseq := q, engine := d, granules := rs / h * h, win := k } with
        | (true, s) => add s (rs / h) true
        | (false, s) =>
          let x := getColl s d
          add (setColl s d { x with rsFallbacks := inc32 x.rsFallbacks 1 }) (rs / h) false

/-- Chunk `k` lies in a granted window of the device. -/
def granted (s : State) (c g : Nat) (q : BitVec 16) (k : Nat) : Bool :=
  match findCop s (cLead s c g) g q with
  | some o => o.wins.any (fun w => decide (w.1 ≤ k ∧ k < w.2.1) && w.2.2)
  | none => false

/-- Every value of a chunk that this engine owes has been passed on. -/
def chunkDone (o : COp) (geo : CGeo) (k : Nat) : Bool :=
  (exports geo.n (chunkSeg geo k) o).all (fun e => o.passed.contains (k, e.1, e.2))

/-- c0 (R454). -/
def firstChunk (o : COp) (geo : CGeo) : Nat := ((List.range geo.k).find? (fun k => !chunkDone o geo k)).getD geo.k

/-- The span of chunks credited: IN_FLIGHT, halved while the staging pool is amber, none while it is red. -/
def creditSpan (s : State) (o : COp) : Nat :=
  let n := (cGroupRec s o.group).inFlight
  match (getPool s (((o.mems.head?).map (fun m => m.desc.stagePool)).getD 0)).st with
  | .green => n
  | .amber => max 1 (n / 2)
  | .red => 0

/-- The node of a member. -/
def rankNode (s : State) (g r : Nat) : Nat := ((cMembers s g).getD r (0, 0)).1

/-- A chunk has its destinations: credit for it goes to each sender that feeds this engine. -/
def creditChunk (s : State) (d g : Nat) (q : BitVec 16) (k : Nat) (bufs : List Nat) : State :=
  let add := if bufs = [] then [] else [(k, bufs)]
  let s := mapCop s d g q (fun x => { x with opened := x.opened + 1, want := none, dests := x.dests ++ add })
  match findCop s d g q with
  | none => s
  | some o =>
    let geo := cGeo s o
    (remoteKids geo.n (chunkSeg geo k) o).foldl (fun s e =>
      collSend s d o (rankNode s g e.2.2, none) 2 (collW4 g q 6 k) (collW5 0 false false e.2.1 e.1) [] none) s

/-- The next chunk of a reduction opened: none when the span is reached or a buffer is awaited. -/
def openStep (s : State) (d g : Nat) (q : BitVec 16) : Option State :=
  match findCop s d g q with
  | none => none
  | some o =>
    let geo := cGeo s o
    let k := o.opened
    if o.want.isSome || geo.k ≤ k || firstChunk o geo + creditSpan s o ≤ k then none
    else
      let c := o.ctx.val
      let s := openWin s c g q k
      let need := (remoteKids geo.n (chunkSeg geo k) o).length
      if need = 0 || granted s c g q k then some (creditChunk s d g q k [])
      else
        let pool := ((o.mems.head?).map (fun m => m.desc.stagePool)).getD 0
        match poolAlloc s pool need 1 with
        | some (l, s) => some (creditChunk s d g q k l)
        | none => match newId s with
          | (i, s) => some (poolWait (mapCop s d g q (fun x => { x with want := some (i, k) })) pool (.coll (Fin.ofNat 8 d) i) need)

/-- Chunks that a node still awaits from a sending rank. -/
def firstFrom (s : State) (g : Nat) (q : BitVec 16) (r : Nat) : Nat :=
  let ops := nodeCops s g q
  let k := ((ops.head?).map (fun e => (cGeo s e.2).k)).getD 0
  ((List.range k).find? (fun i => ops.any (fun e => e.2.mems.any (fun m =>
    (expects e.2 (cGeo s e.2) m).contains (r * 2 ^ 32 + i) && !m.done.contains (r * 2 ^ 32 + i))))).getD k

/-- Ranks of other nodes whose data this node awaits. -/
def feeders (s : State) (g : Nat) (q : BitVec 16) : List Nat :=
  dedup ((nodeCops s g q).flatMap (fun e => e.2.mems.flatMap (fun m => ((expects e.2 (cGeo s e.2) m).map (· / 2 ^ 32)).filter
    (fun r => rankNode s g r ≠ node s))))

/-- Credit for gathers, broadcasts and shifts: the lead engine gives it to each rank that feeds the node. -/
def lendAll (s : State) (d g : Nat) (q : BitVec 16) : State :=
  match findCop s d g q with
  | none => s
  | some o =>
    if cLead s o.ctx.val g ≠ d then s
    else (feeders s g q).foldl (fun s r =>
      let k := min (cGeo s o).k (firstFrom s g q r + creditSpan s o)
      let had := ((((findCop s d g q).map (·.lent)).getD []).find? (fun e => e.1 = r)).map (·.2) |>.getD 0
      if k ≤ had then s
      else
        let s := mapCop s d g q (fun x => { x with lent := x.lent.filter (fun e => e.1 ≠ r) ++ [(r, k)] })
        collSend s d o (rankNode s g r, none) 2 (collW4 g q 6 (k - 1)) (collW5 0 false false 0 r) [] none) s

/-! ### Values (R445, R447, R457) -/

/-- The accumulator format: binary64 for FP64, WX48 otherwise. -/
def accFmt (fmt : Nat) : Nat := if fmt = 0 then 0 else 14

/-- Bytes of values on the wire: leaves in FMT, others in the accumulator format (WX48 in six bytes). -/
def valBytes (fmt level : Nat) (vs : List Nat) : List Byte :=
  if level = 0 then packElems fmt (vs.map (fun v => enc fmt none (dec (accFmt fmt) v)))
  else if fmt = 0 then vs.flatMap (bytesOf 8) else vs.flatMap (bytesOf 6)

def bytesVals (fmt level n : Nat) (b : List Byte) : List Nat :=
  if level = 0 then (unpackElems fmt n b).map (fun v => enc (accFmt fmt) none (dec fmt v))
  else
    let w := if fmt = 0 then 8 else 6
    (List.range n).map (fun i => natAt b (w * i) w)

/-- combine (R445). -/
def combineAcc (fmt rop : Nat) (a b : Nat) : Nat :=
  let f := accFmt fmt
  let x := dec f a
  let y := dec f b
  enc f none (if rop = 0 then fadd x y else if rop = 1 then fmax x y else fmin x y)

/-- The leaf of a member for a chunk. -/
def leafVals (s : State) (geo : CGeo) (m : CMem) (k : Nat) : List Nat :=
  let f := geo.fmt
  if m.desc.empty then List.replicate (chunkLen geo k) (enc (accFmt f) none (dec f 0))
  else
    let b := natOf (cInput s m.desc)
    (List.range (chunkLen geo k)).map (fun i =>
      let o := elemAt f geo.ranges (chunkAt geo k + i)
      enc (accFmt f) none (dec f (bits b (o + valBits f - 1) o)))

/-- The value of a node for a chunk, as far as this engine has what it needs; a node with a failed child is failed. -/
def nodeVal (s : State) (o : COp) (geo : CGeo) (rop k : Nat) : Nat → Nat → Option (List Nat × Bool)
  | l, a =>
    match o.vals.find? (fun v => v.lo = a && v.level = l && v.chunk = k) with
    | some v => some (v.vals, v.failed)
    | none =>
      if rankOn o (treeLoc geo.n (chunkSeg geo k) a l) = false then none
      else match l with
        | 0 => (o.mems.find? (fun m => m.rank = a)).map (fun m => (leafVals s geo m k, false))
        | l + 1 =>
          match nodeVal s o geo rop k l a with
          | none => none
          | some x =>
            if geo.n ≤ a + 2 ^ l then some x
            else (nodeVal s o geo rop k l (a + 2 ^ l)).map (fun y =>
              if x.2 || y.2 then ([], true) else ((x.1.zip y.1).map (fun e => combineAcc geo.fmt rop e.1 e.2), false))

/-! ### Outputs -/

/-- Elements of an output written, from element `i` of its ranges on. -/
def putVals (s : State) (c core dst fmt : Nat) (ranges : List (Nat × Nat)) (i : Nat) (vs : List Nat) : State :=
  (indexed vs).foldl (fun s e =>
    let o := elemAt fmt ranges (i + e.1)
    putElem s c core (dst + o / 8) fmt 0 e.2) s

/-- A packed run of elements written at once when it lies on whole bytes of one range; element by element otherwise. -/
def putRun (s : State) (c core dst fmt : Nat) (ranges : List (Nat × Nat)) (i : Nat) (vs : List Nat) : State :=
  let w := elemBits fmt
  match ranges with
  | [(b, _)] =>
    if i * w % 8 = 0 ∧ vs.length * w % 8 = 0 then b0Write s c core (dst + b + i * w / 8) (packElems fmt vs)
    else (indexed vs).foldl (fun s e => putElem s c core (dst + b) fmt (i + e.1) e.2) s
  | _ => putVals s c core dst fmt ranges i vs

/-- A result chunk, or its failure, reaches the members of one engine. -/
def resultTo (g : Nat) (q : BitVec 16) (k : Nat) (vs : List Nat) (failed : Bool) (s : State) (d : Nat) : State :=
  match findCop s d g q with
  | none => s
  | some o =>
    let geo := cGeo s o
    o.mems.foldl (fun s m =>
      if m.finished || !(expects o geo m).contains k || m.done.contains k || m.failed.contains k then s
      else
        let mark := fun (s : State) => mapCop s d g q (fun x => { x with mems := x.mems.map (fun y =>
          if y.rank = m.rank then (if failed then { y with failed := y.failed ++ [k] } else { y with done := y.done ++ [k] })
          else y) })
        if failed then mark s
        else if m.desc.kind = 1 then
          mark (putRun s o.ctx.val m.desc.core (64 * m.desc.dstAddr) geo.fmt [(0, geo.q)] (chunkAt geo k - m.rank * geo.q) vs)
        else mark (putRun s o.ctx.val m.desc.core (64 * m.desc.dstAddr) geo.fmt geo.ranges (chunkAt geo k) vs)) s

/-- A result chunk written on every engine of the node. -/
def resultAll (s : State) (g : Nat) (q : BitVec 16) (k : Nat) (vs : List Nat) (failed : Bool) : State :=
  (List.range 8).foldl (resultTo g q k vs failed) s

/-- A datum of a gather, broadcast or shift reaches the members of one engine. -/
def dataTo (g : Nat) (q : BitVec 16) (r k : Nat) (b : List Byte) (len : Option Nat) (s : State) (d : Nat) : State :=
  match findCop s d g q with
  | none => s
  | some o =>
    let geo := cGeo s o
    let id_ := r * 2 ^ 32 + k
    let s := match len with
      | some l => mapCop s d g q (fun x => { x with lens := x.lens.filter (fun e => e.1 ≠ r) ++ [(r, l)] })
      | none => s
    o.mems.foldl (fun s m =>
      if m.finished || !(expects o geo m).contains id_ || m.done.contains id_ then s
      else
        let a := 64 * m.desc.dstAddr + (if m.desc.kind = 2 then r * geo.c else 0) + 65536 * k
        let s := b0Write s o.ctx.val m.desc.core a (b.take (min 65536 (geo.c - 65536 * k)))
        mapCop s d g q (fun x => { x with mems := x.mems.map (fun y =>
          if y.rank = m.rank then { y with done := y.done ++ [id_] } else y) })) s

def dataAll (s : State) (g : Nat) (q : BitVec 16) (r k : Nat) (b : List Byte) (len : Option Nat) : State :=
  (List.range 8).foldl (dataTo g q r k b len) s

/-- Bytes of a sparse output that are not reduced are copied from the input (R444). -/
def copyGaps (s : State) (o : COp) (m : CMem) : State :=
  let geo := cGeo s o
  let b := cInput s m.desc
  let ends := geo.ranges.map (fun r => (r.1, r.1 + ceilDiv (r.2 * elemBits geo.fmt) 8))
  let gaps := ((0 :: ends.map (·.2)).zip (ends.map (·.1) ++ [geo.c]))
  gaps.foldl (fun s e => b0Write s o.ctx.val m.desc.core (64 * m.desc.dstAddr + e.1) ((b.drop e.1).take (e.2 - e.1))) s

/-! ### Sending (R455) -/

/-- Room under IN_FLIGHT for a chunk. -/
def flightRoom (s : State) (o : COp) (k : Nat) : Bool :=
  let ks := dedup (o.out.map (fun e => e.2.1))
  ks.contains k || decide (ks.length < (cGroupRec s o.group).inFlight)

/-- A root's chunk: converted once, folded, written here and delivered (R445, R448, R457, R459). -/
def rootOut (s : State) (d : Nat) (o : COp) (geo : CGeo) (k : Nat) (v : List Nat × Bool) : State :=
  let g := o.group
  let q := o.cseq
  let seg := chunkSeg geo k
  let m := o.mems.find? (fun m => m.rank = seg)
  let red : Nat := ((o.mems.head?).map (fun m => m.desc.kind)).getD 0
  let out := v.1.map (fun x => enc geo.fmt none (dec (accFmt geo.fmt) x))
  let b := packElems geo.fmt out
  let s := if v.2 then s
           else fold s o.ctx.val 2 g q.toNat seg k ((m.map (fun m => m.desc.step)).getD 0) b
  let s := resultAll s g q k out v.2
  if decide (red = 1) then s
  else
    let zc := ((o.mems.head?).map (fun m => m.desc.zcomp)).getD false
    let w5 := collW5 0 false false (cDepth geo.n) 0
    (deliverTo s g).foldl (fun s tgt =>
      if v.2 then collSend s d o tgt 3 (collW4 g q 5 k) w5 [] (some k)
      else
        let body := bodyBytes zc b
        countSent (collSend s d o tgt 3 (collW4 g q 3 k) w5 body (some k)) d b body) s

/-- A node's value sent to the engine of its parent (R447, R457). -/
def partialOut (s : State) (d : Nat) (o : COp) (geo : CGeo) (k a l : Nat) (v : List Nat × Bool) : State :=
  let g := o.group
  let q := o.cseq
  let p := treeLoc geo.n (chunkSeg geo k) (parentLo a l) (l + 1)
  let tgt := (rankNode s g p, (none : Option Nat))
  let empty := l = 0 && o.mems.any (fun m => m.rank = a && m.desc.empty)
  if v.2 then collSend s d o tgt 3 (collW4 g q 5 k) (collW5 0 false false l a) [] (some k)
  else if empty then countSent (collSend s d o tgt 3 (collW4 g q 2 k) (collW5 0 false true l a) [] (some k)) d [] []
  else
    let b := valBytes geo.fmt l v.1
    let body := bodyBytes (((o.mems.head?).map (fun m => m.desc.zcomp)).getD false) b
    countSent (collSend s d o tgt 3 (collW4 g q 2 k) (collW5 0 false false l a) body (some k)) d b body

/-- Credit from a node for a child covers a chunk. -/
def hasCredit (o : COp) (nd a l k : Nat) : Bool :=
  o.credit.any (fun e => e.1 = nd && e.2.1 = a && e.2.2.1 = l && decide (k ≤ e.2.2.2))

/-- A value of a reduction that is ready and not passed on, with whether it may go now. -/
def readyVals (s : State) (o : COp) (geo : CGeo) : List (Nat × Nat × Nat × (List Nat × Bool) × Bool) :=
  let rop := ((o.mems.head?).map (fun m => m.desc.rop)).getD 0
  (List.range geo.k).flatMap (fun k =>
    (exports geo.n (chunkSeg geo k) o).filterMap (fun e =>
      if o.passed.contains (k, e.1, e.2) then none
      else (nodeVal s o geo rop k e.2 e.1).map (fun v =>
        let credit := decide (e.2 = cDepth geo.n) ||
          hasCredit o (rankNode s o.group (treeLoc geo.n (chunkSeg geo k) (parentLo e.1 e.2) (e.2 + 1))) e.1 e.2 k
        (k, e.1, e.2, v, credit))))

/-- The next value of a reduction passed on. -/
def redStep (s : State) (d g : Nat) (q : BitVec 16) : Option State :=
  match findCop s d g q with
  | none => none
  | some o =>
    let geo := cGeo s o
    match (readyVals s o geo).find? (fun e => e.2.2.2.2 && flightRoom s o e.1) with
    | none => none
    | some (k, a, l, v, _) =>
      let s := mapCop s d g q (fun x => { x with passed := x.passed ++ [(k, a, l)] })
      some (if l = cDepth geo.n then rootOut s d o geo k v else partialOut s d o geo k a l v)

/-- Nodes that a member's datum goes to. -/
def dataDests (s : State) (o : COp) (geo : CGeo) (m : CMem) : List (Nat × Option Nat) :=
  match m.desc.kind with
  | 4 =>
    let n := max 1 geo.n
    let nd := rankNode s o.group (wrap 32 ((m.rank : Int) + sext 24 m.desc.arg + (2 ^ 24 * n : Nat)) % n)
    if nd = node s then [] else [(nd, none)]
  | _ => deliverTo s o.group

/-- Nodes whose credit a datum needs: all that receive it. -/
def dataNodes (s : State) (o : COp) (geo : CGeo) (m : CMem) : List Nat :=
  if m.desc.kind = 4 then (dataDests s o geo m).map (·.1) else (cNodes s o.group).filter (· ≠ node s)

/-- The next datum of a gather, broadcast or shift sent. -/
def moveStep (s : State) (d g : Nat) (q : BitVec 16) : Option State :=
  match findCop s d g q with
  | none => none
  | some o =>
    let geo := cGeo s o
    let src := o.mems.filter (fun m => m.desc.kind ≠ 3 || m.rank = m.desc.arg)
    let all := src.flatMap (fun m => (List.range geo.k).filterMap (fun k =>
      if o.passed.contains (k, m.rank, 0) then none else some (m, k)))
    match all.find? (fun e => (dataNodes s o geo e.1).all (fun nd => hasCredit o nd e.1.rank 0 e.2) && flightRoom s o e.2) with
    | none => none
    | some (m, k) =>
      let s := mapCop s d g q (fun x => { x with passed := x.passed ++ [(k, m.rank, 0)] })
      let b := ((cInput s m.desc).drop (65536 * k)).take 65536
      let len := min m.desc.len geo.c
      let s := dataAll s g q m.rank k b (if m.desc.var_ then some len else none)
      let body := if m.desc.empty then [] else bodyBytes m.desc.zcomp b
      let w5 := collW5 (if m.desc.var_ then len / 64 else 0) false m.desc.empty 0 m.rank
      some ((dataDests s o geo m).foldl (fun s tgt =>
        countSent (collSend s d o tgt 3 (collW4 g q 4 k) w5 body (some k)) d (if m.desc.empty then [] else b) body) s)

/-- A step repeated while it can be taken. -/
def iter (f : State → Option State) : Nat → State → State
  | 0, s => s
  | n + 1, s => match f s with
    | some t => iter f n t
    | none => s

/-- Staging buffers of chunks passed on are released, and windows that every engine of the node has passed (R454). -/
def releaseDone (s : State) (d g : Nat) (q : BitVec 16) : State :=
  match findCop s d g q with
  | none => s
  | some o =>
    let geo := cGeo s o
    let pool := ((o.mems.head?).map (fun m => m.desc.stagePool)).getD 0
    let gone := o.dests.filter (fun e => chunkDone o geo e.1)
    let s := gone.foldl (fun s e => poolReleaseAll s pool e.2)
      (mapCop s d g q (fun x => { x with dests := x.dests.filter (fun e => !chunkDone o geo e.1) }))
    let low := (nodeCops s g q).foldl (fun n e => min n (firstChunk e.2 (cGeo s e.2))) geo.k
    match findCop s (cLead s o.ctx.val g) g q with
    | none => s
    | some l => rsRelease s (fun y => y.group = g && y.cseq = q && l.wins.any (fun w => w.1 = y.win && decide (w.2.1 ≤ low)))

/-- What an engine can do for an operation whose verdict is GO. -/
def collAdvance (s : State) (d g : Nat) (q : BitVec 16) : State :=
  match findCop s d g q with
  | none => s
  | some o =>
    if o.verdict ≠ some false then s
    else
      let geo := cGeo s o
      let red := ((o.mems.head?).map (fun m => cRed m.desc)).getD false
      let s :=
        if !collSends s o.ctx.val then s
        else if red then
          let s := iter (fun s => openStep s d g q) (geo.k + 1) s
          let s := iter (fun s => redStep s d g q) (geo.k * (o.mems.length * (cDepth geo.n + 1)) + 1) s
          iter (fun s => openStep s d g q) (geo.k + 1) (releaseDone s d g q)
        else iter (fun s => moveStep s d g q) (geo.k * o.mems.length + 1) (lendAll s d g q)
      let s := finishMems s d g q
      match findCop s d g q with
      | none => s
      | some o =>
        let sent := if red then firstChunk o geo = geo.k
          else (o.mems.filter (fun m => m.desc.kind ≠ 3 || m.rank = m.desc.arg)).all (fun m =>
            (List.range geo.k).all (fun k => o.passed.contains (k, m.rank, 0)))
        if o.mems.all (·.finished) && o.out = [] && sent then endCop s d g q
        else
          let st := if red then (readyVals s o geo).any (fun e => !e.2.2.2.2) else !sent && flightRoom s o geo.k
          mapCop s d g q (fun x => { x with starved := st })

/-- The engines of the node go on with an operation. -/
def collAdvanceAll (s : State) (g : Nat) (q : BitVec 16) : State :=
  (List.range 8).foldl (fun s d => collAdvance s d g q) s

/-! ### Headers and the verdict (R450, R451) -/

/-- The header of a node, and how many nodes of this engine beneath it see two different hashes. -/
def hdrVal (s : State) (o : COp) (n : Nat) : Nat → Nat → Option (BitVec 16 × Bool × Nat)
  | l, a =>
    match o.hdrs.find? (fun h => h.lo = a && h.level = l) with
    | some h => some (h.hash, h.mis, 0)
    | none =>
      if rankOn o (treeLoc n 0 a l) = false then none
      else match l with
        | 0 => (o.mems.find? (fun m => m.rank = a)).map (fun m => (cHash s m.desc, m.bad, 0))
        | l + 1 =>
          match hdrVal s o n l a with
          | none => none
          | some x =>
            if n ≤ a + 2 ^ l then some x
            else (hdrVal s o n l (a + 2 ^ l)).map (fun y =>
              (x.1, x.2.1 || y.2.1 || x.1 ≠ y.1, x.2.2 + y.2.2 + (if x.1 ≠ y.1 then 1 else 0)))

/-- Different hashes that meet here are counted and posted (R450). -/
def postMismatch (s : State) (d : Nat) (o : COp) : Nat → State
  | 0 => s
  | n + 1 =>
    let x := getColl s d
    postMismatch (post (setColl s d { x with mismatches := inc32 x.mismatches 1 }) evMismatch (some o.ctx)
      (o.group + 65536 * o.cseq.toNat) 0) d o n

/-- The verdict reaches one engine: GO starts the data, MISMATCH completes every member. -/
def verdictTo (g : Nat) (q : BitVec 16) (mis : Bool) (s : State) (d : Nat) : State :=
  match findCop s d g q with
  | none => s
  | some o =>
    if o.verdict.isSome then s
    else
      let s := mapCop s d g q (fun x => { x with verdict := some mis })
      if mis then failCop s d g q
      else if o.mems.any (fun m => m.desc.sparse && cRed m.desc && m.desc.kind = 0) then
        o.mems.foldl (fun s m => copyGaps s o m) s
      else s

/-- The verdict on every engine of the node. -/
def verdictAll (s : State) (g : Nat) (q : BitVec 16) (mis : Bool) : State :=
  collAdvanceAll ((List.range 8).foldl (verdictTo g q mis) s) g q

/-- The headers that an engine can pass up: one step. The root's header gives the verdict (R450, R451). -/
def hdrStep (s : State) (d g : Nat) (q : BitVec 16) : Option State :=
  match findCop s d g q with
  | none => none
  | some o =>
    let n := (cMembers s g).length
    if !collSends s o.ctx.val then none
    else match (exports n 0 o).findSome? (fun e => if o.hdrUp.contains e then none else (hdrVal s o n e.2 e.1).map (fun h => (e, h))) with
      | none => none
      | some ((a, l), (hash, mis, diff)) =>
        let s := mapCop s d g q (fun x => { x with hdrUp := x.hdrUp ++ [(a, l)] })
        let s := postMismatch s d o diff
        if l = cDepth n then
          let s := (deliverTo s g).foldl (fun s tgt =>
            collSend s d o tgt 2 (collW4 g q 1 0) (collW5 0 mis false 0 0) [] none) s
          some (verdictAll s g q mis)
        else
          let p := treeLoc n 0 (parentLo a l) (l + 1)
          some (collSend s d o (rankNode s g p, none) 2 (collW4 g q 0 0) (collW5 hash.toNat mis false l a) [] none)

def hdrAdvance (s : State) (d g : Nat) (q : BitVec 16) : State :=
  match findCop s d g q with
  | none => s
  | some o => iter (fun s => hdrStep s d g q) (o.mems.length * (cDepth (cMembers s g).length + 1) + 1) s

/-! ### COLLECTIVE_START (R435, R450) -/

/-- The CSEQ that an engine runs next for a group: the one after the last completed, or the first posted. -/
def nextCseq (x : Coll) (g : Nat) : Option (BitVec 16) :=
  match mget 0 x.last g with
  | 0 => (x.queue.find? (fun d => d.group = g)).map (·.cseq)
  | n => some (BitVec.ofNat 16 n)

/-- A member as the operation starts. -/
def startMem (s : State) (r : Nat) (d : CDesc) : CMem :=
  { rank := r, desc := d, bad := cBad s d, dropped := if d.var_ then d.len - cSize s d else 0, done := [], failed := [],
    finished := false }

/-- The operation of a group starts on an engine once every member it serves has posted it. -/
def collectiveStart (s : State) (d g : Nat) : State :=
  let x := getColl s d
  match nextCseq x g, x.queue.find? (fun e => e.group = g) with
  | some q, some e0 =>
    let c := e0.ctx.val
    let mine := (cLocal s g).filter (fun m => dieOf s c m.2 = d)
    let ds := mine.filterMap (fun m => (x.queue.find? (fun e => e.group = g && e.cseq = q && e.core = m.2 && e.ctx = e0.ctx)).map
      (fun e => (m.1, e)))
    if ds = [] || ds.length ≠ mine.length || x.ops.any (fun o => o.group = g) || 64 ≤ x.ops.length || !collSends s c then s
    else
      let o : COp := { group := g, cseq := q, ctx := ctxFin c, mems := ds.map (fun e => startMem s e.1 e.2),
                       hdrs := (x.early.filter (fun h => h.1 = g && h.2.1 = q)).map (fun h => h.2.2) }
      let lost := o.mems.foldl (fun t m => t + m.dropped) 0
      let s := setColl s d { x with queue := x.queue.filter (fun e => !ds.any (fun y => y.2 = e)), ops := x.ops ++ [o],
                                    early := x.early.filter (fun h => !(h.1 = g && h.2.1 = q)),
                                    overflow := inc64 x.overflow lost }
      hdrAdvance s d g q
  | _, _ => s

def execCollectiveStart (d : Fin 8) (g : Fin 64) (s : State) : Host.Outcome State Fault Refusal :=
  .next (if frozen s then s else guarded s (collectiveStart s d.val g.val))

/-! ### Inbound packets -/

/-- The fields of a collective header. -/
structure CFld where
  group : Nat
  cseq : BitVec 16
  chunk : Nat
  hash : Nat
  mis : Bool
  empty : Bool
  level : Nat
  lo : Nat
  deriving DecidableEq, Repr

def collFld (p : Packet) : CFld :=
  let a := p.w4.toNat
  let b := p.w5.toNat
  { group := bits a 5 0, cseq := BitVec.ofNat 16 (a / 256), chunk := bits a 63 32, hash := bits b 15 0, mis := bitAt b 16,
    empty := bitAt b 17, level := bits b 23 18, lo := bits b 47 24 }

/-- A collective packet received. -/
def collRecv (s : State) (p : Packet) (act : State → Option State) : State :=
  if (p.long && p.op = 9) || badOp p then recv s p (fun s => sendAck s 0 p 0 0) (fun s => engineGate s 0 p act) else s

/-- A packet of one flit or none: delivered at once. -/
def collOne (s : State) (p : Packet) (k : State → State) : State := collRecv s p (fun s => some (k (accept s 0 p)))

/-- A message of a collective operation: delivered when its last packet has come, passed on by later stages. -/
def collMsg (s : State) (p : Packet) (k : State → List Byte → State) : State :=
  collRecv s p (fun s => match msgAdd s p with
    | (none, s) => some (accept s 0 p)
    | (some b, s) => some (k (accept s 0 p) b))

/-- HEADER: it goes to the engine of its parent node; it is kept until the operation starts there (R450). -/
def headerIn (s : State) (p : Packet) : State :=
  let f := collFld p
  let c := p.ctx.toNat
  collOne s p (fun s =>
    let n := (cMembers s f.group).length
    let r := treeLoc n 0 (parentLo f.lo f.level) (f.level + 1)
    let d := dieOf s c ((cMembers s f.group).getD r (0, 0)).2
    let h : CHdr := { lo := f.lo, level := f.level, hash := BitVec.ofNat 16 f.hash, mis := f.mis }
    if (findCop s d f.group f.cseq).isSome then
      hdrAdvance (mapCop s d f.group f.cseq (fun x => { x with hdrs := x.hdrs ++ [h] })) d f.group f.cseq
    else
      let x := getColl s d
      setColl s d { x with early := x.early ++ [(f.group, f.cseq, h)] })

def execHeader (p : Packet) (s : State) : Host.Outcome State Fault Refusal :=
  .next (if frozen s then s else guarded s (headerIn s p))

/-- VERDICT (R451). -/
def verdictIn (s : State) (p : Packet) : State :=
  let f := collFld p
  collOne s p (fun s => verdictAll (relay s p.ctx.toNat f.group f.cseq p []) f.group f.cseq f.mis)

def execVerdict (p : Packet) (s : State) : Host.Outcome State Fault Refusal :=
  .next (if frozen s then s else guarded s (verdictIn s p))

/-- CREDIT (R454). -/
def creditIn (s : State) (p : Packet) : State :=
  let f := collFld p
  collOne s p (fun s =>
    let s := (List.range 8).foldl (fun s d => mapCop s d f.group f.cseq (fun x =>
      { x with credit := x.credit ++ [(p.src.toNat, f.lo, f.level, f.chunk)] })) s
    collAdvanceAll s f.group f.cseq)

def execCredit (p : Packet) (s : State) : Host.Outcome State Fault Refusal :=
  .next (if frozen s then s else guarded s (creditIn s p))

/-- The engine that computes the parent of a node for a chunk, with its operation. -/
def parentCop (s : State) (f : CFld) : Option (Nat × COp × CGeo) :=
  (nodeCops s f.group f.cseq).findSome? (fun e =>
    let geo := cGeo s e.2
    if rankOn e.2 (treeLoc geo.n (chunkSeg geo f.chunk) (parentLo f.lo f.level) (f.level + 1)) then some (e.1, e.2, geo) else none)

/-- A residue mismatch at a node: the chunk fails there; the device posts ARITH_CHECK once per operation (R457, 11 R379). -/
def arithFail (s : State) (d : Nat) (o : COp) (k lo level : Nat) : State :=
  let g := o.group
  let q := o.cseq
  let store := granted s o.ctx.val g q k
  let s := mapCop s d g q (fun x => { x with vals := x.vals ++ [{ lo := lo, level := level, chunk := k, vals := [], failed := true }] })
  let x := getColl s d
  let s := setColl s d { x with arithFails := inc32 x.arithFails 1 }
  let s := if store then { s with yard := { s.yard with rsResidueFails := inc32 s.yard.rsResidueFails 1 } } else s
  if (nodeCops s g q).any (fun e => e.2.arithPosted) then s
  else postArith (mapCop s d g q (fun x => { x with arithPosted := true })) (some o.ctx) (if store then 10 else 3)
    (if store then 0 else d) (g + 65536 * q.toNat)

/-- PARTIAL: a child's value (R445); `residueOk` false is a mismatch at the node that combines it. -/
def partialIn (s : State) (p : Packet) (residueOk : Bool) : State :=
  let f := collFld p
  collMsg s p (fun s b =>
    match parentCop s f with
    | none => s
    | some (d, o, geo) =>
      let n := chunkLen geo f.chunk
      let vs := if f.empty then List.replicate n (enc (accFmt geo.fmt) none (dec geo.fmt 0))
                else bytesVals geo.fmt f.level n (bodyRows b)
      let s := countRecv (mapCop s d f.group f.cseq (fun x => { x with vals := x.vals ++
        [{ lo := f.lo, level := f.level, chunk := f.chunk, vals := vs, failed := false }] })) d
      let s := if residueOk then s else arithFail s d o f.chunk (parentLo f.lo f.level) (f.level + 1)
      collAdvanceAll s f.group f.cseq)

def execPartialVal (p : Packet) (residueOk : Bool) (s : State) : Host.Outcome State Fault Refusal :=
  .next (if frozen s then s else guarded s (partialIn s p residueOk))

/-- FAILED: a failed child, or a failed root in place of a result (R457). -/
def failedIn (s : State) (p : Packet) : State :=
  let f := collFld p
  collOne s p (fun s =>
    let n := (cMembers s f.group).length
    if f.level = cDepth n then
      collAdvanceAll (resultAll (relay s p.ctx.toNat f.group f.cseq p []) f.group f.cseq f.chunk [] true) f.group f.cseq
    else match parentCop s f with
      | none => s
      | some (d, _, _) =>
        let s := mapCop s d f.group f.cseq (fun x => { x with vals := x.vals ++
          [{ lo := f.lo, level := f.level, chunk := f.chunk, vals := [], failed := true }] })
        collAdvanceAll s f.group f.cseq)

def execFailed (p : Packet) (s : State) : Host.Outcome State Fault Refusal :=
  .next (if frozen s then s else guarded s (failedIn s p))

/-- RESULT: a reduced chunk written by every member of the node (R459). -/
def collResultIn (s : State) (p : Packet) : State :=
  let f := collFld p
  collMsg s p (fun s b =>
    let s := relay s p.ctx.toNat f.group f.cseq p b
    match (nodeCops s f.group f.cseq).head? with
    | none => s
    | some (_, o) =>
      let geo := cGeo s o
      let vs := unpackElems geo.fmt (chunkLen geo f.chunk) (bodyRows b)
      let s := countRecv s (cLead s p.ctx.toNat f.group)
      collAdvanceAll (resultAll s f.group f.cseq f.chunk vs false) f.group f.cseq)

def execCollectiveResult (p : Packet) (s : State) : Host.Outcome State Fault Refusal :=
  .next (if frozen s then s else guarded s (collResultIn s p))

/-- DATA: a chunk of a gather, broadcast or shift (R441, R459). -/
def dataIn (s : State) (p : Packet) : State :=
  let f := collFld p
  collMsg s p (fun s b =>
    let s := relay s p.ctx.toNat f.group f.cseq p b
    match (nodeCops s f.group f.cseq).head? with
    | none => s
    | some (_, o) =>
      let geo := cGeo s o
      let rows := if f.empty then List.replicate (min 65536 (geo.c - 65536 * f.chunk)) 0 else bodyRows b
      let var := ((o.mems.head?).map (fun m => m.desc.var_)).getD false
      let s := countRecv s (cLead s p.ctx.toNat f.group)
      collAdvanceAll (dataAll s f.group f.cseq f.lo f.chunk rows (if var then some (64 * f.hash) else none)) f.group f.cseq)

def execData (p : Packet) (s : State) : Host.Outcome State Fault Refusal :=
  .next (if frozen s then s else guarded s (dataIn s p))

/-! ### Answers, buffers granted later, restores -/

/-- A packet of an operation is answered. -/
def collAnswered (s : State) (d g : Nat) (q : BitVec 16) (m : Nat) : State :=
  let s := mapCop s d g q (fun x => { x with out := (x.out.map (fun e =>
    if e.1 = m then (e.1, e.2.1, e.2.2 - 1) else e)).filter (fun e => decide (e.2.2 ≠ 0)) })
  collAdvance s d g q

/-- A packet of an operation raised UNREACHABLE: the members of that engine complete so (R463). -/
def collLost (s : State) (d g : Nat) (q : BitVec 16) : State :=
  failCop (mapCop s d g q (fun x => { x with unreachable := true })) d g q

/-- Staging buffers granted to an engine that waited. -/
def collGive (s : State) (d id pool : Nat) (l : List Nat) : State :=
  match (getColl s d).ops.find? (fun o => (o.want.map (·.1)) = some id) with
  | none => poolReleaseAll s pool l
  | some o => collAdvance (creditChunk s d o.group o.cseq ((o.want.map (·.2)).getD 0) l) d o.group o.cseq

/-- The engines go on for a context that runs again. -/
def collResume (s : State) (c : Nat) : State :=
  (List.range 8).foldl (fun s d =>
    ((getColl s d).ops.filter (fun o => o.ctx.val = c)).foldl (fun s o =>
      collAdvance (hdrAdvance s d o.group o.cseq) d o.group o.cseq) s) s

end Sys2Proof.Machine
end

