-- ==== Sys2Proof/Machine/Done.lean ====
section
/-!
DEFINITION. The completion of issued operations (04 R127-R129, R144, R149, R166), and what a teardown leaves of them (R131).
-/
namespace Sys2Proof.Machine

/-- A core that waits in FENCE goes on once the queues it names are empty (R139). -/
def wakeFence (s : State) (k : Nat) : State :=
  let c := getCore s k
  match c.wait with
  | .fence m => if queuesEmpty c m && !c.ended then next (setCore s k { c with wait := .none }) k else s
  | _ => s

/-- The counters that a completed operation advances (R166). -/
def countOp (s : State) (k : Nat) (o : Op) : State :=
  let s := if o.srConv = 0 then s else bump s k 14 o.srConv
  match o.kind with
  | .arr => bump s k 5 1
  | .spr | .pack | .vec _ => s
  | _ => bump s k 8 o.bytes

/-- An operation completes: its output bytes are in Bench 0 (of the peer, for MOV.P, with the count it names), its queue and
scoreboard entries are free (R129). -/
def finishOp (s : State) (k : Nat) (o : Op) : State :=
  let c := getCore s k
  let s := setCore s k { c with ops := c.ops.erase o }
  let s := match o.kind with
    | .movP peer flag cnt =>
      o.out.foldl (fun s e => deposit s (coreCtx s k) peer e.1 e.2 (if flag then some cnt.toNat else none)) s
    | _ =>
      let c := getCore s k
      setCore s k { c with b0 := o.out.foldl (fun m e => writeBytes m e.1 e.2) c.b0 }
  settleIdle (wakeFence (countOp s k o) k) k

/-- A vector operation whose residue does not match writes nothing, and the core faults (R149). -/
def failVec (s : State) (k : Nat) (o : Op) : State :=
  let c := getCore s k
  unitFault (setCore s k { c with ops := c.ops.erase o, v := o.undo.foldl (fun m e => mput 0 m e.1 e.2) c.v }) k fArith

/-- A unit goes on with its operations: it is running a slot and no stop has reached its boundary. -/
def unitRuns (s : State) (u : Nat) : Bool := (getFace s u).st = .running || (getFace s u).st = .waiting

/-- The operation at the head of a queue completes, once nothing it asked for is outstanding. -/
def operationComplete (s : State) (k q : Nat) (residueOk : Bool) : State :=
  if !unitRuns s k then s
  else match (getCore s k).ops.find? (fun o => o.q = q) with
    | none => s
    | some o =>
      if o.pieces ≠ 0 then s
      else match o.kind with
        | .vec true => if residueOk then finishOp s k o else failVec s k o
        | _ => finishOp s k o

def execOperationComplete (k : Fin 512) (q : Fin 8) (residueOk : Bool) (s : State) : Host.Outcome State Fault Refusal :=
  .next (if frozen s then s else guarded s (operationComplete s k.val q.val residueOk))

/-- An output of an abandoned operation: each byte holds its old or its new value (R131). -/
def mixBytes (s : State) (k a : Nat) : List Byte → State
  | [] => s
  | b :: r =>
    let c := getCore s k
    let s := { s with free := s.free + 1 }
    mixBytes (if Config.freeBit (s.free - 1) then setCore s k { c with b0 := mput 0 c.b0 a b } else s) k (a + 1) r

/-- Operations of a core abandoned by a teardown. -/
def abandonOps (s : State) (k : Nat) : State :=
  let c := getCore s k
  let s := c.ops.foldl (fun s o => match o.kind with
    | .movP .. => s
    | _ => o.out.foldl (fun s e => mixBytes s k e.1 e.2) s) s
  setCore s k { getCore s k with ops := [], wait := .none, stall := 0, ended := true }

/-- A fabric operation one of whose pieces has been answered: it completes with the last (R129). -/
def pieceDone (s : State) (k id : Nat) : State :=
  match (getCore s k).ops.find? (fun o => o.id = id) with
  | none => s
  | some o =>
    let o' := { o with pieces := o.pieces - 1 }
    let c := getCore s k
    let s := setCore s k { c with ops := c.ops.map (fun x => if x.id = id then o' else x) }
    match o.kind with
    | .movHR | .movHW | .atom _ => if o'.pieces = 0 ∧ unitRuns s k then finishOp s k o' else s
    | _ => s

end Sys2Proof.Machine
end

