-- ==== Sys2Proof/Machine/Tramway.lean ====
section
/-!
DEFINITION. The Tramway's commands and happenings (08 R258-R295): DISPATCH, COMBINE, XCHG and END, intake and census, the
messages it receives, aborts, stops, and the progress of an operation.
-/
namespace Sys2Proof.Machine

/-! ### Building messages -/

/-- The tokens of a list that go to a node: descriptors of a token there are as many as the references of its buffer (R265). -/
def tokRefs (l : DList) (nd tok : Nat) : Nat := (liveDescs l).countP (fun d => d.node = nd && d.token = tok)

/-- The buffer of a token row, once staged. -/
def tokBuf (w : Tramway) (n nd tok : Nat) : Option TTok := w.toks.find? (fun k => k.n = n && k.node = nd && k.token = tok)

/-- The first token of a part that has no buffer yet. -/
def tokMissing (w : Tramway) (r : TRec) (nd : Nat) (ds : List Nat) : Option Nat :=
  (ds.filterMap (fun i => (r.list.descs[i]?).map (·.token))).find? (fun k => (tokBuf w r.n nd k).isNone)

/-- A token row copied into its buffer (R265). -/
def stageTok (s : State) (t : Nat) (r : TRec) (f : DispatchF) (nd tok buf : Nat) : State :=
  let c := r.list.ctx.val
  let row := b0Read s c r.list.srcCore (64 * r.list.actAddr + tok * dispPitch f) (dispPitch f)
  let s := bufWrite s f.tokPool.toNat buf 0 row (trwReq t c)
  let w := getTrw s t
  setTrw s t { w with toks := w.toks ++ [{ ctx := r.list.ctx, n := r.n, node := nd, token := tok, pool := f.tokPool.toNat, buf := buf }] }

/-- The rows of a part read from their buffers, in order. -/
def tokRows (s : State) (t : Nat) (f : DispatchF) (c : Nat) (l : List TTok) : List Byte × State :=
  l.foldl (fun (a : List Byte × State) k => match bufRead a.2 k.pool k.buf 0 (dispPitch f) (trwReq t c) with
    | (d, s) => (a.1 ++ d, s)) ([], s)

/-- A ROWS part sent, every token of it in a buffer (R266); a CANCELLED part in its place once the operation is aborted
(R293). -/
def sendRows (s : State) (t : Nat) (o : TOp) (f : DispatchF) (r : TRec) (expert nd gang base : Nat) (ds : List Nat) : State :=
  let c := o.ctx.val
  let w := getTrw s t
  let ks := (ds.filterMap (fun i => (r.list.descs[i]?).map (·.token))).filterMap (tokBuf w r.n nd)
  let hdr := fun (kind : Nat) => partHdr r.list.cfg r.list.tag expert gang kind r.list.step base ds.length (dispPitch f / 64) 0
  match tokRows s t f c ks with
  | (rows, s) =>
    let body := bodyBytes f.zcomp rows
    let tags := ds.flatMap (fun i => bytesOf 8 (r.epoch.toNat + 2 ^ 32 * i + 2 ^ 44 * r.idx + 2 ^ 60 * t))
    let s := trwMessage s t c o.seq nd 3 (some f.tokPool.toNat) (ks.map (·.buf)) (hdr 0 ++ tags ++ body)
    countBody (bump s (trwUnit t) 5 ds.length) t rows body

def cancelRows (s : State) (t : Nat) (o : TOp) (cfg tag expert nd gang base n : Nat) : State :=
  trwMessage s t o.ctx.val o.seq nd 3 none [] (partHdr cfg tag expert gang 2 o.step base n 0 0)

/-- The rows of a batch that go back to a node, in batch order. -/
def backRows (tb : CountTab) (nd : Nat) : List RowRec :=
  sortBy (·.row) (tb.rows.filter (fun x => x.node = nd && !x.cancelled))

/-- Result row `r` of a batch: each core's W elements, in core order (R278). -/
def resultRow (s : State) (tb : CountTab) (f : CombineF) (r : Nat) : List Byte :=
  let p := rowPitch f.resFmt.toNat (combW f)
  let d := (coreOrder s tb.gang).flatMap (fun k =>
    b0Read s tb.ctx.val k (64 * (f.resAddr.toNat + tb.j * f.resStride.toNat) + r * p) (elemBytes f.resFmt.toNat (combW f)))
  padTo (roundUp d.length 64) d

/-- The bytes of a RESULT part for a node, and its rows. -/
def resultMsg (s : State) (tb : CountTab) (f : CombineF) (nd : Nat) : List Byte × List Byte :=
  let rs := backRows tb nd
  let rows := (rs.filter (fun x => !x.dropped)).flatMap (fun x => resultRow s tb f x.row)
  let units := rowPitch f.resFmt.toNat ((coreOrder s tb.gang).length * combW f) / 64
  let tags := rs.flatMap (fun x => bytesOf 8 ((x.tag ||| (if x.dropped then BitVec.ofNat 64 (2 ^ 63) else 0)).toNat))
  (partHdr tb.cfg tb.tag tb.expert tb.gang 1 tb.step 0 rs.length units 0 ++ tags ++ bodyBytes f.zcomp rows, rows)

/-- A RESULT part sent from its buffers; the batch's table is freed with its last part (R278, R287). -/
def sendResult (s : State) (t : Nat) (o : TOp) (f : CombineF) (tb : CountTab) (nd : Nat) (bufs : List Nat) : State :=
  match resultMsg s tb f nd with
  | (b, rows) =>
    let s := areaWrite s f.resPool.toNat bufs 0 b (trwReq t o.ctx.val)
    let s := trwMessage s t o.ctx.val o.seq nd 3 (some f.resPool.toNat) bufs b
    let s := countBody s t rows (b.drop (64 + 8 * (backRows tb nd).length))
    if o.todo.any (fun x => match x with
      | .result n m => n = tb.n && m ≠ nd
      | _ => false) then s
    else freeTab s t tb

/-- The bytes of a SEGMENT part (R285, R286). Its header names the group in CFG_ID and the receiving rank in EXPERT. -/
def segMsg (s : State) (o : TOp) (f : XchgF) (logical dstRank slot ofs len : Nat) : List Byte × List Byte :=
  let d := padFlits (b0Read s o.ctx.val logical ofs len)
  (partHdr f.group.toNat f.tag.toNat dstRank o.gang 3 o.step slot 0 1 len ++ bodyBytes f.zcomp d, d)

/-! ### Progress of an operation -/

/-- The head of an operation's work is done. -/
def popTodo (s : State) (t : Nat) : State :=
  let w := getTrw s t
  setTrw s t { w with op := w.op.map (fun o => { o with todo := o.todo.drop 1 }) }

/-- Buffers for the head of an operation's work: a token's row is staged, a result or segment is sent. -/
def giveSend (s : State) (t pool : Nat) (bufs : List Nat) : State :=
  match (getTrw s t).op with
  | none => poolReleaseAll s pool bufs
  | some o =>
    match o.cmd, o.todo with
    | .disp f, .rows n _ nd _ _ ds :: _ =>
      match findRec s t n with
      | none => poolReleaseAll s pool bufs
      | some r => match tokMissing (getTrw s t) r nd ds with
        | some k => stageTok s t r f nd k (bufs.headD 0)
        | none => poolReleaseAll s pool bufs
    | .comb f, .result n nd :: _ =>
      match tabOf s t n with
      | none => poolReleaseAll s pool bufs
      | some tb => sendResult (popTodo s t) t o f tb nd bufs
    | .xchg f, .segment logical nd dstRank slot ofs len :: _ =>
      match segMsg s o f logical dstRank slot ofs len with
      | (b, d) =>
        let s := areaWrite (popTodo s t) pool bufs 0 b (trwReq t o.ctx.val)
        countBody (trwMessage s t o.ctx.val o.seq nd 3 (some pool) bufs b) t d (b.drop 64)
    | _, _ => poolReleaseAll s pool bufs

/-- The buffers that the head of an operation's work needs next: pool, number, references. -/
def headNeed (s : State) (t : Nat) (o : TOp) : Option (Nat × Nat × Nat) :=
  match o.cmd, o.todo with
  | .disp f, .rows n _ nd _ _ ds :: _ =>
    (findRec s t n).bind (fun r => (tokMissing (getTrw s t) r nd ds).map (fun k => (f.tokPool.toNat, 1, tokRefs r.list nd k)))
  | .comb f, .result n nd :: _ =>
    (tabOf s t n).map (fun tb => (f.resPool.toNat, bufNeed s f.resPool.toNat (resultMsg s tb f nd).1.length, 1))
  | .xchg f, .segment logical _ dstRank slot ofs len :: _ =>
    some (f.tokPool.toNat, bufNeed s f.tokPool.toNat (segMsg s o f logical dstRank slot ofs len).1.length, 1)
  | _, _ => none

/-- The head of an operation's work that needs no buffer is sent, or left out when its record or table is gone. -/
def sendHead (s : State) (t : Nat) (o : TOp) : State :=
  match o.cmd, o.todo with
  | .disp f, .rows n expert nd gang base ds :: _ =>
    match findRec s t n with
    | some r => sendRows (popTodo s t) t o f r expert nd gang base ds
    | none => popTodo s t
  | _, _ => popTodo s t

/-- One step of an operation's outbound work: none when there is nothing to do or it waits. A part that no pool could hold ends
it with ILLEGAL (R262, R278). -/
def trwSendStep (s : State) (t : Nat) : Option State :=
  match (getTrw s t).op with
  | none => none
  | some o =>
    if o.todo = [] || !trwSends s t o.ctx.val || sendWaits s t then none
    else match headNeed s t o with
      | none => some (sendHead s t o)
      | some (p, n, refs) =>
        if (getPool s p).count < n then some (trwFault s t o.ctx.val fIllegal)
        else match poolAlloc s p n refs with
          | some (l, s) => some (giveSend s t p l)
          | none => some (trwWant s t o.ctx.val p n .send)

/-- The outbound work of an operation, as far as buffers go. -/
def trwSendAll : Nat → State → Nat → State
  | 0, s, _ => s
  | fuel + 1, s, t => match trwSendStep s t with
    | some s => trwSendAll fuel s t
    | none => s

/-- A bound on the steps of an operation's work: one for each token row and message, and one for a wait. -/
def todoFuel (o : TOp) : Nat :=
  o.todo.foldl (fun n x => n + (match x with
    | .rows _ _ _ _ _ ds => ds.length + 1
    | _ => 2)) 2

/-- The census of a DISPATCH is complete on this node. -/
def censusDone (w : Tramway) (o : TOp) (f : DispatchF) : Bool := w.census.contains (o.ctx, f.cfg.toNat, f.tag.toNat, o.step)

/-- An operation has nothing left to wait for (R258). -/
def opComplete (w : Tramway) (o : TOp) : Bool :=
  o.todo = [] && !w.out.any (fun x => x.seq = o.seq) && (match o.cmd with
    | .disp f => censusDone w o f && w.tabs.all (fun x => x.seq ≠ o.seq || x.deposited)
    | .comb _ => w.recs.all (fun r => r.comb.isNone || r.combSeq ≠ o.seq)
    | .xchg _ => o.mine.all (fun m => o.counted.contains m.1))

/-- PHASE (R297). -/
def phaseOf (w : Tramway) (o : TOp) : TPhase :=
  match o.cmd with
  | .disp f => if censusDone w o f then .send
               else if w.recs.any (fun r => r.opSeq = o.seq) then .census else .intake
  | .comb _ => if o.todo = [] then .combine else .gather
  | .xchg _ => .xchg

/-- What an engine can do now: its outbound work, its held packets, the completion of its operation. -/
def trwProgress (s : State) (t : Nat) : State :=
  let s := match (getTrw s t).op with
    | some o => trwSendAll (todoFuel o) s t
    | none => s
  let s := trwDrain s t
  let w := getTrw s t
  match w.op with
  | none => s
  | some o =>
    if opComplete w o && (getFace s (trwUnit t)).st = .running then
      trwAdvance (setTrw s t { w with op := none, opDone := o.seq, toks := w.toks.filter (fun k => k.ctx ≠ o.ctx) }) t 3
    else setTrw s t { w with phase := phaseOf w o }

/-- Progress of every engine of the node. -/
def trwProgressAll (s : State) : State := (List.range 8).foldl trwProgress s

/-- A packet of a message of an engine is answered. -/
def trwAnswered (s : State) (t m : Nat) : State := trwProgress (trwLess s t m 1) t

/-! ### Starting a command -/

/-- An operation starts: it takes the next OP_SEQ (R258). -/
def startOp (s : State) (t : Nat) (tag : BitVec 16) (cmd : TCmd) (place : List PlaceRec) : TOp × State :=
  let c := trwCtx s t
  let w := getTrw s t
  let seq := inc32 w.opStarted 1
  let o : TOp := { seq := seq, ctx := ctxFin c, gang := w.gang, step := (getCtx s c).stepsDone, cmd := cmd, place := place }
  (o, setTrw s t { w with op := some o, opStarted := seq, tag := tag, hist := mput 0 w.hist seq.toNat (c + 1),
                          phase := phaseOf w o })

/-- The configuration is declared. -/
def cfgKnown (s : State) (cfg : Nat) : Bool := s.tab.riddle.any (fun r => r.cfg = cfg)

/-- The checks of a DISPATCH (R260-R262). -/
def dispFault (s : State) (t : Nat) (f : DispatchF) : Option Nat :=
  let c := trwCtx s t
  let place := placeOf s f.cfg.toNat
  let ts := localTargets s t c place
  let rec_ := f.recPool.toNat
  if trwCut s t then some fProgEnd else
  match groupGang s f.group.toNat with
  | none => some fIllegal
  | some g =>
    if f.rowFmt = 15 ∨ cfgKnown s f.cfg.toNat = false ∨ poolNamed s c f.tokPool.toNat = false ∨ poolNamed s c rec_ = false ∨
        bufSize s f.tokPool.toNat < dispPitch f ∨ bufSize s rec_ < 256 ∨
        (ts ≠ [] ∧ (getPool s rec_).count < bufNeed s rec_ (tableSize (gangNodes s g).length f)) then some fIllegal
    else if ts.any (fun e => decide (b0End < batchAt f (expertIdx place (node s) e.2 e.1) + batchLen f)) then some fBounds
    else none

/-- A count table for one local target (R272). -/
def addTable (t : Nat) (o : TOp) (f : DispatchF) (g : Nat) (s : State) (e : Nat × Nat) : State :=
  match newId s with
  | (n, s) =>
    let w := getTrw s t
    let nodes := gangNodes s g
    let s := setTrw s t { w with tabs := w.tabs ++
      [{ n := n, seq := o.seq, ctx := o.ctx, cfg := f.cfg.toNat, tag := f.tag.toNat, step := o.step, expert := e.1, gang := e.2,
         srcs := nodes.map (fun m => (m, none)), rows := [], pool := f.recPool.toNat, bufs := [], f := f,
         j := expertIdx o.place (node s) e.2 e.1, deposited := false }] }
    let k := bufNeed s f.recPool.toNat (tableSize nodes.length f)
    match poolAlloc s f.recPool.toNat k 1 with
    | some (l, s) => mapTab s t n (fun x => { x with bufs := l })
    | none => trwWant s t o.ctx.val f.recPool.toNat k (.table n)

/-- DISPATCH (R263, R272). -/
def dispatch (s : State) (t : Nat) (f : DispatchF) : State :=
  match dispFault s t f, groupGang s f.group.toNat with
  | some x, _ => unitFault s (trwUnit t) x
  | none, none => s
  | none, some g =>
    let place := placeOf s f.cfg.toNat
    let c := trwCtx s t
    match startOp s t f.tag (.disp f) place with
    | (o, s) => trwProgress ((localTargets s t c place).foldl (addTable t o f g) s) t

def execDispatch (t : Fin 8) (f : DispatchF) (s : State) : Host.Outcome State Fault Refusal :=
  .next (trwCommand s t.val (guarded s (dispatch s t.val f)))

/-- The records of a list's DISPATCH on an engine. -/
def recsFor (s : State) (t c cfg tag : Nat) (step : W64) : List TRec :=
  (getTrw s t).recs.filter (fun r => r.list.ctx.val = c && r.list.cfg = cfg && r.list.tag = tag && r.list.step = step)

/-- The checks of a COMBINE (R260-R262). -/
def combFault (s : State) (t : Nat) (f : CombineF) : Option Nat :=
  let c := trwCtx s t
  let step := (getCtx s c).stepsDone
  let recs := recsFor s t c f.cfg.toNat f.tag.toNat step
  let tabs := (getTrw s t).tabs.filter (fun x => x.ctx.val = c && x.cfg = f.cfg.toNat && x.tag = f.tag.toNat && x.step = step)
  let ans := f.ansPool.toNat
  if trwCut s t then some fProgEnd
  else if f.resFmt = 15 ∨ f.outFmt = 15 ∨ cfgKnown s f.cfg.toNat = false ∨ (groupGang s f.group.toNat).isNone ∨
      poolNamed s c f.resPool.toNat = false ∨ poolNamed s c ans = false ∨ bufSize s f.resPool.toNat < ansPitch s f ∨
      recs.any (fun r => decide ((getPool s ans).count < bufNeed s ans (areaSize s f r.list.live))) = true then some fIllegal
  else if recs.any (fun r => decide (b0End < 64 * f.outAddr.toNat + r.list.tokens * rowPitch f.outFmt.toNat (combD s f))) ||
      tabs.any (fun x => decide (b0End < 64 * (f.resAddr.toNat + x.j * f.resStride.toNat) +
        tabRows x * rowPitch f.resFmt.toNat (combW f))) then some fBounds
  else none

/-- An answer area granted: a list without a live descriptor is combined at once (R280). -/
def giveArea (s : State) (t n pool : Nat) (l : List Nat) : State :=
  match findRec s t n with
  | none => poolReleaseAll s pool l
  | some _ => combineList (mapRec s t n (fun r => { r with area := some (pool, l) })) t n true

/-- The answer area of one record. -/
def addArea (t : Nat) (o : TOp) (f : CombineF) (s : State) (r : TRec) : State :=
  let k := bufNeed s f.ansPool.toNat (areaSize s f r.list.live)
  let s := mapRec s t r.n (fun x => { x with comb := some f, combSeq := o.seq })
  match poolAlloc s f.ansPool.toNat k 1 with
  | some (l, s) => giveArea s t r.n f.ansPool.toNat l
  | none => trwWant s t o.ctx.val f.ansPool.toNat k (.area r.n)

/-- COMBINE (R278, R280): the target role sends the results of its batches, the source role takes answer areas for its
records. -/
def combine (s : State) (t : Nat) (f : CombineF) : State :=
  match combFault s t f with
  | some x => unitFault s (trwUnit t) x
  | none =>
    match startOp s t f.tag (.comb f) [] with
    | (o, s) =>
      let c := o.ctx.val
      let tabs := sortBy (·.expert) ((getTrw s t).tabs.filter (fun x => x.ctx = o.ctx && x.cfg = f.cfg.toNat &&
        x.tag = f.tag.toNat && x.step = o.step && x.deposited))
      let todo := tabs.flatMap (fun x => (x.srcs.filter (fun e => backRows x e.1 ≠ [])).map (fun e => TTodo.result x.n e.1))
      let s := setTrw s t { getTrw s t with op := some { o with todo := todo } }
      let s := (tabs.filter (fun x => x.srcs.all (fun e => backRows x e.1 = []))).foldl (fun s x => freeTab s t x) s
      trwProgressAll (trwProgress ((recsFor s t c f.cfg.toNat f.tag.toNat o.step).foldl (addArea t o f) s) t)

def execCombine (t : Fin 8) (f : CombineF) (s : State) : Host.Outcome State Fault Refusal :=
  .next (trwCommand s t.val (guarded s (combine s t.val f)))

/-- Slots of a receive area, S_n (R286). -/
def xchgSlots (f : XchgF) (n : Nat) : Nat := if f.xkind = 0 then n else 1
/-- C. -/
def xchgC (f : XchgF) : Nat := 64 * f.seg.toNat

/-- The members that an engine serves: rank and logical core. -/
def xchgMine (s : State) (t c : Nat) (ms : List (Nat × Nat)) : List (Nat × Nat) :=
  (indexed ms).filterMap (fun e => if e.2.1 = node s ∧ dieOf s c e.2.2 = t then some (e.1, e.2.2) else none)

/-- The checks of an XCHG (R260, R261). -/
def xchgFault (s : State) (t : Nat) (f : XchgF) : Option Nat :=
  let c := trwCtx s t
  if trwCut s t then some fProgEnd else
  match groupGang s f.group.toNat with
  | none => some fIllegal
  | some g =>
    let n := (gangCores s g).length
    if 2 ≤ f.xkind.toNat ∨ poolNamed s c f.tokPool.toNat = false then some fIllegal
    else if (xchgMine s t c (gangCores s g) ≠ [] ∧
        (b0End < 64 * f.srcAddr.toNat + xchgSlots f n * xchgC f ∨
         b0End < 64 * f.dstAddr.toNat + xchgSlots f n * (xchgC f + 4) ∨
         (f.lenAddr ≠ 0 ∧ b0End < 64 * f.lenAddr.toNat + 4 * xchgSlots f n))) ∨
        (f.xkind = 1 ∧ tierInside s c (64 * f.permAddr.toNat) (2 * n) = false) then some fBounds
    else none

/-- The length of segment `j` of a member, and the bytes beyond C that are not sent (R286). -/
def segLen (s : State) (c : Nat) (f : XchgF) (logical j : Nat) : Nat × Nat :=
  if f.lenAddr = 0 then (xchgC f, 0)
  else
    let v := natOf (b0Read s c logical (64 * f.lenAddr.toNat + 4 * j) 4)
    (min v (xchgC f), v - xchgC f)

/-- XCHG (R285): the segments of the members that the engine serves. -/
def xchg (s : State) (t : Nat) (f : XchgF) : State :=
  match xchgFault s t f, groupGang s f.group.toNat with
  | some x, _ => unitFault s (trwUnit t) x
  | none, none => s
  | none, some g =>
    match startOp s t f.tag (.xchg f) [] with
    | (o, s) =>
      let c := o.ctx.val
      let ms := gangCores s g
      let n := ms.length
      let mine := xchgMine s t c ms
      match (if f.xkind = 1 then (match tierRead s c (64 * f.permAddr.toNat) (2 * n) (trwReq t c) with
        | (d, _, s) => (d, s)) else (([] : List Byte), s)) with
      | (perm, s) =>
        let segs := mine.flatMap (fun m =>
          if f.xkind = 0 then (List.range n).map (fun j => (m.1, m.2, j, j, m.1))
          else [(m.1, m.2, 0, natAt perm (2 * m.1) 2, 0)])
        let todo := segs.map (fun e =>
          TTodo.segment e.2.1 ((ms.getD e.2.2.2.1 (0, 0)).1) e.2.2.2.1 e.2.2.2.2 (64 * f.srcAddr.toNat + e.2.2.1 * xchgC f)
            (segLen s c f e.2.1 e.2.2.1).1)
        let s := segs.foldl (fun s e => bump s (trwUnit t) 17 (segLen s c f e.2.1 e.2.2.1).2) s
        trwProgress (setTrw s t { getTrw s t with op := some { o with gang := g, todo := todo, mine := mine } }) t

def execXchg (t : Fin 8) (f : XchgF) (s : State) : Host.Outcome State Fault Refusal :=
  .next (trwCommand s t.val (guarded s (xchg s t.val f)))

/-- END (R258): nothing further is issued; the engine is IDLE. -/
def execTramwayEnd (t : Fin 8) (s : State) : Host.Outcome State Fault Refusal :=
  .next (trwCommand s t.val
    (idleUnit (setTrw s t.val { getTrw s t.val with ended := true, phase := .idle }) (trwUnit t.val)))

/-! ### Intake and census (R263, R264) -/

/-- The next epoch of a context: zero is skipped (R290). -/
def nextEpoch (e : W32) : W32 := if e = 0xFFFFFFFF then 1 else e + 1

/-- The first list in an engine's queue that its DISPATCH takes. -/
def intakeList (w : Tramway) (o : TOp) (f : DispatchF) : Option DList :=
  w.queue.find? (fun l => l.ctx = o.ctx && l.cfg = f.cfg.toNat && l.tag = f.tag.toNat && l.step = o.step)

/-- A list taken with its record buffer. -/
def intakeWith (s : State) (t buf : Nat) : State :=
  let w := getTrw s t
  match w.op with
  | none => s
  | some o => match o.cmd with
    | .disp f => match intakeList w o f with
      | none => poolRelease s f.recPool.toNat buf
      | some l =>
        match newId s with
        | (n, s) =>
          let e := nextEpoch (mget 0 w.epoch o.ctx.val)
          bump (setTrw s t { w with queue := w.queue.erase l, epoch := mput 0 w.epoch o.ctx.val e,
                                    recs := w.recs ++ [{ n := n, idx := buf, pool := f.recPool.toNat, epoch := e, list := l,
                                                         opSeq := o.seq }] }) (trwUnit t) 4 1
    | _ => s

/-- INTAKE: one list, with a record buffer at once or awaited. Token rows beyond Bench 0 fault before any send (R261). -/
def intake (s : State) (t : Nat) : State :=
  let w := getTrw s t
  match w.op with
  | none => s
  | some o => match o.cmd with
    | .disp f =>
      if censusDone w o f || w.wants.any (fun x => x.kind = .intake) || (getFace s (trwUnit t)).st ≠ .running then s
      else match intakeList w o f with
        | none => s
        | some l =>
          if b0End < 64 * l.actAddr + l.tokens * dispPitch f then unitFault s (trwUnit t) fBounds
          else match poolAlloc s f.recPool.toNat 1 1 with
            | some (b, s) => trwProgress (intakeWith s t (b.headD 0)) t
            | none => trwWant s t o.ctx.val f.recPool.toNat 1 .intake
    | _ => s

def execIntake (t : Fin 8) (s : State) : Host.Outcome State Fault Refusal :=
  .next (if frozen s then s else guarded s (intake s t.val))

/-- Live descriptors of a list at an (expert, target) pair. -/
def pairCount (l : DList) (expert nd gang : Nat) : Nat :=
  (liveDescs l).countP (fun d => d.expert = expert && d.node = nd && d.gang = gang)

/-- The parts of a record: one for each pair that its list names, with its ROW_BASE over the lists of lower rank. -/
def partsOf (all : List TRec) (r : TRec) : List TTodo :=
  let ds := indexed (liveDescs r.list)
  let pairs := ds.foldl (fun (l : List (Nat × Nat × Nat)) e =>
    let k := (e.2.expert, e.2.node, e.2.gang)
    if l.contains k then l else l ++ [k]) []
  pairs.map (fun k =>
    .rows r.n k.1 k.2.1 k.2.2
      ((all.filter (fun x => decide (x.list.rank < r.list.rank))).foldl (fun n x => n + pairCount x.list k.1 k.2.1 k.2.2) 0)
      ((ds.filter (fun e => (e.2.expert, e.2.node, e.2.gang) = k)).map (·.1)))

/-- A block descriptor (R268). -/
def blockDesc (cfg tag expert gang : Nat) (step : W64) (rows : Nat) : List Byte :=
  bytesOf 8 (cfg + 2 ^ 16 * tag + 2 ^ 32 * expert + 2 ^ 48 * gang) ++ bytesOf 8 step.toNat ++ bytesOf 8 rows ++ bytesOf 8 0

/-- The work of an aborted DISPATCH: every part is CANCELLED, its records freed (R293). -/
def cancelTodo (s : State) (t : Nat) : State :=
  let w := getTrw s t
  match w.op with
  | none => s
  | some o =>
    let s := setTrw s t { w with op := some { o with todo := [] } }
    let s := o.todo.foldl (fun s x => match x with
      | .rows n e nd g b ds => match findRec s t n with
        | some r => cancelRows s t o r.list.cfg r.list.tag e nd g b ds.length
        | none => s
      | _ => s) s
    ((getTrw s t).recs.filter (fun r => r.opSeq = o.seq)).foldl (fun s r => freeRec s t r) s

/-- The records of a DISPATCH on every engine of the node, with the engine of each. -/
def nodeRecs (s : State) (o : TOp) (f : DispatchF) : List (Nat × TRec) :=
  (List.range 8).flatMap (fun u => (recsFor s u o.ctx.val f.cfg.toNat f.tag.toNat o.step).map (fun r => (u, r)))

/-- The descriptors of a census: target node, bytes, rows. -/
def censusDescs (o : TOp) (f : DispatchF) (all : List TRec) : List (Nat × List Byte × Nat) :=
  o.place.flatMap (fun p => (p.targets.filter (fun x => x.gang ≠ 0)).map (fun x =>
    let n := all.foldl (fun n r => n + pairCount r.list p.expert x.node x.gang) 0
    (x.node, blockDesc f.cfg.toNat f.tag.toNat p.expert x.gang o.step n, n)))

/-- CENSUS at the lead: once every list of the routing group is taken on the node, block descriptors go to every target of every
expert, and each engine has the parts of its lists to send (R264, R266, R268). -/
def census (s : State) (t : Nat) : State :=
  let w := getTrw s t
  match w.op with
  | none => s
  | some o => match o.cmd with
    | .disp f =>
      let rs := nodeRecs s o f
      let all := rs.map (·.2)
      if censusDone w o f || rs.length ≠ f.enginesM1.toNat + 1 || !rs.any (fun e => e.1 = t && e.2.list.rank = 0) ||
          (getFace s (trwUnit t)).st ≠ .running then s
      else
        let ds := censusDescs o f all
        let s := (dedup (ds.map (·.1))).foldl (fun s nd =>
          (cut 64 ((ds.filter (fun d => d.1 = nd)).map (fun d => d.2.1))).foldl
            (fun s l => trwMessage s t o.ctx.val o.seq nd 2 none [] l.flatten) s) s
        let s := bump s (trwUnit t) 6 (ds.countP (fun d => d.2.2 = 0))
        let key := (o.ctx, f.cfg.toNat, f.tag.toNat, o.step)
        let s := (List.range 8).foldl (fun s u =>
          let w := getTrw s u
          setTrw s u { w with
            census := w.census.filter (fun e => e.1 ≠ o.ctx || e.2.2.2 = o.step) ++ [key]
            op := w.op.map (fun x => match x.cmd with
              | .disp g => if x.ctx = o.ctx ∧ g.cfg = f.cfg ∧ g.tag = f.tag ∧ x.step = o.step then
                  { x with todo := ((rs.filter (fun e => e.1 = u)).map (·.2)).flatMap (partsOf all) } else x
              | _ => x) }) s
        let s := (List.range 8).foldl (fun s u => match (getTrw s u).op with
          | some x => if x.aborted then cancelTodo s u else s
          | none => s) s
        trwProgressAll s
    | _ => s

def execCensus (t : Fin 8) (s : State) : Host.Outcome State Fault Refusal :=
  .next (if frozen s then s else guarded s (census s t.val))

/-! ### Inbound messages (R272, R273, R280, R286, R293) -/

/-- A Tramway packet. -/
def isTrw (p : Packet) : Bool := p.long && p.op = 8

/-- A Tramway packet received: its checks, its context, and what its kind does; none leaves it in the Yard. -/
def trwRecv (s : State) (port : Nat) (p : Packet) (act : State → Option State) : State :=
  if isTrw p || badOp p then recv s p (fun s => sendAck s port p 0 0) (fun s => engineGate s port p act) else s

/-- The answer WAIT of engine `t` (R272, R280). -/
def trwWaitAns (s : State) (t : Nat) (p : Packet) : State := sendAck (bump s (trwUnit t) 18 1) t p 4 0

/-- The descriptors of a packet: those that name a gang. -/
def descsIn (p : Packet) : List (List Byte) := (cut 32 p.payload).filter (fun d => bits (natAt d 0 8) 59 48 ≠ 0)

/-- The count table of a descriptor. -/
def descTab (s : State) (c : Nat) (d : List Byte) : Option (Nat × CountTab) :=
  let w := natAt d 0 8
  findTab s c (bits w 15 0) (bits w 31 16) (BitVec.ofNat 64 (natAt d 8 8)) (bits w 47 32) (bits w 59 48)

/-- BLOCK_DESCRIPTOR (R272): a packet whose tables all exist fills them; otherwise it is answered WAIT. -/
def blockDescriptor (s : State) (p : Packet) : State :=
  let c := p.ctx.toNat
  trwRecv s 0 p (fun s =>
    match (descsIn p).find? (fun d => (descTab s c d).isNone) with
    | some d => some (trwWaitAns s ((gangDie s c (bits (natAt d 0 8) 59 48)).getD 0) p)
    | none =>
      let es := (descsIn p).filterMap (fun d => (descTab s c d).map (fun e => (e.1, e.2.n, natAt d 16 2)))
      let s := es.foldl (fun s e => mapTab s e.1 e.2.1 (fun x => { x with srcs := x.srcs.map (fun y =>
        if y.1 = p.src.toNat then (y.1, some e.2.2) else y) })) (accept s ((es.head?).map (·.1) |>.getD 0) p)
      let s := es.foldl (fun s e => deposits s e.1 e.2.1) s
      some ((dedup (es.map (·.1))).foldl trwProgress s))

def execBlockDescriptor (p : Packet) (s : State) : Host.Outcome State Fault Refusal :=
  .next (if frozen s then s else guarded s (blockDescriptor s p))

/-- The count table that a part names. -/
def partTab (s : State) (c : Nat) (h : PHdr) : Option (Nat × CountTab) := findTab s c h.cfg h.tag h.step h.expert h.gang

/-- ROWS (R273): a part waits in the Yard until the count table of its target holds every descriptor; a late packet of a step
that has ended is acknowledged and dropped (R293). -/
def rowsPart (s : State) (p : Packet) : State :=
  let c := p.ctx.toNat
  trwRecv s 0 p (fun s =>
    match msgFirst s p with
    | none => none
    | some b =>
      let h := parsePart b
      match partTab s c h with
      | none => if h.step.toNat < (getCtx s c).stepsDone.toNat then some (accept s 0 p) else none
      | some (t, tb) =>
        if !tabFull tb then none
        else match msgAdd s p with
          | (none, s) => some (accept s t p)
          | (some m, s) => some (trwProgress (rowsIn (accept s t p) t tb.n p.src.toNat m) t))

def execRows (p : Packet) (s : State) : Host.Outcome State Fault Refusal :=
  .next (if frozen s then s else guarded s (rowsPart s p))

/-- CANCELLED (R293). -/
def cancelledPart (s : State) (p : Packet) : State :=
  let c := p.ctx.toNat
  trwRecv s 0 p (fun s =>
    let h := parsePart p.payload
    match partTab s c h with
    | none => if h.step.toNat < (getCtx s c).stepsDone.toNat then some (accept s 0 p) else none
    | some (t, tb) =>
      if !tabFull tb then none
      else some (trwProgress (cancelIn (accept s t p) t tb.n p.src.toNat h) t))

def execCancelled (p : Packet) (s : State) : Host.Outcome State Fault Refusal :=
  .next (if frozen s then s else guarded s (cancelledPart s p))

/-- The bytes of a message known once a packet has come: from its start as far as they are without a gap. -/
def msgKnown (s : State) (p : Packet) : List Byte :=
  let got := insertBy (fun (g : Nat × List Byte) => g.1) (partOfs p, p.payload)
    (((s.fab.msgs.find? (ofMsg p)).map (·.got)).getD [])
  got.foldl (fun a g => if a.length = 64 * g.1 then a ++ g.2 else a) []

/-- An answer among the known tags names a record whose answer area is not taken yet (R280): the engine that holds it. -/
def answerWaits (s : State) (c : Nat) (b : List Byte) : Option Nat :=
  let h := parsePart b
  ((List.range (min h.rows ((b.length - 64) / 8))).map (fun i => BitVec.ofNat 64 (natAt b (64 + 8 * i) 8))).findSome?
    (fun v => match tagRec s c v with
      | some r => if r.area.isNone then some (bits v.toNat 62 60) else none
      | none => none)

/-- RESULT (R280, R290): answered WAIT while a record it names has no answer area; otherwise its answers are taken. -/
def resultPart (s : State) (p : Packet) (residueOk : Bool) : State :=
  let c := p.ctx.toNat
  trwRecv s 0 p (fun s =>
    match msgFirst s p with
    | none => some (trwWaitAns s 0 p)
    | some _ =>
      match answerWaits s c (msgKnown s p) with
      | some t => some (trwWaitAns s t p)
      | none => match msgAdd s p with
        | (none, s) => some (accept s 0 p)
        | (some b, s) => some (trwProgressAll (resultIn (accept s 0 p) c b residueOk)))

def execResult (p : Packet) (residueOk : Bool) (s : State) : Host.Outcome State Fault Refusal :=
  .next (if frozen s then s else guarded s (resultPart s p residueOk))

/-- The XCHG that a segment belongs to, with its engine. -/
def segOp (s : State) (c : Nat) (h : PHdr) : Option (Nat × TOp × XchgF) :=
  (List.range 8).findSome? (fun t => (trwOps (getTrw s t)).findSome? (fun o => match o.cmd with
    | .xchg f => if o.ctx.val = c ∧ f.group.toNat = h.cfg ∧ f.tag.toNat = h.tag ∧ o.step = h.step ∧
        o.mine.any (fun m => m.1 = h.expert) = true then some (t, o, f) else none
    | _ => none))

/-- A segment written into its slot, zeros after it, and its length (R286); a slot filled or cancelled already stays. -/
def segIn (s : State) (t : Nat) (o : TOp) (f : XchgF) (h : PHdr) (b : List Byte) : State :=
  if o.got.contains (h.expert, h.base) then s
  else
    let c := o.ctx.val
    let n := xchgSlots f (gangCores s o.gang).length
    let core := ((o.mine.find? (fun m => m.1 = h.expert)).map (·.2)).getD 0
    let d := padTo (xchgC f) ((if h.len = 0 then [] else bodyRows (b.drop 64)).take (min h.len (xchgC f)))
    let s := b0Write s c core (64 * f.dstAddr.toNat + h.base * xchgC f) d
    let s := b0Write s c core (64 * f.dstAddr.toNat + n * xchgC f + 4 * h.base) (bytesOf 4 h.len)
    let got := o.got ++ [(h.expert, h.base)]
    let full := decide (n ≤ got.countP (fun g => g.1 = h.expert))
    let s := setTrw s t (mapOp (getTrw s t) o.seq (fun x =>
      { x with got := got, counted := if full then x.counted ++ [h.expert] else x.counted }))
    if full then deposit s c core (64 * f.dstAddr.toNat) [] (some f.cnt.toNat) else s

/-- SEGMENT: a part whose XCHG has not started waits in the Yard. -/
def segmentPart (s : State) (p : Packet) : State :=
  let c := p.ctx.toNat
  trwRecv s 0 p (fun s =>
    match msgFirst s p with
    | none => none
    | some b =>
      let h := parsePart b
      match segOp s c h with
      | none => if h.step.toNat < (getCtx s c).stepsDone.toNat then some (accept s 0 p) else none
      | some (t, o, f) => match msgAdd s p with
        | (none, s) => some (accept s t p)
        | (some m, s) => some (trwProgress (segIn (accept s t p) t o f h m) t))

def execSegment (p : Packet) (s : State) : Host.Outcome State Fault Refusal :=
  .next (if frozen s then s else guarded s (segmentPart s p))

/-! ### Abort (R292, R293) -/

/-- Packets of a message that have not been injected, or that were answered WAIT, are taken back. -/
def takeBack (s : State) (t : Nat) (o : TOut) : State :=
  let w := getTrw s t
  let mine := fun (e : SendEnt) => (match e.owner with
    | .trw u m => u.val = t && m = o.msg
    | _ => false) && e.waitAns
  let n := w.held.countP (fun h => h.msg = o.msg) + s.fab.table.countP mine
  let s := setTrw s t { w with held := w.held.filter (fun h => h.msg ≠ o.msg) }
  trwLess { s with fab := { s.fab with table := s.fab.table.filter (fun e => !mine e) } } t o.msg n

/-- Messages of an operation that are not wholly sent. -/
def unsent (s : State) (t : Nat) (seq : W32) : List TOut :=
  let w := getTrw s t
  w.out.filter (fun o => o.seq = seq && (w.held.any (fun h => h.msg = o.msg) || s.fab.table.any (fun e => (match e.owner with
    | .trw u m => u.val = t && m = o.msg
    | _ => false) && e.waitAns)))

/-- The abort of a DISPATCH: parts not wholly sent become CANCELLED parts, its records are freed (R293). -/
def abortDisp (s : State) (t : Nat) (o : TOp) (f : DispatchF) : State :=
  let s := ((unsent s t o.seq).filter (fun x => (parsePart x.hdr).kind = 0 && x.bufs ≠ [])).foldl (fun s x =>
    let h := parsePart x.hdr
    cancelRows (takeBack s t x) t o h.cfg h.tag h.expert x.dest h.gang h.base h.rows) s
  if censusDone (getTrw s t) o f then cancelTodo s t else s

/-- The abort of a COMBINE: every list not yet counted is counted and freed, unsent results are dropped (R293). -/
def abortComb (s : State) (t : Nat) (o : TOp) (f : CombineF) : State :=
  let s := (unsent s t o.seq).foldl (fun s x => takeBack s t x) s
  let tabs := (getTrw s t).tabs.filter (fun x => o.todo.any (fun y => match y with
    | .result n _ => n = x.n
    | _ => false))
  let s := setTrw s t (mapOp (getTrw s t) o.seq (fun x => { x with todo := [] }))
  let s := tabs.foldl (fun s x => freeTab s t x) s
  ((getTrw s t).recs.filter (fun r => r.comb.isSome && r.combSeq = o.seq)).foldl (fun s r =>
    freeRec (deposit s r.list.ctx.val r.list.srcCore (64 * f.outAddr.toNat) [] (some f.cnt.toNat)) t r) s

/-- The abort of an XCHG: every segment not wholly sent is replaced by one of length zero (R293). -/
def abortXchg (s : State) (t : Nat) (o : TOp) (f : XchgF) : State :=
  let send := fun (s : State) (dest dstRank slot : Nat) =>
    trwMessage s t o.ctx.val o.seq dest 3 none [] (partHdr f.group.toNat f.tag.toNat dstRank o.gang 3 o.step slot 0 0 0)
  let s := ((unsent s t o.seq).filter (fun x => x.bufs ≠ [])).foldl (fun s x =>
    let h := parsePart x.hdr
    send (takeBack s t x) x.dest h.expert h.base) s
  let s := setTrw s t (mapOp (getTrw s t) o.seq (fun x => { x with todo := [] }))
  o.todo.foldl (fun s x => match x with
    | .segment _ nd dstRank slot _ _ => send s nd dstRank slot
    | _ => s) s

/-- ABORTED takes effect (R293). -/
def abortOp (s : State) (t : Nat) (o : TOp) : State :=
  let s := trwUnwant s t (fun w => w.ctx = o.ctx && (match w.kind with
    | .send => true
    | .area _ => true
    | _ => false))
  let s := setTrw s t (mapOp (getTrw s t) o.seq (fun x => { x with aborted := true }))
  let s := match o.cmd with
    | .disp f => abortDisp s t o f
    | .comb f => abortComb s t o f
    | .xchg f => abortXchg s t o f
  trwProgressAll (trwProgress s t)

/-- ABORT: a write of TRW_ABORT (R292). -/
def abort (s : State) (t c : Nat) (seq : W32) : State :=
  let w := getTrw s t
  let res := fun (s : State) (r : BitVec 2) => setTrw s t { getTrw s t with abortRes := r, abortSeq := seq }
  if w.opStarted.toNat < seq.toNat ∨ mget 0 w.hist seq.toNat ≠ c + 1 then res s 3
  else match (trwOps w).find? (fun o => o.seq = seq) with
    | none => res s 1
    | some o =>
      if o.aborted then res s 2
      else
        let s := abortOp (res s 2) t o
        post (bump s (trwUnit t) 12 1) evAborted (some (ctxFin c)) t seq.toNat

def execAbort (t : Fin 8) (ctx : BitVec 4) (opSeq : W32) (s : State) : Host.Outcome State Fault Refusal :=
  .next (if frozen s then s else guarded s (abort s t.val ctx.toNat opSeq))

/-! ### Buffers granted later, stops and restores (R262, R295) -/

/-- Buffers granted to a request that waited. -/
def trwGive (s : State) (t id pool : Nat) (l : List Nat) : State :=
  let w := getTrw s t
  match w.wants.find? (fun x => x.id = id) with
  | none => poolReleaseAll s pool l
  | some x =>
    let s := setTrw s t { w with wants := w.wants.erase x }
    let s := match x.kind with
      | .table n => if (tabOf s t n).isSome then mapTab s t n (fun r => { r with bufs := l }) else poolReleaseAll s pool l
      | .area n => giveArea s t n pool l
      | .intake => intakeWith s t (l.headD 0)
      | .send => giveSend s t pool l
    trwProgressAll (trwProgress s t)

/-- The references that a request's buffers start with (R265). -/
def trwRefs (s : State) (t id : Nat) : Nat :=
  let w := getTrw s t
  if w.wants.any (fun x => x.id = id && x.kind = .send) then
    ((w.op.bind (headNeed s t)).map (fun e => e.2.2)).getD 1
  else 1

/-- A stop reaches the boundary of an engine: for a save its outbound work is put aside, at a teardown it is abandoned. -/
def trwStop (s : State) (t c : Nat) (pre : Bool) : State :=
  let s := trwUnwant s t (fun w => w.ctx.val = c && (match w.kind with
    | .send => true
    | .intake => true
    | _ => false))
  let w := getTrw s t
  let keep := pre && !w.ended
  let park : TPark := { ctx := ctxFin c, prog := w.prog, gang := w.gang, pc := w.pc, ended := w.ended, tag := w.tag, op := w.op }
  setTrw s t { w with parked := if keep then w.parked.filter (fun k => k.ctx.val ≠ c) ++ [park] else w.parked
                      op := none, ended := true, phase := .idle }

/-- RESTORE resumes what was put aside. -/
def trwRestore (s : State) (t c : Nat) : State :=
  let w := getTrw s t
  match w.parked.find? (fun k => k.ctx.val = c) with
  | none => s
  | some k =>
    let f := getFace s (trwUnit t)
    let s := setFace s (trwUnit t) { f with st := .running }
    setTrw s t { w with parked := w.parked.erase k, prog := k.prog, gang := k.gang, pc := k.pc, ended := k.ended,
                        tag := k.tag, op := k.op, phase := (k.op.map (phaseOf w)).getD .idle }

end Sys2Proof.Machine
end

