-- ==== Sys2Proof/Machine/Contexts.lean ====
section
/-!
DEFINITION. Contexts (03 R93-R113): the commands of CTX_CMD, the bindings of cores, frames, saves and restores, steps and
their ends, teardown, and the stop of a unit (01 R34, R35).
-/
namespace Sys2Proof.Machine

/-! ### Units of a context -/

/-- The units beneath a context's gang that no other context owns, and every controller. -/
def ctxUnits (s : State) (c : Nat) : List Nat :=
  (unitsOf s c (ctxGang s c)).filter (fun u =>
    decide (552 ≤ u) || (match ownerOf s u with | some o => o.val == c | none => true))

/-- A command that a unit takes unless it is STOPPED or FAULTED (01 R35). -/
def giveCmd (s : State) (opcode c arg u : Nat) : State :=
  let st := (getFace s u).st
  if st = .stopped ∨ st = .faulted then s else acceptCmd s u opcode c 0 arg

/-- SAVE given to the units of a context, and kept as its gang's last command (03 R104, 01 R32). -/
def giveSave (s : State) (c : Nat) : State :=
  gangCmd ((ctxUnits s c).foldl (fun s u => giveCmd s 2 c c u) s) (ctxGang s c)
    { opcode := 2, ctx := BitVec.ofNat 4 c, slot := 0, arg := BitVec.ofNat 32 c }

/-- RESTORE taken by a unit: its stop is deasserted and it starts restoring; a controller is done at once (01 R35, 10 R364). -/
def restoreUnit (s : State) (c u : Nat) : State :=
  let s := acceptCmd s u 3 c 0 c
  let f := getFace s u
  setFace s u { f with stopIn := false, fault := if u < 552 then 0 else f.fault,
                       st := if u < 552 then .restoring else f.st,
                       owner := if u < 552 then some (ctxFin c) else f.owner }

def giveRestore (s : State) (c : Nat) : State :=
  gangCmd ((ctxUnits s c).foldl (fun s u => restoreUnit s c u) s) (ctxGang s c)
    { opcode := 3, ctx := BitVec.ofNat 4 c, slot := 0, arg := BitVec.ofNat 32 c }

/-! ### Cores taken and released (03 R93, R94, 04 R132) -/

/-- Cores of the latency-critical contexts that the image declares. -/
def reservedCores (s : State) : List Nat :=
  (s.tab.ctxs.filter (·.lc)).flatMap (fun r => (coreOrder s r.gang).filterMap (physR31 s))

/-- Free cores, lowest die first, then lowest core id (R94). -/
def freeCoresOf (s : State) : List Nat :=
  let res := reservedCores s
  (enabledCores s).filter (fun k => (holder s k).isNone && !res.contains k)

/-- The cores that a context would take, or the error that turns the command away: CORES_HELD or NO_CORES. -/
def coresFor (s : State) (r : CtxRec) : Except Nat (List (Nat × Nat)) :=
  let ls := sortBy id (coreOrder s r.gang)
  if r.lc then
    let b := ls.filterMap (fun n => (physR31 s n).map (fun k => (n, k)))
    if b.any (fun e => (holder s e.2).isSome) then .error 5 else .ok b
  else
    let f := freeCoresOf s
    if f.length < ls.length then .error 6 else .ok (ls.zip f)

/-- The cores taken and asked to wake, and the engines beneath the gang that nobody owns bound to the context
(16 R552). -/
def takeCores (s : State) (c : Nat) (b : List (Nat × Nat)) : State :=
  let x := getCtx s c
  let s := setCtx s c { x with bind := b }
  let s := b.foldl (fun s e => setFace s e.2 { getFace s e.2 with owner := some (ctxFin c) }) s
  let s := ((ctxUnits s c).filter (fun u => decide (512 ≤ u ∧ u < 552) && (ownerOf s u).isNone)).foldl
    (fun s u => setFace s u { getFace s u with owner := some (ctxFin c) }) s
  { s with pwr := { s.pwr with govQueue := s.pwr.govQueue ++ b.map (fun e => (e.2, s.halyard)) } }

/-- The cores of a context released: stage maps emptied, cores zeroed and asleep (09 R313, 04 R132). -/
def dropCores (s : State) (c : Nat) : State :=
  releaseCores ((getCtx s c).bind.foldl (fun s e => unstageCore s e.2) s) c

/-- Every core of a context is awake. -/
def allAwake (s : State) (c : Nat) : Bool := (getCtx s c).bind.all (fun e => s.pwr.awake.contains e.2)

/-! ### Steps (03 R87, R95, R97) -/

/-- The index of the step record in progress, or of the next one between steps. -/
def stepIdx (s : State) (c : Nat) : Nat :=
  match ctxRec s c with
  | some r => r.stepFirst + (getCtx s c).stepsDone.toNat % max 1 r.stepCount
  | none => 0

/-- The step record. -/
def stepRec (s : State) (c : Nat) : StepRec :=
  (s.tab.steps[stepIdx s c]?).getD { ticks := 1, slotFirst := 0, slotCount := 0 }

/-- The slot instances of a latency-critical step that belong to tick `t` of it, from a boundary on (R87). -/
def tickSlots (s : State) (c t boundary : Nat) : List SlotI :=
  let r := stepRec s c
  (List.range r.slotCount).filterMap (fun i =>
    match s.tab.slots[r.slotFirst + i]? with
    | some x => if x.tick = t then
        some { ctx := ctxFin c, idx := r.slotFirst + i, st := .pending, due := boundary + x.start, waited := false }
      else none
    | none => none)

/-- Slot instances added. -/
def addSlots (s : State) (l : List SlotI) : State := { s with tick := { s.tick with slots := s.tick.slots ++ l } }

/-- The slot of a best-effort step that runs next, if any (R95). -/
def addBestSlot (s : State) (c : Nat) : State :=
  let r := stepRec s c
  let x := getCtx s c
  if x.slotIndex < r.slotCount then
    addSlots s [{ ctx := ctxFin c, idx := r.slotFirst + x.slotIndex, st := .pending, due := s.halyard, waited := false }]
  else s

/-- A context enters DONE: the digest records of its last two steps are written and its cores released (R97, 14 R472). -/
def toDone (s : State) (c : Nat) : State :=
  let s := digestUpTo s c (getCtx s c).stepsDone.toNat
  let s := setCtx s c { getCtx s c with st := .done, ending := false, stepOn := false, blocked := false }
  let s := dropCensus s c
  dropCores { s with tick := { s.tick with slots := s.tick.slots.filter (fun i => i.ctx.val ≠ c) } } c

/-- What follows the settle of a step end: migration, digest records of the step before, and DONE after the last step
(09 R318, R321; 14 R472). -/
def finishStep (s : State) (c : Nat) : State :=
  let s := migrateEval s c
  let s := digestUpTo s c ((getCtx s c).stepsDone.toNat - 1)
  if (getCtx s c).ending then toDone s c else s

/-- A step ends (R97, 09 R321): it counts, the last one by STOP or by the limit leads to DONE, and its settle runs first. -/
def stepEnd (s : State) (c : Nat) : State :=
  let x := getCtx s c
  let n := inc64 x.stepsDone 1
  let last := x.st = .ending || (x.limit ≠ 0 && n.toNat = x.limit.toNat)
  let settles := (settleList s c).isSome
  let s := setCtx s c { x with stepsDone := n, stepOn := false, ending := last, settling := settles, settleByCmd := false }
  if settles then s else finishStep s c

/-- A step begins at a boundary (R95, R97), with the predictor's walk (07 R248). -/
def beginStep (s : State) (c boundary : Nat) : State :=
  let x := getCtx s c
  let s := setCtx s c { x with stepOn := true, step := BitVec.ofNat 16 (stepIdx s c), tick := 0, slotIndex := 0 }
  let s := if s.tab.mode.predictor && x.stepsDone ≠ 0 then predictorWalk s c else s
  if x.lc then addSlots s (tickSlots s c 0 boundary)
  else if (stepRec s c).slotCount = 0 then stepEnd s c
  else addBestSlot s c

/-! ### Frames (03 R105, R106; 10 R340) -/

/-- The first 0x300 bytes of a frame header (R105). -/
def frameHeader (s : State) (c : Nat) : List Byte :=
  let x := getCtx s c
  bytesOf 4 0x46434A48 ++ bytesOf 4 c ++ bytesOf 8 s.hst.activeId.toNat ++ bytesOf 2 (stepIdx s c) ++
  bytesOf 2 (if x.stepOn then x.slotIndex else 0) ++ bytesOf 4 x.bind.length ++ bytesOf 8 x.stepsDone.toNat ++
  bytesOf 8 x.saveCount ++ List.replicate 0xD8 0 ++
  (List.range 512).map (fun n => match x.bind.find? (fun e => e.1 = n) with
    | some e => BitVec.ofNat 8 (e.2 / 64)
    | none => 0xFF)

/-- The die and the number, among that die's records, of the record of a logical core. -/
def recOf (s : State) (c n : Nat) : Nat × Nat :=
  let d := coreDie s.bench1 c n
  (d, (List.range n).countP (fun i => coreDie s.bench1 c i = d))

/-- A key lies in the `i`-th record that die `d` saved for context `c`. -/
def inRecord (c d i k : Nat) : Bool :=
  let l := k % stackShift
  decide (k / stackShift / 4 = d ∧ c * frameLocal + i * 0xB0000 ≤ l ∧ l < c * frameLocal + (i + 1) * 0xB0000)

/-- The byte of the record that a key holds. -/
def recByte (c i k : Nat) : Nat :=
  let q := k % stackShift - c * frameLocal - i * 0xB0000
  q / 4096 * 16384 + k / stackShift % 4 * 4096 + q % 4096

/-- The record of a logical core written by its die: Bench 0 byte for byte (R105); stacks outside SERVICE drop it. -/
def saveRecord (c : Nat) (s : State) (e : Nat × Nat) : State :=
  let o := recordOfs c e.1 0
  let s := countAccess (snoopNeed s o 0x2C0000 true) o 0x2C0000 true (some c)
  match recOf s c e.1 with
  | (d, i) =>
    if 8 ≤ d then s
    else
      let hit := fun k => inRecord c d i k && served s (k / stackShift)
      let m := mclear s.bench1 hit
      let m := (getCore s e.2).b0.foldl (fun m b =>
        let k := recPlace c d i b.1
        if served s (k / stackShift) then mput 0 m k b.2 else m) m
      { s with bench1 := m, chk := mclear s.chk (fun k => hit (k / 4)) }

/-- The Bench 0 of a record. With no stored symbol error and no marked lane in the die's stacks, what the decoder delivers are
the stored bytes; otherwise every codeword is read through it. -/
def readRecord (s : State) (c n : Nat) : Mem × State :=
  let o := recordOfs c n 0
  match recOf s c n with
  | (d, i) =>
    if 8 ≤ d then ([], s)
    else if s.chk = [] && [0, 1, 2, 3].all (fun j => (getHbm s (4 * d + j)).marked = []) then
      (s.bench1.foldl (fun (m : Mem) b =>
          if inRecord c d i b.1 && served s (b.1 / stackShift) && decide (recByte c i b.1 < b0End) then
            mput 0 m (recByte c i b.1) b.2 else m) [],
       countAccess (snoopNeed s o 0x2C0000 false) o 0x2C0000 false (some c))
    else match b1Read s o b0End (ctReq c) with
      | (d, s) => (writeBytes [] 0 d, countAccess s (o + b0End) 0x40000 false (some c))

/-! ### The commands of CTX_CMD (03 R99-R103, R108) -/

/-- CTX_CMD_STATUS (R102). -/
def cmdStatus (s : State) (c cmd err : Nat) : State :=
  { s with ctab := { s.ctab with err := BitVec.ofNat 8 err, cmdCtx := BitVec.ofNat 4 c, cmd := BitVec.ofNat 4 cmd } }

/-- What a LAUNCH zeroes (R102, 14 R469, R471) and takes. -/
def launchCtx (s : State) (c : Nat) (r : CtxRec) (b : List (Nat × Nat)) : State :=
  let x := getCtx s c
  let s := setCtx s c { x with
    st := .armed, stepsDone := 0, droppedIn := 0, lateStarts := 0, slotWaits := 0, cause := 0, causeUnit := none,
    ovrSlot := 0, ovrTick := 0, launchCount := s.ctab.launchCount.toNat, limit := s.ctab.stepLimit,
    step := BitVec.ofNat 16 r.stepFirst, tick := 0, slotIndex := 0, stepOn := false, ending := false, blocked := false }
  takeCores (digestClear s c) c b

/-- LAUNCH (R99, R100). -/
def launch (s : State) (c : Nat) : State :=
  match ctxRec s c with
  | none => cmdStatus s c 1 1
  | some r =>
    if (getCtx s c).st ≠ .declared then cmdStatus s c 1 1
    else if s.hst.st ≠ .committed then cmdStatus s c 1 2
    else if !locked s then cmdStatus s c 1 3
    else if s.ctab.launchCount.toNat ≤ s.halyard then cmdStatus s c 1 4
    else match coresFor s r with
      | .error e => cmdStatus s c 1 e
      | .ok b => launchCtx (cmdStatus s c 1 0) c r b

def execLaunch (c : Fin 16) (s : State) : Host.Outcome State Fault Refusal := .next (if frozen s then s else launch s c.val)

/-- SAVE (R99, R103, R105): the frame header is written at once, so that inbound writes find their place (R107). -/
def save (s : State) (c : Nat) : State :=
  let x := getCtx s c
  if x.st ≠ .running then cmdStatus s c 2 1
  else if x.lc then cmdStatus s c 2 7
  else
    let s := cmdStatus s c 2 0
    let s := setCtx s c { x with st := .saving, saveCount := s.halyard, blocked := false }
    let s := b1Write (frameZero s c) (frameBase + c * frameSize) (frameHeader s c) (ctReq c)
    stopGang (giveSave s c) c 4

def execSave (c : Fin 16) (s : State) : Host.Outcome State Fault Refusal :=
  .next (if frozen s then s else guarded s (save s c.val))

/-- RESTORE (R99, R108). -/
def restore (s : State) (c : Nat) : State :=
  match ctxRec s c with
  | none => cmdStatus s c 3 1
  | some r =>
    if (getCtx s c).st ≠ .saved then cmdStatus s c 3 1
    else match coresFor s r with
      | .error e => cmdStatus s c 3 e
      | .ok b =>
        let s := cmdStatus s c 3 0
        giveRestore (takeCores (setCtx s c { getCtx s c with st := .restoring }) c b) c

def execRestore (c : Fin 16) (s : State) : Host.Outcome State Fault Refusal := .next (if frozen s then s else restore s c.val)

/-- STOP (R97, R99): the step in progress finishes; with none in progress the context is done once its settle is. -/
def stopCmd (s : State) (c : Nat) : State :=
  let x := getCtx s c
  if x.st ≠ .running then cmdStatus s c 4 1
  else
    let s := setCtx (cmdStatus s c 4 0) c { x with st := .ending, ending := !x.stepOn || x.ending }
    if x.stepOn || x.settling then s else toDone s c

def execStop (c : Fin 16) (s : State) : Host.Outcome State Fault Refusal :=
  .next (if frozen s then s else guarded s (stopCmd s c.val))

/-- KILL (R99, R109). -/
def kill (s : State) (c : Nat) : State :=
  let x := getCtx s c
  if x.st = .armed then
    let s := dropCores (cmdStatus s c 5 0) c
    setCtx s c { getCtx s c with st := .declared }
  else if mayTear x.st then teardown (cmdStatus s c 5 0) c 4 none
  else cmdStatus s c 5 1

def execKill (c : Fin 16) (s : State) : Host.Outcome State Fault Refusal := .next (if frozen s then s else kill s c.val)

/-- RELEASE (R99). -/
def releaseCmd (s : State) (c : Nat) : State :=
  let x := getCtx s c
  if x.st = .done ∨ x.st = .gone then setCtx (cmdStatus s c 6 0) c { x with st := .declared }
  else cmdStatus s c 6 1

def execRelease (c : Fin 16) (s : State) : Host.Outcome State Fault Refusal :=
  .next (if frozen s then s else releaseCmd s c.val)

/-! ### First steps (03 R100, R101) -/

/-- CTX_LAUNCH_COUNT + W. -/
def firstAt (s : State) (c : Nat) : Nat := (getCtx s c).launchCount + ceilDiv s.tab.logicalCores 32 * 5000

/-- FIRST_STEP: at the tick boundary just reached, an armed context whose count has come and whose cores are awake. -/
def firstStep (s : State) (c : Nat) : State :=
  let x := getCtx s c
  if x.st = .armed ∧ s.tick.period ≠ 0 ∧ s.halyard = s.tick.last ∧ firstAt s c ≤ s.tick.last ∧ allAwake s c then
    beginStep (setCtx s c { x with st := .running }) c s.tick.last
  else s

def execFirstStep (c : Fin 16) (s : State) : Host.Outcome State Fault Refusal :=
  .next (if frozen s then s else guarded s (firstStep s c.val))

/-! ### Stops (01 R34, 04 R131, 07 R251, 08 R295, 10 R364) -/

/-- UNIT_STOP: a unit with its stop asserted reaches its boundary. A core being saved reads SAVING until its frame is
written; a FAULTED unit stays so; a controller serves on. -/
def unitStop (s : State) (u : Nat) : State :=
  let f := getFace s u
  let c := (f.owner.map (·.val)).getD 16
  if !f.stopIn || f.st = .faulted || 552 ≤ u then s
  else if f.stopSrc = 4 then
    if f.st = .saving ∨ f.st = .stopped then s
    else if u < 512 then setFace s u { f with st := .saving }
    else
      let s := if u < 544 then riddleStop s (u - 512) else trwStop s (u - 544) c true
      setFace s u { getFace s u with st := .stopped }
  else if f.stopSrc = 1 then
    let s := if u < 512 then abandonOps s u else if u < 544 then riddleStop s (u - 512) else trwStop s (u - 544) c false
    setFace s u { getFace s u with st := .stopped }
  else s

/-- The unit that a name stands for. -/
def execUnitStop (u : UnitId) (s : State) : Host.Outcome State Fault Refusal :=
  .next (if frozen s then s else unitStop s (unitCode u))

/-! ### The ends of a save and of a restore (03 R104, R106, R107) -/

/-- What the frame keeps of a core beside Bench 0. -/
def savedOf (s : State) (c : Nat) (e : Nat × Nat) : SavedCore :=
  let k := getCore s e.2
  { ctx := ctxFin c, logical := e.1, core := { k with b0 := [] }, wasRunning := !(k.ended && k.ops = []),
    slot := (getFace s e.2).slot }

/-- SAVE_COMPLETE: every core has stopped and its record is written (R99, R104). -/
def saveComplete (s : State) (c : Nat) : State :=
  let x := getCtx s c
  if x.st = .saving && (ctxUnits s c).all (fun u =>
      decide (552 ≤ u) || (getFace s u).st = .saving || (getFace s u).st = .stopped) then
    let s := x.bind.foldl (saveRecord c) s
    let s := { s with saved := s.saved.filter (fun e => e.ctx.val ≠ c) ++ x.bind.map (savedOf s c) }
    let s := setCtx s c { getCtx s c with st := .saved }
    dropCores (releaseUnits s c) c
  else s

def execSaveComplete (c : Fin 16) (s : State) : Host.Outcome State Fault Refusal :=
  .next (if frozen s then s else guarded s (saveComplete s c.val))

/-- STATE of a core whose state has been read from a frame. -/
def restoredState (k : Core) : UState :=
  if k.ended && k.ops = [] then .idle
  else match k.wait with
    | .tick _ | .muster _ | .count .. => .waiting
    | _ => .running

/-- The record of a logical core read into the core now bound to it (R108). -/
def loadRecord (c : Nat) (s : State) (e : Nat × Nat) : State :=
  match readRecord s c e.1, s.saved.find? (fun r => r.ctx.val = c && r.logical = e.1) with
  | (m, s), some r =>
    let f := getFace s e.2
    let k := { r.core with b0 := m }
    setFace (setCore s e.2 k) e.2 { f with st := restoredState k, slot := r.slot,
                                           arrived := match k.wait with | .muster _ => true | _ => false }
  | (m, s), none => setFace (setCore s e.2 { b0 := m }) e.2 { getFace s e.2 with st := .idle }

/-- What a restored core finds done meanwhile: answers that came, counts that rose, a muster now complete. -/
def catchUp (c : Nat) (s : State) (e : Nat × Nat) : State :=
  let k := e.2
  let s := ((getCore s k).ops.filter (fun o => o.pieces = 0 && (match o.kind with
    | .movHR | .movHW | .atom _ => true
    | _ => false))).foldl (fun s o => finishOp s k o) s
  let s := wakeCount s k
  match (getCore s k).wait with
  | .muster g => tryMuster s c g
  | _ => s

/-- A Riddle slot in progress is issued again (07 R252). -/
def reissueRiddle (s : State) (c : Nat) : State :=
  { s with tick := { s.tick with slots := s.tick.slots.map (fun i =>
      let g := ((s.tab.slots[i.idx]?).map (·.gang)).getD 0
      if i.ctx.val = c ∧ i.st = .issued ∧ (unitsOf s c g).any (fun u => decide (512 ≤ u ∧ u < 544)) then
        { i with st := .pending } else i) } }

/-- RESTORE_COMPLETE: the frame is read into the cores, all awake, and the context runs on (R99, R103, 08 R295). -/
def restoreComplete (s : State) (c : Nat) : State :=
  let x := getCtx s c
  if x.st = .restoring ∧ allAwake s c then
    let s := x.bind.foldl (loadRecord c) s
    if (getCtx s c).st ≠ .restoring then s
    else
      let s := (ctxUnits s c).foldl (fun s u =>
        if 512 ≤ u ∧ u < 552 ∧ (getFace s u).st = .restoring then
          let s := setFace s u { getFace s u with st := .idle }
          if 544 ≤ u then trwRestore s (u - 544) c else s
        else s) s
      let s := { s with saved := s.saved.filter (fun e => e.ctx.val ≠ c) }
      let s := setCtx s c { getCtx s c with st := .running }
      collResume (trwProgressAll (x.bind.foldl (catchUp c) (reissueRiddle s c))) c
  else s

def execRestoreComplete (c : Fin 16) (s : State) : Host.Outcome State Fault Refusal :=
  .next (if frozen s then s else guarded s (restoreComplete s c.val))

/-! ### Engines that waited at a pool's threshold (08 R288, 09 R334) -/

/-- Every engine of the node goes on: packets that a pool's state held back are injected, chunks that it held back opened. -/
def enginesGoOn (s : State) : State :=
  (List.range 8).foldl (fun s d => (getColl s d).ops.foldl (fun s o => collAdvance s d o.group o.cseq) s) (trwProgressAll s)

/-- Buffers of a pool have come free: what its state held back goes on. -/
def poolEased (s : State) : State := if frozen s then s else guarded s (enginesGoOn s)

/-- RELEASE and RESET of BPM_CMD (09 R331), and what the pool's state lets through after them. -/
def bpmRelease (s : State) (p i : Nat) : State :=
  if (getPool s p).declared then poolEased (bpmRel s p i) else bpmRel s p i

def bpmReset (s : State) (p : Nat) : State :=
  if (getPool s p).declared then poolEased (bpmRst s p) else bpmRst s p

/-- The command RELEASE of BPM_CMD. -/
def execBpmRelease (p : BitVec 4) (i : W32) (s : State) : Host.Outcome State Fault Refusal :=
  .next (bpmRelease s p.toNat i.toNat)

/-- The command RESET of BPM_CMD. -/
def execBpmReset (p : BitVec 4) (s : State) : Host.Outcome State Fault Refusal := .next (bpmReset s p.toNat)

/-! ### The end of a teardown (03 R110) -/

/-- The pools that a teardown resets: those of the partition's mask that no other partition names, when no other context of
the partition is resident. -/
def poolsToReset (s : State) (c : Nat) : List Nat :=
  let part := (getCtx s c).part.toNat
  if (List.range 16).any (fun o => o ≠ c && resident s o && (getCtx s o).part.toNat = part) then []
  else
    (List.range 16).filter (fun p => (getPool s p).declared &&
      s.tab.parts.any (fun r => r.part = part && r.poolMask.getLsbD p) &&
      !s.tab.parts.any (fun r => r.part ≠ part && r.poolMask.getLsbD p))

/-- Some request that the context injected has not been answered. -/
def hasRequests (s : State) (c : Nat) : Bool :=
  s.fab.table.any (fun e => ofContext c e.pkt e.owner) || s.fab.held.any (fun h => ofContext c h.pkt h.owner)

/-- Every unit of the context has acted on the stop. -/
def allStopped (s : State) (c : Nat) : Bool :=
  (ctxUnits s c).all (fun u => decide (552 ≤ u) || (getFace s u).st = .stopped || (getFace s u).st = .faulted)

/-- ARG0 of CONTEXT_GONE (15 R527). -/
def goneArg (x : Ctx) : Nat :=
  x.cause.toNat + (match x.causeUnit with
    | some f => 2 ^ 8 * f.kind + 2 ^ 11 * f.index + 2 ^ 20 * f.code.toNat
    | none => 0)

/-- TEARDOWN_COMPLETE (R110 steps 3 to 5): it waits for the requests only where a pool is reset. -/
def teardownComplete (s : State) (c : Nat) : State :=
  let x := getCtx s c
  let ps := poolsToReset s c
  if x.st = .teardown ∧ allStopped s c ∧ (ps = [] ∨ hasRequests s c = false) then
    let s := ps.foldl poolReset s
    let s := { s with yard := { s.yard with grants := s.yard.grants.filter (fun g => g.ctx.val ≠ c) } }
    let s := releaseUnits s c
    let s := dropCores s c
    let s := tirGone (frameZero { s with saved := s.saved.filter (fun e => e.ctx.val ≠ c) } c) c
    let s := setCtx { s with tick := { s.tick with slots := s.tick.slots.filter (fun i => i.ctx.val ≠ c) } } c
      { getCtx s c with st := .gone }
    post s evContextGone (some (ctxFin c)) (goneArg x) 0
  else s

def execTeardownComplete (c : Fin 16) (s : State) : Host.Outcome State Fault Refusal :=
  .next (if frozen s then s else guarded s (teardownComplete s c.val))

/-! ### All contexts blocked (03 R115) -/

/-- ALL_BLOCKED: the conditions have held for 20,000 counts; posted once for the span. -/
def allBlockedEvent (s : State) : State :=
  if allBlockedNow s && !s.ctab.posted then
    let s := elapse (20000 - s.ctab.blockedFor) s
    post { s with ctab := { s.ctab with allBlocked := true, posted := true } } evAllBlocked none 0 0
  else s

def execAllBlocked (s : State) : Host.Outcome State Fault Refusal := .next (if frozen s then s else allBlockedEvent s)

/-! ### Regulators (03 R117) -/

/-- REGULATOR_PASS: the clock reaches the count at which the level covers the charge of the transfer at the head of a
bucket; the transfer passes and goes on to its next bucket. -/
def regulatorPass (s : State) (p l : Nat) : State :=
  let b := getBucket s p l
  match b.queue with
  | [] => s
  | t :: _ =>
    if b.on && b.rate = 0 && decide (b.milli < 1000 * t.charge) then s
    else
      let s := if b.on then elapse (countsShort b t.charge (2 ^ 64)) s else s
      let b := getBucket s p l
      let s := setBucket s p l { b with queue := b.queue.tail, milli := b.milli - (if b.on then 1000 * t.charge else 0),
                                        bytes := if b.on then inc64 b.bytes t.charge else b.bytes }
      match t.pkt with
      | some k => passBuckets s p t.charge t.port k t.rest
      | none => s

def execRegulatorPass (p : Fin 16) (l : Fin 5) (s : State) : Host.Outcome State Fault Refusal :=
  .next (if frozen s then s else regulatorPass s p.val l.val)

end Sys2Proof.Machine
end

