-- ==== Sys2Proof/Machine/Ticks.lean ====
section
/-!
DEFINITION. Ticks and slots (03 R86-R92, R95): the boundary with its overrun check (R90), the swap of an armed reload
(02 R78), a change of throttle level (16 R554, R557), the ends and beginnings of steps; the issue and retirement of slots;
and the completion of a settle (09 R321, R322).
-/
namespace Sys2Proof.Machine

/-! ### Periods (03 R86; 16 R554, R557) -/

/-- L as the driver level and the autonomous level give it. -/
def levelNow (s : State) : Nat := max s.pwr.drvInForce s.pwr.autoLevel

/-- P in µs for a level (16 R554). -/
def periodUs (s : State) (l : Nat) : Nat := min 16000 (ceilDiv (s.tab.mode.tickUs * (8 + l)) 8)

/-- The first multiple of `m` at or after `t`. -/
def multipleAt (t m : Nat) : Nat := roundUp t (max 1 m)

/-- At boundary `b`: the level and period from here on, the next boundary, and THROTTLE when the level changes. -/
def retime (s : State) (b : Nat) : State :=
  let l := levelNow s
  let p := periodUs s l
  let old := s.tick.period
  let nxt := if p = old then b + 1000 * old else multipleAt (b + 1000 * old) (1000 * p)
  let s' := { s with tick := { s.tick with period := p, level := l, last := b, next := nxt } }
  if l = s.tick.level then s'
  else post s' evThrottle none
    (l + 16 * s.tick.level + 256 * b2n s.pwr.byAuto + 65536 * s.pwr.tjMax.toNat) p

/-! ### Reload (02 R78, R81; 03 R119) -/

/-- A bucket under a new set of regulator records: a kept record keeps its level, a gained one starts full, and what waits at
a bucket whose record is gone goes on. -/
def reloadBucket (s : State) (p l : Nat) : State :=
  let b := getBucket s p l
  match s.tab.regs.find? (fun r => r.part = p && r.level = l) with
  | some r =>
    let n := { b with on := true, rate := BitVec.ofNat 32 r.rate, burst := BitVec.ofNat 32 r.burst }
    setBucket s p l { n with milli := if b.on then min b.milli (1000 * depth n) else 1000 * depth n }
  | none =>
    let s := setBucket s p l { b with on := false, rate := 0, burst := 0, milli := 0, queue := [] }
    b.queue.foldl (fun s t => match t.pkt with
      | some k => passBuckets s p t.charge t.port k t.rest
      | none => s) s

/-- Every bucket under the records in force. -/
def reloadBuckets (s : State) : State :=
  (List.range 80).foldl (fun s i => reloadBucket s (i / 5) (i % 5)) s

/-- The buckets of a full commit: every one starts full (R119). -/
def fillBuckets (s : State) : State :=
  reloadBuckets { s with buckets := mmap {} (fun _ b => { b with on := false }) s.buckets }

/-- The bytes of the staged image. -/
def stagedImage (s : State) : List Byte × State :=
  b1Read s stageBase (min s.hst.stageLen.toNat stageSize) { kind := 8, index := 0, ctx := none }

/-- The image event (02 R81, 15 R527). -/
def imageEvent (s : State) (id : Nat) (kind : Bool) (err : Nat) (ok : Bool) : State :=
  post s evImage none id (b2n kind + 256 * err + 65536 * b2n ok)

/-! ### A launch agreed by broadcast (14 R490) -/

/-- The loader has entered COMMITTED with an image that an ARM packet named: the launch count is set and LAUNCH given to each
context of the mask, in ascending order. -/
def agreedLaunch (s : State) (id : Nat) : State :=
  match s.syn.armPending with
  | none => s
  | some (i, n, m) =>
    let s := { s with syn := { s.syn with armPending := none } }
    if i.toNat ≠ id then s
    else
      let s := { s with ctab := { s.ctab with launchCount := n } }
      ((List.range 16).filter (fun c => m.getLsbD c)).foldl launch s

/-- The sections of an armed reload put in force at once (02 R78). -/
def reloadSwap (s : State) : State :=
  match s.hst.shadow with
  | none => s
  | some h =>
    let t := s.tab
    let t := match h.placement with | some p => { t with placement := p } | none => t
    let t := match h.routing with | some (a, r) => { t with adits := a, routes := r } | none => t
    let s := match h.regs with
      | some r => reloadBuckets { s with tab := { t with regs := r } }
      | none => { s with tab := t }
    let s := { s with hst := { s.hst with st := .committed, reloadId := h.imageId, shadow := none } }
    agreedLaunch (imageEvent (measStart s 5 (shake256 s.hst.image 64)) h.imageId.toNat true 0 true) h.imageId.toNat

/-- An armed reload whose count has come swaps at this boundary. -/
def swapAt (s : State) (b : Nat) : State :=
  if s.hst.st = .armed && s.hst.stagedKind && decide (s.hst.commitCount.toNat ≤ b) then reloadSwap s else s

/-! ### The overrun check (03 R90) -/

/-- The record of a slot instance. -/
def slotRec (s : State) (i : SlotI) : SlotRec :=
  (s.tab.slots[i.idx]?).getD { tick := 0, slot := 0, gang := 0, program := 0, start := 0, reserve := 0 }

/-- Every unit of a slot's gang is IDLE (R88, R89). -/
def slotIdle (s : State) (i : SlotI) : Bool :=
  (unitsOf s i.ctx.val (slotRec s i).gang).all (fun u => decide (552 ≤ u) || (getFace s u).st = .idle)

/-- A latency-critical slot of the ending tick that has not retired. -/
def overran (s : State) (i : SlotI) : Bool :=
  (getCtx s i.ctx.val).lc && (i.st = .pending || (i.st = .issued && !slotIdle s i))

/-- TICK_OVERRUN for one slot: the event, the overrun registers for the first, and the teardown (R90). -/
def overrun (s : State) (i : SlotI) : State :=
  let c := i.ctx.val
  let x := getCtx s c
  let r := slotRec s i
  let s := if mayTear x.st then setCtx s c { x with ovrSlot := r.slot, ovrTick := BitVec.ofNat 16 r.tick } else s
  let s := trigger (post s evTickOverrun (some i.ctx) (x.step.toNat + 2 ^ 16 * r.tick + 2 ^ 32 * r.slot.toNat) 0) 0
  teardown s c 1 none

/-- The check at a boundary. -/
def checkOverruns (s : State) : State :=
  let l := s.tick.slots.filter (overran s)
  l.foldl overrun { s with tick := { s.tick with slots := s.tick.slots.map (fun i =>
    if overran s i then { i with st := .overrun } else i) } }

/-! ### TICK_BOUNDARY -/

/-- A latency-critical context at a boundary: its next tick, or the end of its step and the beginning of the next (R87, R97). -/
def lcBoundary (b : Nat) (s : State) (c : Nat) : State :=
  let x := getCtx s c
  if x.lc && (x.st = .running || x.st = .ending) && x.stepOn then
    let t := x.tick.toNat + 1
    if t < (stepRec s c).ticks then
      addSlots (setCtx s c { x with tick := BitVec.ofNat 16 t }) (tickSlots s c t b)
    else
      let s := stepEnd s c
      let y := getCtx s c
      if (y.st = .running || y.st = .ending) && !y.ending then beginStep s c b else s
  else s

/-- A best-effort context at a boundary: its next step begins (R95). -/
def beBoundary (b : Nat) (s : State) (c : Nat) : State :=
  let x := getCtx s c
  if !x.lc && (x.st = .running || x.st = .ending) && !x.stepOn && !x.ending && decide (firstAt s c ≤ b) then beginStep s c b
  else s

/-- The boundary of R100 for an armed context whose cores are not all awake: a late start is counted (R101). -/
def lateBoundary (prev b : Nat) (s : State) (c : Nat) : State :=
  let x := getCtx s c
  if x.st = .armed ∧ prev < firstAt s c ∧ firstAt s c ≤ b ∧ allAwake s c = false then
    setCtx s c { x with lateStarts := inc32 x.lateStarts 1 }
  else s

/-- TICK_BOUNDARY: the clock reaches the next boundary. -/
def tickBoundary (s : State) : State :=
  if s.tick.period = 0 then s
  else
    let b := s.tick.next
    let s := advanceTo s b
    let prev := s.tick.last
    let s := swapAt (checkOverruns s) b
    let s := retime s b
    let s := { s with tick := { s.tick with slots := s.tick.slots.filter (fun i => !(getCtx s i.ctx.val).lc) } }
    let s := (List.range 16).foldl (lcBoundary b) s
    let s := (List.range 16).foldl (beBoundary b) s
    let s := (List.range 16).foldl (lateBoundary prev b) s
    if s.tick.level = 0 then s else { s with pwr := { s.pwr with thrTicks := inc64 s.pwr.thrTicks 1 } }

def execTickBoundary (s : State) : Host.Outcome State Fault Refusal :=
  .next (if frozen s then s else guarded s (tickBoundary s))

/-! ### Slots (03 R88, R89, R91, R95; 04 R124) -/

/-- The instance of a slot record of a context. -/
def findSlot (s : State) (c i : Nat) : Option SlotI := s.tick.slots.find? (fun x => x.ctx.val = c && x.idx = i)

/-- An instance changed. -/
def setSlot (s : State) (i j : SlotI) : State :=
  { s with tick := { s.tick with slots := s.tick.slots.map (fun x => if x = i then j else x) } }

/-- RUN_SLOT sets the registers of a core (04 R124); a program without instructions ends at once with PROG_END. -/
def runCore (s : State) (k prog gang : Nat) : State :=
  let c := getCore s k
  let n := { c with pc := 0, prog := prog, gang := gang, ended := false, s := [], a := [], v := [], m := [], loops := [],
                    wait := .none, stall := 0 }
  let s := setCore s k n
  if progLen s n = 0 then unitFault s k fProgEnd else s

/-- RUN_SLOT accepted by a unit (01 R27, R34; 10 R364). -/
def runUnit (c : Nat) (r : SlotRec) (s : State) (u : Nat) : State :=
  let s := acceptCmd s u 1 c r.slot 0
  if 552 ≤ u then s
  else
    let f := getFace s u
    let s := setFace s u { f with st := .running, owner := some (ctxFin c), slot := r.slot }
    if u < 512 then runCore s u r.program r.gang
    else if u < 544 then riddleRun s (u - 512) r.program r.gang
    else trwRun s (u - 544) r.program r.gang

/-- RUN_SLOT delivered to a gang. -/
def runSlot (s : State) (c : Nat) (r : SlotRec) : State :=
  let s := gangCmd s r.gang { opcode := 1, ctx := BitVec.ofNat 4 c, slot := r.slot, arg := 0 }
  (unitsOf s c r.gang).foldl (runUnit c r) s

/-- SLOT_ISSUE: the count of a pending slot comes; it is issued once its context's step-end settle is over (09 R321) and its
gang IDLE; a wait for the gang is counted once (R88). -/
def slotIssue (s : State) (c idx : Nat) : State :=
  match findSlot s c idx with
  | none => s
  | some i =>
    let x := getCtx s c
    if i.st ≠ .pending ∨ ¬ (x.st = .running ∨ x.st = .ending) ∨ (x.lc ∧ s.tick.next ≤ i.due) then s
    else
      let s := advanceTo s i.due
      let x := getCtx s c
      if x.settling && !x.settleByCmd then s
      else if !slotIdle s i then
        if i.waited then s
        else setCtx (setSlot s i { i with waited := true }) c { x with slotWaits := inc32 x.slotWaits 1 }
      else runSlot (setSlot s i { i with st := .issued }) c (slotRec s i)

def execSlotIssue (c : Fin 16) (i : Nat) (s : State) : Host.Outcome State Fault Refusal :=
  .next (if frozen s then s else guarded s (slotIssue s c.val i))

/-- SLOT_RETIRE: every unit of an issued slot is IDLE again (R89); the next slot of a best-effort step becomes due, or the
step ends (R95). -/
def slotRetire (s : State) (c idx : Nat) : State :=
  match findSlot s c idx with
  | none => s
  | some i =>
    let x := getCtx s c
    if i.st ≠ .issued ∨ slotIdle s i = false ∨ ¬ (x.st = .running ∨ x.st = .ending) then s
    else if x.lc then setSlot s i { i with st := .retired }
    else
      let s := { s with tick := { s.tick with slots := s.tick.slots.erase i } }
      let s := setCtx s c { x with slotIndex := x.slotIndex + 1 }
      if x.slotIndex + 1 < (stepRec s c).slotCount then addBestSlot s c else stepEnd s c

def execSlotRetire (c : Fin 16) (i : Nat) (s : State) : Host.Outcome State Fault Refusal :=
  .next (if frozen s then s else guarded s (slotRetire s c.val i))

/-! ### SETTLE_COMPLETE (09 R321, R322, R325) -/

/-- A settle that can go no further without an answer waits for it; one that has applied its descriptors ends. -/
def settleComplete (s : State) (c : Nat) : State :=
  let x := getCtx s c
  if !x.settling then s
  else match settleRun s c with
    | (false, s) => s
    | (true, s) =>
      let y := getCtx s c
      let s := setCtx s c { y with settling := false, settleByCmd := false }
      if x.settleByCmd then { s with tir := { s.tir with done := true } }
      else if y.st = .teardown ∨ y.st = .gone then s
      else finishStep s c

def execSettleComplete (c : Fin 16) (s : State) : Host.Outcome State Fault Refusal :=
  .next (if frozen s then s else guarded s (settleComplete s c.val))

end Sys2Proof.Machine
end

