-- ==== Sys2Proof/Machine/Loader.lean ====
section
/-!
DEFINITION. The hoist loader's commands and the steps of a commit but for its end (02 R70-R81): BEGIN, VALIDATE, ARM, CANCEL,
the shadow copy of a reload, the commit count, and the loss of lock.
-/
namespace Sys2Proof.Machine

/-- The loader's fields changed. -/
def setHst (s : State) (f : Loader → Loader) : State := { s with hst := f s.hst }

/-- IMAGE_ID of the image validated last. -/
def stagedId (s : State) : Nat := natAt s.hst.image 16 8

/-- REFUSED with an error, and the event (R81). -/
def refuse (s : State) (err : Nat) : State :=
  let s := setHst s (fun h => { h with st := .refused, err := BitVec.ofNat 8 err, shadow := none })
  imageEvent { s with syn := { s.syn with armPending := none } } (stagedId s) s.hst.stagedKind err false

/-- BEGIN in a state that takes it (R71). -/
def takesBegin : LState → Bool
  | .empty | .staging | .valid | .committed | .refused => true
  | _ => false

/-- BEGIN (R71): HST_STAGE_LEN and ERR become zero. -/
def loaderBegin (s : State) : State :=
  if takesBegin s.hst.st then
    setHst { s with syn := { s.syn with armPending := none } } (fun h => { h with st := .staging, err := 0, stageLen := 0 })
  else s

/-- A command of HST_CTRL reaches the loader: from SYNC on and outside the Dip (16 R548, 14 R498). -/
def loaderTakes (s : State) : Bool := loaderUp s && !frozen s

def execBegin (s : State) : Host.Outcome State Fault Refusal := .next (if loaderTakes s then loaderBegin s else s)

/-- States in which writes to the staging area are dropped (R74). -/
def stageBusy (s : State) : Bool := match s.hst.st with
  | .validating | .arming | .armed | .installing => true
  | _ => false

/-- A write to the staging area dropped and counted (R74). -/
def stageDrop (s : State) : State := setHst s (fun h => { h with droppedWrites := inc32 h.droppedWrites 1 })

/-- VALIDATE (R71, R72). -/
def loaderValidate (s : State) : State := if s.hst.st = .staging then setHst s (fun h => { h with st := .validating }) else s

def execValidate (s : State) : Host.Outcome State Fault Refusal := .next (if loaderTakes s then loaderValidate s else s)

/-- ARM (R71, R75, R77). -/
def loaderArm (s : State) : State :=
  if s.hst.st ≠ .valid then s
  else if !locked s then refuse s 0x0A
  else if s.hst.commitCount.toNat ≤ s.halyard then refuse s 0x0B
  else setHst s (fun h => { h with st := if h.stagedKind then .arming else .armed })

def execArm (s : State) : Host.Outcome State Fault Refusal := .next (if loaderTakes s then loaderArm s else s)

/-- CANCEL (R80). An armed full image whose commit count has come is the commit's: COMMIT_COUNT takes it. -/
def loaderCancel (s : State) : State :=
  let back := setHst { s with syn := { s.syn with armPending := none } } (fun h => { h with st := .valid, err := 0, shadow := none })
  match s.hst.st with
  | .arming => back
  | .armed => if s.hst.stagedKind || decide (s.halyard < s.hst.commitCount.toNat) then back else s
  | .installing | .committed => setHst s (fun h => { h with err := 0x0D })
  | _ => s

def execCancel (s : State) : Host.Outcome State Fault Refusal := .next (if loaderTakes s then loaderCancel s else s)

/-- SHADOW_COPY_DONE: a reload's sections stand in the shadow tables (R77). -/
def shadowCopyDone (s : State) : State :=
  if s.hst.st = .arming then
    match stagedImage s with
    | (_, s) => setHst s (fun h => { h with st := .armed, shadow := some (parseReload (node s) h.image) })
  else s

def execShadowCopyDone (s : State) : Host.Outcome State Fault Refusal :=
  .next (if frozen s then s else guarded s (shadowCopyDone s))

/-- COMMIT_COUNT: the Halyard reaches HST_COMMIT_COUNT. A full image starts to install unless a context is resident; a reload
whose copy has not ended is late (R76, R77). -/
def commitCount (s : State) : State :=
  match s.hst.st with
  | .arming => refuse (advanceTo s s.hst.commitCount.toNat) 0x0B
  | .armed =>
    let s := advanceTo s s.hst.commitCount.toNat
    if s.hst.stagedKind then s
    else if anyResident s then refuse s 0x0C
    else setHst s (fun h => { h with st := .installing, committedAt := BitVec.toNat h.commitCount })
  | _ => s

def execCommitCount (s : State) : Host.Outcome State Fault Refusal := .next (if frozen s then s else commitCount s)

/-- The Halyard has lost its lock: an armed commit whose count has not come is refused (R75). -/
def loaderUnlock (s : State) : State :=
  if (s.hst.st = .arming || s.hst.st = .armed) && decide (s.halyard < s.hst.commitCount.toNat) then refuse s 0x0A else s

end Sys2Proof.Machine
end

