-- ==== Sys2Proof/Machine/Bcast.lean ====
section
/-!
DEFINITION. The image broadcast (14 R485-R491): its tree, the commands SEND, ARM and ABANDON, the copies of the image, the
reports, and the ARM packet.
-/
namespace Sys2Proof.Machine

/-! ### The tree (R485; 01 R23, R24; 12 R408) -/

/-- Another device of this chassis: local index 16r + 4c + p. -/
def peerAt (s : State) (r c p : Nat) : Nat := node s / 64 * 64 + 16 * r + 4 * c + p

def locR (s : State) : Nat := node s % 64 / 16
def locC (s : State) : Nat := node s % 16 / 4
def locP (s : State) : Nat := node s % 4

/-- The devices of stages 2, 3 and 4: board, row and column peers, without the device itself. -/
def stagePeers (s : State) (dim : Nat) : List Nat :=
  ((List.range 4).map (fun i =>
    if dim = 0 then peerAt s (locR s) (locC s) i
    else if dim = 1 then peerAt s (locR s) i (locP s)
    else peerAt s i (locC s) (locP s))).filter (· ≠ node s)

/-- A child before any copy. -/
def bchild (n fwd : Nat) (dim : Option Nat) : BChild :=
  { node := BitVec.ofNat 14 n, unacked := 0, report := none, fwd := BitVec.ofNat 3 fwd, mdim := dim.map (BitVec.ofNat 2) }

/-- The children of a device that performs the stages of FWD. -/
def childrenOf (s : State) (fwd : Nat) : List BChild :=
  (if bitAt fwd 0 then (stagePeers s 0).map (fun n => bchild n 6 (some 0)) else []) ++
  (if bitAt fwd 1 then (stagePeers s 1).map (fun n => bchild n 4 (some 1)) else []) ++
  (if bitAt fwd 2 then (stagePeers s 2).map (fun n => bchild n 0 (some 2)) else [])

/-- The children of the origin: the heads of the other chassis of the set, then its own stages. -/
def originChildren (s : State) : List BChild :=
  (((List.range (s.syn.chHi.toNat + 1)).filter (fun h => decide (s.syn.chLo.toNat ≤ h) && h ≠ node s / 64)).map (fun h =>
    bchild (64 * h + node s % 64) 7 none)) ++ childrenOf s 7

/-! ### IMAGE packets (R486) -/

/-- The registers of the broadcast changed. -/
def setSyn (s : State) (f : Syn → Syn) : State := { s with syn := f s.syn }

/-- An IMAGE packet. -/
def imagePkt (s : State) (dest w3 id w5 : Nat) (b : List Byte) : Packet :=
  { pkt0 with dest := BitVec.ofNat 14 dest, src := BitVec.ofNat 14 (node s), vc := 3, op := 10, w3 := BitVec.ofNat 64 w3,
              w4 := BitVec.ofNat 64 id, w5 := BitVec.ofNat 64 w5, payload := padFlits b }

/-- A copy sent to a child. -/
def sendChild (s : State) (c : BChild) (w3 id w5 : Nat) (b : List Byte) : State :=
  let p := imagePkt s c.node.toNat w3 id w5 b
  let p := match c.mdim with
    | some d => { p with mcast := true, mdim := d }
    | none => p
  let s := setSyn s (fun y => { y with children := y.children.map (fun x =>
    if x.node = c.node then { x with unacked := x.unacked + 1 } else x) })
  sendRequest s { pkt := p, owner := .bcast c.node, part := none, port := 32 }

/-- A copy of DATA: word 5 carries the FWD of the child and IMG_LEN. -/
def sendData (s : State) (w3 id len : Nat) (b : List Byte) : State :=
  s.syn.children.foldl (fun s c => sendChild s c w3 id (4 * c.fwd.toNat + 2 ^ 32 * len) b) s

/-- The ARM packet down the tree: one flit. -/
def sendArm (s : State) (id commit launch mask : Nat) : State :=
  let b := bytesOf 8 id ++ bytesOf 8 commit ++ bytesOf 8 launch ++ bytesOf 2 mask
  s.syn.children.foldl (fun s c => sendChild s c (2 ^ 32) id (2 + 4 * c.fwd.toNat) b) s

/-! ### Reports (R488, R489) -/

/-- OK_COUNT, whether a failure is known, and the first failure: the device itself, then its children in order. -/
def bcastTotal (s : State) (own : Bool × Byte) : Nat × Bool × Nat × Byte :=
  s.syn.children.foldl (fun a c =>
    match c.report with
    | none => a
    | some (n, f, d, e) =>
      (a.1 + n, a.2.1 || f, if a.2.1 then a.2.2.1 else if f then d.toNat else 0, if a.2.1 then a.2.2.2 else if f then e else 0))
    (if own.1 then (1, false, 0, 0) else (0, true, node s, own.2))

/-- Every child has reported or failed. -/
def allReported (s : State) : Bool := s.syn.children.all (fun c => c.report.isSome)

/-- The end of a broadcast at its origin, and the REPORT of another device, once everything is in. -/
def bcastProgress (s : State) : State :=
  if !allReported s then s
  else if s.syn.isOrigin then
    if s.syn.bst ≠ .sending then s
    else
      let (n, f, d, _) := bcastTotal s (true, 0)
      let ok := decide (n = 64 * (s.syn.chHi.toNat + 1 - s.syn.chLo.toNat)) && !f
      setSyn s (fun y => { y with bst := if ok then .doneOk else .doneFail, okCount := BitVec.ofNat 32 n,
                                  firstFail := BitVec.ofNat 14 d })
  else if s.syn.reported then s
  else match s.syn.own with
    | none => s
    | some own =>
      let (n, f, d, e) := bcastTotal s own
      let b := bytesOf 4 n ++ bytesOf 2 d ++ [if f then 1 else 0] ++ [e]
      let p := imagePkt s s.syn.rxParent.toNat (2 ^ 32) s.syn.rxId.toNat 1 b
      sendRequest (setSyn s (fun y => { y with reported := true }))
        { pkt := p, owner := .bcast s.syn.rxParent, part := none, port := 32 }

/-- A child's report, or its failure, taken once. -/
def takeReport (s : State) (c : BitVec 14) (r : Nat × Bool × BitVec 14 × Byte) : State :=
  bcastProgress (setSyn s (fun y => { y with children := y.children.map (fun x =>
    if x.node = c ∧ x.report.isNone then { x with report := some r } else x) }))

/-- A copy to a child acknowledged; with the last one the time for reports runs (R488). -/
def bcastAcked (s : State) (c : BitVec 14) : State :=
  if !s.syn.children.any (fun x => x.node = c) then s else
  let s := setSyn s (fun y => { y with children := y.children.map (fun x =>
    if x.node = c then { x with unacked := x.unacked - 1 } else x) })
  if s.syn.children.all (fun x => x.unacked = 0) then setSyn s (fun y => { y with copiesAt := s.halyard }) else s

/-- A copy to a child raised UNREACHABLE: the child fails (R488). -/
def bcastLost (s : State) (c : BitVec 14) : State :=
  if s.syn.children.any (fun x => x.node = c) then takeReport (bcastAcked s c) c (0, true, c, 0xFF) else s

/-- The validation of a broadcast image has ended. -/
def bcastValidated (s : State) (ok : Bool) (err : Byte) : State :=
  if s.syn.ownPending then bcastProgress (setSyn s (fun y => { y with ownPending := false, own := some (ok, err) })) else s

/-! ### The commands (R485, R489, R490, R505) -/

/-- The packets of an image: first flit and bytes. -/
def imageParts (img : List Byte) : List (Nat × List Byte) := (indexed (cut 2048 img)).map (fun e => (32 * e.1, e.2))

/-- SEND. -/
def bcastSend (s : State) : State :=
  if s.hst.st ≠ .valid ∨ s.syn.bst = .sending then setSyn s (fun y => { y with berr := 1 })
  else if !locked s then setSyn s (fun y => { y with berr := 3 })
  else
    let id := stagedId s
    match stagedImage s with
    | (_, s) =>
      let img := s.hst.image
      let s := setSyn s (fun y => { y with bst := .sending, berr := 0, okCount := 0, firstFail := 0, isOrigin := true,
                                           children := originChildren s, sentId := BitVec.ofNat 64 id })
      let n := ceilDiv img.length 64
      bcastProgress ((imageParts img).foldl (fun s e => sendData s (e.1 + 2 ^ 32 * n) id img.length e.2) s)

def execSend (s : State) : Host.Outcome State Fault Refusal :=
  .next (if loaderTakes s then guarded s (bcastSend s) else s)

/-- What a device does on an ARM packet (R490). -/
def armAct (s : State) (id commit launch : W64) (mask : BitVec 16) : State :=
  if s.hst.st = .valid ∧ stagedId s = id.toNat then
    loaderArm (setHst { s with syn := { s.syn with armPending := some (id, launch, mask) } } (fun h => { h with commitCount := commit }))
  else
    let n := match s.hst.st with
      | .empty => 0 | .staging => 1 | .validating => 2 | .valid => 3 | .arming => 4 | .armed => 5 | .installing => 6
      | .committed => 7 | .refused => 8
    post s evBcastArmIgnored none id.toNat n

/-- ARM at the origin: refused INCOMPLETE in any state but DONE_OK. -/
def bcastArm (s : State) : State :=
  if s.syn.bst ≠ .doneOk then setSyn s (fun y => { y with berr := 2 })
  else
    let y := s.syn
    let s := setSyn s (fun y => { y with bst := .armSent, berr := 0 })
    armAct (sendArm s y.sentId.toNat y.bcastCommit.toNat y.bcastLaunch.toNat y.ctxMask.toNat) y.sentId y.bcastCommit y.bcastLaunch y.ctxMask

def execBcastArm (s : State) : Host.Outcome State Fault Refusal := .next (if loaderTakes s then bcastArm s else s)

/-- ABANDON. -/
def bcastAbandon (s : State) : State :=
  setSyn s (fun y => { y with bst := .idle, berr := 0, children := if y.isOrigin then [] else y.children })

def execAbandon (s : State) : Host.Outcome State Fault Refusal := .next (if loaderTakes s then bcastAbandon s else s)

/-! ### Packets -/

/-- An IMAGE packet of a kind received; a duplicate is answered OK again. -/
def imageRecv (s : State) (p : Packet) (kind : Nat) (act : State → State) : State :=
  if (p.long && p.op = 10 && p.w5.toNat % 4 = kind) || badOp p then recv s p (fun s => sendAck s 32 p 0 0) (fun s => some (act s))
  else s

/-- Loader states in which DATA is answered NOT_READY (R487). -/
def turnsAway (s : State) : Bool := !loaderUp s || stageBusy s

/-- The first DATA packet of another image: it acts as BEGIN, and its sender is the tree parent. -/
def openImage (s : State) (p : Packet) : State :=
  if s.syn.rxId = p.w4 then s
  else
    let fwd := bits p.w5.toNat 4 2
    let s := loaderBegin s
    setSyn s (fun y => { y with rxId := p.w4, rxParent := p.src, rxParts := [], rxTotal := msgFlits p, rxFwd := BitVec.ofNat 3 fwd,
                                children := childrenOf s fwd, isOrigin := false, reported := false, ownPending := false,
                                own := none })

/-- A DATA packet taken: its payload staged and forwarded; with the last flit the loader validates (R485, R487). -/
def dataTaken (s : State) (p : Packet) : State :=
  let s := openImage s p
  let o := partOfs p
  let s := b1Write s (stageBase + 64 * o) (p.payload.take (stageSize - 64 * o)) { kind := 8, index := 0, ctx := none }
  let s := if s.syn.isOrigin then s else sendData s p.w3.toNat p.w4.toNat (p.w5.toNat / 2 ^ 32) p.payload
  let s := setSyn s (fun y => { y with rxParts := y.rxParts.filter (fun e => e.1 ≠ o) ++ [(o, flits p)] })
  let s := accept s 32 p
  if msgFlits p ≤ s.syn.rxParts.foldl (fun n e => n + e.2) 0 ∧ s.hst.st = .staging then
    loaderValidate (setSyn (setHst s (fun h => { h with stageLen := BitVec.ofNat 32 (p.w5.toNat / 2 ^ 32) }))
      (fun y => { y with ownPending := !y.isOrigin }))
  else s

def imageDataIn (s : State) (p : Packet) : State :=
  imageRecv s p 0 (fun s =>
    if turnsAway s then sendAck (if stageBusy s then stageDrop s else s) 32 p 2 0 else dataTaken s p)

def execImageData (p : Packet) (s : State) : Host.Outcome State Fault Refusal :=
  .next (if frozen s then s else guarded s (imageDataIn s p))

/-- REPORT: of the present broadcast and of a child that has neither reported nor failed; others are ignored (R488). -/
def reportIn (s : State) (p : Packet) : State :=
  imageRecv s p 1 (fun s =>
    let s := accept s 32 p
    let mine := if s.syn.isOrigin then s.syn.bst = .sending && p.w4 = s.syn.sentId else p.w4 = s.syn.rxId
    if mine then
      takeReport s p.src (natAt p.payload 0 4, bitAt (natAt p.payload 6 1) 0, BitVec.ofNat 14 (natAt p.payload 4 2),
        BitVec.ofNat 8 (natAt p.payload 7 1))
    else s)

def execReport (p : Packet) (s : State) : Host.Outcome State Fault Refusal := .next (if frozen s then s else guarded s (reportIn s p))

/-- L: the stages set in FWD of the device's copies. -/
def bcastStages (s : State) : Nat :=
  [0, 1, 2].countP (fun i => s.syn.children.any (fun c => c.fwd.getLsbD i))

/-- REPORT_TIMEOUT: the clock reaches TIMEOUT_US × L µs after the device's last copy was acknowledged, and the child has not
reported (R488). -/
def reportTimeout (s : State) (c : BitVec 14) : State :=
  if s.syn.children.any (fun x => x.node = c && x.report.isNone) && s.syn.children.all (fun x => x.unacked = 0) then
    takeReport (advanceTo s (s.syn.copiesAt + s.syn.timeoutUs.toNat * bcastStages s * 1000)) c (0, true, c, 0xFE)
  else s

def execReportTimeout (child : BitVec 14) (s : State) : Host.Outcome State Fault Refusal :=
  .next (if frozen s then s else reportTimeout s child)

/-- An ARM packet: forwarded down the tree, then acted on (R490). -/
def imageArmIn (s : State) (p : Packet) : State :=
  imageRecv s p 2 (fun s =>
    let s := accept s 32 p
    let w := fun o n => natAt p.payload o n
    let s := if s.syn.isOrigin || s.syn.rxId ≠ p.w4 then s else sendArm s (w 0 8) (w 8 8) (w 16 8) (w 24 2)
    armAct s (BitVec.ofNat 64 (w 0 8)) (BitVec.ofNat 64 (w 8 8)) (BitVec.ofNat 64 (w 16 8)) (BitVec.ofNat 16 (w 24 2)))

def execImageArm (p : Packet) (s : State) : Host.Outcome State Fault Refusal :=
  .next (if frozen s then s else guarded s (imageArmIn s p))

end Sys2Proof.Machine
end

