-- ==== Sys2Proof/Machine/E2e.lean ====
section
/-!
DEFINITION. The end-to-end protocol at a source (12 R410-R417, R422): answers, notices, resends, WAIT retries and pennants,
and what each answer does for the block that injected the request; and the home units' memory requests (R412, R424-R427).
-/
namespace Sys2Proof.Machine

/-! ### What an answer completes -/

/-- A piece of an operation of a logical core answered: `f` writes what the answer brings into the core's registers. A core whose
context is saved or being restored takes it in its record (04 R129, 03 R104). -/
def coreAnswered (s : State) (c k id : Nat) (f : Core → Core) : State :=
  let st := (getCtx s c).st
  if st = .saved ∨ st = .restoring then
    mapSaved s c k (fun x =>
      let y := f x
      { y with ops := y.ops.map (fun o => if o.id = id then { o with pieces := o.pieces - 1 } else o) })
  else match (getCtx s c).bind.find? (fun e => e.1 = k) with
    | some e => pieceDone (setCore s e.2 (f (getCore s e.2))) e.2 id
    | none => s

/-- The answer to a merged request, split among its members; the entry stays for their resends (11 R384-R386). -/
def groupAnswered (s : State) (gid : Nat) (a : Packet) : State :=
  match s.yard.groups.find? (fun g => g.id = gid) with
  | none => s
  | some g =>
    let until_ := s.halyard + 4 * 1000 * max 1 s.fab.timeoutUs.toNat
    let s := { s with yard := { s.yard with groups := s.yard.groups.map (fun x =>
      if x.id = gid then { x with answer := some a, expiry := until_ } else x) } }
    (memberAnswers s g a).foldl (fun s p => inject s 33 p) s

/-- An ACK completes a request: OK with an atomic's old value, or CONTEXT_GONE without error (R412, R422). -/
def completeAck (s : State) (e : SendEnt) (a : Packet) : State :=
  let c := e.pkt.ctx.toNat
  match e.owner with
  | .movHR k op _ => coreAnswered s c k.val op id
  | .movHW k op => coreAnswered s c k.val op id
  | .atom k op sr => coreAnswered s c k.val op (fun x => if a.status = 0 then setS x sr a.w4 else x)
  | .trw t m => enginesGoOn (trwAnswered s t.val m)
  | .coll d g q m => enginesGoOn (collAnswered s d.val g q m)
  | .tir x => answerXfer s x true none
  | .b2 k op => coreAnswered s c k.val op id
  | .bcast n => bcastAcked s n
  | .cmb g => groupAnswered s g a
  | .dead .. => s

/-- A LOAD_RESP completes a load (R422). -/
def completeLoad (s : State) (e : SendEnt) (a : Packet) : State :=
  let c := e.pkt.ctx.toNat
  match e.owner with
  | .movHR k op b0 => coreAnswered (b0Write s c k.val b0 a.payload) c k.val op id
  | .tir x => answerXfer s x true (some a.payload)
  | .b2 k op => coreAnswered s c k.val op id
  | .cmb g => groupAnswered s g a
  | _ => s

/-- What the injecting block does with a failed request (R414). -/
def failOwner (s : State) (e : SendEnt) : State :=
  let c := e.pkt.ctx.toNat
  match e.owner with
  | .movHR k _ _ => coreFabric s c k.val
  | .movHW k _ => coreFabric s c k.val
  | .atom k _ _ => coreFabric s c k.val
  | .trw t _ => trwFault s t.val c fFabric
  | .coll d g q _ => collLost s d.val g q
  | .tir x => answerXfer s x false none
  | .b2 k _ => coreFabric s c k.val
  | .bcast n => bcastLost s n
  | .cmb g => { s with yard := { s.yard with groups := s.yard.groups.filter (fun x => x.id ≠ g) } }
  | .dead .. => s

/-- An entry leaves the send table. -/
def dropEnt (s : State) (e : SendEnt) : State := { s with fab := { s.fab with table := s.fab.table.erase e } }

/-- An entry changed. -/
def setEnt (s : State) (e f : SendEnt) : State :=
  { s with fab := { s.fab with table := s.fab.table.map (fun x => if x = e then f else x) } }

/-- UNREACHABLE: the request fails (R414). -/
def failEnt (s : State) (e : SendEnt) (cause : Nat) : State :=
  let c := e.pkt.ctx
  let (kind, index) := ownerKind s c.toNat e.owner
  let ctx := if kind = 8 ∨ kind = 10 then none else some (ctxFin c.toNat)
  let s := unreachableEvent (dropEnt s e) ctx e.pkt.dest.toNat cause kind index e.pkt.psn.toNat
  drainHeld (failOwner s e)

/-! ### ACK, NOTICE, LOAD_RESP -/

/-- The unacknowledged request that an answer matches (R412). -/
def matchEnt (s : State) (p : Packet) : Option SendEnt :=
  s.fab.table.find? (fun e => e.pkt.dest = p.src && e.pkt.psn = p.psn && e.pkt.session.toNat % 2 ^ 32 = p.session.toNat % 2 ^ 32)

/-- An answer to nothing is counted and ignored. -/
def lateAck (s : State) : State := { s with fab := { s.fab with lateAcks := inc32 s.fab.lateAcks 1 } }

/-- An answer is accepted. -/
def countAck (s : State) : State := { s with fab := { s.fab with acks := inc64 s.fab.acks 1 } }

/-- Counts until a request answered WAIT is sent again: WAIT_RETRY units of 16 ns. -/
def waitCounts (s : State) : Nat := 16 * max 1 s.fab.waitRetry.toNat

/-- What an ACK does at its source (R412, R413). -/
def ackTaken (s : State) (p : Packet) : State :=
  match matchEnt s p with
  | none => lateAck s
  | some e =>
    match p.status.toNat with
    | 0 => drainHeld (completeAck (dropEnt (countAck s) e) e p)
    | 1 =>
      let s := countAck s
      drainHeld (completeAck (dropEnt { s with fab := { s.fab with goneAcks := inc32 s.fab.goneAcks 1 } } e) e p)
    | 2 | 3 =>
      match e.owner with
      | .cmb g => drainHeld (groupAnswered (dropEnt (countAck s) e) g p)
      | _ => failEnt (countAck s) e p.status.toNat
    | 4 => setEnt (countAck s) e { e with waitAns := true, due := s.halyard + waitCounts s }
    | _ => lateAck s

/-- A control or response packet received at its destination: its CRC is checked, a reserved OP counted (R402, R404). -/
def answerRecv (s : State) (p : Packet) (act : State → State) : State :=
  if p.dest.toNat ≠ node s then s
  else match takeDelivery s p with
    | none => crcDrop s p
    | some t => if badOp p then { t with fab := { t.fab with badPackets := inc32 t.fab.badPackets 1 } } else act t

def ackIn (s : State) (p : Packet) : State :=
  if (!p.long && p.op = 1) || badOp p then answerRecv s p (fun s => ackTaken s p) else s

def execAck (p : Packet) (s : State) : Host.Outcome State Fault Refusal := .next (if frozen s then s else guarded s (ackIn s p))

/-- NOTICE: its request raises UNREACHABLE with the notice's cause (R412, R419). -/
def noticeIn (s : State) (p : Packet) : State :=
  if !p.long && p.op = 2 then
    answerRecv s p (fun s => match matchEnt s p with
      | none => lateAck s
      | some e => failEnt s e p.status.toNat)
  else s

def execNotice (p : Packet) (s : State) : Host.Outcome State Fault Refusal :=
  .next (if frozen s then s else guarded s (noticeIn s p))

/-- LOAD_RESP: the first answer to a LOAD (R416, R422). -/
def loadRespIn (s : State) (p : Packet) : State :=
  if p.long && p.op = 4 then
    answerRecv s p (fun s => match matchEnt s p with
      | none => lateAck s
      | some e => if e.pkt.op = 2 then drainHeld (completeLoad (dropEnt (countAck s) e) e p) else lateAck s)
  else s

def execLoadResp (p : Packet) (s : State) : Host.Outcome State Fault Refusal :=
  .next (if frozen s then s else guarded s (loadRespIn s p))

/-! ### Timeouts, retries, pennants (R413, R417) -/

/-- The port of the block that injected a request. -/
def entPort (s : State) (e : SendEnt) : Nat :=
  match e.owner with
  | .movHR k _ _ | .movHW k _ | .atom k _ _ | .b2 k _ => (physIn s e.pkt.ctx.toNat k.val).getD 0 / 64
  | .trw t _ => t.val
  | .coll d _ _ _ => d.val
  | .cmb _ => 33
  | .tir _ | .bcast _ => 32
  | .dead k i => if k = 0 then i / 64 else if k = 2 ∨ k = 3 then i % 8 else 32

/-- A request sent again with its PSN: no regulator is charged, and its timer runs from its entry into the Yard (R411, R413). -/
def sendAgain (s : State) (e f : SendEnt) : State := inject (setEnt s e { f with due := 0 }) (entPort s e) e.pkt

/-- E2E_TIMEOUT: the clock reaches the end of a request's timeout: it is sent again, or after the third resend it fails with
cause TIMEOUT. -/
def e2eTimeout (s : State) (dest : BitVec 14) (psn : W32) : State :=
  match findEnt s dest psn with
  | none => s
  | some e =>
    if e.waitAns || e.due = 0 then s
    else
      let s := advanceTo s e.due
      if e.resends < 3 then
        sendAgain { s with fab := { s.fab with resends := inc64 s.fab.resends 1 } } e { e with resends := e.resends + 1 }
      else failEnt s e 0xFF

def execE2eTimeout (dest : BitVec 14) (psn : W32) (s : State) : Host.Outcome State Fault Refusal :=
  .next (if frozen s then s else guarded s (e2eTimeout s dest psn))

/-- WAIT_RETRY: the clock reaches the retry of a request answered WAIT; its resends and timeout start afresh. -/
def waitRetryDue (s : State) (dest : BitVec 14) (psn : W32) : State :=
  match findEnt s dest psn with
  | none => s
  | some e =>
    if e.waitAns then
      let s := advanceTo s e.due
      sendAgain { s with fab := { s.fab with waits := inc64 s.fab.waits 1 } } e { e with waitAns := false, resends := 0 }
    else s

def execWaitRetry (dest : BitVec 14) (psn : W32) (s : State) : Host.Outcome State Fault Refusal :=
  .next (if frozen s then s else waitRetryDue s dest psn)

/-- One held request of a destination tried: a pennant request enters when every earlier one is acknowledged. -/
def tryPennant (dest : BitVec 14) (s : State) (h : Held) : State :=
  if h.pkt.dest = dest && h.pkt.pennant && sendAllowed s h && pennantFree s h then
    enterTable { s with fab := { s.fab with held := s.fab.held.erase h } } h
  else s

/-- PENNANT_RELEASE (R417). -/
def pennantRelease (s : State) (dest : BitVec 14) : State := s.fab.held.foldl (tryPennant dest) s

def execPennantRelease (dest : BitVec 14) (s : State) : Host.Outcome State Fault Refusal :=
  .next (if frozen s then s else pennantRelease s dest)

/-! ### Memory requests at the home (R412, R424-R427) -/

/-- A memory request received. -/
def memRecv (s : State) (p : Packet) (op : Nat) (dup : State → State) (act : State → Option State) : State :=
  if p.long && p.op = BitVec.ofNat 5 op then recv s p dup act else s

/-- A request turned away with a status; one to the window of a context that is gone is counted (R427, 03 R111). -/
def turnAway (s : State) (p : Packet) (status : Nat) : State :=
  let s := match (if status = 1 then findWindow s (memOfs p) (memLen p) else none) with
    | some h => let x := getCtx s h.ctx.val; setCtx s h.ctx.val { x with droppedIn := inc64 x.droppedIn 1 }
    | none => s
  sendAck s (herePort s p) p status 0

/-- The window is a collective doorbell (13 R436). -/
def doorbell (s : State) (p : Packet) : Option Nat :=
  match findWindow s (memOfs p) (memLen p) with
  | some h => if h.region = 0xFFFE then some h.ctx.val else none
  | none => none

/-- The descriptors of a doorbell store taken, all or none: a full queue holds the store (13 R436). -/
def takeDescs (s : State) (c : Nat) : List (List Byte) → Option State
  | [] => some s
  | b :: r => match collTake s c b with
    | some s => takeDescs s c r
    | none => none

/-- STORE applied by the home unit. -/
def applyStore (s : State) (p : Packet) : Option State :=
  match memTarget s p with
  | .error st => some (turnAway s p st)
  | .ok x =>
    if settleHolds s (memOfs p) (memLen p) then none
    else
      let s := match doorbell s p with
        | some c => takeDescs s c (cut 64 p.payload)
        | none => some s
      s.map (fun s => accept (takeHome (homeWrite s x p.payload) 1) (herePort s p) p)

def execStore (p : Packet) (s : State) : Host.Outcome State Fault Refusal :=
  .next (if frozen s then s else guarded s (memRecv s p 1 (fun s => sendAck s (herePort s p) p 0 0) (fun s => applyStore s p)))

/-- The LOAD_RESP of a load (R426). -/
def loadAnswer (s : State) (p : Packet) (d : List Byte) : State :=
  inject s (herePort s p) (withCrc { pkt0 with dest := p.src, src := BitVec.ofNat 14 (node s), vc := 5, op := 4, ctx := p.ctx,
                                               psn := p.psn, session := p.session, payload := d })

/-- LOAD served by the home unit: the bytes in one LOAD_RESP. -/
def applyLoad (s : State) (p : Packet) (fresh : Bool) : State :=
  match memTarget s p with
  | .error st => turnAway s p st
  | .ok x =>
    match homeRead s x (memLen p) with
    | (d, s) =>
      let s := if fresh then recordPsn s p none else s
      loadAnswer (takeHome s 1) p d

def execLoad (p : Packet) (s : State) : Host.Outcome State Fault Refusal :=
  .next (if frozen s then s
    else guarded s (memRecv s p 2 (fun s => applyLoad s p false) (fun s => some (applyLoad s p true))))

/-- ATOMIC applied by the home unit: the 8 bytes take their new value, the ACK carries the old one (R426). -/
def applyAtomic (s : State) (p : Packet) : Option State :=
  match memTarget s p with
  | .error st => some (turnAway s p st)
  | .ok x =>
    if settleHolds s (memOfs p) 8 then none
    else match homeRead s x 8 with
      | (d, s) =>
        let old := natOf d
        let s := homeWrite s x (bytesOf 8 (atomNew (memAtop p) old p.w4.toNat p.w5.toNat))
        some (sendAck (recordPsn (takeHome s 1) p (some (BitVec.ofNat 64 old))) (herePort s p) p 0 old)

/-- The old value kept for a duplicate atomic (R415, R416). -/
def storedOld (s : State) (p : Packet) : Nat :=
  (((getDelivery s p.src.toNat).olds.find? (fun e => e.1 = p.psn.toNat)).map (fun e => e.2.toNat)).getD 0

def execAtomic (p : Packet) (s : State) : Host.Outcome State Fault Refusal :=
  .next (if frozen s then s
    else guarded s (memRecv s p 3 (fun s => sendAck s (herePort s p) p 0 (storedOld s p)) (fun s => applyAtomic s p)))

/-! ### Buffers served (09 R332) -/

/-- ALLOCATION_SERVED: the request that waits longest on a pool is served, once enough buffers are free. -/
def allocationServed (s : State) (p : Nat) : State :=
  let refs := match (getPool s p).waiters with
    | (.tramway t i, _) :: _ => trwRefs s t.val i
    | _ => 1
  match poolServe s p refs with
  | some (.riddle e, l, s) => riddleBuffer s e.val p (l.headD 0)
  | some (.tramway t i, l, s) => trwGive s t.val i p l
  | some (.coll d i, l, s) => collGive s d.val i p l
  | none => s

def execAllocationServed (p : Fin 16) (s : State) : Host.Outcome State Fault Refusal :=
  .next (if frozen s then s else guarded s (allocationServed s p.val))

end Sys2Proof.Machine
end

