-- ==== Sys2Proof/Machine/Sync.lean ====
section
/-!
DEFINITION. The Halyard (14 R476-R483): its states, the measurement of its parent, slewing and holdover; and the Dip
(R497, R498).
-/
namespace Sys2Proof.Machine

/-! ### States (R477, R481) -/

/-- A state as HALYARD and SYN_ show it. -/
def halNum : HalState → Nat
  | .free => 0 | .acquiring => 1 | .locked => 2 | .holdover => 3

/-- The parent adit is up, its delay known, and its partner's Halyard locked. -/
def parentUp (s : State) : Bool :=
  let a := getAdit s s.syn.parentAdit.toNat
  s.syn.parentEn && decide (s.syn.parentAdit.toNat < 24) && a.st = .up && a.delayValid && a.partnerTime

/-- SYNC is over once the Halyard has been locked (16 R545). -/
def stageReady (s : State) : State :=
  if s.pwr.stage = .sync && locked s then { s with pwr := { s.pwr with stage := .ready } } else s

/-- The Halyard moves to another state: the event is posted, a lost lock refuses an armed commit (R477, 15 R527, 02 R75). -/
def halSet (s : State) (h : HalState) : State :=
  if s.syn.st = h then s
  else
    let s := setSyn s (fun y => { y with
      st := h
      lockLosses := if y.st = .locked then inc32 y.lockLosses 1 else y.lockLosses
      everLocked := y.everLocked || h = .locked
      holdAt := if h = .holdover then s.halyard else y.holdAt
      frames := if h = .acquiring then 0 else y.frames })
    let s := stageReady (post s evHalyard none (halNum h) 0)
    if locked s then s else loaderUnlock s

/-- What the parent's condition makes of the present state; a root has no parent. -/
def halCheck (s : State) : State :=
  if s.syn.root then s
  else match s.syn.st with
    | .free => if parentUp s then halSet s .acquiring else s
    | .acquiring => if parentUp s then s else halSet s .free
    | .locked => if parentUp s then s else halSet s .holdover
    | .holdover => if parentUp s then halSet s .acquiring else s

/-- A write of ROOT, PARENT_ADIT and PARENT_EN (R477). -/
def parentWrite (s : State) (root : Bool) (a : BitVec 5) (en : Bool) : State :=
  let old := s.syn
  let s := setSyn s (fun y => { y with root := root, parentAdit := a, parentEn := en })
  match old.st with
  | .free => if root then halSet s .locked else halCheck s
  | .acquiring => halCheck s
  | .locked => if root then s else if old.root then halSet s .holdover else halSet s .acquiring
  | .holdover => halCheck s

def execParentAdit (root : Bool) (adit : BitVec 5) (en : Bool) (s : State) : Host.Outcome State Fault Refusal :=
  .next (if mainUp s then parentWrite s root adit en else s)

/-- HOLDOVER_EXPIRY: 1,000,000 counts after its entry HOLDOVER ends in FREE; a root is LOCKED again from there. -/
def holdoverExpiry (s : State) : State :=
  if s.syn.st = .holdover then
    let s := halSet (advanceTo s (s.syn.holdAt + 1000000)) .free
    if s.syn.root then halSet s .locked else halCheck s
  else s

def execHoldoverExpiry (s : State) : Host.Outcome State Fault Refusal := .next (if mainUp s then holdoverExpiry s else s)

/-! ### Slewing (R478) -/

/-- One ns in which the count advances by 2, or holds. -/
def slew (s : State) (advance : Bool) : State :=
  let lk := decide (s.syn.st = .locked)
  let s := elapse 1 s
  let h := if advance then (s.halyard + 1) % 2 ^ 64 else (s.halyard + 2 ^ 64 - 1) % 2 ^ 64
  setSyn { s with halyard := h } (fun y => { y with
    slews := inc64 y.slews 1
    lastSlew := s.ns
    recent := if lk then ((s.ns, if advance then 1 else -1) :: y.recent).filter (fun e => decide (s.ns < e.1 + 10000000))
              else y.recent })

/-- ERROR: the mean of the last 256 measured errors in 1/16 ns. -/
def halError (s : State) : Int :=
  match s.syn.errs with
  | [] => 0
  | l => l.foldl (· + ·) 0 / l.length

/-- A frame of the parent adit measured while ACQUIRING or LOCKED: the one-time set of a device that was never locked, a slew
otherwise; then the state (R478). -/
def parentFrame (s : State) (a : Nat) (time : W64) : State :=
  if s.syn.root || s.syn.parentAdit.toNat ≠ a || !parentUp s || !(s.syn.st = .acquiring || s.syn.st = .locked) then s
  else
    let d := (getAdit s a).delay.toNat
    let e : Int := 16 * (s.halyard : Int) - (16 * (time.toNat : Int) + d)
    let s := setSyn s (fun y => { y with errs := (e :: y.errs).take 256, frames := y.frames + 1 })
    let m := halError s
    let s := setSyn s (fun y => { y with error := BitVec.ofInt 16 m })
    let s :=
      if !s.syn.everLocked then
        if s.syn.frames = 256 ∧ s.syn.setOnce = false then
          setSyn { s with halyard := (time.toNat + d / 16) % 2 ^ 64 } (fun y => { y with setOnce := true })
        else s
      else if s.ns < s.syn.lastSlew + (if s.syn.st = .locked then 2000 else 1000) then s
      else if 8 < m then slew s false
      else if m < -8 then slew s true
      else s
    match s.syn.st with
    | .acquiring => if -8 ≤ m ∧ m ≤ 8 then halSet s .locked else s
    | .locked => if -32 ≤ m ∧ m ≤ 32 then s else halSet s .acquiring
    | _ => s

/-- The net slews of the 10 ms before HOLDOVER. -/
def holdRate (s : State) : Int := s.syn.recent.foldl (fun t e => t + e.2) 0

/-- HOLDOVER_SLEW: at the kept rate, spread evenly: the next slew falls 10 ms over the net slews after the one before. -/
def holdoverSlew (s : State) (advance : Bool) : State :=
  let r := holdRate s
  if s.syn.st = .holdover ∧ ((0 < r ∧ advance = true) ∨ (r < 0 ∧ advance = false)) then
    slew (advanceNs s (s.syn.lastSlew + 10000000 / r.natAbs - 1)) advance
  else s

def execHoldoverSlew (advance : Bool) (s : State) : Host.Outcome State Fault Refusal :=
  .next (if mainUp s then holdoverSlew s advance else s)

/-! ### The Dip (R497, R498) -/

def execDipReq (burgee : Bool) (s : State) : Host.Outcome State Fault Refusal :=
  .next (if mainUp s then requestDip s (if burgee then 2 else 1) else s)

def execFirmwareDipRequest (s : State) : Host.Outcome State Fault Refusal := .next (if mainUp s then requestDip s 5 else s)

/-- A write of AT_EN or SYN_DIP_AT: a count whose core cycle is fewer than 64 core cycles away makes an immediate request
(R497). -/
def dipSchedule (s : State) : State :=
  if !s.syn.atEn then setSyn s (fun y => { y with atArmed := false })
  else if s.syn.dipAt.toNat < s.halyard + 27 then requestDip (setSyn s (fun y => { y with atArmed := false })) 3
  else setSyn s (fun y => { y with atArmed := true })

/-- SYN_DIP_AT: the Halyard reaches the scheduled count; the cut falls in the first core cycle from there. -/
def synDipAt (s : State) : State :=
  if s.syn.atArmed then
    let s := setSyn (advanceTo s s.syn.dipAt.toNat) (fun y => { y with atArmed := false })
    if s.syn.dipSt = .running then
      setSyn s (fun y => { y with dipSt := .pending, dipSrc := 3, dipCutNs := s.ns })
    else setSyn s (fun y => { y with dipIgnored := inc32 y.dipIgnored 1 })
  else s

def execSynDipAt (s : State) : Host.Outcome State Fault Refusal := .next (if mainUp s then synDipAt s else s)

/-- A unit is present: an enabled core, an engine or a controller. -/
def unitPresent (s : State) (u : Nat) : Bool := 512 ≤ u || coreEnabled s u

/-- The Dip's stop at a unit's face (01 R34): a unit that is FAULTED stays so, a controller stays IDLE (10 R364). -/
def dipFace (u : Nat) (f : Face) : Face :=
  { f with stopIn := true, stopSrc := 2, cnt := mput 0 f.cnt 3 (inc64 (mget 0 f.cnt 3) 1),
           st := if f.st = .faulted ∨ 552 ≤ u then f.st else .stopped }

/-- The Dip's stop at every unit. -/
def dipStop (s : State) : State :=
  { s with faces := (List.range 584).filterMap (fun u =>
      let f := getFace s u
      if unitPresent s u then some (u, dipFace u f) else if f = {} then none else some (u, f)) }

/-- DIP_CUT: the cut cycle of a pending Dip: every block freezes, adit captures begin, and DIP is posted. -/
def dipCut (s : State) : State :=
  if s.syn.dipSt = .pending then
    let s := advanceNs s s.syn.dipCutNs
    let s := setSyn (dipStop s) (fun y => { y with dipSt := .dipped, dipCount := BitVec.ofNat 64 s.halyard })
    let s := { s with adits := mmap {} (fun _ a => { a with capture := [], afterCut := [] }) s.adits }
    post s evDip none s.syn.dipSrc.toNat s.halyard
  else s

def execDipCut (s : State) : Host.Outcome State Fault Refusal := .next (if mainUp s then dipCut s else s)

end Sys2Proof.Machine
end

