-- ==== Sys2Proof/Machine/Debug.lean ====
section
/-!
DEFINITION. Counters and samples (14 R492-R495), and the view of a gang (01 R33).
-/
namespace Sys2Proof.Machine

/-! ### Gang views (01 R33) -/

/-- The units of this node beneath gang `g`, as its view binds cores; a unit beneath it by several paths is there once for
each, as the sums of R33 over direct members count it. -/
def viewUnits (s : State) (g : Nat) : List Nat := (leaves s g).filterMap (unitOfView s (viewCtx s g))

/-- A counter of a gang: the sum over the units beneath it. -/
def gangCount (s : State) (g i : Nat) : W64 := (viewUnits s g).foldl (fun t u => t + mget 0 (getFace s u).cnt i) 0

/-! ### Resets (R492) -/

/-- Units of a kind of CR_KIND: its first code and how many there are. -/
def kindBase (k : Nat) : Nat := if k = 0 then 0 else if k = 1 then 512 else if k = 2 then 544 else 552
def kindCount (k : Nat) : Nat := if k = 0 then 512 else if k = 2 then 8 else 32

/-- DBG_CNT_RESET: the counters of the mask of one unit, or of every unit of a kind. -/
def cntReset (s : State) (v : W64) : State :=
  let k := bits v.toNat 2 0
  let i := bits v.toNat 11 3
  let m := BitVec.ofNat 32 (v.toNat / 2 ^ 32)
  if 4 ≤ k then s
  else if bitAt v.toNat 12 then (List.range (kindCount k)).foldl (fun s j => resetCounters s (kindBase k + j) m) s
  else if i < kindCount k then resetCounters s (kindBase k + i) m
  else s

def execDbgCntReset (v : W64) (s : State) : Host.Outcome State Fault Refusal := .next (if mainUp s then cntReset s v else s)

/-! ### Sample sets (R493-R495) -/

def getSet (s : State) (j : Nat) : SampleSet := mget {} s.dbg.sets j
def putSet (s : State) (j : Nat) (x : SampleSet) : State := { s with dbg := { s.dbg with sets := mput {} s.dbg.sets j x } }

/-- A firing: its strobe falls 64 core cycles (26 whole ns) later. -/
def fireSet (s : State) (j : Nat) : State :=
  putSet s j { getSet s j with strobeAt := s.ns + 27, lastFire := s.halyard + 1 }

/-- SAMPLE_FIRE: at the next multiple of the set's period, or at the tick boundary just reached. -/
def sampleFire (s : State) (j : Nat) : State :=
  let x := getSet s j
  if !x.en then s
  else if x.trig then
    if s.tick.period ≠ 0 ∧ s.halyard = s.tick.last ∧ x.lastFire ≠ s.halyard + 1 then fireSet s j else s
  else
    let m := 1000 * max 1 x.period.toNat
    let t := if s.halyard % m = 0 ∧ x.lastFire ≠ s.halyard + 1 then s.halyard else nextMultiple s m
    fireSet (advanceTo s t) j

def execSampleFire (j : Fin 16) (s : State) : Host.Outcome State Fault Refusal :=
  .next (if frozen s || !mainUp s then s else sampleFire s j.val)

/-- The units of a set's target. -/
def setUnits (s : State) (x : SampleSet) : List Nat :=
  let i := x.tindex.toNat
  match x.tkind.toNat with
  | 0 => viewUnits s i
  | 1 => if i < 512 then [i] else []
  | 2 => if i < 32 then [512 + i] else []
  | 3 => if i < 8 then [544 + i] else []
  | 4 => if i < 32 then [552 + i] else []
  | _ => []

/-- A reset of a counter of a unit in the present ns, and the counter's value before it (R494). -/
def coinReset (s : State) (u i : Nat) : Option W64 :=
  (s.dbg.resets.find? (fun r => r.1 = u && r.2.1.getLsbD i && r.2.2.1 = s.ns)).map (fun r =>
    ((r.2.2.2.find? (fun e => e.1 = i)).map (·.2)).getD 0)

/-- The record of one counter (R494, R495). -/
def sampleRecord (s : State) (j i : Nat) (x : SampleSet) : List Byte :=
  let us := setUnits s x
  let v := us.foldl (fun (t : W64) u => t + ((coinReset s u i).getD (mget 0 (getFace s u).cnt i))) 0
  let coin := us.any (fun u => (coinReset s u i).isSome)
  bytesOf 8 s.halyard ++ bytesOf 8 v.toNat ++
  bytesOf 8 (j + 16 * x.tkind.toNat + 128 * x.tindex.toNat + 2 ^ 19 * i + 2 ^ 24 * b2n coin) ++ bytesOf 8 s.dbg.strobes.toNat

/-- STROBE: every counter of the mask is read in one core cycle. -/
def strobe (s : State) (j : Nat) : State :=
  let x := getSet s j
  if x.strobeAt = 0 then s
  else
    let s := advanceNs s (x.strobeAt - 1)
    let rs := ((List.range 32).filter (fun i => x.mask.getLsbD i)).map (fun i => sampleRecord s j i x)
    let s := putSet s j { getSet s j with strobeAt := 0 }
    rs.foldl sampPut { s with dbg := { s.dbg with strobes := inc64 s.dbg.strobes 1 } }

def execStrobe (j : Fin 16) (s : State) : Host.Outcome State Fault Refusal :=
  .next (if frozen s || !mainUp s then s else guarded s (strobe s j.val))

end Sys2Proof.Machine
end

