-- ==== Sys2Proof/Machine/Commit.lean ====
section
/-!
DEFINITION. The ends of a validation and of an installation (02 R72, R76, R81): what a full commit replaces, clears and starts.
-/
namespace Sys2Proof.Machine

/-- VALIDATION_COMPLETE: the first failed check, or VALID (R72, R81); a broadcast image's end is reported (14 R488). -/
def validationComplete (s : State) : State :=
  if s.hst.st ≠ .validating then s
  else match stagedImage s with
    | (img, s) =>
      let err := imageErr s img
      let s := setHst s (fun h => { h with stagedKind := bitAt (natAt img 6 1) 0, image := img })
      if err = 0 then bcastValidated (setHst s (fun h => { h with st := .valid, err := 0 })) true 0
      else bcastValidated (refuse s err) false (BitVec.ofNat 8 err)

def execValidationComplete (s : State) : Host.Outcome State Fault Refusal :=
  .next (if frozen s then s else guarded s (validationComplete s))

/-- A unit at a full commit: IDLE, its stop deasserted and FAULT zero, whatever state it held (01 R35); it accepts no command. -/
def idleAtCommit (s : State) (u : Nat) : State :=
  let f := getFace s u
  if 552 ≤ u then setFace s u { f with stopIn := false }
  else setFace s u { f with stopIn := false, st := .idle, fault := 0, owner := none, arrived := false }

/-- Every unit of the device returns to IDLE (R76, 01 R35). -/
def releaseAll (s : State) : State :=
  ((List.range 584).filter (fun u => decide (512 ≤ u) || coreEnabled s u)).foldl idleAtCommit s

/-- Contexts after a full commit: DECLARED where the image has a record, ABSENT otherwise; every frame is discarded (03 R99),
digests and NDC are zero (14 R469, R471). -/
def commitCtxs (s : State) : State :=
  let s := (List.range 16).foldl (fun s c =>
    let x := getCtx s c
    let s := match ctxRec s c with
      | some r => setCtx s c { x with st := .declared, lc := r.lc, part := BitVec.ofNat 4 r.part, blocked := false, bind := [],
                                      stepOn := false, ending := false, settling := false, settleByCmd := false }
      | none => setCtx s c { x with st := .absent, lc := false, part := 0, blocked := false, bind := [], stepOn := false,
                                    ending := false, settling := false, settleByCmd := false }
    frameZero (digestClear s c) c) s
  { s with saved := [] }

/-- Work of the engines of the image before is dropped. -/
def commitEngines (s : State) : State :=
  { s with
    cores := []
    riddles := mmap {} (fun _ r => { r with op := none, ended := true, phase := .idle, lr := none, lane := [] }) s.riddles
    tramways := mmap {} (fun _ w => { w with ended := true, phase := .idle, queue := [], recs := [], tabs := [], op := none,
                                             held := [], toks := [], out := [], wants := [], census := [], staleSeen := [],
                                             parked := [] }) s.tramways
    colls := mmap {} (fun _ d => { d with queue := [], ops := [], early := [], last := [] }) s.colls
    cgroups := []
    gangs := [] }

/-- The end-to-end protocol at a full commit: the send table is discarded without UNREACHABLE, every sequence starts at 0 in the
new session (12 R415). -/
def commitFabric (s : State) : State :=
  { s with
    fab := { s.fab with session := BitVec.ofNat 64 s.hst.committedAt, table := [], held := [], nextPsn := [], msgs := [] }
    yard := { s.yard with
      grants := []
      filters := mmap {} (fun _ f => { f with matches_ := 0 }) s.yard.filters
      high := (List.range 34).foldl (fun m q => (List.range 6).foldl (fun m v =>
        mput 0 m (q * 8 + v) (BitVec.ofNat 32 (occ s q v))) m) [] } }

/-- The Riddle starts with no history (07 R246, R250). -/
def commitRiddle (s : State) : State :=
  { b1Zero s rdlBase (96 * 2 ^ 20) with rdl := { s.rdl with areaCfgs := BitVec.ofNat 16 (areaCfgs s).length } }

/-- Tick boundaries under the new mode word: with no period in force they are its multiples from here on (03 R86). -/
def commitTicks (s : State) : State :=
  let s := { s with tick := { s.tick with slots := [] } }
  if s.tick.period ≠ 0 then s
  else
    let p := periodUs s (levelNow s)
    { s with tick := { s.tick with period := p, level := levelNow s, next := multipleAt s.halyard (1000 * p) } }

/-- INSTALL_COMPLETE: every table, program store and gang is replaced and the loader enters COMMITTED (R76). The loader reads the
staging area once more; the bytes committed are those it validated (R74). -/
def installComplete (s : State) : State :=
  if s.hst.st ≠ .installing then s
  else match stagedImage s with
    | (_, s) =>
      let img := s.hst.image
      let id := (imgHdr img).id
      let s := releaseAll s
      let s := commitEngines (commitCtxs { s with tab := parseFull (node s) img })
      let s := commitRiddle (tirCommit s)
      let s := commitFabric (fillBuckets s)
      let s := commitTicks s
      let s := setHst s (fun h => { h with st := .committed, activeId := BitVec.ofNat 64 id, activeLevel := 1, reloadId := 0 })
      let s := measSet (measStart s 4 (shake256 img 64)) 5 (List.replicate 64 0)
      agreedLaunch (imageEvent s id false s.hst.err.toNat true) id

def execInstallComplete (s : State) : Host.Outcome State Fault Refusal :=
  .next (if frozen s then s else guarded s (installComplete s))

end Sys2Proof.Machine
end

