-- ==== Sys2Proof/Machine/Hbm.lean ====
section
/-!
DEFINITION. The HBM controllers (10): accesses of the narrow path and of long bursts, lane marks, temperature and refresh,
training, test, repair and the test station's shifts and bursts. A controller acts whenever its domain is powered, in the
stage FAILED too (R357).
-/
namespace Sys2Proof.Machine

/-- Local bytes of a stack: 24 GiB (R339). -/
def stackSize : Nat := 0x600000000
/-- The first local address of the training area: the top 1 MiB (R340). -/
def trainBase : Nat := stackSize - 0x100000

/-- The HBM domain is powered. -/
def hbmOn (s : State) : Bool := s.pwr.stage ≠ .off

/-- The Bench 1 offset of a place: that of the interleave, or of the frame area's permutation (R340). -/
def offsetOfPlace (s : State) (k : Nat) : Nat :=
  let l := k % stackShift
  let st := k / stackShift
  if l < 16 * frameLocal then
    let c := l / frameLocal
    let r := l % frameLocal
    if 0x2C00000 ≤ r then c * frameSize + st * 4096 + r % 4096
    else
      let ns := (List.range 512).filter (fun n => coreDie s.bench1 c n = st / 4)
      let q := r % 0xB0000
      c * frameSize + 0x10000 + ns.getD (r / 0xB0000) 0 * 0x2C0000 + q / 4096 * 16384 + st % 4 * 4096 + q % 4096
  else offsetOf k

/-- The context of the operation that makes an access: that of the requesting unit (15 R527). -/
def reqCtx (s : State) (r : Requester) : Option Nat :=
  let i := r.index.toNat
  match r.kind.toNat with
  | 0 => (ownerOf s i).map (·.val)
  | 1 => (ownerOf s (512 + i)).map (·.val)
  | 2 => (ownerOf s (544 + i)).map (·.val)
  | _ => none

def toReq (s : State) (r : Requester) : Req := { kind := r.kind.toNat, index := r.index.toNat, ctx := reqCtx s r }

def errList (l : List SymErr) : List (Nat × Byte) := l.map (fun e => (e.lane.val, e.x))

/-- An access of an agent reaches stack `n` (R359): in SERVICE it acts; in TEST, RETRAIN and FAILED it completes at once and
is counted; otherwise nothing is served. In the Dip only accesses from Dragiper Link act (R364). -/
def reach (s : State) (n : Nat) (r : Requester) (act : State → State) : State :=
  if frozen s && r.kind ≠ 6 then s
  else match (getHbm s n).st with
    | .service => act s
    | .test | .retrain | .failed => bump s (552 + n) 15 1
    | _ => s

/-- Lines of the host window that a device agent's access needs snooped; the companion's own need none. -/
def reqSnoop (s : State) (n loc len : Nat) (wr : Bool) (r : Requester) : State :=
  if r.kind = 6 then s else snoopNeed s (offsetOfPlace s (key n loc)) len wr

/-! ### The two paths (R347-R350) -/

/-- One codeword on the narrow path. -/
def narrow (s : State) (n loc : Nat) (mask : BitVec 32) (data : List Byte) (errs : List SymErr) (r : Requester) : State :=
  let q := toReq s r
  if mask = 0 then
    let s := chargeHbm (bump (reqSnoop s n loc 32 false r) (552 + n) 4 1) q.ctx 32
    (cwRead s n loc (errList errs) q).2.2
  else
    let s := chargeHbm (bump (reqSnoop s n loc 32 true r) (552 + n) 5 1) q.ctx 32
    cwModify s n loc (padTo 32 (data.take 32)) (fun i => mask.getLsbD i) (errList errs) q

def execNarrowPath (n : Fin 32) (addr : BitVec 48) (mask : BitVec 32) (data : List Byte) (errs : List SymErr)
    (req : Requester) (s : State) : Host.Outcome State Fault Refusal :=
  let loc := addr.toNat / 32 * 32
  .next (if !hbmOn s || decide (trainBase ≤ loc) then s
    else guarded s (reach s n.val req (fun s => narrow s n.val loc mask data errs req)))

/-- The symbol errors of codeword `k` of a burst. -/
def cwErrs (errs : List (Fin 64 × SymErr)) (k : Nat) : List (Nat × Byte) :=
  errList ((errs.filter (fun e => e.1.val = k)).map (·.2))

/-- The 64 codewords of a burst written. -/
def burstPut (s : State) (n base : Nat) (data : List Byte) : State :=
  (List.range 64).foldl (fun s k => cwWrite s n (base + 32 * k) (padTo 32 ((data.drop (32 * k)).take 32))) s

/-- The 64 codewords of a burst read: the data delivered, and how many were beyond the code. -/
def burstGet (s : State) (n base : Nat) (errs : List (Fin 64 × SymErr)) (q : Req) : List Byte × Nat × State :=
  (List.range 64).foldl (fun (a : List Byte × Nat × State) k =>
    match cwRead a.2.2 n (base + 32 * k) (cwErrs errs k) q with
    | (d, u, s) => (a.1 ++ d, a.2.1 + b2n u, s)) ([], 0, s)

/-- A long burst of an agent. -/
def burst (s : State) (n base : Nat) (wr : Bool) (data : List Byte) (errs : List (Fin 64 × SymErr)) (r : Requester) : State :=
  let q := toReq s r
  let s := chargeHbm (bump (reqSnoop s n base 2048 wr r) (552 + n) (if wr then 7 else 6) 1) q.ctx 2048
  if wr then burstPut s n base data else (burstGet s n base errs q).2.2

def execLongBurst (n : Fin 32) (addr : BitVec 48) (write : Bool) (data : List Byte) (errs : List (Fin 64 × SymErr))
    (req : Requester) (s : State) : Host.Outcome State Fault Refusal :=
  let base := addr.toNat / 2048 * 2048
  .next (if !hbmOn s || decide (trainBase ≤ base) then s
    else guarded s (reach s n.val req (fun s => burst s n.val base write data errs req)))

/-! ### Intervals, temperature and refresh (R346, R358) -/

/-- The clock carried to the end of the aligned interval of 1,000,000 counts: to the present count when that ends one. -/
def intervalEnd (s : State) : State := if s.halyard % 1000000 = 0 then s else advanceTo s (nextMultiple s 1000000)

/-- MARK_INTERVAL: the per-lane counts restart (R346). -/
def execMarkInterval (n : Fin 32) (s : State) : Host.Outcome State Fault Refusal :=
  .next (if !hbmOn s then s
    else
      let s := intervalEnd s
      setHbm s n.val { getHbm s n.val with corr := [] })

/-- The controller works past step 3 of its training: it refreshes (R358). -/
def hbmAwake (h : Hbm) : Bool := match h.st with
  | .down | .training => false
  | _ => true

/-- TEMPERATURE_READ: TEMP takes the reading; it waits for a test station's shift to end (R358, R361). -/
def execTemperatureRead (n : Fin 32) (t : Byte) (s : State) : Host.Outcome State Fault Refusal :=
  let h := getHbm s n.val
  .next (if !hbmOn s || !hbmAwake h || h.shiftGo then s else setHbm s n.val { h with temp := t })

/-- REFRESH: a per-bank refresh command (R358). -/
def execRefresh (n : Fin 32) (s : State) : Host.Outcome State Fault Refusal :=
  .next (if !hbmOn s || !hbmAwake (getHbm s n.val) then s else bump s (552 + n.val) 12 1)

/-- RFM: a refresh management command (R358). -/
def execRfm (n : Fin 32) (s : State) : Host.Outcome State Fault Refusal :=
  .next (if !hbmOn s || !hbmAwake (getHbm s n.val) then s else bump s (552 + n.val) 13 1)

/-! ### Training (R356, R357) -/

/-- The lanes of a pseudo-channel found failing, each once. -/
def failLanes (fails : List LaneFail) (p : Nat) : BitVec 36 :=
  fails.foldl (fun m f => if f.pc.val = p then m ||| BitVec.ofNat 36 (2 ^ f.lane.val) else m) 0

def popCount36 (m : BitVec 36) : Nat := (List.range 36).countP (fun i => m.getLsbD i)

/-- The lanes of a pseudo-channel replaced after the lane test: those replaced before, and the failing ones. -/
def replaced (have_ : SMap (BitVec 36)) (fails : List LaneFail) (p : Nat) : BitVec 36 := mget 0 have_ p ||| failLanes fails p

/-- A pseudo-channel fails: more lanes than its two redundant ones, or a lane that fails the second test too (R357). -/
def pcFails (have_ : SMap (BitVec 36)) (fails : List LaneFail) (p : Nat) : Bool :=
  decide (2 < popCount36 (replaced have_ fails p)) || fails.any (fun f => f.pc.val = p && f.again)

/-- The first failing pseudo-channel. -/
def firstFail (have_ : SMap (BitVec 36)) (fails : List LaneFail) : Option Nat := (List.range 32).find? (pcFails have_ fails)

/-- REPAIRED of every pseudo-channel after the lane test; a pseudo-channel that fails keeps what it had. -/
def repairAll (have_ : SMap (BitVec 36)) (fails : List LaneFail) : SMap (BitVec 36) :=
  (List.range 32).foldl (fun m p => if pcFails have_ fails p then m else mput 0 m p (replaced have_ fails p)) have_

/-- The controller enters FAILED (R357): FAIL_PC, the unit reads FAULTED with code TRAIN, HBM_FAIL is set (15 R535). -/
def hbmFail (s : State) (n : Nat) (fails : List LaneFail) : State :=
  let h := getHbm s n
  let p := firstFail h.repaired fails
  let s := setHbm s n { h with st := .failed, failPc := BitVec.ofNat 5 (p.getD 0), failValid := p.isSome,
                               repaired := repairAll h.repaired fails }
  setAlert (unitFault s (552 + n) 0x0A) 1

/-- Codewords outside the training area written with zero data and valid check symbols (R356 step 5). -/
def hbmFill (s : State) (n : Nat) : State :=
  let hit := fun k => decide (k / stackShift = n ∧ k % stackShift < trainBase)
  { s with bench1 := mclear s.bench1 hit, chk := mclear s.chk (fun k => hit (k / 4)) }

/-- Training passes or fails by the device ID check and the lane test. -/
def trainOk (h : Hbm) (idOk : Bool) (fails : List LaneFail) : Bool := idOk && (firstFail h.repaired fails).isNone

/-- HBM_TRAIN: a controller in TRAINING tests its stack, fills it and serves, or fails. When all 32 serve, the power-up goes
on to ADIT_TRAIN; one that fails ends it (16 R545). -/
def hbmTrain (s : State) (n : Nat) (idOk : Bool) (fails : List LaneFail) : State :=
  let h := getHbm s n
  if h.st ≠ .training then s
  else
    let s := setHbm s n { h with repaired := h.hardRepaired }
    let h := getHbm s n
    if trainOk h idOk fails then
      let s := hbmFill s n
      let s := setHbm s n { h with st := .service, repaired := repairAll h.repaired fails, marked := [] }
      if s.pwr.stage = .hbmTrain ∧ (List.range 32).all (served s) then { s with pwr := { s.pwr with stage := .aditTrain } } else s
    else
      let s := hbmFail s n fails
      { s with pwr := { s.pwr with stage := .failed, failStage := 3 } }

def execHbmTrain (n : Fin 32) (idOk : Bool) (fails : List LaneFail) (s : State) : Host.Outcome State Fault Refusal :=
  .next (if hbmOn s then hbmTrain s n.val idOk fails else s)

/-! ### Commands (R359, R360) -/

/-- TEST_ENTER, and RETRAIN from SERVICE, are refused: a context resident, the loader at work, or a settle in progress. -/
def hbmBusy (s : State) : Bool :=
  anyResident s || (match s.hst.st with
    | .validating | .arming | .armed | .installing => true
    | _ => false) || s.ctxs.any (fun e => e.2.settling)

/-- A command refused: ERR records the reason. -/
def hbmRefuse (s : State) (n cmd err : Nat) : State :=
  setHbm s n { getHbm s n with err := BitVec.ofNat 8 err, lastCmd := BitVec.ofNat 4 cmd }

/-- A command accepted and complete. -/
def hbmAccept (h : Hbm) (cmd : Nat) : Hbm := { h with err := 0, lastCmd := BitVec.ofNat 4 cmd, done := true }

/-- A command accepted, to complete later, with the repair target as it stands. -/
def hbmBegin (h : Hbm) (cmd : Nat) (row : BitVec 34) : Hbm :=
  { h with err := 0, lastCmd := BitVec.ofNat 4 cmd, done := false, jobs := h.jobs ++ [(BitVec.ofNat 4 cmd, row)] }

def hbmTestEnter (s : State) (n : Nat) : State :=
  let h := getHbm s n
  if h.st ≠ .service then hbmRefuse s n 1 1
  else if hbmBusy s then hbmRefuse s n 1 2
  else setHbm s n { hbmAccept h 1 with st := .test }

def hbmTestExit (s : State) (n : Nat) : State :=
  let h := getHbm s n
  if h.st ≠ .test then hbmRefuse s n 2 1 else setHbm s n { hbmAccept h 2 with st := .service }

/-- RETRAIN accepted; a unit that read FAULTED for FAILED reads IDLE. -/
def hbmRetrain (s : State) (n : Nat) : State :=
  let h := getHbm s n
  match h.st with
  | .service | .test | .failed =>
    if h.st = .service ∧ hbmBusy s then hbmRefuse s n 3 2
    else
      let s := setHbm s n { hbmBegin h 3 0 with st := .retrain, failValid := false, failPc := 0 }
      let f := getFace s (552 + n)
      if f.st = .faulted then setFace s (552 + n) { f with st := .idle, fault := 0 } else s
  | _ => hbmRefuse s n 3 1

/-- HBM_PPR_ADDR in the layout of its register (R365). -/
def pprAddr (h : Hbm) : BitVec 34 :=
  BitVec.ofNat 34 (h.channel.toNat + 16 * b2n h.pc + 256 * h.sid.toNat + 1024 * h.bank.toNat + 65536 * h.row.toNat)

/-- A field of HBM_PPR_ADDR lies outside the stack's range. -/
def pprBad (h : Hbm) : Bool := h.sid = 3 || !Config.hbmRowOk h.bank h.row

/-- SPPR (4) or HPPR (5). -/
def hbmRepair (s : State) (n cmd : Nat) : State :=
  let h := getHbm s n
  if h.st ≠ .test then hbmRefuse s n cmd 1
  else if pprBad h then hbmRefuse s n cmd 4
  else setHbm s n (hbmBegin h cmd (pprAddr h))

def hbmClearMarks (s : State) (n : Nat) : State :=
  let h := getHbm s n
  if h.st = .down then hbmRefuse s n 6 1 else setHbm s n { hbmAccept h 6 with marked := [] }

def execTestEnter (n : Fin 32) (s : State) : Host.Outcome State Fault Refusal := .next (if hbmOn s then hbmTestEnter s n.val else s)
def execTestExit (n : Fin 32) (s : State) : Host.Outcome State Fault Refusal := .next (if hbmOn s then hbmTestExit s n.val else s)
def execRetrain (n : Fin 32) (s : State) : Host.Outcome State Fault Refusal := .next (if hbmOn s then hbmRetrain s n.val else s)
def execSppr (n : Fin 32) (s : State) : Host.Outcome State Fault Refusal := .next (if hbmOn s then hbmRepair s n.val 4 else s)
def execHppr (n : Fin 32) (s : State) : Host.Outcome State Fault Refusal := .next (if hbmOn s then hbmRepair s n.val 5 else s)
def execClearMarks (n : Fin 32) (s : State) : Host.Outcome State Fault Refusal := .next (if hbmOn s then hbmClearMarks s n.val else s)

/-- HBM_XLATE_OUT bits [33:0] for a local address: channel and pseudo-channel as R341 places them, the rest by the fixed
mapping of bits [47:15]. -/
def xlateOut (loc : Nat) : Nat :=
  let m := (Config.hbmXlate (BitVec.ofNat 48 (loc / 32768 * 32768))).toNat
  loc / 2048 % 16 + 16 * (loc / 1024 % 2) + 256 * bits m 9 8 + 1024 * bits m 15 10 + 65536 * bits m 33 16

/-- The row named by a repair target set to zero data with valid check symbols. -/
def rowFill (s : State) (n : Nat) (row : BitVec 34) : State :=
  let hit := fun k => k / stackShift = n && xlateOut (k % stackShift) = row.toNat
  { s with bench1 := mclear s.bench1 hit, chk := mclear s.chk (fun k => hit (k / 4)) }

/-- The bank of a repair target: channel, pseudo-channel, SID and bank. -/
def bankOf (row : BitVec 34) : Nat := row.toNat % 65536

/-- The oldest command in progress leaves the list; DONE is set when it is the last accepted. -/
def jobEnd (h : Hbm) : Hbm := { h with jobs := h.jobs.drop 1, done := h.done || (h.jobs.drop 1).isEmpty }

/-- A repair completes: refused by the stack for want of a spare row, or the row repaired and zero-filled. -/
def repairDone (s : State) (n : Nat) (cmd : BitVec 4) (row : BitVec 34) : State :=
  let h := getHbm s n
  let b := bankOf row
  let used := mget 0 h.spares b + mget 0 h.hardSpares b
  if Config.hbmSpareRow n (bits b 3 0) (bits b 4 4) (bits b 9 8) (bits b 15 10) used then
    let h := if cmd = 4 then { h with spares := mput 0 h.spares b (mget 0 h.spares b + 1) }
      else { h with hardSpares := mput 0 h.hardSpares b (mget 0 h.hardSpares b + 1) }
    rowFill (setHbm s n (jobEnd h)) n row
  else setHbm s n { jobEnd h with err := 3 }

/-- A retrain completes: marks cleared, SERVICE or FAILED; data is kept. -/
def retrainDone (s : State) (n : Nat) (idOk : Bool) (fails : List LaneFail) : State :=
  let h := { jobEnd (getHbm s n) with marked := [] }
  if trainOk h idOk fails then setHbm s n { h with st := .service, repaired := repairAll h.repaired fails }
  else hbmFail (setHbm s n { h with err := 5 }) n fails

/-- HBM_COMMAND_DONE: the oldest retrain or repair in progress completes. -/
def hbmCommandDone (s : State) (n : Nat) (idOk : Bool) (fails : List LaneFail) : State :=
  match (getHbm s n).jobs with
  | [] => s
  | (c, row) :: _ => if c = 3 then retrainDone s n idOk fails else repairDone s n c row

def execHbmCommandDone (n : Fin 32) (idOk : Bool) (fails : List LaneFail) (s : State) : Host.Outcome State Fault Refusal :=
  .next (if hbmOn s then hbmCommandDone s n.val idOk fails else s)

/-! ### IEEE 1500 (R361) -/

/-- A write of 1 to GO of HBM_1500_CTRL: in SERVICE only the device ID and temperature instructions start. -/
def shiftStart (s : State) (n : Nat) : State :=
  let h := getHbm s n
  if h.st = .service ∧ !Config.wirInService h.wirInstr then setHbm s n { h with err := 1 }
  else setHbm s n { h with shiftGo := true }

def execHbm1500Shift (n : Fin 32) (s : State) : Host.Outcome State Fault Refusal := .next (if hbmOn s then shiftStart s n.val else s)

/-- The bits of a byte list, bit 0 first. -/
def bitsOf (l : List Byte) : List Bool := l.flatMap (fun b => (List.range 8).map (fun i => b.getLsbD i))

/-- Bytes of a bit list, bit 0 first. -/
def packBits : Nat → List Bool → List Byte
  | 0, _ => []
  | n + 1, l => BitVec.ofNat 8 (natOf2 (l.take 8)) :: packBits n (l.drop 8)
where
  natOf2 : List Bool → Nat
    | [] => 0
    | b :: r => b2n b + 2 * natOf2 r

/-- The shift ends: the bits shifted out take the place of those shifted in, and GO clears. -/
def shiftComplete (s : State) (n : Nat) : State :=
  let h := getHbm s n
  if !h.shiftGo then s
  else
    let cnt := h.drBitsM1.toNat + 1
    let all := bitsOf (readBytes h.data1500 0 256)
    let got := Config.wrapperShift n h.wirInstr.toNat h.wirChannel.toNat h.wirAll (all.take cnt) h.shifts
    let out := (List.range cnt).map (fun i => got.getD i false) ++ all.drop cnt
    setHbm s n { h with shiftGo := false, shifts := h.shifts + 1, data1500 := writeBytes [] 0 (packBits 256 out) }

def execShiftComplete (n : Fin 32) (s : State) : Host.Outcome State Fault Refusal := .next (if hbmOn s then shiftComplete s n.val else s)

/-! ### Test bursts (R362) -/

/-- A write of 1 to GO of HBM_BURST_CTRL: in TEST and FAILED only. -/
def testBurst (s : State) (n : Nat) : State :=
  let h := getHbm s n
  match h.st with
  | .test | .failed => setHbm s n { h with burstGo := true }
  | _ => setHbm s n { h with err := 1 }

def execTestBurst (n : Fin 32) (s : State) : Host.Outcome State Fault Refusal := .next (if hbmOn s then testBurst s n.val else s)

/-- Codeword `k` of a raw read: 32 data symbols, 4 check symbols and zeros. -/
def rawRead (s : State) (n base : Nat) (errs : List (Fin 64 × SymErr)) (k : Nat) : List Byte :=
  let a := key n (base + 32 * k)
  let d := readBytes s.bench1 a 32
  let c := (indexed (rsCheck d)).map (fun e => e.2 ^^^ mget 0 s.chk (a * 4 + e.1))
  applyErr (d ++ c) (cwErrs errs k) ++ List.replicate 28 0

/-- Codeword `k` of a raw write: data as given, check symbols kept as their difference from those of the data. -/
def rawWrite (s : State) (n base : Nat) (buf : Mem) (k : Nat) : State :=
  let a := key n (base + 32 * k)
  let d := readBytes buf (64 * k) 32
  let c := readBytes buf (64 * k + 32) 4
  { s with
    bench1 := writeBytes s.bench1 a d
    chk := (indexed (rsCheck d)).foldl (fun m e => mput 0 m (a * 4 + e.1) (e.2 ^^^ c.getD e.1 0)) s.chk }

/-- A coded read of the test station: its outcomes counted in HBM_BURST_STATUS. -/
def codedRead (s : State) (n base : Nat) (errs : List (Fin 64 × SymErr)) : State :=
  let before := (getHbm s n).pcCorrected
  match burstGet s n base errs { kind := 6, index := 0, ctx := none } with
  | (d, u, s) =>
    let h := getHbm s n
    let c := (List.range 32).foldl (fun t p => t + (mget 0 h.pcCorrected p - mget 0 before p).toNat) 0
    setHbm s n { h with burstBuf := writeBytes h.burstBuf 0 d, bCorrected := BitVec.ofNat 8 c, bUncorr := BitVec.ofNat 8 u }

/-- The burst of a test station at `base`, within the stack. -/
def testMove (s : State) (n base : Nat) (errs : List (Fin 64 × SymErr)) : State :=
  let h := getHbm s n
  let s := bump s (552 + n) (if h.burstWrite then 7 else 6) 1
  let h0 := getHbm s n
  match h.raw, h.burstWrite with
  | false, false => codedRead s n base errs
  | false, true => burstPut (setHbm s n { h0 with bCorrected := 0, bUncorr := 0 }) n base (readBytes h.burstBuf 0 2048)
  | true, false =>
    let d := (List.range 64).flatMap (rawRead s n base errs)
    setHbm s n { h0 with burstBuf := writeBytes h0.burstBuf 0 d, bCorrected := 0, bUncorr := 0 }
  | true, true => (List.range 64).foldl (fun s k => rawWrite s n base h.burstBuf k)
      (setHbm s n { h0 with bCorrected := 0, bUncorr := 0 })

/-- TEST_BURST_COMPLETE: the burst has moved its 2 KiB and GO clears. An address past the end of the stack has no storage:
a read of it fills the buffer with free values. -/
def testBurstComplete (s : State) (n : Nat) (errs : List (Fin 64 × SymErr)) : State :=
  let h := getHbm s n
  if !h.burstGo then s
  else
    let base := h.burstAddr.toNat / 2048 * 2048
    let s := setHbm s n { h with burstGo := false }
    if base < stackSize then testMove s n base errs
    else if h.burstWrite then s
    else
      let d := (List.range 256).flatMap (fun i => bytesOf 8 (Config.freeWord (s.free + i)).toNat)
      setHbm { s with free := s.free + 256 } n { getHbm s n with burstBuf := writeBytes h.burstBuf 0 d }

def execTestBurstComplete (n : Fin 32) (errs : List (Fin 64 × SymErr)) (s : State) : Host.Outcome State Fault Refusal :=
  .next (if hbmOn s then testBurstComplete s n.val errs else s)

end Sys2Proof.Machine
end

