-- ==== Sys2Proof/Machine/Adits.lean ====
section
/-!
DEFINITION. The adits (12 R394-R401, R418): link frames, credit, lost frames, training, and links that come up and go down;
with the capture after a Dip (14 R499). An attempt that trains no link ends in DOWN 500 µs after it began (Time.elapse).
-/
namespace Sys2Proof.Machine

/-! ### Receiving units (R397-R399) -/

def addRecv (x : Adit) (v n : Nat) : Adit := { x with recv := mput 0 x.recv v (inc32 (mget 0 x.recv v) n) }

/-- Units freed without leaving by the Yard: lost units, discarded flits and packets (R399). -/
def addFreed (x : Adit) (v n : Nat) : Adit := { x with freed := mput 0 x.freed v (inc32 (mget 0 x.freed v) n) }

/-- The packet in progress on a virtual channel: its flits so far and how many are missing. -/
def asmOf (x : Adit) (v : Nat) : Option (Packet × Nat) := (x.asm.find? (fun e => e.1 = v)).map (·.2)

/-- The packet in progress after more flits: complete when none is missing. -/
def asmPut (x : Adit) (v : Nat) (p : Packet) (left : Nat) : Adit :=
  let x := { x with asm := x.asm.filter (fun e => e.1 ≠ v) }
  if left = 0 then { x with rx := x.rx ++ [p] } else { x with asm := x.asm ++ [(v, p, left)] }

/-- Flits lost of the packet in progress: zero flits flagged uncorrectable. -/
def zeroFlits (x : Adit) (v n : Nat) : Adit :=
  match asmOf x v with
  | none => x
  | some (p, left) =>
    let k := min n left
    if k = 0 then x
    else asmPut x v { p with payload := p.payload ++ List.replicate (64 * k) 0, bad := true } (left - k)

/-- The loss on one virtual channel at the next good frame (R399). -/
def lossOn (f : Frame) (x : Adit) (v : Nat) : Adit :=
  let d := (f.sent.getD v 0 - mget 0 x.recv v).toNat
  if d = 0 then x
  else
    let x := { addFreed (addRecv x v d) v d with lostUnits := inc64 x.lostUnits d }
    if v < 2 then x
    else
      let left := ((asmOf x v).map (·.2)).getD 0
      let inPkt := min d left
      -- units that complete a packet leave the buffer with it
      let x := zeroFlits { x with freed := mput 0 x.freed v (mget 0 x.freed v - BitVec.ofNat 32 inPkt) } v d
      if left < d then { x with orphan := if x.orphan.contains v then x.orphan else x.orphan ++ [v] } else x

/-- One slot taken in (R397). -/
def takeSlot (x : Adit) (sl : Slot) : Adit :=
  let v := bits sl.nib.toNat 2 0
  let hd := bitAt sl.nib.toNat 3
  if 6 ≤ v then x
  else if v < 2 then
    let a := parseCtl (sl.bytes.take 32)
    let x := { addRecv x v 1 with rx := x.rx ++ [a] }
    if hd then { addRecv x v 1 with rx := x.rx ++ [parseCtl ((sl.bytes.drop 32).take 32)] } else x
  else
    let x := addRecv x v 1
    if hd then
      let x := { x with orphan := x.orphan.filter (· ≠ v) }
      asmPut x v (parseData sl.bytes) (hdrFlits sl.bytes)
    else if x.orphan.contains v then addFreed { x with orphanFlits := inc64 x.orphanFlits 1 } v 1
    else match asmOf x v with
      | some (p, left) => asmPut x v { p with payload := p.payload ++ padTo 64 sl.bytes } (left - 1)
      | none => addFreed x v 1

/-- The slots that arrive after a cut, copied up to 64 (14 R499). -/
def capture (x : Adit) (f : Frame) : Adit :=
  let l := (indexed f.slots).map (fun e => ({ nib := e.2.nib, slot := e.1, seq := f.seq, bytes := e.2.bytes } : Capture))
  { x with capture := (x.capture ++ l).take 64 }

/-- Units that arrive after a cut, counted on each virtual channel (14 R501). -/
def afterUnits (x : Adit) (old : SMap W32) : Adit :=
  { x with afterCut := [0, 1, 2, 3, 4, 5].foldl (fun m v => mput 0 m v (mget 0 m v + (mget 0 x.recv v - mget 0 old v))) x.afterCut }

/-! ### Down and up (R378, R400, R401, R418) -/

/-- An up adit goes down: DOWN_CAUSE, LINK_DOWN, its output discarded, arriving packets completed with flagged zero flits. -/
def aditDown (s : State) (a cause : Nat) : State :=
  let x := getAdit s a
  if x.st ≠ .up then s
  else
    let x := [2, 3, 4, 5].foldl (fun x v => zeroFlits x v (((asmOf x v).map (·.2)).getD 0)) x
    let s := setAdit s a { x with st := .down, downCause := BitVec.ofNat 2 cause, downCount := inc32 x.downCount 1,
                                  lastDown := BitVec.ofNat 64 s.halyard, trainAt := s.halyard, delayValid := false,
                                  lossPending := false, orphan := [] }
    let s := post s evLinkDown none (a + 256 * cause) 0
    halCheck (if frozen s then s else discardOutput s (8 + a))

/-- LINK_DOWN: 2,000 counts have passed since the last good frame, or a frame with GOING_DOWN has come. -/
def execLinkDown (a : Fin 24) (goingDown : Bool) (s : State) : Host.Outcome State Fault Refusal :=
  .next (if !mainUp s || !aditUp s a.val then s
    else if goingDown then aditDown s a.val 2
    else aditDown (advanceTo s ((getAdit s a.val).lastFrame + 2000)) a.val 1)

/-- The partner check passes (R400). -/
def partnerOk (s : State) (a : Nat) (p : Partner) : Bool :=
  decide (p.adit.toNat < 24) && decide (role p.adit.toNat = role a) &&
  !(role a = 3 && p.nodeValid && (match aditRec s a with
    | some r => decide (r.partner ≠ 0) && decide (r.partner ≠ p.node.toNat)
    | none => false))

/-- Units of a virtual channel that the receive buffer still holds. -/
def heldUnits (x : Adit) (v : Nat) : Nat := (x.rx.filter (fun p => p.vc.toNat = v)).foldl (fun t p => t + pktUnits p) 0

/-- Credit counts start again with the link; what the receive buffer still holds counts against it. -/
def creditStart (x : Adit) : SMap W32 :=
  [0, 1, 2, 3, 4, 5].foldl (fun m v => mput 0 m v (0 - BitVec.ofNat 32 (heldUnits x v))) []

/-- LINK_UP: training has completed, frames decode, and the partner check decides (R400, 14 R476). -/
def linkUp (s : State) (a : Nat) (p : Partner) : State :=
  let x := getAdit s a
  if x.st ≠ .training then s
  else
    let x := { x with partnerReady := p.ready, partnerTime := p.timeValid, partnerNode := p.node,
                      partnerNodeValid := p.nodeValid, partnerAdit := p.adit }
    if !partnerOk s a p then setAdit s a { x with st := .miswired, downCause := 3 }
    else
      let s := setAdit s a { x with st := .up, delay := p.delay, delayValid := true, lastFrame := s.halyard,
                                    sent := [], theirFreed := [], recv := [], freed := creditStart x,
                                    lossPending := false, asm := [], orphan := [] }
      halCheck (post s evLinkUp none a 0)

def execLinkUp (a : Fin 24) (p : Partner) (s : State) : Host.Outcome State Fault Refusal :=
  .next (if mainUp s then linkUp s a.val p else s)

/-- A training attempt begins. -/
def trainBegin (s : State) (x : Adit) : Adit :=
  { x with st := .training, trainAt := s.halyard, trainAttempts := inc32 x.trainAttempts 1, delayValid := false }

/-- TRAINING_ATTEMPT: 1,000,000 counts after the adit went down or after the attempt before (R401); the first attempts are
those of ADIT_TRAIN (16 R545). -/
def trainingAttempt (s : State) (a : Nat) : State :=
  let x := getAdit s a
  match x.st with
  | .up | .training => s
  | _ =>
    let s := advanceTo s (x.trainAt + 1000000)
    setAdit s a (trainBegin s (getAdit s a))

def execTrainingAttempt (a : Fin 24) (s : State) : Host.Outcome State Fault Refusal :=
  .next (match s.pwr.stage with
    | .sync | .ready => trainingAttempt s a.val
    | _ => s)

/-! ### The link frame (R396) -/

/-- A good frame: losses, credit, the partner's flags and its slots. -/
def goodFrame (s : State) (a : Nat) (f : Frame) : State :=
  let x := getAdit s a
  let x := { x with framesRx := inc64 x.framesRx 1, fecCorrected := inc64 x.fecCorrected f.corrected, lastFrame := s.halyard }
  let x := if x.lossPending then { [0, 1, 2, 3, 4, 5].foldl (lossOn f) x with lossPending := false } else x
  let x := { x with partnerReady := f.ready, partnerTime := f.timeValid, partnerNode := f.srcNode,
                    partnerNodeValid := f.nodeValid, partnerAdit := f.srcAdit,
                    theirFreed := [0, 1, 2, 3, 4, 5].foldl (fun m v => mput 0 m v (f.freed.getD v 0)) [] }
  let old := x.recv
  let x := f.slots.foldl takeSlot x
  let x := if frozen s then afterUnits (capture x f) old else x
  setAdit s a x

/-- LINK_FRAME: a frame with an uncorrectable codeword is discarded (R399); a good one is taken in, its time word measured
when it is the parent's, and GOING_DOWN takes the adit down at once. -/
def linkFrame (s : State) (a : Nat) (f : Frame) : State :=
  let x := getAdit s a
  if x.st ≠ .up then s
  else if f.uncorr then
    setAdit s a { x with fecUncorr := inc64 x.fecUncorr 1, fecCorrected := inc64 x.fecCorrected f.corrected, lossPending := true }
  else
    let s := halCheck (goodFrame s a f)
    let s := parentFrame s a f.time
    if f.goingDown then aditDown s a 2 else s

def execLinkFrame (a : Fin 24) (f : Frame) (s : State) : Host.Outcome State Fault Refusal :=
  .next (if mainUp s then linkFrame s a.val f else s)

end Sys2Proof.Machine
end

