-- ==== Sys2Proof/Machine/Host.lean ====
section
/-!
DEFINITION. Dragiper Link (15 R507-R523): the link layer, links that go down and come up, the host window with its snoop
filter, answers to the device's requests to companion memory; the event ring's drain and the held interrupt (R525, R526);
and the node number (R529). The messages that a flit's slots carry are commands of their own.
-/
namespace Sys2Proof.Machine

def setDrg (s : State) (f : Drg → Drg) : State := { s with drg := f s.drg }

/-! ### The link layer (R508-R510) -/

/-- The link goes down (R510). -/
def hostDownNow (s : State) : State :=
  let rs := s.drg.reqs
  let s := setDrg s (fun d => { d with
    st := .down, downs := inc32 d.downs 1, trainAt := s.halyard, filter := [], snoops := [], held := [], reqs := []
    unacked := [], txWait := 0, txSeq := 0, rxSeq := 0xFFF, awaitReplay := false, nakDue := false, credit := [] })
  let s := rs.foldl (fun s r => cmFail s r.2 0xF2) s
  let s := setAlert s 2
  if frozen s then s else discardOutput s 32

/-- Numbered flits up to the one that ACK_SEQ names are acknowledged (R509). -/
def drgAcked (d : Drg) (a : BitVec 12) : Drg :=
  match d.unacked.findIdx? (fun e => e.1 = a) with
  | some i => drgFill { d with unacked := d.unacked.drop (i + 1) }
  | none => d

/-- The replay that NAK asks for: every flit from ACK_SEQ + 1 on; one replayed 16 times takes the link down (R509, R510). -/
def nakTaken (s : State) (a : BitVec 12) : State :=
  let s := setDrg s (fun d => drgAcked d a)
  if s.drg.unacked = [] then s
  else
    let l := s.drg.unacked.map (fun e => (e.1, e.2 + 1))
    let s := setDrg s (fun d => { d with replays := inc64 d.replays 1, unacked := l })
    if l.any (fun e => decide (16 ≤ e.2)) then hostDownNow s else s

/-- The link is up. -/
def linkIsUp (s : State) : Bool := s.drg.st = .up

def execNak (ackSeq : BitVec 12) (s : State) : Host.Outcome State Fault Refusal :=
  .next (if linkIsUp s then nakTaken s ackSeq else s)

/-- A numbered flit that passed its CRC: taken when it is the next in order, discarded otherwise (R509). -/
def flitOrder (d : Drg) (q : BitVec 12) : Drg :=
  if q = d.rxSeq + 1 then { d with rxSeq := q, awaitReplay := false, nakDue := false } else d

/-- DRAGIPER_FLIT: 256 bytes arrive (R508, R509). -/
def flitTaken (s : State) (bs : List Byte) : State :=
  if natAt bs 248 8 ≠ (crc64 (padTo 248 (bs.take 248))).toNat then
    setDrg s (fun d => { d with crcErrors := inc64 d.crcErrors 1, awaitReplay := true, nakDue := true })
  else
    let w := natAt bs 0 8
    let s := setDrg s (fun d => { d with lastFlit := s.halyard })
    let c := bits w 28 26
    let s := if c < 4 then setDrg s (fun d => { d with credit := mput 0 d.credit c (mget 0 d.credit c + bits w 40 29) }) else s
    let s := if bitAt w 25 then s else setDrg s (fun d => flitOrder d (BitVec.ofNat 12 w))
    let a := BitVec.ofNat 12 (bits w 23 12)
    if bitAt w 24 then nakTaken s a else setDrg s (fun d => drgAcked d a)

def execDragiperFlit (bytes : List Byte) (s : State) : Host.Outcome State Fault Refusal :=
  .next (if linkIsUp s then flitTaken s bytes else s)

/-- HOST_DOWN: 2,000 counts have passed since the last flit that passed its CRC. -/
def execHostDown (s : State) : Host.Outcome State Fault Refusal :=
  .next (if linkIsUp s then hostDownNow (advanceTo s (s.drg.lastFlit + 2000)) else s)

/-- The main side has reached HBM_TRAIN, where Dragiper Link trains (16 R545). -/
def pastBoot (s : State) : Bool := match s.pwr.stage with
  | .hbmTrain | .aditTrain | .sync | .ready => true
  | _ => false

/-- HOST_RETRAIN: 1,000,000 counts after the link went down or last began to train it tries again (R510). -/
def execHostRetrain (s : State) : Host.Outcome State Fault Refusal :=
  .next (if !pastBoot s || linkIsUp s then s
    else
      let s := advanceTo s (s.drg.trainAt + 1000000)
      setDrg s (fun d => { d with st := .training, trainAt := s.halyard }))

/-- HOST_LINK_UP: training brings the link up; both sides begin with no flit outstanding (R510). -/
def execHostLinkUp (s : State) : Host.Outcome State Fault Refusal :=
  .next (if pastBoot s && s.drg.st = .training then
      post (setDrg s (fun d => { d with st := .up, lastFlit := s.halyard })) evHostLinkUp none s.drg.downs.toNat 0
    else s)

/-! ### Answers -/

/-- CMP. -/
def cmpTo (s : State) (tag : BitVec 12) (status : Nat) : State :=
  drgSend s { opcode := 0x40, tag := tag, status := BitVec.ofNat 8 status, addr := 0, mask := 0, data := [] }

/-- RSP_DATA. -/
def rspTo (s : State) (tag : BitVec 12) (status : Nat) (d : List Byte) : State :=
  drgSend s { opcode := 0x41, tag := tag, status := BitVec.ofNat 8 status, addr := 0, mask := 0, data := d }

/-! ### Bytes of the host window (R515, R519) -/

def hostReq : Req := { kind := 6, index := 0, ctx := none }

/-- The parts of a saved core record beyond Bench 0, whose inner layout the manual does not give (03 R105). -/
def frameByte (s : State) (x : Nat) (b : Byte) : Byte :=
  let c := x / frameSize
  let y := x % frameSize
  if 16 * frameSize ≤ x ∨ y < 0x10000 then b
  else
    let n := (y - 0x10000) / 0x2C0000
    let j := (y - 0x10000) % 0x2C0000
    if n < 512 ∧ coreDie s.bench1 c n < 8 ∧ 0x280000 ≤ j ∧ j < 0x2B5000 then
      Config.scanByte 0 (((getCtx s c).saveCount * 16 + c) * 512 + n) j
    else b

/-- One line read for the companion: through the home unit where a home window holds it (12 R423). -/
def hostGet (s : State) (l : Nat) : List Byte × State :=
  let x := 64 * l
  let (d, s) := match windowAt s x with
    | some _ => if frozen s then (peekHome s x 64, s) else homeGet (takeHome s 1) x 64
    | none => b1Get s x 64 hostReq
  if x < 16 * frameSize then ((indexed d).map (fun e => frameByte s (x + e.1) e.2), s) else (d, s)

/-- Several lines read. -/
def hostGets (s : State) (l n : Nat) : List Byte × State :=
  (List.range n).foldl (fun (a : List Byte × State) i => match hostGet a.2 (l + i) with
    | (d, s) => (a.1 ++ d, s)) ([], s)

/-- One line written for the companion. -/
def hostPut (s : State) (l : Nat) (d : List Byte) : State :=
  match windowAt s (64 * l) with
  | some _ => homePut (takeHome s 1) (64 * l) d
  | none => b1Put s (64 * l) d hostReq

/-- Some bytes of a half-line written. -/
def hostPart (s : State) (x : Nat) (d : List Byte) (mask : Nat → Bool) : State :=
  match windowAt s x with
  | some _ =>
    match homeGet (takeHome s 1) x 32 with
    | (old, s) => homePut s x (merge old d mask)
  | none => match place s.bench1 x with
    | none => s
    | some k =>
      let s := countAccess s x 32 true none
      if served s (k / stackShift) then cwModify s (k / stackShift) (k % stackShift) (padTo 32 (d.take 32)) mask [] hostReq else s

/-- The line lies in the staging area. -/
def inStage (l : Nat) : Bool := decide (stageBase ≤ 64 * l ∧ 64 * l < stageBase + stageSize)

/-- Lines written from the companion; those of the staging area are dropped, and counted as one write, while the loader
holds it (02 R74). -/
def hostWrite (s : State) (l n : Nat) (d : List Byte) : State :=
  let drop := stageBusy s
  let s := if drop && (List.range n).any (fun i => inStage (l + i)) then stageDrop s else s
  (List.range n).foldl (fun s i =>
    if drop && inStage (l + i) then s else hostPut s (l + i) (padTo 64 ((d.drop (64 * i)).take 64))) s

/-! ### The snoop filter (R516-R518) -/

/-- A snoop of the line is outstanding. -/
def snoopOut (s : State) (l : Nat) : Bool := s.drg.snoops.any (fun o => o.2.1 = l)

/-- The companion holds the line, modifiable or shared; an entry keeps its place in the order of allocation. -/
def filterPut (s : State) (l : Nat) (m : Bool) : State :=
  let old := s.drg.filter
  let f := if old.any (fun e => e.1 = l) then old.map (fun e => if e.1 = l then (l, m) else e) else old ++ [(l, m)]
  setDrg s (fun d => { d with filter := f })

def filterDel (s : State) (l : Nat) : State := setDrg s (fun d => { d with filter := d.filter.filter (fun e => e.1 ≠ l) })

/-- The filter's sets: 131,072 of 16 ways (R517). -/
def filterSet (l : Nat) : Nat := l % 131072

/-- The entries of the line's set. -/
def setEntries (s : State) (l : Nat) : List (Nat × Bool) := s.drg.filter.filter (fun e => filterSet e.1 = filterSet l)

/-- A grant of the line needs an eviction. -/
def needsEvict (s : State) (l : Nat) : Bool :=
  !s.drg.filter.any (fun e => e.1 = l) && decide (16 ≤ (setEntries s l).length)

/-- The eviction of the entry allocated earliest, unless a snoop of the set is on its way (R517). -/
def evict (s : State) (l : Nat) : State :=
  match setEntries s l with
  | [] => s
  | e :: r =>
    if (e :: r).any (fun x => snoopOut s x.1) then s
    else sendSnoop (setDrg s (fun d => { d with snpEvicts := inc64 d.snpEvicts 1 })) (e.1, true)

/-! ### Companion requests (R516-R520) -/

/-- The bytes of a request, and the alignment it needs. -/
def reqBytes (q : HostReq) : Nat := match q.opcode.toNat with
  | 0x12 | 0x13 => 64 * (q.lenM1.toNat + 1)
  | 0x14 => 32
  | _ => 64

def reqOk (q : HostReq) : Bool :=
  q.addr.toNat % (if q.opcode = 0x14 then 32 else 64) = 0 && decide (q.addr.toNat + reqBytes q ≤ hostWindow)

/-- The lines of a request. -/
def reqLines (q : HostReq) : List Nat := linesOf q.addr.toNat (reqBytes q)

/-- A request of the companion held: a snoop of a line of it is outstanding, or an earlier request for the line is held. -/
def mustHold (s : State) (q : HostReq) : Bool :=
  (reqLines q).any (fun l => snoopOut s l || s.drg.held.any (fun h => (reqLines h).contains l))

def holdReq (s : State) (q : HostReq) : State := setDrg s (fun d => { d with held := d.held ++ [q] })

/-- A read that grants the line, shared or modifiable. -/
def grant (s : State) (q : HostReq) (m : Bool) : State :=
  let l := q.addr.toNat / 64
  if needsEvict s l then holdReq (evict s l) q
  else match hostGet s l with
    | (d, s) => rspTo (filterPut s l m) q.tag 0 d

/-- A request that no snoop holds takes effect and is answered (R513, R520). -/
def hostAct (s : State) (q : HostReq) : State :=
  let l := q.addr.toNat / 64
  match q.opcode.toNat with
  | 0x10 => grant s q false
  | 0x11 => grant s q true
  | 0x12 => match hostGets s l (q.lenM1.toNat + 1) with
    | (d, s) => rspTo s q.tag 0 d
  | 0x13 => cmpTo (hostWrite s l (q.lenM1.toNat + 1) q.data) q.tag 0
  | _ =>
    if stageBusy s && inStage l then cmpTo (stageDrop s) q.tag 0
    else cmpTo (hostPart s q.addr.toNat q.data (fun i => q.mask.getLsbD i)) q.tag 0

/-- A request refused with RANGE: a read's answer carries zeros. -/
def hostRange (s : State) (q : HostReq) : State := match q.opcode.toNat with
  | 0x10 | 0x11 | 0x12 => rspTo s q.tag 2 (List.replicate (reqBytes q) 0)
  | _ => cmpTo s q.tag 2

/-- A request of the companion arrives, or is tried again. -/
def hostServe (s : State) (q : HostReq) : State :=
  if !reqOk q then hostRange s q else if mustHold s q then holdReq s q else hostAct s q

/-- Held requests tried again in their order. -/
def hostRetry (s : State) : State :=
  let l := s.drg.held
  l.foldl hostServe (setDrg s (fun d => { d with held := [] }))

/-- A companion request reaches the device while the link is up. -/
def hostIn (s : State) (q : HostReq) : State := if linkIsUp s then hostServe s q else s

def execHwRdS (tag : BitVec 12) (addr : BitVec 56) (s : State) : Host.Outcome State Fault Refusal :=
  .next (hostIn s { opcode := 0x10, tag := tag, addr := addr, lenM1 := 0, mask := 0, data := [] })

def execHwRdM (tag : BitVec 12) (addr : BitVec 56) (s : State) : Host.Outcome State Fault Refusal :=
  .next (hostIn s { opcode := 0x11, tag := tag, addr := addr, lenM1 := 0, mask := 0, data := [] })

def execHwRdNc (tag : BitVec 12) (addr : BitVec 56) (lenM1 : BitVec 3) (s : State) : Host.Outcome State Fault Refusal :=
  .next (hostIn s { opcode := 0x12, tag := tag, addr := addr, lenM1 := lenM1, mask := 0, data := [] })

def execHwWr (tag : BitVec 12) (addr : BitVec 56) (lenM1 : BitVec 3) (data : List Byte) (s : State) :
    Host.Outcome State Fault Refusal :=
  .next (hostIn s { opcode := 0x13, tag := tag, addr := addr, lenM1 := lenM1, mask := 0, data := data })

def execHwWrPart (tag : BitVec 12) (addr : BitVec 56) (mask : BitVec 32) (data : List Byte) (s : State) :
    Host.Outcome State Fault Refusal :=
  .next (hostIn s { opcode := 0x14, tag := tag, addr := addr, lenM1 := 0, mask := mask, data := data })

/-- An eviction: its data is written in arrival order; an entry with a snoop outstanding stays until the answer (R518). -/
def hostEvict (s : State) (tag : BitVec 12) (addr : BitVec 56) (data : Option (List Byte)) : State :=
  let l := addr.toNat / 64
  if addr.toNat % 64 ≠ 0 ∨ hostWindow < addr.toNat + 64 then cmpTo s tag 2
  else
    let s := match data with
      | some d => hostWrite s l 1 d
      | none => s
    cmpTo (if snoopOut s l then s else filterDel s l) tag 0

def execHwEvictM (tag : BitVec 12) (addr : BitVec 56) (data : List Byte) (s : State) : Host.Outcome State Fault Refusal :=
  .next (if linkIsUp s then hostEvict s tag addr (some data) else s)

def execHwEvictS (tag : BitVec 12) (addr : BitVec 56) (s : State) : Host.Outcome State Fault Refusal :=
  .next (if linkIsUp s then hostEvict s tag addr none else s)

/-! ### Answers to snoops (R516, R518) -/

/-- The snoop that a tag names: it is no longer outstanding, `f` takes the line and whether it was SNP_INV, and held requests
go on. -/
def snoopAnswer (s : State) (tag : BitVec 12) (ok : Bool → Bool) (f : State → Nat → Bool → State) : State :=
  if !linkIsUp s then s
  else match s.drg.snoops.find? (fun o => o.1 = tag) with
    | none => s
    | some o =>
      if ok o.2.2 then
        hostRetry (f (setDrg s (fun d => { d with snoops := d.snoops.filter (fun x => x.1 ≠ tag) })) o.2.1 o.2.2)
      else s

/-- SNP_RSP_I: the companion holds nothing. -/
def execSnpRspI (tag : BitVec 12) (s : State) : Host.Outcome State Fault Refusal :=
  .next (snoopAnswer s tag (fun _ => true) (fun s l _ => filterDel s l))

/-- SNP_RSP_S: the companion keeps the line shared; an answer to SNP_SHR only. -/
def execSnpRspS (tag : BitVec 12) (s : State) : Host.Outcome State Fault Refusal :=
  .next (snoopAnswer s tag (fun inv => !inv) (fun s l _ => filterPut s l false))

/-- SNP_RSP_D: the modified line comes back; after SNP_SHR the companion keeps it shared. -/
def execSnpRspD (tag : BitVec 12) (data : List Byte) (s : State) : Host.Outcome State Fault Refusal :=
  .next (snoopAnswer s tag (fun _ => true) (fun s l inv =>
    let s := hostWrite s l 1 data
    if inv then filterDel s l else filterPut s l false))

/-! ### Answers from companion memory (R521) -/

/-- What an answer completes; a block that the Dip has stopped takes nothing in. -/
def cmDone (s : State) (r : CmReq) (data : Option (List Byte)) : State :=
  if frozen s then s
  else match r with
    | .event _ | .irq => s
    | .tier x => answerXfer s x true data
    | .b2 c k op => coreAnswered s c.val k.val op id

/-- A device request answered: OK, or ABORT, RANGE and the other statuses, which fail it. -/
def cmAnswer (s : State) (tag : BitVec 12) (status : Byte) (data : Option (List Byte)) : State :=
  if !linkIsUp s then s
  else match s.drg.reqs.find? (fun r => r.1 = tag) with
    | none => s
    | some r =>
      let s := setDrg s (fun d => { d with reqs := d.reqs.filter (fun x => x.1 ≠ tag) })
      if status = 0 then cmDone s r.2 data
      else cmFail s r.2 (if status = 2 then 0xF1 else 0xF0)

def execCmp (tag : BitVec 12) (status : Byte) (s : State) : Host.Outcome State Fault Refusal := .next (cmAnswer s tag status none)

def execRspData (tag : BitVec 12) (status : Byte) (data : List Byte) (s : State) : Host.Outcome State Fault Refusal :=
  .next (cmAnswer s tag status (some data))

/-! ### The event ring (R525, R526) -/

/-- Queued events written in order while the ring has room, then EVENTS_LOST with the number dropped since the last such
record; whether a record was written. -/
def drainStep (a : Bool × State) : Bool × State :=
  let s := a.2
  if !evtRoom s then a
  else match s.evt.queue with
    | e :: r => (true, evtWrite { s with evt := { s.evt with queue := r } } e)
    | [] =>
      if s.evt.lostSince = 0 then a
      else
        let e := evRecord s evEventsLost none s.evt.lostSince 0
        (true, evtWrite { s with evt := { s.evt with lostSince := 0, seq := inc32 s.evt.seq 1 } } e)

/-- EVENT_DRAIN: at most the 256 queued events and EVENTS_LOST, then one IRQ for the batch. -/
def eventDrain (s : State) : State :=
  match (List.range (s.evt.queue.length + 1)).foldl (fun a _ => drainStep a) (false, s) with
  | (true, s) => evtIrq s
  | (false, s) => s

def execEventDrain (s : State) : Host.Outcome State Fault Refusal := .next (if mainUp s then eventDrain s else s)

/-- IRQ_HOLDOFF: the holdoff expires and a deferred IRQ is sent. -/
def irqHoldoff (s : State) : State :=
  if s.evt.irqDue && s.evt.irqEn && linkIsUp s then evtIrq (advanceTo s s.evt.irqNext) else s

def execIrqHoldoff (s : State) : Host.Outcome State Fault Refusal := .next (if mainUp s then irqHoldoff s else s)

/-! ### The node number (R529) -/

/-- Measurement slot 6: HST_POLICY and DEV_NODE as 16 little-endian bytes (R538). -/
def policyMeas (s : State) : State :=
  measStart s 6 (shake256 (bytesOf 8 (b2n s.hst.reqOperator + 2 * b2n s.hst.reqTenant) ++
    bytesOf 8 (s.dev.node.toNat + 2 ^ 14 * b2n s.dev.nodeSet)) 64)

/-- A write of NODE: it takes effect in EMPTY, STAGING and REFUSED only. -/
def nodeWrite (s : State) (n : BitVec 14) : State :=
  match s.hst.st with
  | .empty | .staging | .refused => policyMeas { s with dev := { s.dev with node := n, nodeSet := true } }
  | _ => s

def execNode (n : BitVec 14) (s : State) : Host.Outcome State Fault Refusal := .next (if mainUp s then nodeWrite s n else s)

end Sys2Proof.Machine
end

