-- ==== Sys2Proof/Machine/Regs.lean ====
section
/-!
DEFINITION. Reads of the control window (01 R27, R33, R38, R39; 15 R522): every register of every block, and the scan window
of the Dip (14 R501). Reserved offsets read zero.
-/
namespace Sys2Proof.Machine

/-- A register word from its fields, each with its lowest bit. -/
def word (l : List (Nat × Nat)) : Nat := l.foldl (fun a e => a + e.1 * 2 ^ e.2) 0

/-! ### Faces (01 R27, R32, R33) -/

def ustNum : UState → Nat
  | .idle => 0 | .waiting => 1 | .running => 2 | .restoring => 3 | .saving => 4 | .stopped => 5 | .faulted => 6

/-- One register of a face at offset `o`; `ni` is NOT_IDLE. -/
def faceReg (f : Face) (ni : Nat) (cnt : Nat → Nat) (o : Nat) : Nat :=
  if o = 0 then word [(f.cmd.opcode.toNat, 0), (f.cmd.ctx.toNat, 8), (f.cmd.slot.toNat, 16), (f.cmd.arg.toNat, 32)]
  else if o = 8 then
    word [(ustNum f.st, 0), ((f.owner.map (fun c => c.val + 16)).getD 0, 4), (f.slot.toNat, 16), (f.fault.toNat, 32), (ni, 48)]
  else if o = 16 then word [(b2n f.stopIn, 0), (f.stopSrc.toNat, 1)]
  else if o = 24 then word [(f.gen.toNat, 0), (b2n f.arrived, 16)]
  else if 0x100 ≤ o ∧ o < 0x200 then cnt ((o - 0x100) / 8)
  else 0

/-- The face of a unit. -/
def readFace (s : State) (u o : Nat) : Nat := faceReg (getFace s u) 0 (fun i => (mget 0 (getFace s u).cnt i).toNat) o

/-- The face of gang `g` formed from those of its direct members (R32); members of other nodes take no part. -/
def gangFaceW : Nat → State → Nat → Nat → Face
  | 0, _, _, _ => {}
  | fuel + 1, s, v, g =>
    let ms := (members s g).map (fun m =>
      if m.kind = 0 then some (gangFaceW fuel s v m.id) else (unitOfView s v m).map (getFace s))
    let fs := ms.filterMap id
    let k := getGangFace s g
    { cmd := k.cmd
      st := firstState (fs.map (·.st))
      owner := fs.findSome? (·.owner)
      slot := match ms.head? with
        | some (some f) => f.slot
        | _ => 0
      fault := ((fs.find? (fun f => f.st = .faulted)).map (·.fault)).getD 0
      stopIn := fs.any (·.stopIn)
      stopSrc := ((fs.find? (fun f => f.stopSrc ≠ 0)).map (·.stopSrc)).getD 0
      gen := k.gen
      arrived := !fs.isEmpty && fs.all (·.arrived) }

/-- Direct members of a gang whose STATE is not IDLE. -/
def notIdle (s : State) (v g : Nat) : Nat :=
  ((members s g).filter (fun m =>
    if m.kind = 0 then decide ((gangFaceW (treeFuel s) s v m.id).st ≠ .idle)
    else match unitOfView s v m with
      | some u => decide ((getFace s u).st ≠ .idle)
      | none => false)).length

/-- The gang view of the debug block (R33, 14 R506). -/
def readView (s : State) (o : Nat) : Nat :=
  let g := s.dbg.viewGang.toNat
  if !gangDeclared s g then 0
  else
    let v := viewCtx s g
    faceReg (gangFaceW (treeFuel s) s v g) (notIdle s v g) (fun i => (gangCount s g i).toNat) o

/-! ### DEV_ (15 R528) -/

def fwNum : FwState → Nat
  | .none => 0 | .verifying => 1 | .running => 2 | .badSig => 3 | .rollback => 4 | .noImage => 5

def drgNum : DState → Nat
  | .down => 0 | .training => 1 | .up => 2

/-- The KEY_ID of a key slot: zero when empty. -/
def slotKeyId (s : State) (k : Nat) : List Byte :=
  match mget [] s.aon.keys k with
  | [] => List.replicate 16 0
  | p => keyId p

/-- MEAS and MCOUNT. -/
def readMeas (s : State) (o : Nat) : Nat :=
  let x := getMeas s (o / 128)
  let w := o % 128
  if w < 64 then natAt x.value w 8
  else if w = 64 then word [(x.count.toNat, 0), (b2n x.pending, 32)]
  else 0

/-- PART, GRADE, STEPPING and ARCH_LEVEL. -/
def devId (s : State) : Nat := word [(0x5120, 0), (s.fuses.grade.toNat, 16), (s.fuses.stepping.toNat, 18), (1, 20)]

def readDev (s : State) (o : Nat) : Nat :=
  if o = 0 then devId s
  else if o = 0x8 then s.fuses.serialLo.toNat
  else if o = 0x10 then s.fuses.serialHi.toNat
  else if o = 0x18 then word [(s.dev.node.toNat, 0), (b2n s.dev.nodeSet, 14)]
  else if o = 0x20 then word [(s.dev.fwVersion.toNat, 0), (s.dev.fwSvn.toNat, 32), (fwNum s.dev.fw, 48)]
  else if 0x40 ≤ o ∧ o < 0x80 then (s.fuses.cores.getD ((o - 0x40) / 8) 0).toNat
  else if o = 0x100 then drgNum s.drg.st
  else if o = 0x108 then s.drg.replays.toNat
  else if o = 0x110 then s.drg.crcErrors.toNat
  else if o = 0x118 then word [(s.drg.downs.toNat, 0), (s.drg.filter.length, 32)]
  else if o = 0x120 then s.drg.snpSent.toNat
  else if o = 0x128 then s.drg.snpEvicts.toNat
  else if o = 0x200 then word [(s.evt.base.toNat, 0), (s.evt.size.toNat, 56)]
  else if o = 0x208 then word [(s.evt.wr.toNat, 0), (s.evt.rd.toNat, 32)]
  else if o = 0x210 then word [(s.evt.lost.toNat, 0), (s.evt.queue.length, 32)]
  else if o = 0x218 then word [(b2n s.evt.irqEn, 0), (s.evt.holdoff.toNat, 16), (s.evt.vector.toNat, 32)]
  else if o = 0x300 then word [(s.aon.alertStatus.toNat, 0), (s.aon.alertMask.toNat, 8)]
  else if o = 0x308 then word [(s.aon.eid.toNat, 0), (s.aon.i3cDa.toNat, 8), (s.fuses.pen.toNat, 32)]
  else if 0x400 ≤ o ∧ o < 0x480 then natAt (slotKeyId s ((o - 0x400) / 16)) (o % 16) 8
  else if o = 0x480 then s.aon.keySeq.toNat
  else if 0x800 ≤ o ∧ o < 0xC00 then readMeas s (o - 0x800)
  else 0

/-! ### PWR_ (16 R561) -/

def stageNum : Stage → Nat
  | .off => 1 | .fuse => 1 | .boot => 2 | .hbmTrain => 3 | .aditTrain => 4 | .sync => 5 | .ready => 6 | .failed => 7

/-- A full image is committed: P is in force. -/
def periodNow (s : State) : Nat := if noImage s then 0 else s.tick.period

def readPwr (s : State) (o : Nat) : Nat :=
  let p := s.pwr
  if o = 0 then word [(stageNum p.stage, 0), (p.failStage.toNat, 4)]
  else if o = 0x10 then s.aon.resetCause.toNat
  else if o = 0x18 then
    word [(p.drvLevel.toNat, 0), (b2n p.thrAtEn, 4), (p.autoLevel, 8),
      (if noImage s then max p.drvInForce p.autoLevel else s.tick.level, 12), (periodNow s, 16)]
  else if o = 0x20 then p.thrAt.toNat
  else if o = 0x28 then
    word [(p.limitW.toNat, 0), (p.avgW.toNat, 16), (p.tjHot.toNat, 32), (p.tjMax.toNat, 40), (s.fuses.tjTrip.toNat, 48)]
  else if o = 0x30 then p.govWait.toNat
  else if o = 0x38 then word [(p.govWaves.toNat, 0), (p.govQueue.length, 32)]
  else if o = 0x40 then p.thrTicks.toNat
  else if 0x100 ≤ o ∧ o < 0x168 then (mget 0 p.tjDie ((o - 0x100) / 8)).toNat
  else 0

/-! ### SYN_ (14 R505) -/

def dipNum : DipState → Nat
  | .running => 0 | .pending => 1 | .dipped => 2

def bstNum : BState → Nat
  | .idle => 0 | .sending => 1 | .doneOk => 2 | .doneFail => 3 | .armSent => 4

def readSyn (s : State) (o : Nat) : Nat :=
  let y := s.syn
  if o = 0 then s.halyard
  else if o = 8 then
    word [(halNum y.st, 0), (b2n (locked s), 2), (b2n y.everLocked, 3), (y.error.toNat, 16), (y.lockLosses.toNat, 32)]
  else if o = 0x10 then word [(b2n y.root, 0), (y.parentAdit.toNat, 1), (b2n y.parentEn, 6)]
  else if o = 0x18 then y.slews.toNat
  else if 0x100 ≤ o ∧ o < 0x1C0 then
    let a := getAdit s ((o - 0x100) / 8)
    word [(a.delay.toNat, 0), (b2n a.delayValid, 16)]
  else if o = 0x200 then word [(b2n (decide (y.dipSt = .pending)), 0), (b2n y.atEn, 1)]
  else if o = 0x208 then y.dipAt.toNat
  else if o = 0x210 then y.trigMask.toNat
  else if o = 0x218 then word [(dipNum y.dipSt, 0), (y.dipSrc.toNat, 2)]
  else if o = 0x220 then y.dipCount.toNat
  else if o = 0x228 then y.dipIgnored.toNat
  else if o = 0x408 then word [(y.chLo.toNat, 0), (y.chHi.toNat, 8)]
  else if o = 0x410 then y.bcastCommit.toNat
  else if o = 0x418 then y.bcastLaunch.toNat
  else if o = 0x420 then word [(y.ctxMask.toNat, 0), (y.timeoutUs.toNat, 32)]
  else if o = 0x428 then word [(bstNum y.bst, 0), (y.berr.toNat, 8), (y.firstFail.toNat, 16), (y.okCount.toNat, 32)]
  else if o = 0x430 then y.rxId.toNat
  else if o = 0x438 then y.rxParent.toNat
  else 0

/-! ### The loader, the context table, the regulators (02 R70, 03 R102, R120) -/

def lstNum : LState → Nat
  | .empty => 0 | .staging => 1 | .validating => 2 | .valid => 3 | .arming => 4 | .armed => 5 | .installing => 6
  | .committed => 7 | .refused => 8

def readHst (s : State) (o : Nat) : Nat :=
  let h := s.hst
  if o = 8 then word [(lstNum h.st, 0), (h.err.toNat, 8), (b2n h.stagedKind, 16), (h.activeLevel.toNat, 24)]
  else if o = 0x10 then h.stageLen.toNat
  else if o = 0x18 then h.commitCount.toNat
  else if o = 0x20 then h.activeId.toNat
  else if o = 0x28 then h.reloadId.toNat
  else if o = 0x30 then word [(b2n h.reqOperator, 0), (b2n h.reqTenant, 1)]
  else if o = 0x38 then h.droppedWrites.toNat
  else if o = 0x40 then stageBase
  else 0

def cstNum : CState → Nat
  | .absent => 0 | .declared => 1 | .armed => 2 | .running => 3 | .saving => 4 | .saved => 5 | .restoring => 6 | .ending => 7
  | .done => 8 | .teardown => 9 | .gone => 10

def readCtxReg (s : State) (c o : Nat) : Nat :=
  let x := getCtx s c
  if o = 0 then
    word [(cstNum x.st, 0), (b2n x.blocked, 4), (b2n x.lc, 5), (x.part.toNat, 8), (x.cause.toNat, 16), (x.step.toNat, 32),
      (if x.lc then x.tick.toNat else 0, 48)]
  else if o = 8 then x.stepsDone.toNat
  else if o = 0x10 then word [(x.ovrSlot.toNat, 0), (x.ovrTick.toNat, 16)]
  else if o = 0x18 then x.droppedIn.toNat
  else if o = 0x20 then word [(x.lateStarts.toNat, 0), (x.slotWaits.toNat, 32)]
  else if o = 0x28 then x.bind.length
  else 0

def readBucket (s : State) (p l o : Nat) : Nat :=
  let b := getBucket s p l
  if o = 0 then word [(b.rate.toNat, 0), (if b.on then max 4 b.burst.toNat else 0, 32)]
  else if o = 8 then b.milli / 1000
  else if o = 0x10 then b.bytes.toNat
  else if o = 0x18 then b.tokenWait.toNat
  else if o = 0x20 then b.creditWait.toNat
  else if o = 0x28 then b.waits.toNat
  else 0

def readCtab (s : State) (o : Nat) : Nat :=
  let t := s.ctab
  if o = 8 then word [(t.err.toNat, 0), (t.cmdCtx.toNat, 8), (t.cmd.toNat, 12)]
  else if o = 0x10 then t.launchCount.toNat
  else if o = 0x18 then t.stepLimit.toNat
  else if o = 0x20 then b2n t.allBlocked
  else if o = 0x28 then frameBase
  else if 0x1000 ≤ o ∧ o < 0x1400 then readCtxReg s ((o - 0x1000) / 0x40) (o % 0x40)
  else if 0x2000 ≤ o ∧ o < 0x4000 then
    let l := o % 0x200 / 0x40
    if l < 5 then readBucket s ((o - 0x2000) / 0x200) l (o % 0x40) else 0
  else 0

/-! ### The tier manager and the buffer pool manager (09 R336-R338) -/

def readTirCtx (s : State) (c o : Nat) : Nat :=
  let x := getTirCtx s c
  if o = 0 then word [(b1Used s c / 2 ^ 20, 0), (b2Used s c / 2 ^ 20, 32)]
  else if o = 8 then word [((s.tir.staged.filter (fun e => e.ctx.val = c)).length, 0), (x.stageSkipped.toNat, 32)]
  else if o = 0x10 then x.settleBytes.toNat
  else if o = 0x18 then word [(x.settles.toNat, 0), (x.settleRejects.toNat, 32)]
  else if o = 0x20 then x.settleWait.toNat
  else if o = 0x28 then x.promoted.toNat
  else if o = 0x30 then x.demoted.toNat
  else if o = 0x38 then word [(x.migFails.toNat, 0), (x.hintsNoRegion.toNat, 32)]
  else if o = 0x40 then x.b2Reads.toNat
  else if o = 0x48 then x.settleFails.toNat
  else 0

def readTir (s : State) (o : Nat) : Nat :=
  let t := s.tir
  if o = 8 then word [(t.err.toNat, 0), (t.cmdCtx.toNat, 8), (b2n t.done, 12)]
  else if o = 0x10 then 0xAFFD8
  else if o = 0x18 then word [(t.promoteHeat.toNat, 0), (t.migMax.toNat, 16)]
  else if o = 0x20 then word [(t.qCtx.toNat, 0), (t.qRegion.toNat, 4)]
  else if o = 0x28 then
    match regionOf s t.qCtx.toNat t.qRegion.toNat with
    | none => 0
    | some r =>
      let h := t.homes.find? (fun h => h.ctx.val = t.qCtx.toNat && h.region = t.qRegion.toNat)
      word [((h.map (·.b1)).getD 0, 0), (1, 48), (r.kind, 49)]
  else if 0x800 ≤ o ∧ o < 0x900 then
    let e := mget {} t.targets ((o - 0x800) / 16)
    if o % 16 = 0 then word [(b2n e.valid, 0), (b2n e.kind, 1), (e.node.toNat, 16), (e.sizeMib.toNat, 32)] else e.base.toNat
  else if 0x1000 ≤ o ∧ o < 0x1800 then readTirCtx s ((o - 0x1000) / 0x80) (o % 0x80)
  else 0

/-- BASE of a pool: a Bench 0 pool's start in its core of rank 0. -/
def poolBase (s : State) (p : Nat) : Nat :=
  let q := getPool s p
  if !q.declared then 0 else if q.bench1 then q.base else poolStart s p ((coreOrder s q.gang).headD 0)

def readPool (s : State) (p o : Nat) : Nat :=
  let q := getPool s p
  if o = 0 then word [(poolBase s p, 0), (b2n q.bench1, 48), (b2n q.declared, 49), (q.sizeLog2, 52)]
  else if o = 8 then word [(q.count, 0), (poolFree q, 32)]
  else if o = 0x10 then word [(poolStNum q.st, 0), (q.low.toNat, 32)]
  else if o = 0x18 then q.allocs.toNat
  else if o = 0x20 then q.releases.toNat
  else if o = 0x28 then q.waits.toNat
  else if o = 0x30 then word [(q.amberEv.toNat, 0), (q.redEv.toNat, 32)]
  else 0

def readBpm (s : State) (o : Nat) : Nat :=
  if o = 8 then word [(s.bpm.index.toNat, 0), (s.bpm.pool.toNat, 32), (s.bpm.outcome.toNat, 36)]
  else if 0x1000 ≤ o ∧ o < 0x1400 then readPool s ((o - 0x1000) / 0x40) (o % 0x40)
  else 0

/-! ### Engines (07 R254, R255; 08 R297) -/

def rphNum : RPhase → Nat
  | .idle => 0 | .seqWait => 1 | .load => 2 | .score => 3 | .exchange => 4 | .sort => 5 | .outWait => 6 | .emit => 7

def readRdl (s : State) (e o : Nat) : Nat :=
  let r := getRiddle s e
  if o < 0x200 then readFace s (512 + e) o
  else if o = 0x200 then
    word [(r.pc.toNat, 0), (rphNum r.phase, 8), (r.cfgId.toNat, 16), (r.tag.toNat, 32), (r.rank.toNat, 48)]
  else if o = 0x208 then
    word [(r.lastTokens.toNat, 0), (r.lastLive.toNat, 16), (r.lastSpoil.toNat, 32), (r.lastUnplaced.toNat, 48)]
  else if o = 0x210 then r.lastStep.toNat
  else if e ≠ 0 then 0
  else if o = 0x8000 then rdlBase
  else if o = 0x8008 then s.rdl.areaCfgs.toNat
  else if o = 0x8010 then s.rdl.routes.toNat
  else if o = 0x8018 then s.rdl.hints.toNat
  else if o = 0x8020 then s.rdl.unused.toNat
  else if o = 0x8028 then s.rdl.unhinted.toNat
  else 0

def tphNum : TPhase → Nat
  | .idle => 0 | .intake => 1 | .census => 2 | .send => 3 | .gather => 4 | .combine => 5 | .xchg => 6

def readTrw (s : State) (t o : Nat) : Nat :=
  let w := getTrw s t
  if o < 0x200 then readFace s (544 + t) o
  else if o = 0x200 then word [(w.pc.toNat, 0), (tphNum w.phase, 8), (w.tag.toNat, 16)]
  else if o = 0x208 then word [(w.opStarted.toNat, 0), (w.opDone.toNat, 32)]
  else if o = 0x218 then word [(w.abortRes.toNat, 0), (w.abortSeq.toNat, 32)]
  else if o = 0x220 then word [(w.creditMax.toNat, 0), (creditNow s t, 16)]
  else if 0x300 ≤ o ∧ o < 0x380 then (mget 0 w.epoch ((o - 0x300) / 8)).toNat
  else 0

/-! ### The Yard and the adits (11 R391-R393, 12 R431, R432) -/

/-- Granules held: by a partition, or by all. -/
def granulesOf (s : State) (p : Option Nat) : Nat :=
  (s.yard.grants.filter (fun g => match p with
    | some p => decide (g.part = p)
    | none => true)).foldl (fun n g => n + g.granules) 0

/-- UP of a port: die ports and the reduction store's are within the package. -/
def portUp (s : State) (q : Nat) : Bool :=
  if 8 ≤ q ∧ q < 32 then aditUp s (q - 8) else if q = 32 then linkIsUp s else true

def portCut (s : State) (q : Nat) : Nat :=
  if 8 ≤ q ∧ q < 32 then ((aditRec s (q - 8)).map (fun r => r.cutMask.toNat)).getD 0 else 0

def readPort (s : State) (q o : Nat) : Nat :=
  let y := getPort s q
  if o = 0 then word [(b2n (portUp s q), 0), (portCut s q, 1)]
  else if o = 8 then y.bytesOut.toNat
  else if o = 0x10 then y.pktsOut.toNat
  else if o = 0x18 then y.outWait.toNat
  else if o = 0x20 then y.stageWait.toNat
  else if o = 0x28 then word [(y.crcDrops.toNat, 0), (y.sfDrops.toNat, 32)]
  else if o = 0x30 then word [(y.stomped.toNat, 0), (y.downDrops.toNat, 32)]
  else 0

def readYrd (s : State) (o : Nat) : Nat :=
  let y := s.yard
  if o = 0 then b2n y.cmbDisable
  else if o = 8 then word [(y.buntBase.toNat, 0), (y.buntSize.toNat, 48)]
  else if o = 0x10 then word [(y.buntWr.toNat, 0), (y.buntRd.toNat, 32)]
  else if o = 0x18 then y.buntLost.toNat
  else if o = 0x20 then 1024 - granulesOf s none
  else if o = 0x28 then y.rsGrants.toNat
  else if o = 0x30 then y.rsRefusals.toNat
  else if o = 0x38 then word [(y.rsResidueFails.toNat, 0), (y.rsNoGrant.toNat, 32)]
  else if o = 0x40 then y.readMerges.toNat
  else if o = 0x48 then y.atomMerges.toNat
  else if o = 0x50 then y.tableFull.toNat
  else if o = 0x58 then y.resendsAbsorbed.toNat
  else if 0x100 ≤ o ∧ o < 0x180 then
    let p := (o - 0x100) / 8
    word [((mget 0x400 y.rsLimit p).toNat, 0), (granulesOf s (some p), 16)]
  else if 0x200 ≤ o ∧ o < 0x240 then
    let f := mget {} y.filters ((o - 0x200) / 16)
    if o % 16 = 0 then
      word [(b2n f.en, 0), (b2n f.point, 1), (f.port.toNat, 2), (b2n f.anyPort, 8), (f.vcMask.toNat, 9), (f.node.toNat, 16),
        (b2n f.nodeSel, 30), (b2n f.anyNode, 31), (f.sampleM1.toNat, 32)]
    else f.matches_.toNat
  else if 0x1000 ≤ o ∧ o < 0x1880 then readPort s ((o - 0x1000) / 0x40) (o % 0x40)
  else if 0x2000 ≤ o ∧ o < 0x2840 ∧ o % 0x40 < 0x30 then
    let q := (o - 0x2000) / 0x40
    let v := o % 0x40 / 8
    word [(occ s q v, 0), ((mget 0 y.high (q * 8 + v)).toNat, 32)]
  else 0

def astNum : AState → Nat
  | .disabled => 0 | .down => 1 | .training => 2 | .up => 3 | .miswired => 4

def readAdit (s : State) (a o : Nat) : Nat :=
  let x := getAdit s a
  if o = 0 then
    word [(astNum x.st, 0), (b2n x.partnerReady, 3), (b2n x.partnerTime, 4), (x.partnerNode.toNat, 8), (x.partnerAdit.toNat, 24),
      (role a, 32), (x.downCause.toNat, 34)]
  else if o = 8 then x.framesRx.toNat
  else if o = 0x10 then x.fecCorrected.toNat
  else if o = 0x18 then x.fecUncorr.toNat
  else if o = 0x20 then x.lostUnits.toNat
  else if o = 0x28 then x.orphanFlits.toNat
  else if o = 0x30 then word [(x.downCount.toNat, 0), (x.trainAttempts.toNat, 32)]
  else if o = 0x38 then x.lastDown.toNat
  else if o = 0x40 then x.creditWait.toNat
  else 0

def readFab (s : State) (o : Nat) : Nat :=
  let f := s.fab
  if o = 0x8000 then word [(f.timeoutUs.toNat, 0), (f.waitRetry.toNat, 16)]
  else if o = 0x8008 then e2eBase
  else if o = 0x8010 then f.session.toNat
  else if o = 0x8018 then f.sent.toNat
  else if o = 0x8020 then f.resends.toNat
  else if o = 0x8028 then f.acks.toNat
  else if o = 0x8030 then word [(f.unreachable.toNat, 0), (f.unreachSupp.toNat, 32)]
  else if o = 0x8038 then f.duplicates.toNat
  else if o = 0x8040 then word [(f.staleSession.toNat, 0), (f.lateAcks.toNat, 32)]
  else if o = 0x8048 then word [(f.goneAcks.toNat, 0), (f.badPackets.toNat, 32)]
  else if o = 0x8050 then word [(f.noticesSent.toNat, 0), (f.noticesSupp.toNat, 32)]
  else if o = 0x8058 then word [(f.noRoute.toNat, 0), (f.downRoute.toNat, 32)]
  else if o = 0x8060 then f.table.length
  else if o = 0x8068 then f.tableWait.toNat
  else if o = 0x8070 then f.pennantWait.toNat
  else if o = 0x8078 then f.homeReqs.toNat
  else if o = 0x8080 then f.fpAtomics.toNat
  else if o = 0x8088 then f.waits.toNat
  else 0

/-! ### HBM controllers (10 R365, R366) -/

def hstNum : HState → Nat
  | .down => 0 | .training => 1 | .filling => 2 | .service => 3 | .test => 4 | .retrain => 5 | .failed => 6

/-- The lane of a pseudo-channel with the most corrections in the interval, the lowest of them. -/
def topLane (h : Hbm) (p : Nat) : Nat :=
  (List.range 36).foldl (fun b l => if mget 0 h.corr (36 * p + b) < mget 0 h.corr (36 * p + l) then l else b) 0

/-- Bits set in all lane maps. -/
def laneTotal (m : SMap (BitVec 36)) : Nat := m.foldl (fun n e => n + popCount36 e.2) 0

def readPc (h : Hbm) (p o : Nat) : Nat :=
  if o = 0 then (mget 0 h.repaired p).toNat
  else if o = 8 then (mget 0 h.marked p).toNat
  else if o = 0x10 then (mget 0 h.pcCorrected p).toNat
  else word [((mget 0 h.pcUncorr p).toNat, 0), (topLane h p, 32)]

def readHbm (s : State) (n o : Nat) : Nat :=
  let h := getHbm s n
  if o < 0x200 then readFace s (552 + n) o
  else if o = 0x200 then
    word [(hstNum h.st, 0), (h.temp.toNat, 8), (h.failPc.toNat, 16), (b2n h.failValid, 21), (laneTotal h.marked, 24),
      (laneTotal h.repaired, 32)]
  else if o = 0x210 then word [(h.err.toNat, 0), (h.lastCmd.toNat, 8), (b2n h.done, 12)]
  else if o = 0x218 then (pprAddr h).toNat
  else if o = 0x220 then h.xlateIn.toNat
  else if o = 0x228 then word [(xlateOut h.xlateIn.toNat, 0), (h.xlateIn.toNat / 32 % 32, 36)]
  else if o = 0x230 then h.uncorrAddr.toNat
  else if o = 0x238 then b2n h.uncorrValid
  else if o = 0x240 then
    word [(h.wirInstr.toNat, 0), (h.wirChannel.toNat, 8), (b2n h.wirAll, 12), (h.drBitsM1.toNat, 16), (b2n h.shiftGo, 63)]
  else if o = 0x248 then word [(h.burstAddr.toNat, 0), (b2n h.raw, 48), (b2n h.burstWrite, 49), (b2n h.burstGo, 63)]
  else if o = 0x250 then word [(h.bCorrected.toNat, 0), (h.bUncorr.toNat, 8)]
  else if o = 0x258 then h.markThresh.toNat
  else if 0x1000 ≤ o ∧ o < 0x1400 then readPc h ((o - 0x1000) / 0x20) (o % 0x20)
  else if 0x10000 ≤ o ∧ o < 0x10100 then readNat h.data1500 (o - 0x10000) 8
  else if 0x11000 ≤ o ∧ o < 0x12000 then readNat h.burstBuf (o - 0x11000) 8
  else 0

/-! ### Collective engines and groups (13 R464, R465) -/

def readColl (s : State) (d o : Nat) : Nat :=
  let x := getColl s d
  if o = 0 then word [(x.queue.length, 0), (x.ops.length, 16)]
  else if o = 8 then x.opsDone.toNat
  else if o = 0x10 then x.chunksSent.toNat
  else if o = 0x18 then x.chunksRecv.toNat
  else if o = 0x20 then x.creditWait.toNat
  else if o = 0x28 then word [(x.rsFallbacks.toNat, 0), (x.mismatches.toNat, 32)]
  else if o = 0x30 then word [(x.arithFails.toNat, 0), (x.badDescs.toNat, 32)]
  else if o = 0x38 then x.overflow.toNat
  else if o = 0x40 then x.denseBytes.toNat
  else if o = 0x48 then x.wireBytes.toNat
  else 0

def readGroup (s : State) (g o : Nat) : Nat :=
  let x := getCGroup s g
  if o = 0 then
    word [(x.lastCseq.toNat, 0), (x.lastStatus.toNat, 16), (b2n (s.colls.any (fun d => d.2.ops.any (fun p => p.group = g))), 24)]
  else if o = 8 then (cMembers s g).length
  else if o = 0x10 then x.ops.toNat
  else if o = 0x18 then x.drrBytes.toNat
  else if o = 0x20 then x.drrWait.toNat
  else 0

/-! ### The scan window (14 R501) -/

/-- A byte of a scan layout whose inner layout the manual does not give: unknown, and the same throughout one Dip. -/
def scanFree (s : State) (kind i ofs : Nat) : Byte := Config.scanByte (16 + kind) (s.syn.dipCount.toNat * 1024 + i) ofs

/-- A posted descriptor's line (13 R437). -/
def cdescBytes (d : CDesc) : List Byte :=
  padTo 64 (bytesOf 8 (word [(d.group, 0), (d.kind, 8), (d.rop, 12), (d.fmt.toNat, 14), (b2n d.var_, 18), (b2n d.empty, 19),
      (b2n d.sparse, 20), (b2n d.zcomp, 21), (d.cnt.toNat, 22), (d.stagePool, 26), (d.cseq.toNat, 32), (d.core, 48)]) ++
    bytesOf 8 (word [(d.srcAddr, 0), (d.dstAddr, 16), (d.statusAddr, 32)]) ++
    bytesOf 8 (word [(d.len, 0), (d.arg, 24), (d.granules, 48)]))

/-- A capture descriptor. -/
def capDesc (c : Capture) : Nat := word [(c.nib.toNat, 0), (c.slot, 4), (c.seq.toNat, 10), (1, 63)]

/-- Bytes of a virtual channel's receive buffer. -/
def rxBytes (a v : Nat) : Nat := (if v < 2 then 32 else 64) * rxUnits a v

/-- What a receive buffer holds of one virtual channel, oldest unit first. -/
def rxHeld (x : Adit) (v : Nat) : List Byte :=
  ((x.rx ++ (x.asm.map (fun e => e.2.1))).filter (fun p => p.vc.toNat = v)).flatMap (fun p =>
    pktHeader p p.hops.toNat p.crc.toNat ++ padFlits p.payload)

/-- Units that a receive buffer holds. -/
def rxHeldUnits (x : Adit) (v : Nat) : Nat :=
  ((x.rx ++ (x.asm.map (fun e => e.2.1))).filter (fun p => p.vc.toNat = v)).foldl (fun n p => n + pktUnits p) 0

/-- The start of a virtual channel's receive buffer in the layout. -/
def rxStart (a v : Nat) : Nat := (List.range v).foldl (fun n i => n + rxBytes a i) 0x10000

/-- The scan layout of an adit. -/
def scanAdit (s : State) (a b : Nat) : Byte :=
  let x := getAdit s a
  if b < 0x200 then
    match x.capture[b / 8]? with
    | some c => BitVec.ofNat 8 (capDesc c / 256 ^ (b % 8))
    | none => 0
  else if 0x1000 ≤ b ∧ b < 0x2000 then
    match x.capture[(b - 0x1000) / 64]? with
    | some c => c.bytes.getD (b % 64) 0
    | none => 0
  else if 0x2000 ≤ b ∧ b < 0x2030 then
    let v := (b - 0x2000) / 8
    BitVec.ofNat 8 (word [(rxHeldUnits x v, 0), ((mget 0 x.afterCut v).toNat, 32)] / 256 ^ (b % 8))
  else match [0, 1, 2, 3, 4, 5].find? (fun v => decide (rxStart a v ≤ b ∧ b < rxStart a v + rxBytes a v)) with
    | some v => (rxHeld x v).getD (b - rxStart a v) 0
    | none => 0

/-- A byte of a word read at an aligned offset. -/
def byteOf (f : Nat → Nat) (b : Nat) : Byte := BitVec.ofNat 8 (f (b / 8 * 8) / 256 ^ (b % 8))

/-- One byte of the block that SCAN_KIND and SCAN_INDEX choose. -/
def scanAt (s : State) (b : Nat) : Byte :=
  let i := s.dbg.scanIndex.toNat
  match s.dbg.scanKind.toNat with
  | 0 =>
    if i < 512 ∧ coreEnabled s i then
      if b < 0x280000 then mget 0 (getCore s i).b0 b else if b < 0x2B5000 then scanFree s 0 i b else 0
    else 0
  | 1 =>
    if 32 ≤ i then 0
    else if b < 0x10000 then byteOf (readRdl s i) b
    else if b < 0x20000 then scanFree s 1 i b
    else if b < 0x420000 then (getRiddle s i).lane.getD (b - 0x20000) 0
    else if b < 0x460000 then scanFree s 1 i b
    else 0
  | 2 =>
    if 8 ≤ i then 0
    else if b < 0x40000 then byteOf (readTrw s i) b
    else if b < 0x41800 then scanFree s 2 i b
    else 0
  | 3 =>
    if 8 ≤ i then 0
    else if b < 0x400 then byteOf (readColl s i) b
    else if 0x1000 ≤ b ∧ b < 0x5000 then
      match (getColl s i).queue[(b - 0x1000) / 64]? with
      | some d => (cdescBytes d).getD (b % 64) 0
      | none => 0
    else 0
  | 4 =>
    if b < 0x40000 then byteOf (readYrd s) b
    else if 0x100000 ≤ b ∧ b < 0x4640000 then scanFree s 4 0 b
    else 0
  | 5 => if i < 24 then scanAdit s i b else 0
  | 6 => if i < 32 ∧ b < 0x20000 then byteOf (readHbm s i) b else 0
  | _ => 0

/-- A word of the scan window: zero while DIP_STATE is not DIPPED. -/
def readScan (s : State) (o : Nat) : Nat :=
  if frozen s then
    natOf ((List.range 8).map (fun j => scanAt s (s.dbg.scanPage.toNat * 65536 + o + j)))
  else 0

/-! ### DBG_ (14 R506) -/

def readSet (x : SampleSet) (o : Nat) : Nat :=
  if o = 0 then word [(b2n x.en, 0), (b2n x.trig, 1), (x.tkind.toNat, 2), (x.tindex.toNat, 5), (x.mask.toNat, 32)]
  else x.period.toNat

def readRing (r : Ring) (o : Nat) : Nat :=
  if o = 0 then word [(r.base.toNat, 0), (r.size.toNat, 48)]
  else if o = 8 then word [(r.wr.toNat, 0), (r.rd.toNat, 32)]
  else r.lost.toNat

def readDbg (s : State) (o : Nat) : Nat :=
  let d := s.dbg
  if o < 0x18 then readRing d.samp o
  else if o < 0x30 then readRing d.dig (o - 0x18)
  else if 0x38 ≤ o ∧ o < 0x58 then (mget 0 d.cmdReset ((o - 0x38) / 8)).toNat
  else if 0x100 ≤ o ∧ o < 0x200 then readSet (getSet s ((o - 0x100) / 16)) (o % 16)
  else if o = 0x800 then word [(d.scanKind.toNat, 0), (d.scanIndex.toNat, 4), (d.scanPage.toNat, 16)]
  else if o = 0x1000 then word [(d.viewGang.toNat, 0), (b2n (gangDeclared s d.viewGang.toNat), 12)]
  else if 0x1200 ≤ o ∧ o < 0x1400 then readView s (o - 0x1200)
  else if 0x2000 ≤ o ∧ o < 0x2200 then
    let x := getCtx s ((o - 0x2000) / 32)
    match o % 32 with
    | 0 => x.ndc.toNat
    | 8 => x.digTotal.toNat
    | 16 => x.spoilTotal.toNat
    | _ => word [(x.lateFolds.toNat, 0), (x.digOverflow.toNat, 32)]
  else if 0x10000 ≤ o ∧ o < 0x20000 then readScan s (o - 0x10000)
  else if 0x30000 ≤ o ∧ o < 0x32000 then readColl s ((o - 0x30000) / 0x400) (o % 0x400)
  else if 0x38000 ≤ o ∧ o < 0x39000 then readGroup s ((o - 0x38000) / 0x40) (o % 0x40)
  else 0

/-! ### The control window (01 R38, R39) -/

/-- The value of the register at an offset of the control window, a multiple of 8. -/
def regValue (s : State) (off : Nat) : Nat :=
  if off < 0x10000 then readDev s off
  else if off < 0x20000 then readPwr s (off - 0x10000)
  else if off < 0x40000 then readSyn s (off - 0x20000)
  else if off < 0x80000 then readDbg s (off - 0x40000)
  else if off < 0x100000 then readHst s (off - 0x80000)
  else if off < 0x200000 then readCtab s (off - 0x100000)
  else if off < 0x300000 then readTir s (off - 0x200000)
  else if off < 0x400000 then readBpm s (off - 0x300000)
  else if off < 0x600000 then readRdl s ((off - 0x400000) / 0x10000) (off % 0x10000)
  else if off < 0x800000 then 0
  else if off < 0xA00000 then readTrw s ((off - 0x800000) / 0x40000) (off % 0x40000)
  else if off < 0xC00000 then 0
  else if off < 0x1000000 then readYrd s (off - 0xC00000)
  else if off < 0x1180000 then
    let a := (off - 0x1000000) / 0x10000
    let o := off % 0x10000
    if 0x8000 ≤ o then (if a = 0 then readFab s o else 0) else readAdit s a o
  else if off < 0x2000000 then 0
  else if off < 0x2400000 then readHbm s ((off - 0x2000000) / 0x20000) (off % 0x20000)
  else if off < 0x4000000 then 0
  else if off < 0x6000000 then
    let k := (off - 0x4000000) / 0x10000
    let o := off % 0x10000
    if coreEnabled s k ∧ o < 0x200 then readFace s k o else 0
  else 0

/-- CW_RD: one register, answered with its value, or RANGE (15 R522). -/
def cwOk (addr : Nat) : Bool := addr % 8 = 0 && decide (addr < 2 ^ 28)

def execCwRd (tag : BitVec 12) (addr : BitVec 56) (s : State) : Host.Outcome State Fault Refusal :=
  .next (if !linkIsUp s then s
    else if cwOk addr.toNat then rspTo s tag 0 (padTo 16 (bytesOf 8 (regValue s addr.toNat)))
    else rspTo s tag 2 (List.replicate 16 0))

end Sys2Proof.Machine
end

