-- ==== Sys2Proof/Machine/RegW.lean ====
section
/-!
DEFINITION. Writes of the control window (00 R11-R13; 15 R522, R523): every field of every block that is not read-only, and the
commands that a write gives. Reserved fields, read-only fields and reserved offsets take nothing.
-/
namespace Sys2Proof.Machine

/-- A field of a written word. -/
def fld (w v lo : Nat) : BitVec w := BitVec.ofNat w (v / 2 ^ lo)

/-! ### DEV_ (15 R528, R529, R535) -/

/-- ALERT: ones clear status bits; THERMAL stays set while AUTO_LEVEL is above zero (R535, 16 R555). -/
def alertWrite (s : State) (v : Nat) : State :=
  let st := s.aon.alertStatus &&& ~~~ (fld 8 v 0)
  let st := if 0 < s.pwr.autoLevel then st ||| 8 else st
  { s with aon := { s.aon with alertStatus := st, alertMask := fld 8 v 8 } }

def writeDev (s : State) (o v : Nat) : State :=
  if o = 0x18 then nodeWrite s (fld 14 v 0)
  else if o = 0x200 then { s with evt := { s.evt with base := fld 56 v 0, size := fld 5 v 56 } }
  else if o = 0x208 then { s with evt := { s.evt with rd := fld 32 v 32 } }
  else if o = 0x218 then { s with evt := { s.evt with irqEn := bitAt v 0, holdoff := fld 16 v 16, vector := fld 32 v 32 } }
  else if o = 0x300 then alertWrite s v
  else s

/-! ### PWR_ (16 R551, R556, R559, R561) -/

/-- A reset asked for: it acts 1 µs later, with any other that waits (R551). -/
def resetWrite (s : State) (m : BitVec 5) : State :=
  if m = 0 then s
  else match s.pwr.resetAt with
    | none => { s with pwr := { s.pwr with resetAt := some (s.ns + 1000, m) } }
    | some (t, k) => { s with pwr := { s.pwr with resetAt := some (t, k ||| m) } }

/-- A level as it acts: above 8 as 8. -/
def levelOf (l : BitVec 4) : Nat := min 8 l.toNat

/-- A write of DRV_LEVEL and THR_AT_EN: in effect at once, or held for PWR_THR_AT (R556). -/
def drvWrite (s : State) (l : BitVec 4) (atEn : Bool) : State :=
  let now := if atEn then s.pwr.drvInForce else levelOf l
  { s with pwr := { s.pwr with
      drvLevel := l
      thrAtEn := atEn
      drvInForce := now
      drvHeld := if atEn then some (levelOf l) else none
      byAuto := if max now s.pwr.autoLevel = max s.pwr.drvInForce s.pwr.autoLevel then s.pwr.byAuto else false } }

/-- PWR_LIMIT_W and TJ_HOT take at most their fused values (R559). -/
def limitWrite (s : State) (v : Nat) : State :=
  { s with pwr := { s.pwr with
      limitW := BitVec.ofNat 16 (min (bits v 15 0) s.fuses.pwrLimit.toNat)
      tjHot := BitVec.ofNat 8 (min (bits v 39 32) s.fuses.tjHot.toNat) } }

/-- PWR_ registers; MAIN acts from the Burgee port alone (R551). -/
def writePwr (s : State) (burgee : Bool) (o v : Nat) : State :=
  if o = 8 then resetWrite s (fld 5 v 0 &&& (if burgee then 31 else 15))
  else if o = 0x18 then drvWrite s (fld 4 v 0) (bitAt v 4)
  else if o = 0x20 then { s with pwr := { s.pwr with thrAt := fld 64 v 0 } }
  else if o = 0x28 then limitWrite s v
  else s

/-! ### SYN_ (14 R505) -/

/-- DIP_REQ and AT_EN: a change of AT_EN schedules or drops the Dip by count. -/
def dipCtlWrite (s : State) (burgee : Bool) (v : Nat) : State :=
  let s :=
    if bitAt v 1 = s.syn.atEn then s
    else dipSchedule (setSyn s (fun y => { y with atEn := bitAt v 1 }))
  if bitAt v 0 then requestDip s (if burgee then 2 else 1) else s

/-- The broadcast command (R505). -/
def bcastCmd (s : State) (v : Nat) : State :=
  if !loaderTakes s then s
  else match bits v 3 0 with
    | 1 => guarded s (bcastSend s)
    | 2 => bcastArm s
    | 3 => bcastAbandon s
    | _ => s

def writeSyn (s : State) (burgee : Bool) (o v : Nat) : State :=
  if o = 0x10 then parentWrite s (bitAt v 0) (fld 5 v 1) (bitAt v 6)
  else if o = 0x200 then dipCtlWrite s burgee v
  else if o = 0x208 then dipSchedule (setSyn s (fun y => { y with dipAt := fld 64 v 0 }))
  else if o = 0x210 then setSyn s (fun y => { y with trigMask := fld 5 v 0 })
  else if o = 0x400 then bcastCmd s v
  else if o = 0x408 then setSyn s (fun y => { y with chLo := fld 8 v 0, chHi := fld 8 v 8 })
  else if o = 0x410 then setSyn s (fun y => { y with bcastCommit := fld 64 v 0 })
  else if o = 0x418 then setSyn s (fun y => { y with bcastLaunch := fld 64 v 0 })
  else if o = 0x420 then setSyn s (fun y => { y with ctxMask := fld 16 v 0, timeoutUs := fld 32 v 32 })
  else s

/-! ### DBG_ (14 R506) -/

def setDbg (s : State) (f : Dbg → Dbg) : State := { s with dbg := f s.dbg }

def setWrite (x : SampleSet) (o v : Nat) : SampleSet :=
  if o = 0 then { x with en := bitAt v 0, trig := bitAt v 1, tkind := fld 3 v 2, tindex := fld 12 v 5, mask := fld 32 v 32 }
  else { x with period := fld 32 v 0 }

def writeDbg (s : State) (o v : Nat) : State :=
  if o = 0 then setDbg s (fun d => { d with samp := { d.samp with base := fld 48 v 0, size := fld 5 v 48 } })
  else if o = 8 then setDbg s (fun d => { d with samp := { d.samp with rd := fld 32 v 32 } })
  else if o = 0x18 then setDbg s (fun d => { d with dig := { d.dig with base := fld 48 v 0, size := fld 5 v 48 } })
  else if o = 0x20 then setDbg s (fun d => { d with dig := { d.dig with rd := fld 32 v 32 } })
  else if o = 0x30 then cntReset s (BitVec.ofNat 64 v)
  else if 0x38 ≤ o ∧ o < 0x58 then setDbg s (fun d => { d with cmdReset := mput 0 d.cmdReset ((o - 0x38) / 8) (fld 32 v 0) })
  else if 0x100 ≤ o ∧ o < 0x200 then putSet s ((o - 0x100) / 16) (setWrite (getSet s ((o - 0x100) / 16)) (o % 16) v)
  else if o = 0x800 then setDbg s (fun d => { d with scanKind := fld 4 v 0, scanIndex := fld 9 v 4, scanPage := fld 32 v 16 })
  else if o = 0x1000 then setDbg s (fun d => { d with viewGang := fld 12 v 0 })
  else s

/-! ### The loader and the context table (02 R70, 03 R102) -/

/-- HST_CTRL. -/
def loaderCmd (s : State) (v : Nat) : State :=
  if !loaderTakes s then s
  else match bits v 3 0 with
    | 1 => loaderBegin s
    | 2 => loaderValidate s
    | 3 => loaderArm s
    | 4 => loaderCancel s
    | _ => s

/-- HST_POLICY: ones set, and nothing clears (02 R70, 15 R538). -/
def policyWrite (s : State) (v : Nat) : State :=
  let o := s.hst.reqOperator || bitAt v 0
  let t := s.hst.reqTenant || bitAt v 1
  if o = s.hst.reqOperator ∧ t = s.hst.reqTenant then s
  else policyMeas (setHst s (fun h => { h with reqOperator := o, reqTenant := t }))

def writeHst (s : State) (o v : Nat) : State :=
  if o = 0 then loaderCmd s v
  else if o = 0x10 then setHst s (fun h => { h with stageLen := fld 32 v 0 })
  else if o = 0x18 then setHst s (fun h => { h with commitCount := fld 64 v 0 })
  else if o = 0x30 then policyWrite s v
  else s

/-- CTX_CMD. -/
def ctxCmd (s : State) (v : Nat) : State :=
  let c := bits v 7 4
  if frozen s then s
  else match bits v 3 0 with
    | 1 => launch s c
    | 2 => guarded s (save s c)
    | 3 => restore s c
    | 4 => guarded s (stopCmd s c)
    | 5 => kill s c
    | 6 => releaseCmd s c
    | _ => s

def writeCtab (s : State) (o v : Nat) : State :=
  if o = 0 then ctxCmd s v
  else if o = 0x10 then { s with ctab := { s.ctab with launchCount := fld 64 v 0 } }
  else if o = 0x18 then { s with ctab := { s.ctab with stepLimit := fld 32 v 0 } }
  else if o = 0x20 then { s with ctab := { s.ctab with allBlocked := s.ctab.allBlocked && !bitAt v 0 } }
  else s

/-! ### The tier manager and the buffer pool manager (09 R336, R338) -/

def targetWrite (e : B2Target) (o v : Nat) : B2Target :=
  if o = 0 then { e with valid := bitAt v 0, kind := bitAt v 1, node := fld 14 v 16, sizeMib := fld 32 v 32 }
  else { e with base := fld 64 v 0 }

def setTir (s : State) (f : Tier → Tier) : State := { s with tir := f s.tir }

def writeTir (s : State) (o v : Nat) : State :=
  if o = 0 then (if !frozen s && decide (bits v 3 0 = 1) then settleCmd s (bits v 7 4) else s)
  else if o = 0x18 then setTir s (fun t => { t with promoteHeat := fld 16 v 0, migMax := fld 16 v 16 })
  else if o = 0x20 then setTir s (fun t => { t with qCtx := fld 4 v 0, qRegion := fld 16 v 4 })
  else if 0x800 ≤ o ∧ o < 0x900 then
    let i := (o - 0x800) / 16
    setTir s (fun t => { t with targets := mput {} t.targets i (targetWrite (mget {} t.targets i) (o % 16) v) })
  else s

def writeBpm (s : State) (o v : Nat) : State :=
  if o = 0 then
    match bits v 3 0 with
    | 1 => bpmAlloc s (bits v 7 4) (bits v 15 8)
    | 2 => bpmRelease s (bits v 7 4) (bits v 63 32)
    | 3 => bpmReset s (bits v 7 4)
    | _ => s
  else s

/-! ### The Tramway, the Yard, the fabric registers (08 R297, 11 R391, 12 R432) -/

def writeTrw (s : State) (t o v : Nat) : State :=
  if o = 0x210 then (if frozen s then s else guarded s (abort s t (bits v 35 32) (fld 32 v 0)))
  else if o = 0x220 then poolEased (setTrw s t { getTrw s t with creditMax := fld 16 v 0 })
  else s

def setYard (s : State) (f : Yard → Yard) : State := { s with yard := f s.yard }

/-- A write of a filter starts its count of matches again (11 R391). -/
def filterWrite (v : Nat) : BFilter :=
  { en := bitAt v 0, point := bitAt v 1, port := fld 6 v 2, anyPort := bitAt v 8, vcMask := fld 6 v 9, node := fld 14 v 16,
    nodeSel := bitAt v 30, anyNode := bitAt v 31, sampleM1 := fld 16 v 32, matches_ := 0 }

def writeYrd (s : State) (o v : Nat) : State :=
  if o = 0 then setYard s (fun y => { y with cmbDisable := bitAt v 0 })
  else if o = 8 then setYard s (fun y => { y with buntBase := fld 48 v 0, buntSize := fld 5 v 48 })
  else if o = 0x10 then setYard s (fun y => { y with buntRd := fld 32 v 32 })
  else if 0x100 ≤ o ∧ o < 0x180 then setYard s (fun y => { y with rsLimit := mput 0x400 y.rsLimit ((o - 0x100) / 8) (fld 11 v 0) })
  else if 0x200 ≤ o ∧ o < 0x240 ∧ o % 16 = 0 then
    setYard s (fun y => { y with filters := mput {} y.filters ((o - 0x200) / 16) (filterWrite v) })
  else s

def writeFab (s : State) (o v : Nat) : State :=
  if o = 0x8000 then { s with fab := { s.fab with timeoutUs := fld 10 v 0, waitRetry := fld 10 v 16 } } else s

/-! ### HBM controllers (10 R360, R365) -/

def hbmCmd (s : State) (n v : Nat) : State :=
  match bits v 3 0 with
  | 1 => hbmTestEnter s n
  | 2 => hbmTestExit s n
  | 3 => hbmRetrain s n
  | 4 => hbmRepair s n 4
  | 5 => hbmRepair s n 5
  | 6 => hbmClearMarks s n
  | _ => s

def pprWrite (h : Hbm) (v : Nat) : Hbm :=
  { h with channel := fld 4 v 0, pc := bitAt v 4, sid := fld 2 v 8, bank := fld 6 v 10, row := fld 18 v 16 }

def ctrl1500 (h : Hbm) (v : Nat) : Hbm :=
  { h with wirInstr := fld 8 v 0, wirChannel := fld 4 v 8, wirAll := bitAt v 12, drBitsM1 := fld 11 v 16 }

def burstCtrl (h : Hbm) (v : Nat) : Hbm :=
  { h with burstAddr := fld 48 v 0, raw := bitAt v 48, burstWrite := bitAt v 49 }

def writeHbm (s : State) (n o v : Nat) : State :=
  let h := getHbm s n
  if o = 0x208 then hbmCmd s n v
  else if o = 0x218 then setHbm s n (pprWrite h v)
  else if o = 0x220 then setHbm s n { h with xlateIn := fld 48 v 0 }
  else if o = 0x238 then setHbm s n { h with uncorrValid := h.uncorrValid && !bitAt v 0 }
  else if o = 0x240 then
    let s := setHbm s n (ctrl1500 h v)
    if bitAt v 63 then shiftStart s n else s
  else if o = 0x248 then
    let s := setHbm s n (burstCtrl h v)
    if bitAt v 63 then testBurst s n else s
  else if o = 0x258 then setHbm s n { h with markThresh := fld 16 v 0 }
  else if 0x10000 ≤ o ∧ o < 0x10100 then setHbm s n { h with data1500 := writeBytes h.data1500 (o - 0x10000) (bytesOf 8 v) }
  else if 0x11000 ≤ o ∧ o < 0x12000 then setHbm s n { h with burstBuf := writeBytes h.burstBuf (o - 0x11000) (bytesOf 8 v) }
  else s

/-! ### The control window -/

/-- A write at an offset of the control window, a multiple of 8. -/
def writeReg (s : State) (burgee : Bool) (off v : Nat) : State :=
  if off < 0x10000 then writeDev s off v
  else if off < 0x20000 then writePwr s burgee (off - 0x10000) v
  else if off < 0x40000 then writeSyn s burgee (off - 0x20000) v
  else if off < 0x80000 then writeDbg s (off - 0x40000) v
  else if off < 0x100000 then writeHst s (off - 0x80000) v
  else if off < 0x200000 then writeCtab s (off - 0x100000) v
  else if off < 0x300000 then writeTir s (off - 0x200000) v
  else if off < 0x400000 then writeBpm s (off - 0x300000) v
  else if 0x800000 ≤ off ∧ off < 0xA00000 then writeTrw s ((off - 0x800000) / 0x40000) (off % 0x40000) v
  else if 0xC00000 ≤ off ∧ off < 0x1000000 then writeYrd s (off - 0xC00000) v
  else if 0x1000000 ≤ off ∧ off < 0x1010000 then writeFab s (off - 0x1000000) v
  else if 0x2000000 ≤ off ∧ off < 0x2400000 then writeHbm s ((off - 0x2000000) / 0x20000) (off % 0x20000) v
  else s

/-- The rails of the main side are up. -/
def railsUp (s : State) : Bool := s.pwr.stage ≠ .off

/-- CW_WR: the write takes effect, then CMP (15 R522). -/
def execCwWr (tag : BitVec 12) (addr : BitVec 56) (v : W64) (s : State) : Host.Outcome State Fault Refusal :=
  .next (if !linkIsUp s then s
    else if cwOk addr.toNat then cmpTo (writeReg s false addr.toNat v.toNat) tag 0
    else cmpTo s tag 2)

/-! ### What the Burgee port reaches (15 R534, 10 R363) -/

/-- The offset lies in a block that the port reaches. -/
def burgeeReach (off : Nat) : Bool :=
  off % 8 = 0 && (decide (off < 0x80000) || (decide (0x2000000 ≤ off ∧ off < 0x2400000) && decide (0x200 ≤ off % 0x20000)))

/-- The register lies in the always-on domain. -/
def alwaysOn (off : Nat) : Bool := decide (0x300 ≤ off ∧ off < 0x10000) || off = 0x10010

/-- The domain of the register is off. -/
def unpowered (s : State) (off : Nat) : Bool := !railsUp s && !alwaysOn off

/-- A write of a register that has no row of its own, through the control window or the Burgee port (00 R12). -/
def registerWrite (s : State) (burgee : Bool) (off v : Nat) : State :=
  if burgee then (if s.pins.vaon && burgeeReach off && !unpowered s off then writeReg s true off v else s)
  else if linkIsUp s && off % 8 = 0 then writeReg s false off v
  else s

def execRegisterWrite (burgee : Bool) (off : BitVec 28) (v : W64) (s : State) : Host.Outcome State Fault Refusal :=
  .next (registerWrite s burgee off.toNat v.toNat)

/-- MEASUREMENT_RECOMPUTED: the slot takes its new value (15 R538). -/
def execMeasurementRecomputed (m : Fin 8) (s : State) : Host.Outcome State Fault Refusal :=
  .next (if (getMeas s m.val).pending then measSet s m.val (getMeas s m.val).next else s)

end Sys2Proof.Machine
end

