-- ==== Sys2Proof/Machine/Burgee.lean ====
section
/-!
DEFINITION. The Burgee port (15 R530-R540): I3C, MCTP control messages, register access, identity and measurements, and keys.
`aon.answer` holds the bytes of the port's last answer.
-/
namespace Sys2Proof.Machine

/-! ### Answers -/

def setAon (s : State) (f : Aon → Aon) : State := { s with aon := f s.aon }

/-- The port is powered: it runs from standby power alone. -/
def portOn (s : State) : Bool := s.pins.vaon

/-- The big-endian bytes of a number. -/
def bytesBE (n v : Nat) : List Byte := (bytesOf n v).reverse

/-- A list cut or padded with zeros to `n` bytes. -/
def fit (n : Nat) (l : List Byte) : List Byte := padTo n (l.take n)

/-- The bytes of an I3C read. -/
def i3cAnswer (s : State) (d : List Byte) : State := setAon s (fun a => { a with answer := d })

/-- An MCTP message that waits to be read, announced by an in-band interrupt where the controller has enabled it (R530). -/
def mctpAnswer (s : State) (d : List Byte) : State :=
  setAon s (fun a => { a with answer := d, ibi := decide (a.i3cDa ≠ 0) && a.i3cEvents.getLsbD 0 })

/-! ### I3C (R530) -/

/-- The provisional ID: bit 32 set, bits [31:0] those of SERIAL_LO. -/
def pid (s : State) : Nat := word [(s.fuses.serialLo.toNat % 2 ^ 32, 0), (1, 32), (Config.i3cMfr.toNat, 33)]

def pidBytes (s : State) : List Byte := bytesBE 6 (pid s)

/-- ENTDAA: a target without a dynamic address shows its provisional ID, BCR and DCR, and takes the address. -/
def execEntdaa (da : BitVec 7) (s : State) : Host.Outcome State Fault Refusal :=
  .next (if portOn s ∧ s.aon.i3cDa = 0 then
      i3cAnswer (setAon s (fun a => { a with i3cDa := da, hotJoin := false })) (pidBytes s ++ [Config.i3cBcr, Config.i3cDcr])
    else s)

def execRstdaa (s : State) : Host.Outcome State Fault Refusal :=
  .next (if portOn s then setAon s (fun a => { a with i3cDa := 0 }) else s)

/-- The port has a dynamic address, by which direct commands reach it. -/
def addressed (s : State) : Bool := portOn s && decide (s.aon.i3cDa ≠ 0)

def execSetnewda (da : BitVec 7) (s : State) : Host.Outcome State Fault Refusal :=
  .next (if addressed s then setAon s (fun a => { a with i3cDa := da }) else s)

def execGetpid (s : State) : Host.Outcome State Fault Refusal := .next (if addressed s then i3cAnswer s (pidBytes s) else s)
def execGetbcr (s : State) : Host.Outcome State Fault Refusal := .next (if addressed s then i3cAnswer s [Config.i3cBcr] else s)
def execGetdcr (s : State) : Host.Outcome State Fault Refusal := .next (if addressed s then i3cAnswer s [Config.i3cDcr] else s)

/-- GETSTATUS: the manual does not give the word; each read is a free value. -/
def execGetstatus (s : State) : Host.Outcome State Fault Refusal :=
  .next (if addressed s then
      i3cAnswer { s with free := s.free + 1 } (bytesBE 2 (Config.i3cStatus s.free).toNat)
    else s)

def execGetmxds (s : State) : Host.Outcome State Fault Refusal :=
  .next (if addressed s then i3cAnswer s (bytesBE 2 Config.i3cMxds.toNat) else s)

/-- ENEC and DISEC: bit 0 in-band interrupts, bit 3 Hot-Join. -/
def execEnec (mask : Byte) (s : State) : Host.Outcome State Fault Refusal :=
  .next (if portOn s then setAon s (fun a => { a with i3cEvents := a.i3cEvents ||| (mask &&& 9) }) else s)

def execDisec (mask : Byte) (s : State) : Host.Outcome State Fault Refusal :=
  .next (if portOn s then setAon s (fun a => { a with i3cEvents := a.i3cEvents &&& ~~~ mask }) else s)

/-! ### MCTP control messages (R531) -/

/-- A control response: message type 0, command code, completion code and data. -/
def ctrlAnswer (s : State) (cmd cc : Byte) (d : List Byte) : State := mctpAnswer s ([0, 0, cmd, cc] ++ d)

/-- Set Endpoint ID: operations set and force; the reserved endpoint IDs and the other operations are refused. -/
def setEid (s : State) (op : BitVec 2) (eid : Byte) : State :=
  if 2 ≤ op.toNat ∨ eid = 0 ∨ eid = 0xFF then ctrlAnswer s 1 2 []
  else ctrlAnswer (setAon s (fun a => { a with eid := eid })) 1 0 [0, eid, 0]

def execSetEndpointId (op : BitVec 2) (eid : Byte) (s : State) : Host.Outcome State Fault Refusal :=
  .next (if portOn s then setEid s op eid else s)

def execGetEndpointId (s : State) : Host.Outcome State Fault Refusal :=
  .next (if portOn s then ctrlAnswer s 2 0 [s.aon.eid, 0, 0] else s)

def execGetEndpointUuid (s : State) : Host.Outcome State Fault Refusal :=
  .next (if portOn s then ctrlAnswer s 3 0 (fit 16 Config.endpointUuid) else s)

/-- Get MCTP Version Support: version 1.3 of the base specification, of control messages and of vendor messages. -/
def execGetMctpVersionSupport (mtype : Byte) (s : State) : Host.Outcome State Fault Refusal :=
  .next (if !portOn s then s
    else if mtype = 0xFF ∨ mtype = 0 ∨ mtype = 0x7F then ctrlAnswer s 4 0 [1, 0xF1, 0xF3, 0xFF, 0x00]
    else ctrlAnswer s 4 0x80 [])

def execGetMessageTypeSupport (s : State) : Host.Outcome State Fault Refusal :=
  .next (if portOn s then ctrlAnswer s 5 0 [1, 0x7F] else s)

/-- Get Vendor Defined Message Support: one set, named by BURGEE_PEN. -/
def execGetVendorDefinedMessageSupport (selector : Byte) (s : State) : Host.Outcome State Fault Refusal :=
  .next (if !portOn s then s
    else if selector = 0 then ctrlAnswer s 6 0 ([0xFF, 1] ++ bytesBE 4 s.fuses.pen.toNat ++ bytesBE 2 Config.mctpVendorSet.toNat)
    else ctrlAnswer s 6 2 [])

/-! ### Hjelnor messages (R532, R533) -/

/-- A response: type, enterprise number, HCLASS, HCODE, the requester's sequence with bit 7 set, status, body. -/
def hjAnswer (s : State) (cls code : Byte) (rseq : BitVec 7) (status : Byte) (d : List Byte) : State :=
  mctpAnswer s ([0x7F] ++ bytesBE 4 s.fuses.pen.toNat ++ [cls, code, 0x80 ||| rseq.zeroExtend 8, status] ++ d)

/-- The 128-bit serial number. -/
def serial (s : State) : List Byte := bytesOf 8 s.fuses.serialLo.toNat ++ bytesOf 8 s.fuses.serialHi.toNat

/-! ### Register access (R534) -/

/-- Offsets of `n` registers from `o` on. -/
def regRange (o n : Nat) : List Nat := (List.range n).map (fun i => o + 8 * i)

/-- Status and data of REG_READ. -/
def regReadAns (s : State) (b : List Byte) : Byte × List Byte :=
  let o := natAt b 0 4
  let l := regRange o (natAt b 4 1)
  if b.length ≠ 5 ∨ l = [] ∨ 16 < l.length then (2, [])
  else if !l.all burgeeReach then (3, [])
  else if l.any (unpowered s) then (4, [])
  else (0, l.flatMap (fun x => bytesOf 8 (regValue s x)))

def execRegRead (rseq : BitVec 7) (body : List Byte) (s : State) : Host.Outcome State Fault Refusal :=
  .next (if portOn s then hjAnswer s 1 1 rseq (regReadAns s body).1 (regReadAns s body).2 else s)

/-- Status and effect of REG_WRITE. -/
def regWriteAns (s : State) (b : List Byte) : Byte × State :=
  let o := natAt b 0 4
  if b.length ≠ 12 then (2, s)
  else if !burgeeReach o then (3, s)
  else if unpowered s o then (4, s)
  else (0, writeReg s true o (natAt b 4 8))

def execRegWrite (rseq : BitVec 7) (body : List Byte) (s : State) : Host.Outcome State Fault Refusal :=
  .next (if portOn s then hjAnswer (regWriteAns s body).2 1 2 rseq (regWriteAns s body).1 [] else s)

/-! ### Ensign (R533, R536, R538) -/

/-- The response of GET_IDENTITY after its status. -/
def identity (s : State) : List Byte :=
  serial s ++ bytesOf 2 0x5120 ++ bytesOf 1 s.fuses.grade.toNat ++ bytesOf 1 s.fuses.stepping.toNat ++ [1] ++
  bytesOf 4 s.dev.fwVersion.toNat ++ bytesOf 2 s.dev.fwSvn.toNat ++ fit 57 Config.devicePublicKey ++ fit 16 Config.caKeyId ++
  fit 114 Config.certificate

def execGetIdentity (rseq : BitVec 7) (body : List Byte) (s : State) : Host.Outcome State Fault Refusal :=
  .next (if !portOn s then s
    else if body ≠ [] then hjAnswer s 2 0x10 rseq 2 []
    else hjAnswer s 2 0x10 rseq 0 (identity s))

/-- The response bytes of one slot. -/
def measBytes (s : State) (m : Nat) : List Byte :=
  let x := getMeas s m
  bytesOf 1 m ++ bytesOf 1 (b2n x.pending) ++ bytesOf 4 x.count.toNat ++ fit 64 x.value

/-- The slots of a mask, in ascending order. -/
def measAll (s : State) (mask : Nat) : List Byte := ((List.range 8).filter (bitAt mask)).flatMap (measBytes s)

/-- Status and data of GET_MEASUREMENTS; slot 0 is empty until the boot ROM has measured the firmware. -/
def measAns (s : State) (b : List Byte) : Byte × List Byte :=
  if b.length ≠ 33 then (2, [])
  else if (getMeas s 0).value = [] then (5, [])
  else
    let d := measAll s (natAt b 32 1)
    (0, d ++ fit 114 (Config.deviceSign (ascii "HJ-ENSIGN-MEAS" ++ serial s ++ b.take 32 ++ d)))

def execGetMeasurements (rseq : BitVec 7) (body : List Byte) (s : State) : Host.Outcome State Fault Refusal :=
  .next (if portOn s then hjAnswer s 2 0x11 rseq (measAns s body).1 (measAns s body).2 else s)

/-! ### Keys (R539) -/

/-- The measurement of a role's four keys (R538): operator keys are slot 2's, tenant keys slot 3's. -/
def keysMeas (s : State) (role : Nat) : State :=
  measStart s (role + 1) (shake256 ((List.range 4).flatMap (fun i => fit 57 (mget [] s.aon.keys (4 * (role - 1) + i)))) 64)

/-- A key slot filled or emptied: KEY_SEQ advances, KEY_CHANGED is set, the role is measured again. -/
def keyPut (s : State) (role slot : Nat) (k : List Byte) : State :=
  let s := setAon s (fun a => { a with keys := mput [] a.keys (4 * (role - 1) + slot) k, keySeq := inc32 a.keySeq 1 })
  keysMeas (setAlert s 6) role

/-- The operator keys enrolled. -/
def operatorKeys (s : State) : List (List Byte) := ((List.range 4).map (fun i => mget [] s.aon.keys i)).filter (· ≠ [])

/-- A signature by an enrolled operator key over the request up to it. -/
def keySigned (s : State) (msg sig : List Byte) : Bool :=
  (operatorKeys s).any (fun k => ed448Verify k (ascii "HJ-ENSIGN-KEY" ++ serial s ++ msg) sig)

/-- A role and a slot that the request may name. -/
def keyNamed (b : List Byte) : Bool := decide (natAt b 0 1 = 1 ∨ natAt b 0 1 = 2) && decide (natAt b 1 1 < 4)

/-- Status and effect of ENROLL_KEY. -/
def enrollAns (s : State) (b : List Byte) : Byte × State :=
  let sig := b.drop 63
  if b.length ≠ 177 then (2, s)
  else if !keyNamed b then (3, s)
  else if natAt b 2 4 ≠ s.aon.keySeq.toNat then (7, s)
  else if (natAt b 0 1 = 1 ∧ operatorKeys s = [] ∧ natOf sig = 0) ∨ keySigned s (b.take 63) sig = true then
    (0, keyPut s (natAt b 0 1) (natAt b 1 1) ((b.drop 6).take 57))
  else (6, s)

def execEnrollKey (rseq : BitVec 7) (body : List Byte) (s : State) : Host.Outcome State Fault Refusal :=
  .next (if portOn s then hjAnswer (enrollAns s body).2 3 0x20 rseq (enrollAns s body).1 [] else s)

/-- Status and effect of REVOKE_KEY. -/
def revokeAns (s : State) (b : List Byte) : Byte × State :=
  if b.length ≠ 120 then (2, s)
  else if !keyNamed b then (3, s)
  else if natAt b 2 4 ≠ s.aon.keySeq.toNat then (7, s)
  else if keySigned s (b.take 6) (b.drop 6) then (0, keyPut s (natAt b 0 1) (natAt b 1 1) [])
  else (6, s)

def execRevokeKey (rseq : BitVec 7) (body : List Byte) (s : State) : Host.Outcome State Fault Refusal :=
  .next (if portOn s then hjAnswer (revokeAns s body).2 3 0x21 rseq (revokeAns s body).1 [] else s)

/-- The response of GET_KEYS after its status. -/
def keyList (s : State) : List Byte := bytesOf 4 s.aon.keySeq.toNat ++ (List.range 8).flatMap (slotKeyId s)

def execGetKeys (rseq : BitVec 7) (body : List Byte) (s : State) : Host.Outcome State Fault Refusal :=
  .next (if !portOn s then s
    else if body ≠ [] then hjAnswer s 3 0x22 rseq 2 []
    else hjAnswer s 3 0x22 rseq 0 (keyList s))

end Sys2Proof.Machine
end

