-- ==== Sys2Proof/Machine/Power.lean ====
section
/-!
DEFINITION. Power, reset and bring-up (16): standby power, pins, the power-up stages, the reset domains, the ramp governor and the
throttle.
-/
namespace Sys2Proof.Machine

def setPwr (s : State) (f : Pwr → Pwr) : State := { s with pwr := f s.pwr }
def setPins (s : State) (f : Pins → Pins) : State := { s with pins := f s.pins }

/-! ### The compute domain (R549, 14 R503) -/

/-- A request that a block of the compute domain injected: every one but those of the combining unit. -/
def computeOwned : Owner → Bool
  | .cmb _ => false
  | _ => true

/-- A packet of a send-table entry that a compute reset discards. -/
def goneWith (gone : List SendEnt) (p : Packet) : Bool := gone.any (fun e => samePkt e.pkt p)

/-- Send-table entries of cleared blocks discarded, without UNREACHABLE, with their packets that have not left the package
(14 R503). -/
def dropRequests (s : State) : State :=
  let gone := s.fab.table.filter (fun e => computeOwned e.owner)
  { s with
    fab := { s.fab with
      table := s.fab.table.filter (fun e => !computeOwned e.owner)
      held := s.fab.held.filter (fun h => !computeOwned h.owner)
      inject := s.fab.inject.filter (fun e => !goneWith gone e.2)
      msgs := [] }
    yard := { s.yard with
      out := s.yard.out.filter (fun e => !goneWith gone e.pkt)
      stage := s.yard.stage.filter (fun e => !goneWith gone e.2) }
    drg := { s.drg with reqs := s.drg.reqs.filter (fun r => match r.2 with
      | .tier _ | .b2 .. => false
      | _ => true) } }

/-- The Halyard's part of SYN_, which lies in the fabric domain; the Dip and broadcast parts at reset. -/
def synKeep (y : Syn) : Syn :=
  { st := y.st, everLocked := y.everLocked, error := y.error, lockLosses := y.lockLosses, root := y.root,
    parentAdit := y.parentAdit, parentEn := y.parentEn, slews := y.slews, errs := y.errs, frames := y.frames,
    setOnce := y.setOnce, recent := y.recent, lastSlew := y.lastSlew, holdAt := y.holdAt }

/-- The faces that a compute reset keeps, those of the HBM controllers: no stop, no owner. -/
def faceKeep (u : Nat) (f : Face) : Face :=
  if u < 552 then {} else { f with stopIn := false, stopSrc := 0, owner := none, arrived := false }

/-- The blocks of the compute domain at reset: the loader but for its policy, tables, ticks, contexts, regulators, units, tier and
pool managers, collectives, debug, and the Dip and broadcast parts of SYN_. -/
def clearCompute (s : State) : State :=
  { s with
    hst := { reqOperator := s.hst.reqOperator, reqTenant := s.hst.reqTenant }
    tab := {}
    tick := {}
    ctab := {}
    ctxs := []
    buckets := []
    faces := mmap {} faceKeep s.faces
    gangs := []
    cores := []
    saved := []
    riddles := []
    rdl := {}
    tramways := []
    tir := {}
    bpm := {}
    colls := []
    cgroups := []
    dbg := {}
    syn := synKeep s.syn
    pwr := { s.pwr with govQueue := [], waking := [], awake := [] } }

/-- Lines that home units hold go to Bench 1, whose bytes the reset leaves in place. -/
def flushLines (s : State) : State := s.lines.foldl dropLine s

/-- The output of a port that is down is discarded at the end of the Dip. -/
def discardDown (s : State) : State :=
  let s := (List.range 24).foldl (fun s a => if aditUp s a then s else discardOutput s (8 + a)) s
  if linkIsUp s then s else discardOutput s 32

/-- A reset of the compute domain; it ends the Dip, and frozen blocks of the fabric domain go on with their contents
(14 R503). -/
def resetCompute (s : State) : State := discardDown (clearCompute (dropRequests (flushLines s)))

/-! ### The fabric, host and HBM domains (R549, 14 R483) -/

/-- Times kept as Halyard counts of the other domains, when the Halyard starts again at 0. -/
def rebase (s : State) : State :=
  { s with
    halyard := 0
    hbms := mmap {} (fun _ h => { h with lastPost := [] }) s.hbms
    evt := { s.evt with irqNext := s.evt.irqNext - s.halyard }
    drg := { s.drg with lastFlit := 0, trainAt := 0 }
    pwr := { s.pwr with govNext := s.pwr.govNext - s.halyard } }

/-- A reset of the fabric domain: adits, the Yard, the end-to-end protocol and the Halyard; the compute domain with it. -/
def resetFabric (s : State) : State :=
  { rebase (clearCompute (dropRequests (flushLines s))) with adits := [], yard := {}, fab := {}, lines := [], syn := {} }

/-- A reset of the host domain: the link is down, the filter, the event queue and the ring's registers are cleared. -/
def resetHost (s : State) : State :=
  let s := if linkIsUp s then hostDownNow s else s
  { s with drg := { trainAt := s.halyard }, evt := {} }

/-- A controller after a reset of its domain: hard repairs and the stack's hard row repairs stay (10 R356, R357, R360). -/
def hbmKeep (st : HState) (h : Hbm) : Hbm := { st := st, hardRepaired := h.hardRepaired, hardSpares := h.hardSpares }

/-- Every controller in one state after a reset. -/
def hbmAll (s : State) (st : HState) : SMap Hbm :=
  (List.range 32).foldl (fun m n => mput {} m n (hbmKeep st (getHbm s n))) []

/-- The power-up has reached HBM training. -/
def hbmStarted (s : State) : Bool := match s.pwr.stage with
  | .hbmTrain | .aditTrain | .sync | .ready => true
  | .failed => s.pwr.failStage = 3
  | _ => false

/-- A reset of the HBM domain, with host, fabric and compute: every controller trains and fills its stack again. -/
def resetHbm (s : State) : State :=
  let s := resetFabric (resetHost s)
  { s with faces := [], hbms := hbmAll s (if hbmStarted s then .training else .down) }

/-! ### The main domain (R542, R549, R560, R561) -/

/-- Measurement slots 0, 1, 4, 5 and 6 read zero from a main reset. -/
def measClear (s : State) : State := [0, 1, 4, 5, 6].foldl (fun s m => measSet s m []) s

/-- A reset of the main side: all but the always-on domain at reset, PWR_RESET_CAUSE recorded, PGOOD_OUT low; the power-up is at
`st`. The link goes down at once (15 R510). -/
def mainReset (s : State) (cause : Nat) (st : Stage) : State :=
  let s := measClear (if linkIsUp s then setAlert s 2 else s)
  { State.reset with
    pending := s.pending
    free := s.free
    ns := s.ns
    fuses := s.fuses
    pins := { s.pins with pgoodOut := false }
    aon := { s.aon with resetCause := BitVec.ofNat 3 cause }
    pwr := { stage := st, limitW := s.fuses.pwrLimit, tjHot := s.fuses.tjHot }
    bench1 := s.bench1
    chk := s.chk
    hbms := hbmAll s .down }

/-! ### PWR_RESET (R551) -/

/-- The requests that act at one moment: the largest domain named takes the others in. -/
def resetAct (s : State) (m : BitVec 5) : State :=
  if m.getLsbD 4 then mainReset s 3 .fuse
  else if m.getLsbD 2 then resetHbm s
  else
    let s := if m.getLsbD 1 then resetFabric s else if m.getLsbD 0 then resetCompute s else s
    if m.getLsbD 3 then resetHost s else s

/-- A reset of PWR_RESET acts: 1 µs after its write, with every request that waits. -/
def resetDue (s : State) (m : BitVec 5) : State :=
  if !railsUp s then s
  else
    let w := s.pwr.resetAt.getD (s.ns + 1000, 0)
    let s := advanceNs s w.1
    resetAct (setPwr s (fun p => { p with resetAt := none })) (w.2 ||| m)

def execPwrResetCompute (s : State) : Host.Outcome State Fault Refusal := .next (resetDue s 1)
def execPwrResetFabric (s : State) : Host.Outcome State Fault Refusal := .next (resetDue s 2)
def execPwrResetHbm (s : State) : Host.Outcome State Fault Refusal := .next (resetDue s 4)
def execPwrResetHost (s : State) : Host.Outcome State Fault Refusal := .next (resetDue s 8)

/-- PWR_RESET_MAIN: from the Burgee port, which runs from standby power. -/
def execPwrResetMain (s : State) : Host.Outcome State Fault Refusal := .next (if portOn s then resetDue s 16 else s)

/-! ### Standby power and pins (R541-R544, 15 R530, R539) -/

/-- VAON_UP: the always-on domain starts at reset and announces itself on a running bus. -/
def execVaonUp (s : State) : Host.Outcome State Fault Refusal :=
  .next (if s.pins.vaon then s
    else { s with pins := { s.pins with vaon := true }, aon := { hotJoin := true } })

/-- VAON_LOSS: keys, measurements and every register of the always-on domain are lost, and the main side with them. -/
def execVaonLoss (s : State) : Host.Outcome State Fault Refusal :=
  .next (if !s.pins.vaon then s
    else
      let s := mainReset s 0 .off
      { s with aon := {}, bench1 := [], chk := [],
               pins := { vaon := false, pgoodIn := false, resetN := false, pgoodOut := false } })

/-- PGOOD_IN: it falls; with RESET_N released the main side resets, with no GOING_DOWN frame (R542). -/
def execPgoodIn (s : State) : Host.Outcome State Fault Refusal :=
  .next (if !s.pins.pgoodIn then s
    else
      let s := setPins s (fun p => { p with pgoodIn := false })
      if s.pins.resetN && railsUp s then mainReset s 1 .off else s)

/-- RESET_N_ASSERT: the main side resets. -/
def execResetNAssert (s : State) : Host.Outcome State Fault Refusal :=
  .next (if !s.pins.resetN then s
    else
      let s := setPins s (fun p => { p with resetN := false })
      if railsUp s then mainReset s 2 .off else s)

/-- RESET_N_RELEASE: the board has asserted PGOOD_IN at least 1 ms before; the power-up begins in FUSE (R542, R545). -/
def execResetNRelease (s : State) : Host.Outcome State Fault Refusal :=
  .next (if !s.pins.vaon || s.pins.resetN then s
    else setPwr (setPins s (fun p => { p with resetN := true, pgoodIn := true, thermtripN := true }))
      (fun p => { p with stage := .fuse }))

/-! ### The power-up stages (R545-R547) -/

/-- FUSE ends: the fuses are loaded, PGOOD_OUT is released, the Halyard starts at 0 in FREE, and the boot ROM begins. -/
def execFuse (s : State) : Host.Outcome State Fault Refusal :=
  .next (if s.pwr.stage = .fuse then
      { s with
        halyard := 0
        pins := { s.pins with pgoodOut := true }
        dev := { s.dev with fw := .verifying }
        pwr := { s.pwr with stage := .boot, limitW := s.fuses.pwrLimit, tjHot := s.fuses.tjHot } }
    else s)

/-- Header, body and signature of a firmware image (15 R537). -/
def fwBody (img : List Byte) : Nat := natAt img 8 4
def fwSigned (img : List Byte) : List Byte := img.take (128 + fwBody img)
def fwSig (img : List Byte) : List Byte := (img.drop (128 + fwBody img)).take 114
def fwKey (img : List Byte) : List Byte := (img.drop 16).take 57

/-- An image of at most 4 MiB with its magic word stands at the offset (R546). -/
def fwPresent (img : List Byte) : Bool :=
  natAt img 0 4 = 0x57464A48 && decide (128 + fwBody img + 114 ≤ 0x400000) && decide (128 + fwBody img + 114 ≤ img.length)

/-- What the boot ROM makes of an image (15 R537). -/
def fwCheck (s : State) (img : List Byte) : FwState :=
  if !fwPresent img then .noImage
  else if !s.fuses.fwKeys.any (fun k => k.1 = keyId (fwKey img) && !k.2) then .badSig
  else if !ed448Verify (fwKey img) (fwSigned img) (fwSig img) then .badSig
  else if natAt img 4 2 < s.fuses.minSvn.toNat then .rollback
  else .running

/-- Measurement slot 1: DEV_ offsets 0x0000 to 0x0017 and the CORES words (15 R538). -/
def identityMeas (s : State) : List Byte :=
  shake256 ([0, 8, 16, 0x40, 0x48, 0x50, 0x58, 0x60, 0x68, 0x70, 0x78].flatMap (fun o => bytesOf 8 (readDev s o))) 64

/-- The firmware runs: it is measured, and the stacks and Dragiper Link begin to train. -/
def bootOk (s : State) (img : List Byte) : State :=
  let s := { s with
    dev := { s.dev with fw := .running, fwVersion := BitVec.ofNat 32 (natAt img 12 4), fwSvn := BitVec.ofNat 16 (natAt img 4 2) }
    pwr := { s.pwr with stage := .hbmTrain }
    hbms := hbmAll s .training
    drg := { s.drg with st := .training, trainAt := s.halyard } }
  measSet (measSet s 0 (shake256 (fwSigned img) 64)) 1 (identityMeas s)

/-- Both images failed: the main side does not start (R546). -/
def bootFail (s : State) (fw : FwState) : State :=
  setAlert { s with dev := { s.dev with fw := fw }, pwr := { s.pwr with stage := .failed, failStage := 2 } } 0

/-- BOOT: the image at offset 0, else the one at 0x80_0000 (R546). -/
def boot (s : State) (img0 img1 : List Byte) : State :=
  if fwCheck s img0 = .running then bootOk s img0
  else if fwCheck s img1 = .running then bootOk s img1
  else bootFail s (fwCheck s img1)

def execBoot (img0 img1 : List Byte) (s : State) : Host.Outcome State Fault Refusal :=
  .next (if s.pwr.stage = .boot then boot s img0 img1 else s)

/-- ADIT_TRAIN: the first training attempt of every adit; then SYNC, or READY where the Halyard is locked already (R545). -/
def execAditTrain (s : State) : Host.Outcome State Fault Refusal :=
  .next (if s.pwr.stage = .aditTrain then
      let s := (List.range 24).foldl (fun s a => setAdit s a (trainBegin s (getAdit s a))) s
      stageReady (setPwr s (fun p => { p with stage := .sync }))
    else s)

/-! ### Sensors and the throttle (R554-R556, R560) -/

/-- The hottest reading of all dies. -/
def tjTop (p : Pwr) : Nat := (List.range 13).foldl (fun m d => max m (mget 0 p.tjDie d).toNat) 0

/-- THERMAL_TRIP: a sensor at or above TJ_TRIP drives THERMTRIP_N and PGOOD_OUT low and resets the main side, with no GOING_DOWN
frames; a lower reading is only recorded. -/
def execThermalTrip (die : Fin 13) (t : Byte) (s : State) : Host.Outcome State Fault Refusal :=
  .next (if !railsUp s then s
    else if s.fuses.tjTrip.toNat ≤ t.toNat then
      setPins (mainReset s 4 .fuse) (fun p => { p with thermtripN := false })
    else
      let s := setPwr s (fun p => { p with tjDie := mput 0 p.tjDie die.val t })
      setPwr s (fun p => { p with tjMax := BitVec.ofNat 8 (tjTop p) }))

/-- A new AUTO_LEVEL: it has caused the change of L where L changes; THERMAL is set while it is above zero. -/
def autoSet (s : State) (a : Nat) : State :=
  let s := setPwr s (fun p => { p with
    autoLevel := a
    byAuto := if max p.drvInForce a = max p.drvInForce p.autoLevel then p.byAuto else true })
  if 0 < a then setAlert s 3 else s

/-- The end of an interval (R555): `hot` says that TJ_MAX reached TJ_HOT within it, `avg` its average package power. -/
def thermalEnd (s : State) (hot : Bool) (avg : BitVec 16) (tj : Byte) : State :=
  let s := setPwr s (fun p => { p with avgW := avg, tjMax := tj })
  if hot || decide (s.pwr.tjHot.toNat ≤ tj.toNat) || decide (s.pwr.limitW.toNat < avg.toNat) then
    autoSet (setPwr s (fun p => { p with coolFor := 0 })) (min 8 (s.pwr.autoLevel + 1))
  else
    let s := setPwr s (fun p => { p with coolFor := min 100 (p.coolFor + 1) })
    if s.pwr.coolFor = 100 then autoSet s (s.pwr.autoLevel - 1) else s

/-- AUTO_LEVEL: the next aligned interval of 1,000,000 counts ends. -/
def execAutoLevel (hot : Bool) (avgW : BitVec 16) (tjMax : Byte) (s : State) : Host.Outcome State Fault Refusal :=
  .next (if mainUp s then thermalEnd (advanceTo s (nextMultiple s 1000000)) hot avgW tjMax else s)

/-- DRV_LEVEL: a write of the level with THR_AT_EN. -/
def execDrvLevel (level : BitVec 4) (atEn : Bool) (s : State) : Host.Outcome State Fault Refusal :=
  .next (if mainUp s then drvWrite s level atEn else s)

/-- PWR_THR_AT: the Halyard reaches the count and the held level takes effect. -/
def thrAt (s : State) : State :=
  match s.pwr.drvHeld with
  | none => s
  | some l => setPwr (advanceTo s s.pwr.thrAt.toNat) (fun p => { p with
      drvHeld := none
      drvInForce := l
      byAuto := if max l p.autoLevel = max p.drvInForce p.autoLevel then p.byAuto else false })

def execPwrThrAt (s : State) : Host.Outcome State Fault Refusal := .next (if mainUp s then thrAt s else s)

/-! ### The ramp governor (R552, R553) -/

/-- GOVERNOR_WAVE: up to 32 queued cores, at least 5,000 counts after the wave before. -/
def governorWave (s : State) : State :=
  if s.pwr.govQueue = [] then s
  else
    let s := advanceTo s s.pwr.govNext
    let w := s.pwr.govQueue.take 32
    setPwr s (fun p => { p with
      govQueue := p.govQueue.drop 32
      govWait := inc64 p.govWait (w.foldl (fun t e => t + (s.halyard - e.2)) 0)
      govWaves := inc32 p.govWaves 1
      govNext := s.halyard + 5000
      waking := p.waking ++ w.map (fun e => (e.1, s.halyard + 5000)) })

def execGovernorWave (s : State) : Host.Outcome State Fault Refusal := .next (if mainUp s then governorWave s else s)

/-- CORE_AWAKE: 5,000 counts after its wave. -/
def coreAwake (s : State) (k : Nat) : State :=
  match s.pwr.waking.find? (fun e => e.1 = k) with
  | none => s
  | some e => setPwr (advanceTo s e.2) (fun p => { p with
      waking := p.waking.filter (fun x => x.1 ≠ k)
      awake := p.awake ++ [k] })

def execCoreAwake (k : Fin 512) (s : State) : Host.Outcome State Fault Refusal := .next (if mainUp s then coreAwake s k.val else s)

end Sys2Proof.Machine
end

