-- ==== Sys2Proof/Machine/Dispatch.lean ====
section
/-!
DEFINITION. The one arm per command of the device: each calls the command's own meaning.
-/
namespace Sys2Proof.Machine

/-- The effect of a command on everything but the queue, as the spec's rules give it. -/
def exec (i : Instr) (s : State) : Host.Outcome State Fault Refusal :=
  match i with
  | .begin => Sys2Proof.Machine.execBegin s
  | .validate => Sys2Proof.Machine.execValidate s
  | .validationComplete => Sys2Proof.Machine.execValidationComplete s
  | .arm => Sys2Proof.Machine.execArm s
  | .cancel => Sys2Proof.Machine.execCancel s
  | .shadowCopyDone => Sys2Proof.Machine.execShadowCopyDone s
  | .commitCount => Sys2Proof.Machine.execCommitCount s
  | .installComplete => Sys2Proof.Machine.execInstallComplete s
  | .tickBoundary => Sys2Proof.Machine.execTickBoundary s
  | .slotIssue c n => Sys2Proof.Machine.execSlotIssue c n s
  | .slotRetire c n => Sys2Proof.Machine.execSlotRetire c n s
  | .launch c => Sys2Proof.Machine.execLaunch c s
  | .save c => Sys2Proof.Machine.execSave c s
  | .restore c => Sys2Proof.Machine.execRestore c s
  | .stop c => Sys2Proof.Machine.execStop c s
  | .kill c => Sys2Proof.Machine.execKill c s
  | .release c => Sys2Proof.Machine.execRelease c s
  | .firstStep c => Sys2Proof.Machine.execFirstStep c s
  | .saveComplete c => Sys2Proof.Machine.execSaveComplete c s
  | .restoreComplete c => Sys2Proof.Machine.execRestoreComplete c s
  | .teardownComplete c => Sys2Proof.Machine.execTeardownComplete c s
  | .allBlocked => Sys2Proof.Machine.execAllBlocked s
  | .regulatorPass p l => Sys2Proof.Machine.execRegulatorPass p l s
  | .unitStop u => Sys2Proof.Machine.execUnitStop u s
  | .nop k => Sys2Proof.Machine.execNop k s
  | .endProg k => Sys2Proof.Machine.execEndProg k s
  | .loop k sa imm => Sys2Proof.Machine.execLoop k sa imm s
  | .br k cond sa sb imm => Sys2Proof.Machine.execBr k cond sa sb imm s
  | .li k sd imm => Sys2Proof.Machine.execLi k sd imm s
  | .lih k sd imm => Sys2Proof.Machine.execLih k sd imm s
  | .add k sd sa sb imm => Sys2Proof.Machine.execAdd k sd sa sb imm s
  | .sub k sd sa sb imm => Sys2Proof.Machine.execSub k sd sa sb imm s
  | .mul k sd sa sb imm => Sys2Proof.Machine.execMul k sd sa sb imm s
  | .and k sd sa sb imm => Sys2Proof.Machine.execAnd k sd sa sb imm s
  | .or k sd sa sb imm => Sys2Proof.Machine.execOr k sd sa sb imm s
  | .xor k sd sa sb imm => Sys2Proof.Machine.execXor k sd sa sb imm s
  | .shl k sd sa sb imm => Sys2Proof.Machine.execShl k sd sa sb imm s
  | .shr k sd sa sb imm => Sys2Proof.Machine.execShr k sd sa sb imm s
  | .sra k sd sa sb imm => Sys2Proof.Machine.execSra k sd sa sb imm s
  | .min k sd sa sb imm => Sys2Proof.Machine.execMin k sd sa sb imm s
  | .max k sd sa sb imm => Sys2Proof.Machine.execMax k sd sa sb imm s
  | .aset k ad sa imm => Sys2Proof.Machine.execAset k ad sa imm s
  | .aadd k ad sa imm => Sys2Proof.Machine.execAadd k ad sa imm s
  | .aget k sd ad => Sys2Proof.Machine.execAget k sd ad s
  | .rdsys k sd imm => Sys2Proof.Machine.execRdsys k sd imm s
  | .sld k sd ad imm => Sys2Proof.Machine.execSld k sd ad imm s
  | .sst k sa ad imm => Sys2Proof.Machine.execSst k sa ad imm s
  | .waittick k imm => Sys2Proof.Machine.execWaittick k imm s
  | .muster k gang => Sys2Proof.Machine.execMuster k gang s
  | .waitc k sv cnt => Sys2Proof.Machine.execWaitc k sv cnt s
  | .takec k sv cnt => Sys2Proof.Machine.execTakec k sv cnt s
  | .fence k qmask => Sys2Proof.Machine.execFence k qmask s
  | .movL k f => Sys2Proof.Machine.execMovL k f s
  | .movP k f => Sys2Proof.Machine.execMovP k f s
  | .movT k f => Sys2Proof.Machine.execMovT k f s
  | .movHR k f => Sys2Proof.Machine.execMovHR k f s
  | .movHW k f => Sys2Proof.Machine.execMovHW k f s
  | .atom k f => Sys2Proof.Machine.execAtom k f s
  | .vld k f => Sys2Proof.Machine.execVld k f s
  | .vst k f => Sys2Proof.Machine.execVst k f s
  | .vadd k f => Sys2Proof.Machine.execVadd k f s
  | .vsub k f => Sys2Proof.Machine.execVsub k f s
  | .vmul k f => Sys2Proof.Machine.execVmul k f s
  | .vfma k f => Sys2Proof.Machine.execVfma k f s
  | .vmax k f => Sys2Proof.Machine.execVmax k f s
  | .vmin k f => Sys2Proof.Machine.execVmin k f s
  | .vabs k f => Sys2Proof.Machine.execVabs k f s
  | .vneg k f => Sys2Proof.Machine.execVneg k f s
  | .vcvt k f => Sys2Proof.Machine.execVcvt k f s
  | .vexp k f => Sys2Proof.Machine.execVexp k f s
  | .vlog k f => Sys2Proof.Machine.execVlog k f s
  | .vtanh k f => Sys2Proof.Machine.execVtanh k f s
  | .vrcp k f => Sys2Proof.Machine.execVrcp k f s
  | .vrsqrt k f => Sys2Proof.Machine.execVrsqrt k f s
  | .vsqrt k f => Sys2Proof.Machine.execVsqrt k f s
  | .vdiv k f => Sys2Proof.Machine.execVdiv k f s
  | .vcmp k f => Sys2Proof.Machine.execVcmp k f s
  | .vsel k f => Sys2Proof.Machine.execVsel k f s
  | .vbcast k f => Sys2Proof.Machine.execVbcast k f s
  | .vrsum k f => Sys2Proof.Machine.execVrsum k f s
  | .vrmax k f => Sys2Proof.Machine.execVrmax k f s
  | .vrmin k f => Sys2Proof.Machine.execVrmin k f s
  | .vacc k f => Sys2Proof.Machine.execVacc k f s
  | .vgets k f => Sys2Proof.Machine.execVgets k f s
  | .vand k f => Sys2Proof.Machine.execVand k f s
  | .vor k f => Sys2Proof.Machine.execVor k f s
  | .vxor k f => Sys2Proof.Machine.execVxor k f s
  | .vshl k f => Sys2Proof.Machine.execVshl k f s
  | .vshr k f => Sys2Proof.Machine.execVshr k f s
  | .matmul k f => Sys2Proof.Machine.execMatmul k f s
  | .spmm k f => Sys2Proof.Machine.execSpmm k f s
  | .pack k f => Sys2Proof.Machine.execPack k f s
  | .operationComplete k q residueOk => Sys2Proof.Machine.execOperationComplete k q residueOk s
  | .route e f => Sys2Proof.Machine.execRoute e f s
  | .lrtab e f => Sys2Proof.Machine.execLrtab e f s
  | .riddleEnd e => Sys2Proof.Machine.execRiddleEnd e s
  | .scoreBlock e residueOk => Sys2Proof.Machine.execScoreBlock e residueOk s
  | .capacityExchange e => Sys2Proof.Machine.execCapacityExchange e s
  | .handover e => Sys2Proof.Machine.execHandover e s
  | .dispatch t f => Sys2Proof.Machine.execDispatch t f s
  | .combine t f => Sys2Proof.Machine.execCombine t f s
  | .xchg t f => Sys2Proof.Machine.execXchg t f s
  | .tramwayEnd t => Sys2Proof.Machine.execTramwayEnd t s
  | .intake t => Sys2Proof.Machine.execIntake t s
  | .census t => Sys2Proof.Machine.execCensus t s
  | .blockDescriptor p => Sys2Proof.Machine.execBlockDescriptor p s
  | .rows p => Sys2Proof.Machine.execRows p s
  | .result p residueOk => Sys2Proof.Machine.execResult p residueOk s
  | .cancelled p => Sys2Proof.Machine.execCancelled p s
  | .segment p => Sys2Proof.Machine.execSegment p s
  | .abort t ctx opSeq => Sys2Proof.Machine.execAbort t ctx opSeq s
  | .stage => Sys2Proof.Machine.execStage s
  | .migrationSwitch c => Sys2Proof.Machine.execMigrationSwitch c s
  | .settle c => Sys2Proof.Machine.execSettle c s
  | .settleComplete c => Sys2Proof.Machine.execSettleComplete c s
  | .alloc p refs => Sys2Proof.Machine.execAlloc p refs s
  | .bpmRelease p n => Sys2Proof.Machine.execBpmRelease p n s
  | .bpmReset p => Sys2Proof.Machine.execBpmReset p s
  | .allocationServed p => Sys2Proof.Machine.execAllocationServed p s
  | .narrowPath n addr mask data errs req => Sys2Proof.Machine.execNarrowPath n addr mask data errs req s
  | .longBurst n addr write data errs req => Sys2Proof.Machine.execLongBurst n addr write data errs req s
  | .markInterval n => Sys2Proof.Machine.execMarkInterval n s
  | .temperatureRead n t => Sys2Proof.Machine.execTemperatureRead n t s
  | .refresh n => Sys2Proof.Machine.execRefresh n s
  | .rfm n => Sys2Proof.Machine.execRfm n s
  | .hbmTrain n idOk fails => Sys2Proof.Machine.execHbmTrain n idOk fails s
  | .testEnter n => Sys2Proof.Machine.execTestEnter n s
  | .testExit n => Sys2Proof.Machine.execTestExit n s
  | .retrain n => Sys2Proof.Machine.execRetrain n s
  | .sppr n => Sys2Proof.Machine.execSppr n s
  | .hppr n => Sys2Proof.Machine.execHppr n s
  | .clearMarks n => Sys2Proof.Machine.execClearMarks n s
  | .hbmCommandDone n idOk fails => Sys2Proof.Machine.execHbmCommandDone n idOk fails s
  | .hbm1500Shift n => Sys2Proof.Machine.execHbm1500Shift n s
  | .testBurst n => Sys2Proof.Machine.execTestBurst n s
  | .packetAccept q p => Sys2Proof.Machine.execPacketAccept q p s
  | .packetAdmit q v => Sys2Proof.Machine.execPacketAdmit q v s
  | .transmit a v => Sys2Proof.Machine.execTransmit a v s
  | .groupEntryExpiry => Sys2Proof.Machine.execGroupEntryExpiry s
  | .linkFrame a f => Sys2Proof.Machine.execLinkFrame a f s
  | .trainingAttempt a => Sys2Proof.Machine.execTrainingAttempt a s
  | .linkUp a p => Sys2Proof.Machine.execLinkUp a p s
  | .linkDown a goingDown => Sys2Proof.Machine.execLinkDown a goingDown s
  | .ack p => Sys2Proof.Machine.execAck p s
  | .notice p => Sys2Proof.Machine.execNotice p s
  | .store p => Sys2Proof.Machine.execStore p s
  | .load p => Sys2Proof.Machine.execLoad p s
  | .atomic p => Sys2Proof.Machine.execAtomic p s
  | .loadResp p => Sys2Proof.Machine.execLoadResp p s
  | .e2eTimeout dest psn => Sys2Proof.Machine.execE2eTimeout dest psn s
  | .waitRetry dest psn => Sys2Proof.Machine.execWaitRetry dest psn s
  | .pennantRelease dest => Sys2Proof.Machine.execPennantRelease dest s
  | .lineWriteback h => Sys2Proof.Machine.execLineWriteback h s
  | .collectiveStart d g => Sys2Proof.Machine.execCollectiveStart d g s
  | .header p => Sys2Proof.Machine.execHeader p s
  | .verdict p => Sys2Proof.Machine.execVerdict p s
  | .credit p => Sys2Proof.Machine.execCredit p s
  | .partialVal p residueOk => Sys2Proof.Machine.execPartialVal p residueOk s
  | .failed p => Sys2Proof.Machine.execFailed p s
  | .collectiveResult p => Sys2Proof.Machine.execCollectiveResult p s
  | .data p => Sys2Proof.Machine.execData p s
  | .parentAdit root adit en => Sys2Proof.Machine.execParentAdit root adit en s
  | .holdoverExpiry => Sys2Proof.Machine.execHoldoverExpiry s
  | .send => Sys2Proof.Machine.execSend s
  | .bcastArm => Sys2Proof.Machine.execBcastArm s
  | .abandon => Sys2Proof.Machine.execAbandon s
  | .imageData p => Sys2Proof.Machine.execImageData p s
  | .report p => Sys2Proof.Machine.execReport p s
  | .reportTimeout child => Sys2Proof.Machine.execReportTimeout child s
  | .imageArm p => Sys2Proof.Machine.execImageArm p s
  | .dbgCntReset v => Sys2Proof.Machine.execDbgCntReset v s
  | .sampleFire j => Sys2Proof.Machine.execSampleFire j s
  | .strobe j => Sys2Proof.Machine.execStrobe j s
  | .dipReq burgee => Sys2Proof.Machine.execDipReq burgee s
  | .synDipAt => Sys2Proof.Machine.execSynDipAt s
  | .dipCut => Sys2Proof.Machine.execDipCut s
  | .nak ackSeq => Sys2Proof.Machine.execNak ackSeq s
  | .hostDown => Sys2Proof.Machine.execHostDown s
  | .hostLinkUp => Sys2Proof.Machine.execHostLinkUp s
  | .cwRd tag addr => Sys2Proof.Machine.execCwRd tag addr s
  | .cwWr tag addr v => Sys2Proof.Machine.execCwWr tag addr v s
  | .hwRdS tag addr => Sys2Proof.Machine.execHwRdS tag addr s
  | .hwRdM tag addr => Sys2Proof.Machine.execHwRdM tag addr s
  | .hwRdNc tag addr lenM1 => Sys2Proof.Machine.execHwRdNc tag addr lenM1 s
  | .hwWr tag addr lenM1 data => Sys2Proof.Machine.execHwWr tag addr lenM1 data s
  | .hwWrPart tag addr mask data => Sys2Proof.Machine.execHwWrPart tag addr mask data s
  | .hwEvictM tag addr data => Sys2Proof.Machine.execHwEvictM tag addr data s
  | .hwEvictS tag addr => Sys2Proof.Machine.execHwEvictS tag addr s
  | .snpRspI tag => Sys2Proof.Machine.execSnpRspI tag s
  | .snpRspS tag => Sys2Proof.Machine.execSnpRspS tag s
  | .snpRspD tag data => Sys2Proof.Machine.execSnpRspD tag data s
  | .cmp tag status => Sys2Proof.Machine.execCmp tag status s
  | .rspData tag status data => Sys2Proof.Machine.execRspData tag status data s
  | .eventDrain => Sys2Proof.Machine.execEventDrain s
  | .irqHoldoff => Sys2Proof.Machine.execIrqHoldoff s
  | .node n => Sys2Proof.Machine.execNode n s
  | .entdaa da => Sys2Proof.Machine.execEntdaa da s
  | .rstdaa => Sys2Proof.Machine.execRstdaa s
  | .setnewda da => Sys2Proof.Machine.execSetnewda da s
  | .getpid => Sys2Proof.Machine.execGetpid s
  | .getbcr => Sys2Proof.Machine.execGetbcr s
  | .getdcr => Sys2Proof.Machine.execGetdcr s
  | .getstatus => Sys2Proof.Machine.execGetstatus s
  | .getmxds => Sys2Proof.Machine.execGetmxds s
  | .enec mask => Sys2Proof.Machine.execEnec mask s
  | .disec mask => Sys2Proof.Machine.execDisec mask s
  | .setEndpointId op eid => Sys2Proof.Machine.execSetEndpointId op eid s
  | .getEndpointId => Sys2Proof.Machine.execGetEndpointId s
  | .getEndpointUuid => Sys2Proof.Machine.execGetEndpointUuid s
  | .getMctpVersionSupport mtype => Sys2Proof.Machine.execGetMctpVersionSupport mtype s
  | .getMessageTypeSupport => Sys2Proof.Machine.execGetMessageTypeSupport s
  | .getVendorDefinedMessageSupport selector => Sys2Proof.Machine.execGetVendorDefinedMessageSupport selector s
  | .regRead rseq body => Sys2Proof.Machine.execRegRead rseq body s
  | .regWrite rseq body => Sys2Proof.Machine.execRegWrite rseq body s
  | .getIdentity rseq body => Sys2Proof.Machine.execGetIdentity rseq body s
  | .getMeasurements rseq body => Sys2Proof.Machine.execGetMeasurements rseq body s
  | .enrollKey rseq body => Sys2Proof.Machine.execEnrollKey rseq body s
  | .revokeKey rseq body => Sys2Proof.Machine.execRevokeKey rseq body s
  | .getKeys rseq body => Sys2Proof.Machine.execGetKeys rseq body s
  | .vaonUp => Sys2Proof.Machine.execVaonUp s
  | .vaonLoss => Sys2Proof.Machine.execVaonLoss s
  | .pgoodIn => Sys2Proof.Machine.execPgoodIn s
  | .resetNAssert => Sys2Proof.Machine.execResetNAssert s
  | .resetNRelease => Sys2Proof.Machine.execResetNRelease s
  | .fuse => Sys2Proof.Machine.execFuse s
  | .boot img0 img1 => Sys2Proof.Machine.execBoot img0 img1 s
  | .aditTrain => Sys2Proof.Machine.execAditTrain s
  | .thermalTrip die t => Sys2Proof.Machine.execThermalTrip die t s
  | .pwrResetCompute => Sys2Proof.Machine.execPwrResetCompute s
  | .pwrResetFabric => Sys2Proof.Machine.execPwrResetFabric s
  | .pwrResetHbm => Sys2Proof.Machine.execPwrResetHbm s
  | .pwrResetHost => Sys2Proof.Machine.execPwrResetHost s
  | .pwrResetMain => Sys2Proof.Machine.execPwrResetMain s
  | .autoLevel hot avgW tjMax => Sys2Proof.Machine.execAutoLevel hot avgW tjMax s
  | .drvLevel level atEn => Sys2Proof.Machine.execDrvLevel level atEn s
  | .pwrThrAt => Sys2Proof.Machine.execPwrThrAt s
  | .governorWave => Sys2Proof.Machine.execGovernorWave s
  | .coreAwake k => Sys2Proof.Machine.execCoreAwake k s
  | .registerWrite burgee off v => Sys2Proof.Machine.execRegisterWrite burgee off v s
  | .dragiperFlit bytes => Sys2Proof.Machine.execDragiperFlit bytes s
  | .hostRetrain => Sys2Proof.Machine.execHostRetrain s
  | .holdoverSlew advance => Sys2Proof.Machine.execHoldoverSlew advance s
  | .waittickTarget k => Sys2Proof.Machine.execWaittickTarget k s
  | .measurementRecomputed m => Sys2Proof.Machine.execMeasurementRecomputed m s
  | .shiftComplete n => Sys2Proof.Machine.execShiftComplete n s
  | .testBurstComplete n errs => Sys2Proof.Machine.execTestBurstComplete n errs s
  | .firmwareDipRequest => Sys2Proof.Machine.execFirmwareDipRequest s

end Sys2Proof.Machine
end

