-- ==== Sys2Proof/Safety.lean ====
section
/-!
DEFINITION. What claims call a sound state and a safe step, and the conditions under which the units of the device go on: the
memories in their canonical form; a step that answers a next state; a core that issues its next instruction.
No command of this device stops the block, so safety here is that a step never faults or is refused, and that it keeps the
canonical form.
-/
namespace Sys2Proof.Machine

/-- The memories of the device are in canonical form: Bench 1 and the check symbols. -/
def MemOk (s : State) : Prop := Memory.wf s.bench1 = true ∧ Memory.wf s.chk = true

/-- Every sparse map whose entries the model rewrites as a whole is in canonical form (and so are the memories): the tables of
contexts, units, cores, gangs, engines, controllers, adits, buckets and pools. -/
def MapsOk (s : State) : Prop :=
  MemOk s ∧ mwf {} s.ctxs = true ∧ mwf {} s.faces = true ∧ mwf {} s.gangs = true ∧ mwf {} s.cores = true ∧
  mwf {} s.riddles = true ∧ mwf {} s.tramways = true ∧ mwf {} s.hbms = true ∧ mwf {} s.adits = true ∧
  mwf {} s.colls = true ∧ mwf {} s.cgroups = true ∧ mwf {} s.buckets = true ∧ mwf {} s.bpm.pools = true

/-- No stored symbol error and no marked lane: every read of Bench 1 delivers the stored bytes (10 R343, R344). -/
def CleanHbm (s : State) : Prop := s.chk = [] ∧ ∀ n, (getHbm s n).marked = []

/-- The outcome is a next state. -/
def Answers (o : Host.Outcome State Fault Refusal) : Prop := ∃ t, o = .next t

/-- A step is safe: it answers a next state whose memories are in canonical form. -/
def SafeStep (s : State) : Prop := ∃ t, step s = .next t ∧ MemOk t

/-! ### Cores (04 R126, R130, R137) -/

/-- The core after an instruction of it that only moves on: the next instruction, no stall. -/
def stepped (c : Core) : Core := { c with pc := c.pc + 1, stall := 0 }

/-- Core `k` issues its next instruction, and the one after it is the next in the program: no loop body ends here, and the
program has a further instruction. -/
def Straight (s : State) (k : Nat) : Prop :=
  canIssue s k = true ∧ (getCore s k).pc + 1 < progLen s (getCore s k) ∧
  ∀ f r, (getCore s k).loops = f :: r → f.first + f.len ≠ (getCore s k).pc + 1

/-- Core `k` goes on straight, and an operation with these ranges finds room in queue `q` and is admitted by the scoreboard
(04 R126, R127). -/
def Admitted (s : State) (k q : Nat) (rd wr : List (Nat × Nat)) : Prop :=
  Straight s k ∧ queueRoom (getCore s k) q = true ∧ admits (getCore s k) rd wr = true

/-- The core with an operation appended to its queues, past the instruction that issued it. -/
def withOp (c : Core) (q : Nat) (rd wr : List (Nat × Nat)) (o : Op) : Core :=
  stepped { c with ops := c.ops ++ [{ o with id := c.nextOp, q := q, rd := rd, wr := wr }], nextOp := c.nextOp + 1 }

/-- The state after a vector instruction that reads `rd` and writes lanes `ls` of vd, whatever it writes there: the operation has
joined the vector queue, the core has moved on, and nothing but those lanes and the model's counter of free values has changed. -/
def VecFrame (s : State) (k : Nat) (f : VecF) (rd : List (Nat × Nat)) (ls : List Nat) (t : State) : Prop :=
  t = { s with cores := t.cores, free := t.free } ∧ (∀ j, j ≠ k → getCore t j = getCore s j) ∧
  (∃ wx u, getCore t k = { withOp (getCore s k) 6 rd [] { op0 (.vec wx) with undo := u } with v := (getCore t k).v }) ∧
  ∀ j, (∀ i ∈ ls, j ≠ 64 * f.vd.toNat + i) → mget 0 (getCore t k).v j = mget 0 (getCore s k).v j

/-- A vector instruction that writes the lanes `ls` of vd with given results, and takes no free value. -/
def VecWrites (s : State) (k : Nat) (f : VecF) (ls : List Nat) (i : Instr) (res : Nat → Nat) : Prop :=
  ∃ t, exec i s = .next t ∧ VecFrame s k f [] ls t ∧ t.free = s.free ∧
    ∀ j ∈ ls, mget 0 (getCore t k).v (64 * f.vd.toNat + j) = BitVec.ofNat 64 (res j)

/-- The companion holds no line of the host window, and no access of the command waits for a snoop (15 R516). -/
def NoHeldLines (s : State) : Prop := s.drg.filter = [] ∧ s.drg.need = []

/-- Packet `p` reaches this node's receiver: it is addressed to the node, leaves the Yard undamaged as `u`, names an operation of
the protocol, and is neither a duplicate nor of a stale session (11 R374, 12 R402, R416). -/
def Arrives (s : State) (p : Packet) (u : State) : Prop :=
  p.dest.toNat = node s ∧ takeDelivery s p = some u ∧ badOp p = false ∧ freshOf u p = .fresh

/-- The answer to request `p` with a status and an argument waits at a Yard port of state `t` (12 R412). -/
def Answered (t : State) (p : Packet) (status arg : Nat) : Prop := ∃ q, (q, ackPkt t p status arg) ∈ t.fab.inject

end Sys2Proof.Machine
end

