-- ==== Sys2Proof/Certificates/Slice0/Obligations.lean ====
section
/-!
DEFINITION. The statements for the provers, family by family of the command table: what each command does from which states, what
it leaves unchanged, and the invariant that every step keeps.
-/
open Sys2Proof Sys2Proof.Machine

/-! ### The step -/

/-- A step takes the command at the front of the queue and is exec of it on the state with the queue's rest; on an empty
queue one Halyard count passes (the model's own choice, log entry 3). No command of the device stops the block: every one, in
every state, is answered with a next state. -/
def Obligations.StepRunsFront : Prop :=
  (∀ (s : State) (c : Instr) (rest : List Instr),
      step { s with pending := c :: rest } = exec c { s with pending := rest } ∧
      step { s with pending := [] } = .next (elapse 1 { s with pending := [] })) ∧
  (∀ (i : Instr) (s : State), Answers (exec i s))

/-! ### CTL -/

/-- s0 reads as zero and ignores writes, m0 reads as all ones and ignores writes, and every other scalar, address, mask,
vector and count register of a core holds what was last written to it. -/
def Obligations.ConstantRegisters : Prop :=
  ∀ (c : Core) (i j : BitVec 5) (m n : BitVec 3) (a b : BitVec 4) (x y : Fin 64) (e f : Nat) (v : W64) (w : W32),
    getS c 0 = 0 ∧ getM c 0 = BitVec.allOnes 64 ∧ setS c 0 v = c ∧ setM c 0 v = c ∧
    getS (setS c i v) j = (if j = i ∧ i ≠ 0 then v else getS c j) ∧
    getM (setM c m v) n = (if n = m ∧ m ≠ 0 then v else getM c n) ∧
    getA (setA c a v) b = (if b = a then v else getA c b) ∧
    getV (setV c i x.val e) j y.val = (if j = i ∧ y = x then e % 2 ^ 64 else getV c j y.val) ∧
    getC (setC c e w) f = (if f = e then w else getC c f)

/-- Scalar arithmetic: s[SD] := s[SA] op (s[SB] + sext(IMM32)), the counts of shifts modulo 64, MIN and MAX signed; LI and
LIH. Nothing but the destination register and the program counter of the core changes. -/
def Obligations.ScalarArithmetic : Prop :=
  ∀ (s : State) (k : Fin 512) (sd sa sb : BitVec 5) (imm : BitVec 32), Straight s k.val →
    let c := getCore s k.val
    let x := getS c sa
    let y := getS c sb + imm.signExtend 64
    let put := fun (v : W64) => (.next (setCore s k.val (stepped (setS c sd v))) : Host.Outcome State Fault Refusal)
    exec (.li k sd imm) s = put (imm.signExtend 64) ∧
    exec (.lih k sd imm) s = put (BitVec.ofNat 64 (imm.toNat * 2 ^ 32 + (getS c sd).toNat % 2 ^ 32)) ∧
    exec (.add k sd sa sb imm) s = put (x + y) ∧
    exec (.sub k sd sa sb imm) s = put (x - y) ∧
    exec (.mul k sd sa sb imm) s = put (x * y) ∧
    exec (.and k sd sa sb imm) s = put (x &&& y) ∧
    exec (.or k sd sa sb imm) s = put (x ||| y) ∧
    exec (.xor k sd sa sb imm) s = put (x ^^^ y) ∧
    exec (.shl k sd sa sb imm) s = put (BitVec.ofNat 64 (x.toNat * 2 ^ (y.toNat % 64))) ∧
    exec (.shr k sd sa sb imm) s = put (BitVec.ofNat 64 (x.toNat / 2 ^ (y.toNat % 64))) ∧
    exec (.sra k sd sa sb imm) s = put (BitVec.ofInt 64 (x.toInt / (2 ^ (y.toNat % 64) : Nat))) ∧
    exec (.min k sd sa sb imm) s = put (if x.toInt ≤ y.toInt then x else y) ∧
    exec (.max k sd sa sb imm) s = put (if x.toInt ≤ y.toInt then y else x)

/-- Address registers and system values: ASET, AADD, AGET, RDSYS with each of its eight values, and ILLEGAL for the reserved
ones. Nothing else changes. -/
def Obligations.AddressAndSystemRegisters : Prop :=
  ∀ (s : State) (k : Fin 512) (sd sa : BitVec 5) (ad : BitVec 4) (imm : BitVec 32), Straight s k.val →
    let c := getCore s k.val
    let x := coreCtx s k.val
    let put := fun (d : Core) => (.next (setCore s k.val (stepped d)) : Host.Outcome State Fault Refusal)
    let sys := fun (v : Nat) => put (setS c sd (BitVec.ofNat 64 v))
    exec (.nop k) s = put c ∧
    exec (.aset k ad sa imm) s = put { c with a := mput 0 c.a ad.toNat (getS c sa + imm.signExtend 64) } ∧
    exec (.aadd k ad sa imm) s = put { c with a := mput 0 c.a ad.toNat (getA c ad + (getS c sa + imm.signExtend 64)) } ∧
    exec (.aget k sd ad) s = put (setS c sd (getA c ad)) ∧
    (imm.toNat % 16 = 0 → exec (.rdsys k sd imm) s = sys ((logicalIn s x k.val).getD 0)) ∧
    (imm.toNat % 16 = 1 → exec (.rdsys k sd imm) s = sys (coreRank s k.val c)) ∧
    (imm.toNat % 16 = 2 → exec (.rdsys k sd imm) s = sys (unitsOf s x c.gang).length) ∧
    (imm.toNat % 16 = 3 → exec (.rdsys k sd imm) s = sys (getCtx s x).tick.toNat) ∧
    (imm.toNat % 16 = 4 → exec (.rdsys k sd imm) s = sys (getCtx s x).step.toNat) ∧
    (imm.toNat % 16 = 5 → exec (.rdsys k sd imm) s = sys (getCtx s x).stepsDone.toNat) ∧
    (imm.toNat % 16 = 6 → exec (.rdsys k sd imm) s = sys s.dev.node.toNat) ∧
    (imm.toNat % 16 = 7 → exec (.rdsys k sd imm) s = sys (getFace s k.val).slot.toNat) ∧
    (8 ≤ imm.toNat % 16 → exec (.rdsys k sd imm) s = .next (unitFault s k.val 1))

/-- SLD and SST: eight little-endian bytes of Bench 0 at a[AD] + sext(IMM32); an address that is no multiple of 8 faults with
ALIGN, one past the end of Bench 0 with BOUNDS; a range that the scoreboard refuses holds the sequencer. Every byte outside
the eight stored reads as before, and SLD stores nothing. -/
def Obligations.SequencerLoadStore : Prop :=
  ∀ (s : State) (k : Fin 512) (sd sa : BitVec 5) (ad : BitVec 4) (imm : BitVec 32), Straight s k.val →
    let c := getCore s k.val
    let a := (getA c ad + imm.signExtend 64).toNat
    (a % 8 ≠ 0 → exec (.sld k sd ad imm) s = .next (unitFault s k.val 2) ∧
                 exec (.sst k sa ad imm) s = .next (unitFault s k.val 2)) ∧
    (a % 8 = 0 → 0x280000 < a + 8 → exec (.sld k sd ad imm) s = .next (unitFault s k.val 3) ∧
                                   exec (.sst k sa ad imm) s = .next (unitFault s k.val 3)) ∧
    (a % 8 = 0 → a + 8 ≤ 0x280000 → admits c [(a, 8)] [] = true →
      exec (.sld k sd ad imm) s = .next (setCore s k.val (stepped (setS c sd (BitVec.ofNat 64 (readNat c.b0 a 8)))))) ∧
    (a % 8 = 0 → a + 8 ≤ 0x280000 → admits c [] [(a, 8)] = true →
      ∃ m, exec (.sst k sa ad imm) s = .next (setCore s k.val (stepped { c with b0 := m })) ∧
        BitVec.ofNat 64 (readNat m a 8) = getS c sa ∧
        ∀ b, (b < a ∨ a + 8 ≤ b) → mget 0 m b = mget 0 c.b0 b) ∧
    (a % 8 = 0 → a + 8 ≤ 0x280000 → admits c [(a, 8)] [] = false →
      exec (.sld k sd ad imm) s = .next (setCore s k.val { c with stall := 2 })) ∧
    (a % 8 = 0 → a + 8 ≤ 0x280000 → admits c [] [(a, 8)] = false →
      exec (.sst k sa ad imm) s = .next (setCore s k.val { c with stall := 2 }))

/-- LOOP and BR: a loop with no body is ILLEGAL, one with no runs skips its body, any other opens a level of the loop stack
unless eight are open (LOOP); a branch goes on or moves forward, its target past the end of the program faulting with
PROG_END and a taken one past the innermost body with LOOP. The end of a loop body: while runs are left the core goes back to
the body's first instruction; the last run leaves the level, and the end of an enclosing body is looked at in turn. Past the
last instruction of the program the core faults with PROG_END; END lets it issue nothing further, and a core that has ended
with no operation left is IDLE. -/
def Obligations.LoopsAndBranches : Prop :=
  (∀ (s : State) (k : Fin 512) (cond : BitVec 3) (sa sb : BitVec 5) (imm : BitVec 32), Straight s k.val →
      let c := getCore s k.val
      let len := imm.toNat / 2 ^ 16
      let runs := min (2 ^ 32 - 1) ((getS c sa).toNat % 2 ^ 32 + imm.toNat % 2 ^ 16)
      let t := c.pc + 1 + imm.toNat
      let x := getS c sa
      let y := getS c sb
      let holds := (cond = 0) ∨ (cond = 1 ∧ x = y) ∨ (cond = 2 ∧ x ≠ y) ∨ (cond = 3 ∧ x.toInt < y.toInt) ∨
        (cond = 4 ∧ y.toInt ≤ x.toInt) ∨ (cond = 5 ∧ x.toNat < y.toNat) ∨ (cond = 6 ∧ y.toNat ≤ x.toNat)
      (len = 0 → exec (.loop k sa imm) s = .next (unitFault s k.val 1)) ∧
      (len ≠ 0 → runs ≠ 0 → c.loops.length < 8 → exec (.loop k sa imm) s =
        .next (setCore s k.val (stepped { c with loops := { first := c.pc + 1, len := len, left := runs } :: c.loops }))) ∧
      (len ≠ 0 → runs ≠ 0 → 8 ≤ c.loops.length → exec (.loop k sa imm) s = .next (unitFault s k.val 4)) ∧
      (len ≠ 0 → runs = 0 → (∀ f r, c.loops = f :: r → f.first + f.len ≠ c.pc + 1 + len) → c.pc + 1 + len < progLen s c →
        exec (.loop k sa imm) s = .next (setCore s k.val { c with pc := c.pc + 1 + len, stall := 0 })) ∧
      (cond = 7 → exec (.br k cond sa sb imm) s = .next (unitFault s k.val 1)) ∧
      (cond ≠ 7 → progLen s c ≤ t → exec (.br k cond sa sb imm) s = .next (unitFault s k.val 7)) ∧
      (cond ≠ 7 → ¬ holds → t < progLen s c → exec (.br k cond sa sb imm) s = .next (setCore s k.val (stepped c))) ∧
      (holds → t < progLen s c → (∀ f r, c.loops = f :: r → t < f.first + f.len) →
        exec (.br k cond sa sb imm) s = .next (setCore s k.val { c with pc := t, stall := 0 })) ∧
      (holds → t < progLen s c → (∃ f r, c.loops = f :: r ∧ f.first + f.len ≤ t) →
        exec (.br k cond sa sb imm) s = .next (unitFault s k.val 4))) ∧
  (∀ (s : State) (k : Fin 512), canIssue s k.val = true →
      let c := getCore s k.val
      (∀ f r, c.loops = f :: r → f.first + f.len = c.pc + 1 → 1 < f.left → f.first < progLen s c →
        exec (.nop k) s = .next (setCore s k.val { c with pc := f.first, loops := { f with left := f.left - 1 } :: r, stall := 0 })) ∧
      (∀ f, c.loops = [f] → f.first + f.len = c.pc + 1 → f.left ≤ 1 → c.pc + 1 < progLen s c →
        exec (.nop k) s = .next (setCore s k.val { c with pc := c.pc + 1, loops := [], stall := 0 })) ∧
      (c.loops = [] → progLen s c ≤ c.pc + 1 →
        exec (.nop k) s = .next (unitFault (setCore s k.val { c with pc := c.pc + 1, stall := 0 }) k.val 7)) ∧
      (c.ops ≠ [] → exec (.endProg k) s = .next (setCore s k.val { c with ended := true, stall := 0 })) ∧
      (c.ops = [] → exec (.endProg k) s =
        .next (setFace (setCore s k.val { c with ended := true, stall := 0 }) k.val { getFace s k.val with st := .idle })))

/-! ### SYN -/

/-- WAITTICK, WAITC, TAKEC and FENCE go on at once where what they wait for holds, TAKEC subtracting s[SV]; else WAITTICK,
WAITC and TAKEC leave the core WAITING and FENCE leaves it RUNNING, issuing nothing. MUSTER: a core that the named gang does
not contain faults with MUSTER. A core of the gang arrives; while another member has not, it waits. When the last arrives,
the muster generation of the gang advances by one. The Halyard reaches the target of a core that waits in WAITTICK: the clock
stands at the target, the core runs on with the next instruction, and nothing but the passing of time changes anything else.
-/
def Obligations.WaitsOfACore : Prop :=
  (∀ (s : State) (k : Fin 512) (imm : BitVec 20) (sv : BitVec 5) (cnt : BitVec 4) (q : BitVec 8), Straight s k.val →
      let c := getCore s k.val
      let f := getFace s k.val
      let v := (getS c sv).setWidth 32
      let n := getC c cnt.toNat
      let on := (.next (setCore s k.val (stepped c)) : Host.Outcome State Fault Refusal)
      let wait := fun (w : WaitS) => (.next (setCore (setFace s k.val { f with st := .waiting }) k.val
        { c with wait := w, stall := 0 }) : Host.Outcome State Fault Refusal)
      (s.tick.last + imm.toNat ≤ s.halyard → exec (.waittick k imm) s = on) ∧
      (s.halyard < s.tick.last + imm.toNat → exec (.waittick k imm) s = wait (.tick (s.tick.last + imm.toNat))) ∧
      (v.toNat ≤ n.toNat → exec (.waitc k sv cnt) s = on ∧
        exec (.takec k sv cnt) s = .next (setCore s k.val (stepped { c with c := mput 0 c.c cnt.toNat (n - v) }))) ∧
      (n.toNat < v.toNat → exec (.waitc k sv cnt) s = wait (.count cnt v false) ∧
        exec (.takec k sv cnt) s = wait (.count cnt v true)) ∧
      ((∀ o ∈ c.ops, q.getLsbD o.q = false) → exec (.fence k q) s = on) ∧
      ((∃ o ∈ c.ops, q.getLsbD o.q = true) →
        exec (.fence k q) s = .next (setCore s k.val { c with wait := .fence q, stall := 0 }))) ∧
  (∀ (s : State) (k : Fin 512) (gang : BitVec 12), canIssue s k.val = true →
      let c := coreCtx s k.val
      let g := gang.toNat
      let f := getFace s k.val
      let w := setFace (setCore (setFace s k.val { f with st := .waiting }) k.val
        { getCore s k.val with wait := .muster g, stall := 0 }) k.val { f with st := .waiting, arrived := true }
      (k.val ∉ unitsOf s c g → exec (.muster k gang) s = .next (unitFault s k.val 5)) ∧
      (k.val ∈ unitsOf s c g → gangArrived (treeFuel s) w c g g = false → exec (.muster k gang) s = .next w) ∧
      (k.val ∈ unitsOf s c g → gangArrived (treeFuel s) w c g g = true →
        ∃ t, exec (.muster k gang) s = .next t ∧ (getGangFace t g).gen = (getGangFace s g).gen + 1 ∧
          ∀ h, h ∉ gangsIn s g → getGangFace t h = getGangFace s h)) ∧
  (∀ (s : State) (k : Fin 512) (n : Nat), frozen s = false → (getCore s k.val).wait = .tick n →
      (getFace s k.val).st = .waiting → (getCore s k.val).ended = false → s.halyard < n → n < 2 ^ 64 →
      (getCore s k.val).pc + 1 < progLen s (getCore s k.val) →
      (∀ f r, (getCore s k.val).loops = f :: r → f.first + f.len ≠ (getCore s k.val).pc + 1) →
      let u := elapse (n - s.halyard) s
      u.halyard = n ∧
      exec (.waittickTarget k) s =
        .next (setCore (setFace u k.val { getFace u k.val with st := .running, arrived := false }) k.val
          (stepped { getCore s k.val with wait := .none })))

/-! ### MOV, ATOM -/

/-- MOV.L and MOV.P issued: the operation joins the MOV queue with its Bench 0 ranges on the scoreboard and the bytes it will
write, as they stand at issue; nothing but the core changes, and no byte of Bench 0 does. MOV.T from staged frames: where
every 4 KiB frame of the tier range is staged in the core, the bytes are those of the stage slots, and the slots join the
scoreboard. What a MOV turns away: a length of zero units is ILLEGAL and one above 65,535 BOUNDS; Bench 0 and tier addresses
that are no multiples of 64 fault with ALIGN, Bench 0 ranges past 0x28_0000 with BOUNDS; MOV.P to a core that the context
does not hold with BOUNDS; ATOM with a reserved ATOP is ILLEGAL, and with a fabric offset that is no multiple of 8 faults
with ALIGN. -/
def Obligations.MovWithinPackage : Prop :=
  (∀ (s : State) (k : Fin 512) (f : MovF) (n : Nat),
      let c := getCore s k.val
      let src := (getA c f.src).toNat
      let dst := (getA c f.dst).toNat
      let peer := (getS c f.peer).toNat
      movLen c f = .ok n → src % 64 = 0 → dst % 64 = 0 → src + n ≤ 0x280000 → dst + n ≤ 0x280000 →
      (Admitted s k.val 7 [(src, n)] [(dst, n)] →
        exec (.movL k f) s = .next (setCore s k.val (withOp c 7 [(src, n)] [(dst, n)]
          { op0 .movL with out := [(dst, readBytes c.b0 src n)], bytes := n }))) ∧
      (Admitted s k.val 7 [(src, n)] [] → (∃ e ∈ (getCtx s (coreCtx s k.val)).bind, e.1 = peer) →
        exec (.movP k f) s = .next (setCore s k.val (withOp c 7 [(src, n)] []
          { op0 (.movP peer f.flag f.cnt) with out := [(dst, readBytes c.b0 src n)], bytes := n })))) ∧
  (∀ (s : State) (k : Fin 512) (f : MovF) (n : Nat), s.drg.need = [] →
      let c := getCore s k.val
      let x := coreCtx s k.val
      let src := (getA c f.src).toNat
      let dst := (getA c f.dst).toNat
      movLen c f = .ok n → src % 64 = 0 → dst % 64 = 0 → dst + n ≤ 0x280000 →
      (∀ e ∈ pieces 4096 src n, (regionAt s x e.1).isSome = true ∧ (stagedAt s k.val x e.1).isSome = true) →
      Admitted s k.val 7 (stagedRanges s k.val x src n) [(dst, n)] →
      exec (.movT k f) s = .next (setCore s k.val (withOp c 7 (stagedRanges s k.val x src n) [(dst, n)]
        { op0 .movT with out := [(dst, stagedBytes s k.val x src n)], bytes := n }))) ∧
  (∀ (s : State) (k : Fin 512) (f : MovF), canIssue s k.val = true →
      let c := getCore s k.val
      let u := if f.lenSrc then (getS c (f.len.setWidth 5)).toNat else f.len.toNat
      let src := (getA c f.src).toNat
      let dst := (getA c f.dst).toNat
      let all := fun (code : Nat) => exec (.movL k f) s = .next (unitFault s k.val code) ∧
        exec (.movP k f) s = .next (unitFault s k.val code)
      (u = 0 → all 1) ∧ (65535 < u → all 3) ∧
      (u ≠ 0 → u ≤ 65535 → src % 64 ≠ 0 ∨ dst % 64 ≠ 0 → all 2) ∧
      (u ≠ 0 → u ≤ 65535 → src % 64 = 0 → dst % 64 = 0 → 0x280000 < src + 64 * u ∨ 0x280000 < dst + 64 * u → all 3) ∧
      (u ≠ 0 → u ≤ 65535 → dst % 64 ≠ 0 → exec (.movHR k f) s = .next (unitFault s k.val 2)) ∧
      (u ≠ 0 → u ≤ 65535 → src % 64 ≠ 0 → exec (.movHW k f) s = .next (unitFault s k.val 2)) ∧
      (9 < f.atop.toNat → exec (.atom k f) s = .next (unitFault s k.val 1)) ∧
      (f.atop.toNat ≤ 9 → src % 8 ≠ 0 → exec (.atom k f) s = .next (unitFault s k.val 2)))

/-- MOV.HR, MOV.HW and ATOM issued: the operation waits for as many answers as the fabric range has pieces of 2 KiB (one for
ATOM), as many requests are numbered, and every request that is not held is in the send table; integer atomics change nothing
but the core, the request's tables and the regulators, FP atomics advance FP_ATOMICS and NDC of the context by one. -/
def Obligations.FabricMovesAndAtomics : Prop :=
  ∀ (s : State) (k : Fin 512) (f : MovF) (n : Nat),
    let c := getCore s k.val
    let x := coreCtx s k.val
    let src := (getA c f.src).toNat
    let dst := (getA c f.dst).toNat
    let pending := fun (t : State) => t.fab.table.length + t.fab.held.length
    let only := fun (t : State) => t = { s with cores := t.cores, fab := t.fab, buckets := t.buckets } ∧
      ∀ j, j ≠ k.val → getCore t j = getCore s j
    (movLen c f = .ok n → dst % 64 = 0 → dst + n ≤ 0x280000 → Admitted s k.val 7 [] [(dst, n)] →
      let m := (pieces 2048 (src % 2 ^ 48) n).length
      ∃ t, exec (.movHR k f) s = .next t ∧ only t ∧ pending t = pending s + m ∧ t.fab.nextOrd = s.fab.nextOrd + m ∧
        getCore t k.val = withOp c 7 [] [(dst, n)] { op0 .movHR with bytes := n, pieces := m }) ∧
    (movLen c f = .ok n → src % 64 = 0 → src + n ≤ 0x280000 → Admitted s k.val 7 [(src, n)] [] →
      let m := (pieces 2048 (dst % 2 ^ 48) n).length
      ∃ t, exec (.movHW k f) s = .next t ∧ only t ∧ pending t = pending s + m ∧ t.fab.nextOrd = s.fab.nextOrd + m ∧
        getCore t k.val = withOp c 7 [(src, n)] [] { op0 .movHW with bytes := n, pieces := m }) ∧
    (f.atop.toNat ≤ 7 → src % 8 = 0 → Admitted s k.val 7 [] [] →
      ∃ t, exec (.atom k f) s = .next t ∧ only t ∧ pending t = pending s + 1 ∧
        getCore t k.val = withOp c 7 [] [] { op0 (.atom f.sr) with bytes := 8, pieces := 1 }) ∧
    (f.atop.toNat = 8 ∨ f.atop.toNat = 9 → src % 8 = 0 → Admitted s k.val 7 [] [] →
      ∃ t, exec (.atom k f) s = .next t ∧ pending t = pending s + 1 ∧
        t.fab.fpAtomics = s.fab.fpAtomics + 1 ∧ (getCtx t x).ndc = (getCtx s x).ndc + 1 ∧
        getCore t k.val = withOp c 7 [] [] { op0 (.atom f.sr) with bytes := 8, pieces := 1 } ∧
        t = { s with cores := t.cores, fab := t.fab, buckets := t.buckets, ctxs := t.ctxs, drg := t.drg, evt := t.evt,
                     aon := t.aon })

/-! ### VEC -/

/-- Floating-point and integer arithmetic on the active lanes: each active lane of vd takes the result of its own lanes, in
the instruction's format; no other register slot, no byte of Bench 0 and nothing outside the core changes. The results are
those of the exact operation rounded once, integers saturated. Bitwise operations, shifts by less than the width, selections,
broadcasts and accumulations: what each lane holds. -/
def Obligations.VectorArithmetic : Prop :=
  (∀ (s : State) (k : Fin 512) (f : VecF), Admitted s k.val 6 [] [] →
      let c := getCore s k.val
      let m := f.fmt.toNat
      let a := fun i => laneVal c f.va m i
      let b := fun i => laneVal c f.vb m i
      let float := (ffmt m).isSome = true
      let int := intW m ≠ 0
      let lanes := VecWrites s k.val f (activeLanes c f)
      let sat := fun (g : Int → Int → Int) (i : Nat) =>
        satInt (intW m) (g (sext (intW m) (laneOf c f.va m i)) (sext (intW m) (laneOf c f.vb m i)))
      (float → lanes (.vadd k f) (fun i => enc m none (fadd (a i) (b i))) ∧
        lanes (.vsub k f) (fun i => enc m none (fadd (a i) (fneg (b i)))) ∧
        lanes (.vmul k f) (fun i => enc m none (fmul (a i) (b i))) ∧
        lanes (.vfma k f) (fun i => enc m none (fadd (fmul (a i) (b i)) (laneVal c f.vc m i))) ∧
        lanes (.vabs k f) (fun i => enc m none (fabs (a i))) ∧
        lanes (.vneg k f) (fun i => enc m none (fneg (a i)))) ∧
      (int → lanes (.vadd k f) (sat (· + ·)) ∧ lanes (.vsub k f) (sat (· - ·)) ∧ lanes (.vmul k f) (sat (· * ·)) ∧
        exec (.vfma k f) s = .next (unitFault s k.val 1)) ∧
      (float ∨ int → lanes (.vmax k f) (fun i => enc m none (fmax (a i) (b i))) ∧
        lanes (.vmin k f) (fun i => enc m none (fmin (a i) (b i)))) ∧
      (m = 9 → exec (.vadd k f) s = .next (unitFault s k.val 1) ∧ exec (.vmax k f) s = .next (unitFault s k.val 1)) ∧
      (m < 15 → f.vc.toNat % 16 < 15 →
        VecWrites s k.val f (activeLanes c f) (.vcvt k f) (fun i => enc (f.vc.toNat % 16) none (a i)))) ∧
  (∀ (s : State) (k : Fin 512) (f : VecF), Admitted s k.val 6 [] [] →
      let c := getCore s k.val
      let m := f.fmt.toNat
      let w := intW m
      let x := fun i => laneOf c f.va m i
      let y := fun i => laneOf c f.vb m i
      let lanes := VecWrites s k.val f (activeLanes c f)
      (w ≠ 0 → lanes (.vand k f) (fun i => x i &&& y i) ∧ lanes (.vor k f) (fun i => x i ||| y i) ∧
        lanes (.vxor k f) (fun i => x i ^^^ y i) ∧
        ((∀ i ∈ activeLanes c f, y i < w) → lanes (.vshl k f) (fun i => x i * 2 ^ y i % 2 ^ w) ∧
          lanes (.vshr k f) (fun i => x i / 2 ^ y i))) ∧
      (m < 15 →
        lanes (.vbcast k f) (fun _ => (getS c f.sreg).toNat % 2 ^ valBits m) ∧
        VecWrites s k.val f (List.range (f.lanes.toNat + 1)) (.vsel k f) (fun i =>
          if (getM c f.mask).getLsbD i then x i else y i) ∧
        lanes (.vacc k f) (fun i => enc 14 none (fadd (laneVal c f.vd 14 i) (laneVal c f.va m i))) ∧
        exec (.vgets k f) s = .next (setCore s k.val (withOp (setS c f.sreg
          (BitVec.ofNat 64 (laneOf c f.va m (f.imm.toNat % 64)))) 6 [] [] (op0 (.vec false))))))

/-- The functions of FP32, each its exact value rounded once; every other format is ILLEGAL for them. Where the manual states
no result for a lane (vlog, vrcp and vrsqrt of zero, a shift by the width or more) the instruction runs: it is issued, moves
on, and every slot outside the active lanes of vd is unchanged; the lane itself holds a free value (the model's choice, log
entry 17). -/
def Obligations.VectorFunctions : Prop :=
  (∀ (s : State) (k : Fin 512) (f : VecF), Admitted s k.val 6 [] [] →
      let c := getCore s k.val
      let a := fun i => laneVal c f.va 1 i
      let lanes := VecWrites s k.val f (activeLanes c f)
      let faults := fun (i : Instr) => exec i s = .next (unitFault s k.val 1)
      (f.fmt = 1 → lanes (.vexp k f) (fun i => enc 1 none (fexp (a i))) ∧
        lanes (.vtanh k f) (fun i => enc 1 none (ftanh (a i))) ∧
        lanes (.vsqrt k f) (fun i => enc 1 none (fsqrt (a i))) ∧
        lanes (.vdiv k f) (fun i => enc 1 none (fdiv (a i) (laneVal c f.vb 1 i))) ∧
        ((∀ i ∈ activeLanes c f, (a i).isZero = false) →
          lanes (.vlog k f) (fun i => enc 1 none ((flog (a i)).getD .nan)) ∧
          lanes (.vrcp k f) (fun i => enc 1 none (fdiv (.fin false 1 0) (a i))) ∧
          lanes (.vrsqrt k f) (fun i => enc 1 none ((frsqrt (a i)).getD .nan)))) ∧
      (f.fmt ≠ 1 → faults (.vexp k f) ∧ faults (.vtanh k f) ∧ faults (.vsqrt k f) ∧ faults (.vdiv k f) ∧ faults (.vlog k f) ∧
        faults (.vrcp k f) ∧ faults (.vrsqrt k f))) ∧
  (∀ (s : State) (k : Fin 512) (f : VecF), Admitted s k.val 6 [] [] →
      let runs := fun (i : Instr) => ∃ t, exec i s = .next t ∧ VecFrame s k.val f [] (activeLanes (getCore s k.val) f) t
      (f.fmt = 1 → runs (.vlog k f) ∧ runs (.vrcp k f) ∧ runs (.vrsqrt k f)) ∧
      (intW f.fmt.toNat ≠ 0 → runs (.vshl k f) ∧ runs (.vshr k f) ∧ runs (.vabs k f) ∧ runs (.vneg k f)))

/-- Reductions write lane 0 of vd when its mask bit is 1: VRSUM the sum over the tree of R148, VRMAX and VRMIN the greatest
and least of the lanes used; VCMP sets or clears the bits of the active lanes in the destination mask, m0 staying all ones.
-/
def Obligations.ReductionsAndCompares : Prop :=
  ∀ (s : State) (k : Fin 512) (f : VecF), Admitted s k.val 6 [] [] → f.fmt.toNat ≠ 9 → f.fmt.toNat < 15 →
    let c := getCore s k.val
    let m := f.fmt.toNat
    let vs := (List.range (f.lanes.toNat + 1)).map (fun i => laneVal c f.va m i)
    let lane := if (getM c f.mask).getLsbD 0 then [0] else []
    let put := VecWrites s k.val f lane
    put (.vrsum k f) (fun _ => enc m none (treeOf (if m = 0 then 0 else 14) vs)) ∧
    (2 ≤ vs.length → put (.vrmax k f) (fun _ => enc m none (vs.tail.foldl fmax (vs.headD .nan))) ∧
      put (.vrmin k f) (fun _ => enc m none (vs.tail.foldl fmin (vs.headD .nan)))) ∧
    (f.vc.toNat % 8 < 6 →
      ∃ t, exec (.vcmp k f) s = .next t ∧ t = { s with cores := t.cores } ∧
        (∀ j, j ≠ k.val → getCore t j = getCore s j) ∧
        getCore t k.val = { withOp c 6 [] [] (op0 (.vec false)) with m := (getCore t k.val).m } ∧
        (∀ r : BitVec 3, r ≠ f.vd.setWidth 3 → getM (getCore t k.val) r = getM c r) ∧
        ∀ i, i < 64 → f.vd.setWidth 3 ≠ (0 : BitVec 3) →
          (getM (getCore t k.val) (f.vd.setWidth 3)).getLsbD i =
            (if i ∈ activeLanes c f then decide (cmpHolds (f.vc.toNat % 8) (laneVal c f.va m i) (laneVal c f.vb m i) = some true)
             else (getM c (f.vd.setWidth 3)).getLsbD i)) ∧
    (6 ≤ f.vc.toNat % 8 → exec (.vcmp k f) s = .next (unitFault s k.val 1))

/-- VLD and VST: a range past the end of Bench 0 faults with BOUNDS; VLD fills the active lanes from the packed elements at
a[AREG] + 64 × IMM12; VST issues an operation that will write only bytes of that range, every byte of Bench 0 and every
register standing as before until it completes. -/
def Obligations.VectorLoadStore : Prop :=
  ∀ (s : State) (k : Fin 512) (f : VecF), f.fmt.toNat < 15 →
    let c := getCore s k.val
    let m := f.fmt.toNat
    let n := elemBytes m (f.lanes.toNat + 1)
    let a := (getA c f.areg + BitVec.ofNat 64 (64 * f.imm.toNat)).toNat
    (canIssue s k.val = true → 0x280000 < a + n →
      exec (.vld k f) s = .next (unitFault s k.val 3) ∧ exec (.vst k f) s = .next (unitFault s k.val 3)) ∧
    (Admitted s k.val 6 [(a, n)] [] → a + n ≤ 0x280000 →
      ∃ t, exec (.vld k f) s = .next t ∧ VecFrame s k.val f [(a, n)] (activeLanes c f) t ∧
        ∀ i ∈ activeLanes c f, mget 0 (getCore t k.val).v (64 * f.vd.toNat + i) =
          BitVec.ofNat 64 ((unpackElems m (f.lanes.toNat + 1) (readBytes c.b0 a n)).getD i 0)) ∧
    (∀ wr, Admitted s k.val 6 [] wr → wr = (vstBytes c f a).map (fun e => (e.1, e.2.length)) → a + n ≤ 0x280000 →
      exec (.vst k f) s = .next (setCore s k.val (withOp c 6 [] wr { op0 (.vec false) with out := vstBytes c f a })) ∧
      ∀ e ∈ vstBytes c f a, a ≤ e.1 ∧ e.1 + e.2.length ≤ a + n)

/-- Every encoding of a finite value of a floating-point format, and every encoding of an integer format, is what its value
is converted to: no format loses a value (05 R167, R168, R171, R183). -/
def Obligations.FormatsRoundTrip : Prop :=
  (∀ (m : Nat) (f : FFmt) (v : Nat), ffmt m = some f → v < 2 ^ (f.eb + f.fb + 1) → v % 2 ^ (f.eb + f.fb) ≤ f.maxc →
    enc m none (dec m v) = v) ∧
  (∀ (m v : Nat), intW m ≠ 0 → v < 2 ^ intW m → enc m none (dec m v) = v)

/-! ### ARR, SPR and completion -/

/-- MATMUL with its operands in Bench 0: its checks in their order (formats, ILLEGAL; more than 4,096 rows, BOUNDS;
alignment; bounds), and, admitted, an operation on its array that will write C and its scales with the product of A and B; M
= 0 completes at once and writes nothing but two counters. SPMM and PACK issued: an operation of the sparse engine that
ENGINE names joins its queue, reading the whole tile (SPMM) or the whole mask tile and the dense input (PACK), and will write
C with its scales, or the output tile with its scales. -/
def Obligations.ArrayAndSparseIssue : Prop :=
  (∀ (s : State) (k : Fin 512) (f : ArrF), s.drg.need = [] → f.bTier = false →
      let c := getCore s k.val
      let a := f.fmtA.toNat
      let b := f.fmtB.toNat
      let out := f.outFmt.toNat
      let kk := 16 * (f.kField.toNat + 1)
      let m := mOf c f.mSrc f.mField
      let ok := productOk a b out kk f.mxA f.mxB f.sr f.outMx
      let ops := acRanges c a out m kk f.mxA f.outMx f.aReg f.cReg ++ bRanges c b kk f.mxB f.bReg
      let wr := cRanges c out m f.outMx f.cReg
      let rd := fun (r : Nat × Nat) => readBytes c.b0 r.1 r.2
      let av := aRows a m kk f.mxA (rd (regA c f.aReg, m * elemBytes a kk)) (if f.mxA then rd (regA1 c f.aReg, m * (kk / 32)) else [])
      let bv := bRows b kk f.mxB (rd (regA c f.bReg, kk * elemBytes b 32)) (if f.mxB then rd (regA1 c f.bReg, kk) else [])
      let p := product a out f.acc f.sr f.outMx (getS c 31).toNat av bv (rd (regA c f.cReg, m * elemBytes out 32))
        (if f.outMx then rd (regA1 c f.cReg, m) else [])
      (canIssue s k.val = true → f.flow = 3 ∨ ok = false → exec (.matmul k f) s = .next (unitFault s k.val 1)) ∧
      (canIssue s k.val = true → f.flow ≠ 3 → ok = true → 4096 < m → exec (.matmul k f) s = .next (unitFault s k.val 3)) ∧
      (canIssue s k.val = true → f.flow ≠ 3 → ok = true → m ≤ 4096 → (∃ r ∈ ops, r.1 % 64 ≠ 0) →
        exec (.matmul k f) s = .next (unitFault s k.val 2)) ∧
      (Straight s k.val → f.flow ≠ 3 → ok = true → m = 0 → operandFault ops = none →
        exec (.matmul k f) s = .next (setCore (bump (bump s k.val 5 1) k.val 13 1) k.val (stepped c))) ∧
      (f.flow ≠ 3 → ok = true → m ≤ 4096 → m ≠ 0 → operandFault ops = none → Admitted s k.val f.array.toNat ops wr →
        exec (.matmul k f) s = .next (setCore s k.val (withOp c f.array.toNat ops wr
          { op0 .arr with out := (regA c f.cReg, p.1.flatten) :: (if f.outMx then [(regA1 c f.cReg, p.2.1)] else []),
                          srConv := p.2.2 })))) ∧
  (∀ (s : State) (k : Fin 512) (f : SprF),
      let c := getCore s k.val
      let out := f.outFmt.toNat
      let kk := 16 * (f.kField.toNat + 1)
      let m := mOf c f.mSrc f.mField
      let h := parseS8 (readNat c.b0 (regA c f.aReg) 8)
      let wrC := cRanges c out m f.outMx f.cReg
      let rdS := (regA c f.aReg, s8Len h) :: (spmmScales c f m kk ++ wrC ++ bRanges c f.fmtB.toNat kk f.mxB f.bReg)
      let dense := (regA c f.bReg, m * kk * elemBits f.fmtB.toNat / 8)
      let wrP := (regA c f.cReg, roundUp (s8Dense out m kk) 64) :: (if f.outMx then [(regA1 c f.cReg, m * (kk / 32))] else [])
      let mask := readBytes c.b0 (regA c f.aReg) (s8Sparse h)
      m ≠ 0 → m ≤ 4096 → admits c [(regA c f.aReg, 8)] [] = true →
      (productOk f.fmtA.toNat f.fmtB.toNat out kk f.mxA f.mxB f.sr f.outMx = true →
        (f.mxA && f.transpose && m % 32 ≠ 0) = false →
        operandFault ((regA c f.aReg, 8) :: (spmmScales c f m kk ++ wrC ++ bRanges c f.fmtB.toNat kk f.mxB f.bReg)) = none →
        spmmHdrOk h f (if f.transpose then kk else m) (if f.transpose then m else kk) = true →
        regA c f.aReg + s8Len h ≤ 0x280000 → (tileRows (readBytes c.b0 (regA c f.aReg) (s8Len h)) h).2 = none →
        Admitted s k.val (4 + f.engine.toNat) rdS wrC →
        ∃ o, exec (.spmm k f) s = .next (setCore s k.val (withOp c (4 + f.engine.toNat) rdS wrC o)) ∧ o.kind = .spr ∧
          o.out.map (·.1) = wrC.map (·.1)) ∧
      (packOk f kk = true → operandFault ((regA c f.aReg, 8) :: dense :: wrP) = none → maskHdrOk h f m kk = true →
        regA c f.aReg + s8Sparse h ≤ 0x280000 → (tileCols mask h (List.range h.rows) 0 []).2 = none →
        Admitted s k.val (4 + f.engine.toNat) [(regA c f.aReg, s8Sparse h), dense] wrP →
        ∃ o, exec (.pack k f) s = .next (setCore s k.val (withOp c (4 + f.engine.toNat) [(regA c f.aReg, s8Sparse h), dense] wrP o)) ∧
          o.kind = .pack ∧ o.out.map (·.1) = wrP.map (·.1)))

/-- OPERATION_COMPLETE of an operation within the core with nothing outstanding: its bytes stand in Bench 0, every byte
outside them reads as before, its queue and scoreboard entries are free, and the other operations stay; MOV.P's bytes stand
in the peer, with the count it names one higher. A residue mismatch of a vector operation writes nothing and faults the core
with ARITH; an operation with pieces unanswered does not complete. -/
def Obligations.OperationCompletes : Prop :=
  ∀ (s : State) (k : Fin 512) (q : Fin 8) (ok : Bool) (o : Op), frozen s = false → s.drg.need = [] →
    (getFace s k.val).st = .running → (getCore s k.val).wait = .none → (getCore s k.val).ended = false →
    (getCore s k.val).ops.find? (fun x => x.q = q.val) = some o →
    let c := getCore s k.val
    (o.pieces ≠ 0 → exec (.operationComplete k q ok) s = .next s) ∧
    (o.pieces = 0 → (∀ p f n, o.kind ≠ .movP p f n) → (ok = true ∨ o.kind ≠ .vec true) →
      ∃ t, exec (.operationComplete k q ok) s = .next t ∧ t = { s with cores := t.cores, faces := t.faces } ∧
        getCore t k.val = { c with ops := c.ops.erase o, b0 := (getCore t k.val).b0 } ∧
        (∀ a, (∀ e ∈ o.out, a < e.1 ∨ e.1 + e.2.length ≤ a) → mget 0 (getCore t k.val).b0 a = mget 0 c.b0 a) ∧
        (∀ e, o.out = [e] → readBytes (getCore t k.val).b0 e.1 e.2.length = e.2) ∧
        ∀ j, j ≠ k.val → getCore t j = getCore s j) ∧
    (∀ peer flag cnt p e, o.pieces = 0 → o.kind = .movP peer flag cnt → o.out = [e] →
      (getCtx s (coreCtx s k.val)).st = .running → physIn s (coreCtx s k.val) peer = some p → p ≠ k.val →
      (getCore s p).wait = .none →
      ∃ t, exec (.operationComplete k q ok) s = .next t ∧ t = { s with cores := t.cores, faces := t.faces } ∧
        getCore t k.val = { c with ops := c.ops.erase o } ∧
        readBytes (getCore t p).b0 e.1 e.2.length = e.2 ∧
        (∀ a, (a < e.1 ∨ e.1 + e.2.length ≤ a) → mget 0 (getCore t p).b0 a = mget 0 (getCore s p).b0 a) ∧
        getCore t p = { getCore s p with
          b0 := (getCore t p).b0
          c := if flag then mput 0 (getCore s p).c cnt.toNat (mget 0 (getCore s p).c cnt.toNat + 1) else (getCore s p).c }) ∧
    (o.pieces = 0 → o.kind = .vec true → ok = false →
      exec (.operationComplete k q ok) s = .next (unitFault (setCore s k.val { c with
        ops := c.ops.erase o, v := o.undo.foldl (fun m e => mput 0 m e.1 e.2) c.v }) k.val 6))

/-! ### The hoist loader -/

/-- BEGIN, VALIDATE, ARM and CANCEL in every state of the loader: BEGIN is taken in EMPTY, STAGING, VALID, COMMITTED and
REFUSED, VALIDATE in STAGING, ARM in VALID; CANCEL leaves ARMING, and ARMED before its count, for VALID, and in INSTALLING
and COMMITTED reports 0x0D. Every other command leaves the device unchanged. The loader takes no command before SYNC, nor
during the Dip. -/
def Obligations.LoaderCommands : Prop :=
  (∀ (s : State), loaderTakes s = true →
      let h := s.hst
      let at_ := fun (t : LState) => ({ s with hst := { h with st := t } } : State)
      (h.st ∈ [LState.empty, .staging, .valid, .committed, .refused] →
        exec .begin s = .next { s with syn := { s.syn with armPending := none },
                                       hst := { h with st := .staging, err := 0, stageLen := 0 } }) ∧
      (h.st ∈ [LState.validating, .arming, .armed, .installing] → exec .begin s = .next s) ∧
      (h.st = .staging → exec .validate s = .next (at_ .validating)) ∧
      (h.st ≠ .staging → exec .validate s = .next s) ∧
      (h.st ≠ .valid → exec .arm s = .next s) ∧
      (h.st = .valid → locked s = true → s.halyard < h.commitCount.toNat →
        exec .arm s = .next (at_ (if h.stagedKind then .arming else .armed))) ∧
      (h.st = .valid → locked s = false → ∃ t, exec .arm s = .next t ∧
        t.hst = { h with st := .refused, err := 0x0A, shadow := none }) ∧
      (h.st = .valid → locked s = true → h.commitCount.toNat ≤ s.halyard → ∃ t, exec .arm s = .next t ∧
        t.hst = { h with st := .refused, err := 0x0B, shadow := none }) ∧
      (h.st = .arming ∨ (h.st = .armed ∧ (h.stagedKind = true ∨ s.halyard < h.commitCount.toNat)) →
        exec .cancel s = .next { s with syn := { s.syn with armPending := none },
                                        hst := { h with st := .valid, err := 0, shadow := none } }) ∧
      (h.st = .installing ∨ h.st = .committed → exec .cancel s = .next { s with hst := { h with err := 0x0D } }) ∧
      (h.st ∈ [LState.empty, .staging, .validating, .valid, .refused] → exec .cancel s = .next s)) ∧
  (∀ (s : State) (i : Instr), i ∈ [Instr.begin, .validate, .arm, .cancel, .send, .bcastArm, .abandon] →
      ((s.pwr.stage ≠ .sync ∧ s.pwr.stage ≠ .ready) ∨ s.syn.dipSt = .dipped) → exec i s = .next s)

/-- The ends of the loader's work: a validation ends in VALID, or in REFUSED with the first failed check; a reload's copy in
ARMED; at the commit count a full image starts to install, is refused BUSY (0x0C) while a context is resident, and a
reload still copying is refused LATE (0x0B). The bytes validated are kept, and are those that the copy takes. -/
def Obligations.LoaderCompletions : Prop :=
  ∀ (s : State), frozen s = false → NoHeldLines s → MapsOk s →
    (s.hst.st = .validating → ∃ t, exec .validationComplete s = .next t ∧
      t.hst.st = (if imageErr (stagedImage s).2 (stagedImage s).1 = 0 then .valid else .refused) ∧
      t.hst.err = BitVec.ofNat 8 (imageErr (stagedImage s).2 (stagedImage s).1) ∧ t.hst.image = (stagedImage s).1 ∧ t.tab = s.tab) ∧
    (s.hst.st = .arming → ∃ t, exec .shadowCopyDone s = .next t ∧ t.tab = s.tab ∧
      t.hst = { s.hst with st := .armed, shadow := some (parseReload (node s) s.hst.image) }) ∧
    (s.hst.st = .armed → s.hst.stagedKind = false → s.halyard < s.hst.commitCount.toNat →
      ∃ t, exec .commitCount s = .next t ∧ t.halyard = s.hst.commitCount.toNat ∧ t.tab = s.tab ∧
        t.hst.st = (if anyResident s then .refused else .installing) ∧ (anyResident s = true → t.hst.err = 0x0C)) ∧
    (s.hst.st = .arming → s.halyard < s.hst.commitCount.toNat →
      ∃ t, exec .commitCount s = .next t ∧ t.hst = { s.hst with st := .refused, err := 0x0B, shadow := none })

/-- INSTALL_COMPLETE: the loader enters COMMITTED with the validated image's IMAGE_ID, every table is that image's, contexts are
DECLARED where it has a record and ABSENT otherwise, nothing of the cores, the frames and the send table is left, and the
session is the commit count. -/
def Obligations.InstallReplacesEverything : Prop :=
  ∀ (s : State), frozen s = false → NoHeldLines s → s.hst.st = .installing → s.syn.armPending = none →
    let img := s.hst.image
    ∃ t, exec .installComplete s = .next t ∧
      t.hst = { s.hst with st := .committed, activeId := BitVec.ofNat 64 (imgHdr img).id, activeLevel := 1, reloadId := 0 } ∧
      t.tab = parseFull (node s) img ∧ t.cores = [] ∧ t.saved = [] ∧ t.fab.table = [] ∧ t.fab.held = [] ∧
      t.fab.session = BitVec.ofNat 64 s.hst.committedAt ∧
      ∀ c : Fin 16, (getCtx t c.val).st = (if (parseFull (node s) img).ctxs.any (fun r => r.ctx = c.val) then .declared else .absent)

/-! ### Ticks and slots -/

/-- TICK_BOUNDARY: the clock stands at the boundary, which is now the last one; the period follows the throttle level, and
the next boundary lies one old period on, or, when the period changes, at the next multiple of the new one from there. A
latency-critical slot of the ending tick that has not been issued, or whose gang is not IDLE, is a TICK_OVERRUN: its context
is torn down with cause 1, whatever else happens at the boundary. -/
def Obligations.TickBoundaryAdvances : Prop :=
  (∀ (s : State), frozen s = false → NoHeldLines s → s.tick.period ≠ 0 → s.halyard < s.tick.next → s.tick.next < 2 ^ 64 →
      let p := min 16000 ((s.tab.mode.tickUs * (8 + max s.pwr.drvInForce s.pwr.autoLevel) + 7) / 8)
      let b := s.tick.next
      let after := b + 1000 * s.tick.period
      ∃ t, exec .tickBoundary s = .next t ∧ t.halyard = b ∧ t.tick.last = b ∧ t.tick.period = p ∧
        t.tick.level = max s.pwr.drvInForce s.pwr.autoLevel ∧
        t.tick.next = (if p = s.tick.period then after
          else (after + max 1 (1000 * p) - 1) / max 1 (1000 * p) * max 1 (1000 * p))) ∧
  (∀ (s : State) (i : SlotI), frozen s = false → NoHeldLines s → MapsOk s → s.tick.period ≠ 0 → s.halyard < s.tick.next → i ∈ s.tick.slots →
      (getCtx s i.ctx.val).lc = true → (getCtx s i.ctx.val).st = .running ∨ (getCtx s i.ctx.val).st = .ending →
      i.st = .pending →
      ∃ t, exec .tickBoundary s = .next t ∧ (getCtx t i.ctx.val).st = .teardown ∧ (getCtx t i.ctx.val).cause = 1)

/-- SLOT_ISSUE of a due slot whose gang is IDLE: the slot is issued, and every core of its gang is RUNNING for the context,
at the first instruction of the slot's program, with its registers, masks and loop stack cleared and its counts and Bench 0
as before. One whose gang is busy waits, counted once in CTX_SLOT_WAITS. SLOT_RETIRE of an issued slot whose gang is IDLE
again: a latency-critical slot is retired and nothing else changes; a best-effort context goes on to its next slot, due at
once. -/
def Obligations.SlotIssueRuns : Prop :=
  (∀ (s : State) (c : Fin 16) (i : Nat) (x : SlotI), frozen s = false → NoHeldLines s →
      findSlot s c.val i = some x → x.st = .pending → (getCtx s c.val).st = .running ∨ (getCtx s c.val).st = .ending →
      ((getCtx s c.val).lc = true → x.due < s.tick.next) →
      (getCtx s c.val).settling = false → slotIdle s x = true → x.due ≤ s.halyard →
      (∀ p ∈ s.tab.programs, p.1 = (slotRec s x).program → p.2 ≠ []) →
      (∃ p ∈ s.tab.programs, p.1 = (slotRec s x).program) →
      let r := slotRec s x
      ∃ t, exec (.slotIssue c i) s = .next t ∧
        (∀ y, y ∈ s.tick.slots → y ≠ x → y ∈ t.tick.slots) ∧ { x with st := .issued } ∈ t.tick.slots ∧
        (∀ u ∈ unitsOf s c.val r.gang, u < 552 →
          (getFace t u).st = .running ∧ (getFace t u).owner = some c ∧ (getFace t u).slot = r.slot ∧
          (getFace t u).cmd = { opcode := 1, ctx := BitVec.ofNat 4 c.val, slot := r.slot, arg := 0 }) ∧
        (∀ u ∈ unitsOf s c.val r.gang, u < 512 →
          getCore t u = { getCore s u with
            pc := 0
            prog := r.program
            gang := r.gang
            ended := false
            s := []
            a := []
            v := []
            m := []
            loops := []
            wait := .none
            stall := 0 }) ∧
        (∀ e : Fin 32, 512 + e.val ∈ unitsOf s c.val r.gang → (getRiddle t e.val).prog = r.program ∧
          (getRiddle t e.val).pc = 0 ∧ (getRiddle t e.val).ended = false ∧ (getRiddle t e.val).op = none) ∧
        (∀ w : Fin 8, 544 + w.val ∈ unitsOf s c.val r.gang → (getTrw t w.val).prog = r.program ∧
          (getTrw t w.val).pc = 0 ∧ (getTrw t w.val).ended = false)) ∧
  (∀ (s : State) (c : Fin 16) (i : Nat) (x : SlotI), frozen s = false → NoHeldLines s →
      findSlot s c.val i = some x → x.st = .pending → (getCtx s c.val).st = .running ∨ (getCtx s c.val).st = .ending →
      ((getCtx s c.val).lc = true → x.due < s.tick.next) →
      (getCtx s c.val).settling = false → slotIdle s x = false → x.due ≤ s.halyard →
      (x.waited = true → exec (.slotIssue c i) s = .next s) ∧
      (x.waited = false → ∃ t, exec (.slotIssue c i) s = .next t ∧ { x with waited := true } ∈ t.tick.slots ∧
        (getCtx t c.val).slotWaits = inc32 (getCtx s c.val).slotWaits 1 ∧
        t = { s with tick := { s.tick with slots := t.tick.slots }, ctxs := t.ctxs } ∧ t.tick.slots.length = s.tick.slots.length)) ∧
  (∀ (s : State) (c : Fin 16) (i : Nat) (x : SlotI), frozen s = false → NoHeldLines s →
      findSlot s c.val i = some x → x.st = .issued → slotIdle s x = true → (getCtx s c.val).st = .running →
      let y := getCtx s c.val
      let r := stepRec s c.val
      (y.lc = true → exec (.slotRetire c i) s = .next { s with tick := { s.tick with
        slots := s.tick.slots.map (fun z => if z = x then { x with st := .retired } else z) } }) ∧
      (y.lc = false → y.slotIndex + 1 < r.slotCount → exec (.slotRetire c i) s =
        .next { setCtx s c.val { y with slotIndex := y.slotIndex + 1 } with tick := { s.tick with slots := s.tick.slots.erase x ++
          [{ ctx := c, idx := r.slotFirst + (y.slotIndex + 1), st := .pending, due := s.halyard, waited := false }] } }))

/-! ### Contexts -/

/-- LAUNCH: turned away with the error of the first check that fails (STATE 1, NO_IMAGE 2, NOT_LOCKED 3, LATE 4, then
CORES_HELD 5 or NO_CORES 6), which changes only CTX_CMD_STATUS; otherwise the context is ARMED, holds its cores and owns
them, and its launch registers start at zero. The order of the checks is the model's own (log entry 24). -/
def Obligations.LaunchChecksAndArms : Prop :=
  ∀ (s : State) (c : Fin 16), frozen s = false →
    let x := getCtx s c.val
    let away := fun (e : Nat) => (.next (cmdStatus s c.val 1 e) : Host.Outcome State Fault Refusal)
    (ctxRec s c.val = none ∨ x.st ≠ .declared → exec (.launch c) s = away 1) ∧
    (∀ r, ctxRec s c.val = some r → x.st = .declared →
      (s.hst.st ≠ .committed → exec (.launch c) s = away 2) ∧
      (s.hst.st = .committed → locked s = false → exec (.launch c) s = away 3) ∧
      (s.hst.st = .committed → locked s = true → s.ctab.launchCount.toNat ≤ s.halyard → exec (.launch c) s = away 4) ∧
      (s.hst.st = .committed → locked s = true → s.halyard < s.ctab.launchCount.toNat →
        (∀ e, coresFor s r = .error e → exec (.launch c) s = away e) ∧
        (∀ b, coresFor s r = .ok b → ∃ t, exec (.launch c) s = .next t ∧ t.ctab.err = 0 ∧
          (getCtx t c.val).st = .armed ∧ (getCtx t c.val).bind = b ∧ (getCtx t c.val).stepsDone = 0 ∧
          (getCtx t c.val).cause = 0 ∧ (getCtx t c.val).launchCount = s.ctab.launchCount.toNat ∧ (getCtx t c.val).ndc = 0 ∧
          (∀ e ∈ b, (getFace t e.2).owner = some c) ∧
          (∀ d, d ≠ c.val → getCtx t d = getCtx s d) ∧
          t = { s with ctab := t.ctab, ctxs := t.ctxs, faces := t.faces, pwr := t.pwr, dbg := t.dbg })))

/-- SAVE, RESTORE, STOP, KILL and RELEASE are turned away in every state that does not take them, with error STATE (1) or,
for SAVE of a latency-critical context, 7; nothing but CTX_CMD_STATUS changes. SAVE, RESTORE, STOP, KILL and RELEASE taken:
the state that the context enters, and CTX_CMD_STATUS without error. -/
def Obligations.ContextCommands : Prop :=
  (∀ (s : State) (c : Fin 16), frozen s = false → NoHeldLines s →
      let x := getCtx s c.val
      let away := fun (cmd e : Nat) => (.next (cmdStatus s c.val cmd e) : Host.Outcome State Fault Refusal)
      (x.st ≠ .running → exec (.save c) s = away 2 1 ∧ exec (.stop c) s = away 4 1) ∧
      (x.st = .running → x.lc = true → exec (.save c) s = away 2 7) ∧
      (x.st ≠ .saved ∨ ctxRec s c.val = none → exec (.restore c) s = away 3 1) ∧
      (x.st ∈ [CState.absent, .declared, .done, .teardown, .gone] → exec (.kill c) s = away 5 1) ∧
      (x.st ≠ .done → x.st ≠ .gone → exec (.release c) s = away 6 1)) ∧
  (∀ (s : State) (c : Fin 16), frozen s = false → NoHeldLines s →
      let x := getCtx s c.val
      let enters := fun (i : Instr) (st : CState) => ∃ t, exec i s = .next t ∧ t.ctab.err = 0 ∧ (getCtx t c.val).st = st ∧
        ∀ d, d ≠ c.val → getCtx t d = getCtx s d
      (x.st = .running → x.lc = false → enters (.save c) .saving) ∧
      (∀ r b, x.st = .saved → ctxRec s c.val = some r → coresFor s r = .ok b → enters (.restore c) .restoring ∧
        ∃ t, exec (.restore c) s = .next t ∧ (getCtx t c.val).bind = b) ∧
      (x.st = .running → x.stepOn = true → x.ending = false →
        exec (.stop c) s = .next (setCtx (cmdStatus s c.val 4 0) c.val { x with st := .ending })) ∧
      (x.st = .armed → enters (.kill c) .declared) ∧
      (x.st ∈ [CState.running, .ending, .saving, .saved, .restoring] → enters (.kill c) .teardown ∧
        ∃ t, exec (.kill c) s = .next t ∧ (getCtx t c.val).cause = 4) ∧
      (x.st = .done ∨ x.st = .gone → exec (.release c) s =
        .next (setCtx (cmdStatus s c.val 6 0) c.val { x with st := .declared })))

/-! ### Contexts: steps, ends, stops, regulators -/

/-- FIRST_STEP at the boundary of R100: the context runs, and its first step is in progress with its slots due.
SAVE_COMPLETE, when every unit has stopped: the context is SAVED, its cores' states are kept, and the cores are free, zeroed
and asleep. TEARDOWN_COMPLETE likewise, and the context is GONE. RESTORE_COMPLETE: the saved cores run on with what the frame
kept. -/
def Obligations.ContextsStartAndEnd : Prop :=
  ∀ (s : State) (c : Fin 16), frozen s = false → NoHeldLines s → MapsOk s →
    let x := getCtx s c.val
    let r := stepRec s c.val
    let freed := fun (t : State) => (getCtx t c.val).bind = [] ∧ ∀ e ∈ x.bind, getCore t e.2 = {} ∧
      (getFace t e.2).st = .idle ∧ (getFace t e.2).owner = none ∧ e.2 ∉ t.pwr.awake
    let forgotten := s.saved.filter (fun v => v.ctx.val ≠ c.val)
    (x.st = .armed → s.tick.period ≠ 0 → s.halyard = s.tick.last → firstAt s c.val ≤ s.tick.last → allAwake s c.val = true →
      s.tab.mode.predictor = false ∨ x.stepsDone = 0 → x.lc = true ∨ 0 < r.slotCount →
      exec (.firstStep c) s = .next (addSlots (setCtx s c.val { x with
        st := .running
        stepOn := true
        step := BitVec.ofNat 16 (stepIdx s c.val)
        tick := 0
        slotIndex := 0 })
        (if x.lc then tickSlots s c.val 0 s.tick.last
         else [{ ctx := c, idx := r.slotFirst, st := .pending, due := s.halyard, waited := false }]))) ∧
    (x.st = .saving → (∀ u ∈ ctxUnits s c.val, u < 552 → (getFace s u).st = .saving ∨ (getFace s u).st = .stopped) →
      ∃ t, exec (.saveComplete c) s = .next t ∧ (getCtx t c.val).st = .saved ∧ freed t ∧
        t.saved = forgotten ++ x.bind.map (savedOf s c.val)) ∧
    (x.st = .teardown → allStopped s c.val = true → poolsToReset s c.val = [] ∨ hasRequests s c.val = false →
      ∃ t, exec (.teardownComplete c) s = .next t ∧ (getCtx t c.val).st = .gone ∧ (getCtx t c.val).cause = x.cause ∧ freed t ∧
        t.saved = forgotten ∧ t.tick.slots = s.tick.slots.filter (fun i => i.ctx.val ≠ c.val)) ∧
    (∀ n k v, x.st = .restoring → allAwake s c.val = true → CleanHbm s → s.tramways = [] → s.colls = [] → x.bind = [(n, k)] →
      v ∈ s.saved → (∀ w ∈ s.saved, w.ctx = c → w.logical = n → w = v) → v.ctx = c → v.logical = n →
      v.core.ops = [] → v.core.wait = .none → v.core.ended = false → (∀ u ∈ ctxUnits s c.val, u < 512 ∨ 552 ≤ u) →
      ∃ t, exec (.restoreComplete c) s = .next t ∧ (getCtx t c.val).st = .running ∧ (getFace t k).st = .running ∧
        (getFace t k).slot = v.slot ∧ getCore t k = { v.core with b0 := (getCore t k).b0 } ∧ t.saved = forgotten)

/-- UNIT_STOP: a core asked to save reads SAVING and keeps what it holds; a core stopped by a teardown abandons its
operations and reads STOPPED, an engine likewise; nothing of the other units changes. A unit that is FAULTED stays so, and a
controller serves on. ALL_BLOCKED once its conditions have held for 20,000 counts, and REGULATOR_PASS when the level of a
bucket covers the charge of its head transfer, which then leaves the level and joins the bytes passed. -/
def Obligations.UnitsStopAndBlock : Prop :=
  (∀ (s : State) (u : UnitId), frozen s = false →
      let n := unitCode u
      let f := getFace s n
      let stopped := fun (t : State) => exec (.unitStop u) s = .next t ∧ (getFace t n).st = .stopped ∧
        ∀ j, j ≠ n → (getFace t j).st = (getFace s j).st
      (f.stopIn = false ∨ f.st = .faulted ∨ 552 ≤ n → exec (.unitStop u) s = .next s) ∧
      (f.stopIn = true → f.st ≠ .faulted → f.st ≠ .saving → f.st ≠ .stopped → f.stopSrc = 4 → n < 512 →
        exec (.unitStop u) s = .next (setFace s n { f with st := .saving })) ∧
      (f.stopIn = true → f.st ≠ .faulted → f.stopSrc = 1 → n < 512 →
        ∃ t, stopped t ∧ (getCore t n).ops = [] ∧ (getCore t n).ended = true ∧ ∀ j, j ≠ n → getCore t j = getCore s j) ∧
      (f.stopIn = true → f.st ≠ .faulted → f.stopSrc = 1 → 544 ≤ n → n < 552 →
        ∃ t, exec (.unitStop u) s = .next t ∧ (getFace t n).st = .stopped ∧ (getTrw t (n - 544)).ended = true ∧
          (getTrw t (n - 544)).op = none)) ∧
  (∀ (s : State) (p : Fin 16) (l : Fin 5), frozen s = false →
      (allBlockedNow s = true → s.ctab.posted = false →
        let u := elapse (20000 - s.ctab.blockedFor) s
        exec .allBlocked s = .next (post { u with ctab := { u.ctab with allBlocked := true, posted := true } } evAllBlocked none 0 0)) ∧
      (allBlockedNow s = false ∨ s.ctab.posted = true → exec .allBlocked s = .next s) ∧
      (∀ x r, (getBucket s p.val l.val).queue = x :: r → (getBucket s p.val l.val).on = true →
        1000 * x.charge ≤ (getBucket s p.val l.val).milli → (getBucket s p.val l.val).milli ≤ 1000 * depth (getBucket s p.val l.val) →
        x.pkt = none → MapsOk s →
        let b := getBucket s p.val l.val
        ∃ t, exec (.regulatorPass p l) s = .next t ∧
          (getBucket t p.val l.val).queue = r ∧ (getBucket t p.val l.val).milli = b.milli - 1000 * x.charge ∧
          (getBucket t p.val l.val).bytes = inc64 b.bytes x.charge) ∧
      ((getBucket s p.val l.val).queue = [] → exec (.regulatorPass p l) s = .next s))

/-! ### Tiers and pools -/

/-- SETTLE is refused with STATE (1), NO_LIST (2) or BUSY (3), else a settle by command begins; SETTLE_COMPLETE ends one that
has nothing left to wait for; MIGRATION_SWITCH puts a copied unit at its new place, or leaves it where a transfer failed. -/
def Obligations.SettlesAndMigrations : Prop :=
  ∀ (s : State) (c : Fin 16), frozen s = false → NoHeldLines s →
    let x := getCtx s c.val
    let mayRun := x.st = .declared ∨ x.st = .done ∨ x.st = .saved
    let away := fun (e : Nat) => exec (.settle c) s = .next { s with tir := { s.tir with err := BitVec.ofNat 8 e, cmdCtx := BitVec.ofNat 4 c.val } }
    (¬ mayRun → away 1) ∧ (mayRun → settleList s c.val = none → away 2) ∧
    (mayRun → (settleList s c.val).isSome = true → x.settling = true → away 3) ∧
    (mayRun → (settleList s c.val).isSome = true → x.settling = false → exec (.settle c) s =
      .next (setCtx { s with tir := { s.tir with err := 0, cmdCtx := BitVec.ofNat 4 c.val, done := false } } c.val
        { x with settling := true, settleByCmd := true })) ∧
    (x.settling = false → exec (.settleComplete c) s = .next s) ∧
    (∀ u, x.settling = true → x.settleByCmd = true → settleRun s c.val = (true, u) →
      ∃ t, exec (.settleComplete c) s = .next t ∧ (getCtx t c.val).settling = false ∧ t.tir.done = true) ∧
    (∀ u b, s.tir.units.find? (fun w => w.ctx.val = c.val && w.mig.isSome) = some u → u.mig = some b →
      (∀ e ∈ xfersOf s c.val 1, e.res = some true) → (xfersOf s c.val 1 ≠ [] ∨ u.written = []) →
      ∃ t, exec (.migrationSwitch c) s = .next t ∧ { u with mig := none, back := b } ∈ t.tir.units) ∧
    (∀ u, s.tir.units.find? (fun w => w.ctx.val = c.val && w.mig.isSome) = some u →
      (∀ e ∈ xfersOf s c.val 1, e.res ≠ none) → (∃ e ∈ xfersOf s c.val 1, e.res = some false) →
      ∃ t, exec (.migrationSwitch c) s = .next t ∧ { u with mig := none } ∈ t.tir.units ∧
        t = { s with tir := t.tir })

/-- ALLOC, RELEASE and RESET of the buffer pool manager: NO_POOL (3) for a pool that the image does not declare; ALLOC takes
the head of the free list, and is EMPTY (2) when no buffer is free or an allocation waits; while no engine is at work, which
could take the buffers at once, the last RELEASE of a buffer frees it and RESET frees all. ALLOCATION_SERVED serves the longest
wait once enough buffers are free, and then only; STAGE stages the frame of the first miss. -/
def Obligations.PoolsAndStaging : Prop :=
  ∀ (s : State) (p : BitVec 4) (refs : BitVec 8) (i : W32), frozen s = false → s.drg.need = [] →
    let q := getPool s p.toNat
    let result := fun (n : Nat) => ({ s with bpm := { s.bpm with pool := p, outcome := BitVec.ofNat 2 n } } : State)
    let still := ∀ e : Fin 8, (getTrw s e.val).op = none ∧ (getTrw s e.val).held = [] ∧ (getColl s e.val).ops = []
    (q.declared = false → exec (.alloc p refs) s = .next (result 3) ∧ exec (.bpmRelease p i) s = .next (result 3) ∧
      exec (.bpmReset p) s = .next (result 3)) ∧
    (q.declared = true → q.waiters ≠ [] ∨ poolFree q = 0 → exec (.alloc p refs) s = .next (result 2)) ∧
    (q.declared = true → q.waiters = [] → 0 < poolFree q → ∃ t, exec (.alloc p refs) s = .next t ∧
      t.bpm.outcome = 1 ∧ t.bpm.index = BitVec.ofNat 32 (if q.fresh < q.count then q.fresh else q.ret.headD 0) ∧
      poolFree (getPool t p.toNat) = poolFree q - 1 ∧ (∀ j, j ≠ p.toNat → getPool t j = getPool s j)) ∧
    (q.declared = true → still → ∃ t, exec (.bpmRelease p i) s = .next t ∧ t.bpm.outcome = 1 ∧
      mget 0 (getPool t p.toNat).refs i.toNat = mget 0 q.refs i.toNat - 1 ∧
      poolFree (getPool t p.toNat) = (if mget 0 q.refs i.toNat ≤ 1 then poolFree q + 1 else poolFree q)) ∧
    (q.declared = true → still → ∃ t, exec (.bpmReset p) s = .next t ∧ t.bpm.outcome = 1 ∧
      poolFree (getPool t p.toNat) = q.count ∧ (getPool t p.toNat).refs = [] ∧ (getPool t p.toNat).waiters = q.waiters) ∧
    (q.waiters = [] → exec (.allocationServed (ctxFin p.toNat)) s = .next s) ∧
    (∀ w n r, q.waiters = (w, n) :: r → poolFree q < n → exec (.allocationServed (ctxFin p.toNat)) s = .next s) ∧
    (∀ m r, NoHeldLines s → s.tir.hints = [] → s.tir.misses = m :: r → (getCtx s m.ctx.val).settling = false →
      m.ofs % 4096 = 0 → xfersOf s m.ctx.val 2 = [] → frameB2 s m.ctx.val m.ofs = none → mayStage s m.ctx.val m.core = true →
      stagedAt s m.core m.ctx.val m.ofs = none → 0 < (quotaOf s m.ctx.val).b0 / 4 →
      s.tir.staged.filter (fun e => e.core = m.core) = [] →
      ∃ t, exec .stage s = .next t ∧ t.tir.misses = r ∧
        ∃ e ∈ t.tir.staged, e.core = m.core ∧ e.ctx = m.ctx ∧ e.ofs = m.ofs ∧ e.slot = 0)

/-! ### The Riddle -/

/-- LRTAB, END and ROUTE issued by a Riddle engine that runs and is free: LRTAB names the low-rank table, emptying the lane
store when the table differs, and is ILLEGAL with RANK 3; END ends the slot on the engine; ROUTE faults with the first check
of R227 that fails, else it takes the block whose SEQ is the one it expects, waits for it, or, on the consumed mark,
completes at once. -/
def Obligations.RiddleCommands : Prop :=
  ∀ (s : State) (e : Fin 32) (f : LrtabF) (g : RouteF), rdlIssues s e.val = true →
    let r := getRiddle s e.val
    let u := rdlUnit e.val
    let face := getFace s u
    let x := rdlCtx s e.val
    let rho := (rdlGroup s e.val).idxOf e.val
    let cfg := s.tab.riddle.find? (fun c => c.cfg = g.cfg.toNat)
    let h := b0Read s x (srcCoreOf g rho) (64 * g.scoreAddr.toNat) 16
    let want := (getCtx s x).stepsDone.toNat % 65536 * 65536 + g.tag.toNat
    (f.rank = 3 → exec (.lrtab e f) s = .next (unitFault s u 1)) ∧
    (f.rank ≠ 3 → r.pc.toNat + 1 < rdlWords s r → exec (.lrtab e f) s = .next (setRiddle s e.val { r with
      lr := some f
      lane := if r.lr = some f then r.lane else []
      pc := r.pc + 1
      phase := .idle })) ∧
    exec (.riddleEnd e) s =
      .next (setFace (setRiddle s e.val { r with ended := true, phase := .idle }) u { face with st := .idle }) ∧
    (∀ code, routeFault s e.val rho g cfg = some code → exec (.route e g) s = .next (unitFault s u code)) ∧
    (∀ c, cfg = some c → routeFault s e.val rho g cfg = none →
      (natAt h 4 4 = want → ∃ t o, exec (.route e g) s = .next t ∧ (getRiddle t e.val).op = some o ∧
        (getRiddle t e.val).phase = .load ∧ (getFace t u).st = .running ∧ o.f = g ∧ o.cfg = c ∧ o.keff = kEff c ∧
        o.step = (getCtx s x).stepsDone ∧ o.tokens = min (natAt h 0 4) (g.tM1.toNat + 1) ∧
        o.tokenBase = BitVec.ofNat 64 (natAt h 8 8) ∧ t = { s with riddles := t.riddles, faces := t.faces }) ∧
      (natAt h 4 4 ≠ want → natAt h 4 4 ≠ want ^^^ 0x80000000 → ∃ t, exec (.route e g) s = .next t ∧
        (getRiddle t e.val).phase = .seqWait ∧ (getFace t u).st = .waiting ∧
        t = { s with riddles := t.riddles, faces := t.faces }) ∧
      (natAt h 4 4 = want ^^^ 0x80000000 → r.pc.toNat + 2 < rdlWords s r → ∃ t, exec (.route e g) s = .next t ∧
        (getRiddle t e.val).op = none ∧ (getRiddle t e.val).pc = r.pc + 2 ∧
        mget 0 (getFace t u).cnt 4 = inc64 (mget 0 face.cnt 4) 1 ∧ t = { s with riddles := t.riddles, faces := t.faces }))

/-- The choices of a token: at most k_eff of them, each eligible and each once; the weight of each is its p over the tree sum
of the chosen p's, or zero when that sum is zero. -/
def Obligations.RiddleChoices : Prop :=
  ∀ (c : RiddleCfg) (k : Nat) (bias sc : List FV),
    let p := normalise c.norm sc
    let keys := if c.biasEn then (indexed p).map (fun a => rnd 1 (fadd a.2 (bias.getD a.1 fv0))) else p
    let el := eligible c keys
    let ch := (tokenChoices c k bias sc).1
    let ids := ch.map (fun e => e.1)
    let sum := treeSum32 (ids.map (fun i => p.getD i fv0))
    ids.Nodup ∧ ids.length = min k el.length ∧ (∀ i ∈ ids, i ∈ el.map (fun e => e.1)) ∧
    (∀ e ∈ ch, e.2 = BitVec.ofNat 32 (enc 1 none (if sum.isZero then fv0 else rnd 1 (fdiv (p.getD e.1 fv0) sum))))

/-- The work of a routing engine: SCORE_BLOCK scores a loaded block, or, on a residue mismatch, faults with ARITH;
CAPACITY_EXCHANGE of an engine alone in its group builds the list, which lies in the buffer at the head of its pool's free
list, or waits for one, and ALLOCATION_SERVED brings it; HANDOVER gives the list to the Tramway engine of the die and ends
the command. -/
def Obligations.RiddleWork : Prop :=
  ∀ (s : State) (e : Fin 32) (o : ROp), frozen s = false → NoHeldLines s → (getRiddle s e.val).op = some o →
    (getFace s (rdlUnit e.val)).st = .running →
    let r := getRiddle s e.val
    let u := rdlUnit e.val
    let x := rdlCtx s e.val
    let t8 := e.val / 4
    (r.phase = .load → exec (.scoreBlock e false) s =
      .next (unitFault (setRiddle s e.val { r with op := none, phase := .idle }) u 6)) ∧
    (r.phase = .load → o.cfg.lowRank = false → o.cfg.biasEn = false → exec (.scoreBlock e true) s =
      .next (setRiddle s e.val { r with
        op := some { o with choices := (scoreRows s e.val o [] []).1, nanTokens := (scoreRows s e.val o [] []).2 }
        phase := .exchange })) ∧
    (∀ q, r.phase = .exchange → rdlGroup s e.val = [e.val] → getPool s o.f.pool.toNat = q → q.declared = true →
      q.bench1 = false → q.waiters = [] → 0 < poolFree q → 0 < queueFree s t8 →
      ∃ t o', exec (.capacityExchange e) s = .next t ∧ (getRiddle t e.val).op = some o' ∧ o'.reserved = true ∧
        o'.list = some { buildList o x [] with buf := if q.fresh < q.count then q.fresh else q.ret.headD 0 } ∧
        poolFree (getPool t o.f.pool.toNat) = poolFree q - 1) ∧
    (∀ q, r.phase = .exchange → rdlGroup s e.val = [e.val] → getPool s o.f.pool.toNat = q → poolFree q = 0 →
      ∃ t o', exec (.capacityExchange e) s = .next t ∧ (getRiddle t e.val).op = some o' ∧
        o'.list = some (buildList o x []) ∧ (getPool t o.f.pool.toNat).waiters = q.waiters ++ [(.riddle e, 1)]) ∧
    (∀ l, CleanHbm s → rdlGroup s e.val = [e.val] → o.list = some l → o.reserved = true → listBuilt s e.val = true →
      (getFace s u).stopIn = false → r.pc.toNat + 2 < rdlWords s r → (getCtx s x).st = .running →
      ∃ t, exec (.handover e) s = .next t ∧ (getTrw t t8).queue = (getTrw s t8).queue ++ [l] ∧
        (getRiddle t e.val).op = none ∧ (getRiddle t e.val).pc = r.pc + 2 ∧ (getRiddle t e.val).phase = .idle ∧
        (getRiddle t e.val).lastLive = BitVec.ofNat 16 l.live ∧ (getRiddle t e.val).lastSpoil = BitVec.ofNat 16 l.spoil ∧
        t.rdl.routes = inc64 s.rdl.routes 1) ∧
    (∀ l q w, o.list = some l → l.pool < 16 → getPool s l.pool = q → q.declared = true → q.bench1 = false →
      q.waiters = (.riddle e, 1) :: w → 0 < poolFree q →
      ∃ t o', exec (.allocationServed (ctxFin l.pool)) s = .next t ∧ (getPool t l.pool).waiters = w ∧
        (getRiddle t e.val).op = some o' ∧
        o'.list = some { l with buf := if q.fresh < q.count then q.fresh else q.ret.headD 0 })

/-! ### The Tramway -/

/-- DISPATCH, COMBINE, XCHG and END issued by a Tramway engine that runs and is free: the first three fault with the first
check that fails; taken, each starts an operation with the next OP_SEQ, which remembers its context. A DISPATCH makes one
count table for each local target; a COMBINE with nothing to combine completes, and takes an answer area for its record; an
XCHG has one segment to send for each of its members' slots. -/
def Obligations.TramwayCommands : Prop :=
  ∀ (s : State) (t : Fin 8) (d : DispatchF) (c : CombineF) (x : XchgF), trwIssues s t.val = true → NoHeldLines s →
    let w := getTrw s t.val
    let u := trwUnit t.val
    let ctx := trwCtx s t.val
    let seq := inc32 w.opStarted 1
    let step := (getCtx s ctx).stepsDone
    let started := fun (v : State) (tag : BitVec 16) => (getTrw v t.val).opStarted = seq ∧ (getTrw v t.val).tag = tag ∧
      mget 0 (getTrw v t.val).hist seq.toNat = ctx + 1
    (∀ code, dispFault s t.val d = some code → exec (.dispatch t d) s = .next (unitFault s u code)) ∧
    (∀ code, combFault s t.val c = some code → exec (.combine t c) s = .next (unitFault s u code)) ∧
    (∀ code, xchgFault s t.val x = some code → exec (.xchg t x) s = .next (unitFault s u code)) ∧
    (dispFault s t.val d = none → w.held = [] → w.census = [] →
      ∃ v o, exec (.dispatch t d) s = .next v ∧ started v d.tag ∧ (getTrw v t.val).op = some o ∧ o.seq = seq ∧
        o.cmd = .disp d ∧ o.step = step ∧ o.place = placeOf s d.cfg.toNat ∧
        (getTrw v t.val).tabs.length = w.tabs.length + (localTargets s t.val ctx (placeOf s d.cfg.toNat)).length) ∧
    (combFault s t.val c = none → w.held = [] → w.out = [] → w.recs = [] → w.tabs = [] → w.pc.toNat + 3 < trwWords s w →
      ∃ v, exec (.combine t c) s = .next v ∧ started v c.tag ∧ (getTrw v t.val).op = none ∧ (getTrw v t.val).opDone = seq ∧
        (getTrw v t.val).pc = w.pc + 3) ∧
    (∀ r q, combFault s t.val c = none → w.held = [] → w.tabs = [] → w.recs = [r] →
      recsFor s t.val ctx c.cfg.toNat c.tag.toNat step = [r] → 0 < r.list.live → r.answers = [] →
      getPool s c.ansPool.toNat = q → q.declared = true → q.waiters = [] →
      bufNeed s c.ansPool.toNat (areaSize s c r.list.live) ≤ poolFree q →
      ∃ v o l, exec (.combine t c) s = .next v ∧ started v c.tag ∧ (getTrw v t.val).op = some o ∧ o.cmd = .comb c ∧ o.seq = seq ∧
        (getTrw v t.val).recs = [{ r with comb := some c, combSeq := seq, area := some (c.ansPool.toNat, l) }] ∧
        l.length = bufNeed s c.ansPool.toNat (areaSize s c r.list.live)) ∧
    (∀ g, xchgFault s t.val x = none → groupGang s x.group.toNat = some g → x.xkind = 0 → (getFace s u).stopIn = true →
      w.held = [] → xchgMine s t.val ctx (gangCores s g) ≠ [] →
      let ms := gangCores s g
      ∃ v o, exec (.xchg t x) s = .next v ∧ started v x.tag ∧ (getTrw v t.val).op = some o ∧ o.cmd = .xchg x ∧ o.gang = g ∧
        o.mine = xchgMine s t.val ctx ms ∧
        o.todo = o.mine.flatMap (fun m => (List.range ms.length).map (fun j =>
          TTodo.segment m.2 ((ms.getD j (0, 0)).1) j m.1 (64 * x.srcAddr.toNat + j * xchgC x) (segLen s ctx x m.2 j).1))) ∧
    exec (.tramwayEnd t) s = .next (setFace (setTrw s t.val { w with ended := true, phase := .idle }) u
      { getFace s u with st := .idle })

/-- INTAKE takes the first list of the engine's DISPATCH with a record buffer and the context's next epoch, or faults with
BOUNDS when the list's token rows pass the end of Bench 0; CENSUS at the lead marks the census on every engine of the node;
ABORT answers for a number that the context never had, one that has completed, and one already aborted, and aborts a DISPATCH
that has not sent anything. -/
def Obligations.TramwayWork : Prop :=
  ∀ (s : State) (t : Fin 8) (o : TOp) (f : DispatchF) (ctx : BitVec 4) (seq : W32), frozen s = false → NoHeldLines s →
    let w := getTrw s t.val
    let q := getPool s f.recPool.toNat
    let res := fun (r : BitVec 2) => (.next (setTrw s t.val { w with abortRes := r, abortSeq := seq }) :
      Host.Outcome State Fault Refusal)
    (∀ l, w.op = some o → o.cmd = .disp f → censusDone w o f = false → w.wants.any (fun x => x.kind = .intake) = false →
      (getFace s (trwUnit t.val)).st = .running → intakeList w o f = some l →
      (0x280000 < 64 * l.actAddr + l.tokens * dispPitch f →
        exec (.intake t) s = .next (unitFault s (trwUnit t.val) 3)) ∧
      (64 * l.actAddr + l.tokens * dispPitch f ≤ 0x280000 → o.todo = [] → w.held = [] → q.declared = true → q.waiters = [] →
        0 < poolFree q →
        let e := nextEpoch (mget 0 w.epoch o.ctx.val)
        ∃ v n, exec (.intake t) s = .next v ∧ (getTrw v t.val).queue = w.queue.erase l ∧
          (getTrw v t.val).recs = w.recs ++ [{ n := n, idx := if q.fresh < q.count then q.fresh else q.ret.headD 0, pool := f.recPool.toNat, epoch := e, list := l, opSeq := o.seq }] ∧
          mget 0 (getTrw v t.val).epoch o.ctx.val = e)) ∧
    (w.op = some o → o.cmd = .disp f → censusDone w o f = false → (nodeRecs s o f).length = f.enginesM1.toNat + 1 →
      (∃ r, (t.val, r) ∈ nodeRecs s o f ∧ r.list.rank = 0) → (getFace s (trwUnit t.val)).st = .running →
      (getFace s (trwUnit t.val)).stopIn = true → o.aborted = false → w.held = [] →
      (∀ i : Fin 8, i ≠ t → (getTrw s i.val).op = none ∧ (getTrw s i.val).held = []) →
      let all := (nodeRecs s o f).map (fun e => e.2)
      let parts := (((nodeRecs s o f).filter (fun e => e.1 = t.val)).map (fun e => e.2)).flatMap (partsOf all)
      parts ≠ [] →
      ∃ v, exec (.census t) s = .next v ∧ (getTrw v t.val).op = some { o with todo := parts } ∧
        (∀ i : Fin 8, (o.ctx, f.cfg.toNat, f.tag.toNat, o.step) ∈ (getTrw v i.val).census) ∧
        ∀ d ∈ censusDescs o f all, ∃ h ∈ (getTrw v t.val).held, h.pkt.dest = BitVec.ofNat 14 d.1 ∧ h.pkt.vc = 2 ∧ h.pkt.op = 8) ∧
    (w.opStarted.toNat < seq.toNat ∨ mget 0 w.hist seq.toNat ≠ ctx.toNat + 1 → exec (.abort t ctx seq) s = res 3) ∧
    (seq.toNat ≤ w.opStarted.toNat → mget 0 w.hist seq.toNat = ctx.toNat + 1 →
      ((trwOps w).find? (fun a => a.seq = seq) = none → exec (.abort t ctx seq) s = res 1) ∧
      (∀ a, (trwOps w).find? (fun a => a.seq = seq) = some a → a.aborted = true → exec (.abort t ctx seq) s = res 2) ∧
      (w.op = some o → o.cmd = .disp f → censusDone w o f = false → o.seq = seq → o.aborted = false → o.todo = [] →
        w.held = [] → w.out = [] → w.wants = [] → w.parked = [] →
        ∃ v, exec (.abort t ctx seq) s = .next v ∧ (getTrw v t.val).abortRes = 2 ∧ (getTrw v t.val).abortSeq = seq ∧
          (getTrw v t.val).op = some { o with aborted := true } ∧
          mget 0 (getFace v (trwUnit t.val)).cnt 12 = inc64 (mget 0 (getFace s (trwUnit t.val)).cnt 12) 1))

/-- Packets of the Tramway that reach their context: block descriptors whose tables exist fill them and are acknowledged,
others are answered WAIT; the rows of a table that does not hold every descriptor yet stay in the Yard, those of a step that
has ended are acknowledged and dropped, and so are cancelled parts and segments; a RESULT without its first part is answered
WAIT. A row, a cancelled row, an answer and a segment taken are acknowledged and kept with their table, record or operation.
A context torn down answers CONTEXT_GONE and counts the packet, one without cores NOT_READY. -/
def Obligations.TramwayPackets : Prop :=
  ∀ (s u : State) (p : Packet) (ok : Bool), frozen s = false → NoHeldLines s → p.long = true → p.op = 8 → Arrives s p u →
    let c := p.ctx.toNat
    let v := openSession u p
    let x := getCtx v c
    let h := parsePart p.payload
    let done := (.next (accept v 0 p) : Host.Outcome State Fault Refusal)
    let each := fun (o : Host.Outcome State Fault Refusal) => exec (.blockDescriptor p) s = o ∧ exec (.rows p) s = o ∧
      exec (.result p ok) s = o ∧ exec (.cancelled p) s = o ∧ exec (.segment p) s = o
    let quiet := fun (e : Nat) => (getTrw v e).op = none ∧ (getTrw v e).held = []
    let old := partOfs p = 0 ∧ h.step.toNat < x.stepsDone.toNat
    (noImage v = true → each (.next (sendAck v 0 p 2 0))) ∧
    (noImage v = false → x.st = .teardown ∨ x.st = .gone →
      each (.next (sendAck (setCtx v c { x with droppedIn := inc64 x.droppedIn 1 }) 0 p 1 0))) ∧
    (noImage v = false → x.st ∈ [CState.absent, .declared, .done] → each (.next (sendAck v 0 p 2 0))) ∧
    (noImage v = false → x.st = .running →
      (∀ d, (descsIn p).find? (fun d => (descTab v c d).isNone) = some d → exec (.blockDescriptor p) s =
        .next (trwWaitAns v ((gangDie v c (bits (natAt d 0 8) 59 48)).getD 0) p)) ∧
      (∀ d e tb, descsIn p = [d] → descTab v c d = some (e, tb) → quiet e → tb.deposited = true →
        (∀ r ∈ (getTrw v e).tabs, r.n = tb.n → r = tb) →
        ∃ t, exec (.blockDescriptor p) s = .next t ∧ Answered t p 0 0 ∧ ∃ r ∈ (getTrw t e).tabs, r.n = tb.n ∧
          r.srcs = tb.srcs.map (fun y => if y.1 = p.src.toNat then (y.1, some (natAt d 16 2)) else y)) ∧
      (partOfs p = 0 → ∀ e tb, partTab v c h = some (e, tb) → tabFull tb = false →
        exec (.rows p) s = .next s ∧ exec (.cancelled p) s = .next s) ∧
      (∀ e tb, partOfs p = 0 → partTab v c h = some (e, tb) → tabFull tb = true → msgFlits p ≤ flits p → v.fab.msgs = [] →
        quiet e → (∀ r ∈ (getTrw v e).tabs, r.n = tb.n → r = tb) → h.rows = 1 → tb.rows.length + 1 < tabTotal tb →
        (∀ y ∈ tb.rows, y.row ≠ tabBase tb p.src.toNat + h.base) →
        let row := tabBase tb p.src.toNat + h.base
        (∃ t, exec (.rows p) s = .next t ∧ Answered t p 0 0 ∧ ∃ r ∈ (getTrw t e).tabs, r.n = tb.n ∧ r.rows = tb.rows ++
          [{ row := row, node := p.src.toNat, tag := BitVec.ofNat 64 (natAt p.payload 64 8), dropped := decide (dispRows tb.f ≤ row), cancelled := false }]) ∧
        (∃ t, exec (.cancelled p) s = .next t ∧ Answered t p 0 0 ∧ ∃ r ∈ (getTrw t e).tabs, r.n = tb.n ∧ r.rows = tb.rows ++
          [{ row := row, node := p.src.toNat, tag := 0, dropped := false, cancelled := true }])) ∧
      (∀ r f a l, partOfs p = 0 → msgFlits p ≤ flits p → v.fab.msgs = [] → h.rows = 1 → (∀ i, i < 8 → quiet i) →
        let tag := BitVec.ofNat 64 (natAt p.payload 64 8)
        let e := bits tag.toNat 62 60
        let d := bits tag.toNat 43 32
        tagRec v c tag = some r → (∀ y ∈ (getTrw v e).recs, y.n = r.n → y = r) → r.comb = some f → r.area = some (a, l) →
        (getPool v a).bench1 = false → bitAt tag.toNat 63 = false → d < r.list.live → d < r.list.descs.length →
        (∀ y ∈ r.answers, y.1 ≠ d) → r.answers.length + 1 < r.list.live → v.tab.mode.faCombine = false →
        ∃ t, exec (.result p ok) s = .next t ∧ Answered t p 0 0 ∧
          ∃ y ∈ (getTrw t e).recs, y.n = r.n ∧ y.answers = r.answers ++ [(d, true)]) ∧
      (∀ e o f, partOfs p = 0 → msgFlits p ≤ flits p → v.fab.msgs = [] → segOp v c h = some (e, o, f) → (getTrw v e).op = some o →
        (getTrw v e).parked = [] → (getTrw v e).held = [] → o.todo = [] → (h.expert, h.base) ∉ o.got → h.expert ∉ o.counted →
        o.got.countP (fun g => g.1 = h.expert) + 1 < xchgSlots f (gangCores v o.gang).length →
        ∃ t, exec (.segment p) s = .next t ∧ Answered t p 0 0 ∧
          (getTrw t e).op = some { o with got := o.got ++ [(h.expert, h.base)] }) ∧
      (old → partTab v c h = none → exec (.rows p) s = done ∧ exec (.cancelled p) s = done) ∧
      (old → segOp v c h = none → exec (.segment p) s = done) ∧
      (partOfs p ≠ 0 → v.fab.msgs = [] → exec (.result p ok) s = .next (trwWaitAns v 0 p) ∧ exec (.segment p) s = .next s) ∧
      (partOfs p = 0 → answerWaits v c (msgKnown v p) = none → flits p < msgFlits p → v.fab.msgs = [] →
        ∃ t, exec (.result p ok) s = .next t ∧ Answered t p 0 0 ∧ ∃ m ∈ t.fab.msgs, ofMsg p m = true))

/-! ### HBM -/

/-- Accesses that reach a controller in SERVICE: a long burst and a full write change the bytes they name and no others, a
partial write of a clean codeword changes the bytes its mask selects, a read of a clean codeword changes no byte; each
advances the counter of its path. In TEST, RETRAIN and FAILED an access has no effect but TEST_DROPS. -/
def Obligations.HbmAccesses : Prop :=
  ∀ (s : State) (n : Fin 32) (addr : BitVec 48) (mask : BitVec 32) (data : List Byte) (req : Requester) (wr : Bool),
    hbmOn s = true → frozen s = false → NoHeldLines s →
    let cw := addr.toNat / 32 * 32
    let base := addr.toNat / 2048 * 2048
    let h := getHbm s n.val
    let counts := fun (t : State) (i : Nat) =>
      mget 0 (getFace t (552 + n.val)).cnt i = inc64 (mget 0 (getFace s (552 + n.val)).cnt i) 1
    let clean := h.marked = [] ∧ ∀ i, i < 4 → mget 0 s.chk (key n.val cw * 4 + i) = 0
    (h.st = .service → base < trainBase →
      (∃ t, exec (.longBurst n addr true data [] req) s = .next t ∧ counts t 7 ∧
        (∀ i, i < 2048 → mget 0 t.bench1 (key n.val base + i) = data.getD i 0) ∧
        ∀ a, (a < key n.val base ∨ key n.val base + 2048 ≤ a) → mget 0 t.bench1 a = mget 0 s.bench1 a) ∧
      (h.marked = [] → s.chk = [] → ∃ t, exec (.longBurst n addr false data [] req) s = .next t ∧ counts t 6 ∧
        t.bench1 = s.bench1 ∧ t.chk = s.chk)) ∧
    (h.st = .service → cw < trainBase →
      (mask = BitVec.allOnes 32 ∨ (mask ≠ 0 ∧ clean) → ∃ t, exec (.narrowPath n addr mask data [] req) s = .next t ∧ counts t 5 ∧
        (∀ i, i < 32 → mget 0 t.bench1 (key n.val cw + i) =
          (if mask.getLsbD i then data.getD i 0 else mget 0 s.bench1 (key n.val cw + i))) ∧
        ∀ a, (a < key n.val cw ∨ key n.val cw + 32 ≤ a) → mget 0 t.bench1 a = mget 0 s.bench1 a) ∧
      (clean → ∃ t, exec (.narrowPath n addr 0 data [] req) s = .next t ∧ counts t 4 ∧ t.bench1 = s.bench1 ∧ t.chk = s.chk)) ∧
    (h.st = .test ∨ h.st = .retrain ∨ h.st = .failed →
      (base < trainBase → exec (.longBurst n addr wr data [] req) s = .next (bump s (552 + n.val) 15 1)) ∧
      (cw < trainBase → exec (.narrowPath n addr mask data [] req) s = .next (bump s (552 + n.val) 15 1)))

/-- The commands of a controller, each with the states that take it and its errors, and what completes them: repairs,
retrains, shifts of the wrapper port, test bursts. HBM_TRAIN of a controller in TRAINING: with the device ID and every lane
good it serves, its stack filled with zeros below the training area and no byte of another stack changed; when it is the
last, the power-up goes on to the adits. Otherwise it is FAILED, its unit FAULTED with TRAIN, HBM_FAIL set, and the power-up
ends in its stage. -/
def Obligations.HbmCommands : Prop :=
  (∀ (s : State) (n : Fin 32) (fails : List LaneFail) (t8 : Byte), hbmOn s = true →
      let h := getHbm s n.val
      let put := fun (g : Hbm) => (.next (setHbm s n.val g) : Host.Outcome State Fault Refusal)
      let no := fun (cmd err : Nat) => put { h with err := BitVec.ofNat 8 err, lastCmd := BitVec.ofNat 4 cmd }
      let begun := fun (cmd : BitVec 4) (row : BitVec 34) => ({ h with
        err := 0
        lastCmd := cmd
        done := false
        jobs := h.jobs ++ [(cmd, row)] } : Hbm)
      (h.st ≠ .service → exec (.testEnter n) s = no 1 1) ∧
      (h.st = .service → hbmBusy s = true → exec (.testEnter n) s = no 1 2 ∧ exec (.retrain n) s = no 3 2) ∧
      (h.st = .service → hbmBusy s = false →
        exec (.testEnter n) s = put { h with err := 0, lastCmd := 1, done := true, st := .test }) ∧
      (h.st ≠ .test → exec (.testExit n) s = no 2 1 ∧ exec (.sppr n) s = no 4 1 ∧ exec (.hppr n) s = no 5 1) ∧
      (h.st = .test → exec (.testExit n) s = put { h with err := 0, lastCmd := 2, done := true, st := .service } ∧
        (pprBad h = true → exec (.sppr n) s = no 4 4 ∧ exec (.hppr n) s = no 5 4) ∧
        (pprBad h = false → exec (.sppr n) s = put (begun 4 (pprAddr h)) ∧ exec (.hppr n) s = put (begun 5 (pprAddr h)))) ∧
      (h.st = .down ∨ h.st = .training ∨ h.st = .retrain → exec (.retrain n) s = no 3 1) ∧
      ((h.st = .service ∧ hbmBusy s = false) ∨ h.st = .test → (getFace s (552 + n.val)).st ≠ .faulted →
        exec (.retrain n) s = put { begun 3 0 with st := .retrain, failValid := false, failPc := 0 }) ∧
      (h.st = .down → exec (.clearMarks n) s = no 6 1) ∧
      (h.st ≠ .down → exec (.clearMarks n) s = put { h with err := 0, lastCmd := 6, done := true, marked := [] }) ∧
      (h.jobs = [] → exec (.hbmCommandDone n true fails) s = .next s) ∧
      (∀ row, h.jobs = [(3, row)] → firstFail h.repaired [] = none → exec (.hbmCommandDone n true []) s = put { h with
        jobs := []
        done := true
        marked := []
        st := .service
        repaired := repairAll h.repaired [] }) ∧
      (∀ row, h.jobs = [(3, row)] → ∃ t, exec (.hbmCommandDone n false fails) s = .next t ∧ (getHbm t n.val).st = .failed ∧
        (getHbm t n.val).err = 5 ∧ (getFace t (552 + n.val)).st = .faulted ∧ (getFace t (552 + n.val)).fault = 0x0A) ∧
      (h.st = .service → Config.wirInService h.wirInstr = false → exec (.hbm1500Shift n) s = put { h with err := 1 }) ∧
      (h.st ≠ .service ∨ Config.wirInService h.wirInstr = true → exec (.hbm1500Shift n) s = put { h with shiftGo := true }) ∧
      (h.shiftGo = true → ∃ d, exec (.shiftComplete n) s = put { h with shiftGo := false, shifts := h.shifts + 1, data1500 := d }) ∧
      (h.st = .test ∨ h.st = .failed → exec (.testBurst n) s = put { h with burstGo := true }) ∧
      (h.st ≠ .test → h.st ≠ .failed → exec (.testBurst n) s = put { h with err := 1 }) ∧
      (h.burstGo = true → h.burstWrite = true → h.raw = false → h.burstAddr.toNat / 2048 * 2048 < stackSize →
        let base := h.burstAddr.toNat / 2048 * 2048
        ∃ t, exec (.testBurstComplete n []) s = .next t ∧ (getHbm t n.val).burstGo = false ∧
          (∀ i, i < 2048 → mget 0 t.bench1 (key n.val base + i) = mget 0 h.burstBuf i) ∧
          ∀ a, (a < key n.val base ∨ key n.val base + 2048 ≤ a) → mget 0 t.bench1 a = mget 0 s.bench1 a) ∧
      (hbmAwake h = true → h.shiftGo = false → exec (.temperatureRead n t8) s = put { h with temp := t8 }) ∧
      (hbmAwake h = true → exec (.refresh n) s = .next (bump s (552 + n.val) 12 1) ∧
        exec (.rfm n) s = .next (bump s (552 + n.val) 13 1)) ∧
      (s.halyard % 1000000 = 0 → exec (.markInterval n) s = put { h with corr := [] })) ∧
  (∀ (s : State) (n : Fin 32) (fails : List LaneFail) (ok : Bool), hbmOn s = true → (getHbm s n.val).st = .training →
      let h := getHbm s n.val
      let others := ∀ k, k < 32 → k ≠ n.val → (getHbm s k).st = .service
      (firstFail h.hardRepaired [] = none → ∃ t, exec (.hbmTrain n true []) s = .next t ∧ (getHbm t n.val).st = .service ∧ (getHbm t n.val).marked = [] ∧
        (∀ a, a / stackShift = n.val → a % stackShift < trainBase → mget 0 t.bench1 a = 0) ∧
        (∀ a, a / stackShift ≠ n.val → mget 0 t.bench1 a = mget 0 s.bench1 a) ∧
        (s.pwr.stage = .hbmTrain → others → t.pwr.stage = .aditTrain) ∧
        (s.pwr.stage = .hbmTrain → ¬ others → t.pwr.stage = .hbmTrain)) ∧
      (ok = false ∨ (firstFail h.hardRepaired fails).isSome = true →
        ∃ t, exec (.hbmTrain n ok fails) s = .next t ∧ (getHbm t n.val).st = .failed ∧
          (getFace t (552 + n.val)).st = .faulted ∧ (getFace t (552 + n.val)).fault = 0x0A ∧
          t.pwr.stage = .failed ∧ t.pwr.failStage = 3 ∧ t.bench1 = s.bench1))

/-! ### The Yard and the adits -/

/-- PACKET_ACCEPT from an injection port: a full staging queue leaves the packet where it waits; a stomped packet is dropped;
a packet without a route is dropped and counted; a load that meets a held load of the same place is merged with it; a packet
with a route enters its output when that has room, and else waits at the head of the staging queue. -/
def Obligations.PacketsAreAccepted : Prop :=
  ∀ (s : State) (q : Fin 34) (p : Packet), frozen s = false → NoHeldLines s → s.tab.mode.bunting = false →
    (q.val < 8 ∨ 32 ≤ q.val) →
    let gone := fun (t : State) => t.fab.inject = s.fab.inject.erase (q.val, p)
    (stageRoom s q.val p.vc.toNat = false → exec (.packetAccept q p) s = .next s) ∧
    (stageRoom s q.val p.vc.toNat = true → p.stomp = true → ∃ t, exec (.packetAccept q p) s = .next t ∧ gone t ∧
      t.yard = s.yard ∧ t.adits = s.adits) ∧
    (stageRoom s q.val p.vc.toNat = true → p.stomp = false → s.yard.groups = [] →
      (mergeable p = false → routeOf s q.val p = .drop 0x11 → ∃ t, exec (.packetAccept q p) s = .next t ∧
        t.fab.noRoute = inc32 s.fab.noRoute 1 ∧ t.yard = s.yard) ∧
      (∀ e, s.yard.cmbDisable = false → p.op = 2 → mergeable p = true →
        s.yard.out.find? (fun e => mergeable e.pkt && samePlace e.pkt p && decide (yardNow s - e.at_ ≤ 255)) = some e →
        e.gid = none → ∃ t g, exec (.packetAccept q p) s = .next t ∧ gone t ∧ t.yard.groups = [g] ∧
          g.members = [e.pkt, p] ∧ t.yard.readMerges = inc64 s.yard.readMerges 1) ∧
      (∀ o, mergeable p = false → (∀ c, routeOf s q.val p ≠ .drop c) → outPortOf s q.val p = some o → (o < 8 ∨ 32 ≤ o) →
        s.yard.stage.any (fun e => e.1 = q.val && e.2.vc = p.vc) = false →
        occ s o p.vc.toNat + pktLen p ≤ partSize o p.vc.toNat → s.yard.conns = [] →
        ∃ t, exec (.packetAccept q p) s = .next t ∧ gone t ∧ t.yard.stage = s.yard.stage ∧
          t.yard.out = s.yard.out ++ [{ port := o, inPort := q.val, pkt := p, at_ := yardNow s, gid := none }]) ∧
      (∀ o, mergeable p = false → (∀ c, routeOf s q.val p ≠ .drop c) → outPortOf s q.val p = some o → (o < 8 ∨ 32 ≤ o) →
        (s.yard.stage.any (fun e => e.1 = q.val && e.2.vc = p.vc) = true ∨
          partSize o p.vc.toNat < occ s o p.vc.toNat + pktLen p) →
        ∃ t, exec (.packetAccept q p) s = .next t ∧ gone t ∧ t.yard = { s.yard with stage := s.yard.stage ++ [(q.val, p)] }))

/-- PACKET_ADMIT moves the head of a staging queue to its output when that has room, and leaves it else; TRANSMIT sends the
head of an adit's output when the partner has credit for it, with HOPS one higher for a packet that came over an adit;
GROUP_ENTRY_EXPIRY frees the answered group entry that ends first. -/
def Obligations.PacketsMoveOn : Prop :=
  ∀ (s : State) (q : Fin 34) (v : Fin 6) (a : Fin 24) (p : Packet), frozen s = false → NoHeldLines s →
    s.tab.mode.bunting = false →
    let head := s.yard.stage.find? (fun e => e.1 = q.val && e.2.vc.toNat = v.val)
    (head = none → exec (.packetAdmit q v) s = .next s) ∧
    (∀ o, head = some (q.val, p) → (∀ c, routeOf s q.val p ≠ .drop c) → outPortOf s q.val p = some o → (o < 8 ∨ 32 ≤ o) →
      (occ s o p.vc.toNat + pktLen p ≤ partSize o p.vc.toNat → s.yard.conns = [] →
        ∃ t, exec (.packetAdmit q v) s = .next t ∧ t.yard.stage = s.yard.stage.erase (q.val, p) ∧
          t.yard.out = s.yard.out ++ [{ port := o, inPort := q.val, pkt := p, at_ := yardNow s, gid := none }] ∧
          t = { s with yard := t.yard }) ∧
      (partSize o p.vc.toNat < occ s o p.vc.toNat + pktLen p → exec (.packetAdmit q v) s = .next s)) ∧
    (∀ c, head = some (q.val, p) → routeOf s q.val p = .drop c → c = 0x11 →
      ∃ t, exec (.packetAdmit q v) s = .next t ∧ t.yard.stage = s.yard.stage.erase (q.val, p) ∧
        t.fab.noRoute = inc32 s.fab.noRoute 1) ∧
    (aditUp s a.val = false → exec (.transmit a v) s = .next s) ∧
    (∀ e, aditUp s a.val = true → s.yard.out.find? (fun e => e.port = 8 + a.val && e.pkt.vc.toNat = v.val) = some e →
      (creditFor s a.val e.pkt = false → exec (.transmit a v) s = .next s) ∧
      (creditFor s a.val e.pkt = true → e.pkt.bad = false →
        let sent := { e.pkt with hops := if 8 ≤ e.inPort ∧ e.inPort < 32 then e.pkt.hops + 1 else e.pkt.hops, stomp := false }
        let x := getAdit s a.val
        ∃ t, exec (.transmit a v) s = .next t ∧ t.yard.out = s.yard.out.erase e ∧
          getAdit t a.val = { x with
            sent := mput 0 x.sent v.val (inc32 (mget 0 x.sent v.val) (pktUnits e.pkt))
            tx := x.tx ++ [sent] } ∧
          t = { s with yard := t.yard, adits := t.adits } ∧ ∀ j, j ≠ a.val → getAdit t j = getAdit s j)) ∧
    (s.yard.groups.filter (fun g => g.answer.isSome) = [] → exec .groupEntryExpiry s = .next s) ∧
    (∀ g, s.yard.groups.filter (fun g => g.answer.isSome) = [g] → g.expiry ≤ s.halyard →
      exec .groupEntryExpiry s = .next { s with yard := { s.yard with groups := s.yard.groups.erase g } })

/-- An adit: a frame beyond its code is discarded and counted; a good frame's packets join the receive buffer; training
begins 1,000,000 counts after the adit went down, comes up when the partner check passes, and MISWIRED else; the link goes
down on GOING_DOWN, or 2,000 counts after the last good frame, with its output discarded and LINK_DOWN's cause. -/
def Obligations.LinksOfAnAdit : Prop :=
  ∀ (s : State) (a : Fin 24) (f : Frame) (p : Partner) (b : List Byte), mainUp s = true → MapsOk s →
    let x := getAdit s a.val
    let training := s.pwr.stage = .sync ∨ s.pwr.stage = .ready
    (x.st ≠ .up → exec (.linkFrame a f) s = .next s ∧ exec (.linkDown a true) s = .next s) ∧
    (x.st = .up → f.uncorr = true → exec (.linkFrame a f) s = .next (setAdit s a.val { x with
      fecUncorr := inc64 x.fecUncorr 1
      fecCorrected := inc64 x.fecCorrected f.corrected
      lossPending := true })) ∧
    (∀ nib, x.st = .up → f.uncorr = false → f.goingDown = false → x.lossPending = false → frozen s = false →
      f.slots = [{ nib := nib, bytes := b }] → nib.toNat < 2 → ∃ t, exec (.linkFrame a f) s = .next t ∧
        (getAdit t a.val).rx = x.rx ++ [parseCtl (b.take 32)] ∧
        mget 0 (getAdit t a.val).recv nib.toNat = inc32 (mget 0 x.recv nib.toNat) 1 ∧
        (getAdit t a.val).framesRx = inc64 x.framesRx 1 ∧ (getAdit t a.val).partnerNode = f.srcNode ∧
        (getAdit t a.val).lastFrame = s.halyard) ∧
    (training → x.st = .down → x.trainAt + 1000000 ≤ s.halyard → exec (.trainingAttempt a) s = .next (setAdit s a.val { x with
      st := .training
      trainAt := s.halyard
      trainAttempts := inc32 x.trainAttempts 1
      delayValid := false })) ∧
    (training → x.st = .up ∨ x.st = .training → exec (.trainingAttempt a) s = .next s) ∧
    (x.st ≠ .training → exec (.linkUp a p) s = .next s) ∧
    (x.st = .training → partnerOk s a.val p = true → ∃ t, exec (.linkUp a p) s = .next t ∧ (getAdit t a.val).st = .up ∧
      (getAdit t a.val).delay = p.delay ∧ (getAdit t a.val).delayValid = true ∧ (getAdit t a.val).partnerNode = p.node ∧
      (getAdit t a.val).sent = [] ∧ ∀ j, j ≠ a.val → getAdit t j = getAdit s j) ∧
    (x.st = .training → partnerOk s a.val p = false → ∃ t, exec (.linkUp a p) s = .next t ∧
      (getAdit t a.val).st = .miswired ∧ (getAdit t a.val).downCause = 3 ∧ t = { s with adits := t.adits }) ∧
    (∀ d : Bool, x.st = .up → frozen s = false → ∃ t, exec (.linkDown a d) s = .next t ∧ (getAdit t a.val).st = .down ∧
      (getAdit t a.val).downCause = (if d then 2 else 1) ∧ (getAdit t a.val).downCount = inc32 x.downCount 1 ∧
      (d = false → x.lastFrame + 2000 ≤ t.halyard ∨ 2 ^ 64 ≤ x.lastFrame + 2000) ∧
      ∀ e ∈ t.yard.out, e.port ≠ 8 + a.val)

/-! ### The end-to-end protocol -/

/-- Answers that reach their source: one that matches no request is late; WAIT holds its request for WAIT_RETRY; OK completes
a piece of the operation that waits for it and frees the request's entry, and a LOAD_RESP brings its bytes to Bench 0;
NOT_READY, RANGE and NOTICE fail the request, and the core that made it faults with FABRIC. -/
def Obligations.AnswersComplete : Prop :=
  ∀ (s u : State) (p : Packet), frozen s = false → NoHeldLines s → p.dest.toNat = node s → takeDelivery s p = some u →
    u.fab.held = [] →
    let isAck := p.long = false ∧ p.op = 1
    let isNotice := p.long = false ∧ p.op = 2
    let isResp := p.long = true ∧ p.op = 4
    let late := (.next { u with fab := { u.fab with lateAcks := inc32 u.fab.lateAcks 1 } } : Host.Outcome State Fault Refusal)
    let piece := fun (c : Core) (id : Nat) =>
      c.ops.map (fun o => if o.id = id then { o with pieces := o.pieces - 1 } else o)
    (matchEnt u p = none → (isAck → exec (.ack p) s = late) ∧ (isNotice → exec (.notice p) s = late) ∧
      (isResp → exec (.loadResp p) s = late)) ∧
    (∀ e, matchEnt u p = some e →
      let c := e.pkt.ctx.toNat
      (isAck → p.status = 4 → ∃ t, exec (.ack p) s = .next t ∧ t.fab.acks = inc64 u.fab.acks 1 ∧
        t.fab.table = u.fab.table.map (fun x => if x = e then
          { e with waitAns := true, due := u.halyard + 16 * max 1 u.fab.waitRetry.toNat } else x)) ∧
      (∀ k id n j o, isAck → p.status = 0 → e.owner = .movHW k id → (getCtx u c).st = .running →
        (getCtx u c).bind.find? (fun b => b.1 = k.val) = some (n, j) → (getCore u j).ops.find? (fun o => o.id = id) = some o →
        o.kind = .movHW → 2 ≤ o.pieces → (∀ x ∈ (getCore u j).ops, x.id = id → x = o) →
        ∃ t, exec (.ack p) s = .next t ∧ t.fab.table = u.fab.table.erase e ∧ t.fab.acks = inc64 u.fab.acks 1 ∧
          getCore t j = { getCore u j with ops := piece (getCore u j) id }) ∧
      (∀ k id b n j o, isResp → e.pkt.op = 2 → e.owner = .movHR k id b → (getCtx u c).st = .running → (getCtx u c).lc = false →
        (getCtx u c).bind.find? (fun b => b.1 = k.val) = some (n, j) → (getCore u j).ops.find? (fun o => o.id = id) = some o →
        o.kind = .movHR → 2 ≤ o.pieces → (∀ x ∈ (getCore u j).ops, x.id = id → x = o) →
        ∃ t, exec (.loadResp p) s = .next t ∧ t.fab.table = u.fab.table.erase e ∧ t.fab.acks = inc64 u.fab.acks 1 ∧
          (getCore t j).ops = piece (getCore u j) id ∧ readBytes (getCore t j).b0 b p.payload.length = p.payload ∧
          ∀ i, (i < b ∨ b + p.payload.length ≤ i) → mget 0 (getCore t j).b0 i = mget 0 (getCore u j).b0 i) ∧
      (∀ k id n j, e.owner = .movHW k id → (getCtx u c).bind.find? (fun b => b.1 = k.val) = some (n, j) →
        (isAck → p.status = 2 ∨ p.status = 3 → ∃ t, exec (.ack p) s = .next t ∧ (getFace t j).st = .faulted ∧
          (getFace t j).fault = 8) ∧
        (isNotice → ∃ t, exec (.notice p) s = .next t ∧ (getFace t j).st = .faulted ∧ (getFace t j).fault = 8)))

/-- Timeouts and retries: a request whose time is up is sent again with its PSN, up to three times, and then fails; one
answered WAIT starts afresh; a held pennant request enters the send table once it may; a line of a home unit's buffer that
its unit has not been asked for is written to Bench 1 and leaves. -/
def Obligations.RequestsAreSentAgain : Prop :=
  ∀ (s : State) (dest : BitVec 14) (psn : W32) (e : SendEnt) (u : Fin 8), frozen s = false → NoHeldLines s →
    (findEnt s dest psn = none → exec (.e2eTimeout dest psn) s = .next s ∧ exec (.waitRetry dest psn) s = .next s) ∧
    (findEnt s dest psn = some e → e.waitAns = false → e.due ≠ 0 → e.due ≤ s.halyard →
      (e.resends < 3 → ∃ t, exec (.e2eTimeout dest psn) s = .next t ∧ t.fab.resends = inc64 s.fab.resends 1 ∧
        t.fab.inject = s.fab.inject ++ [(entPort s e, e.pkt)] ∧ { e with due := 0, resends := e.resends + 1 } ∈ t.fab.table ∧
        t = { s with fab := t.fab }) ∧
      (∀ k id j n, 3 ≤ e.resends → e.owner = .movHW k id → s.fab.held = [] →
        (getCtx s e.pkt.ctx.toNat).bind.find? (fun b => b.1 = k.val) = some (n, j) →
        ∃ t, exec (.e2eTimeout dest psn) s = .next t ∧ (getFace t j).st = .faulted ∧ (getFace t j).fault = 8)) ∧
    (findEnt s dest psn = some e → e.waitAns = true → e.due ≤ s.halyard → ∃ t, exec (.waitRetry dest psn) s = .next t ∧
      t.fab.waits = inc64 s.fab.waits 1 ∧ t.fab.inject = s.fab.inject ++ [(entPort s e, e.pkt)] ∧
      { e with due := 0, resends := 0, waitAns := false } ∈ t.fab.table ∧ t = { s with fab := t.fab }) ∧
    (∀ h, s.fab.held = [h] → h.pkt.dest = dest → h.pkt.pennant = true → h.part = none → sendAllowed s h = true →
      pennantFree s h = true → ∃ t x, exec (.pennantRelease dest) s = .next t ∧ t.fab.held = [] ∧
        t.fab.table = s.fab.table ++ [x] ∧ x.owner = h.owner ∧ x.resends = 0 ∧ x.pkt.session = s.fab.session ∧
        x.pkt.psn = BitVec.ofNat 32 (mget 0 s.fab.nextPsn dest.toNat) ∧ t.fab.inject = s.fab.inject ++ [(h.port, x.pkt)]) ∧
    (∀ l, s.lines.filter (fun x => x.unit_ = u.val) = [l] → ceilDiv (5 * (l.last + 256)) 8 ≤ s.ns → l.bytes.length = 64 →
      16 * frameSize ≤ 64 * l.line → 64 * l.line < hostWindow → served s (l.line / 64 % 32) = true →
      ∃ t, exec (.lineWriteback u) s = .next t ∧ t.lines = s.lines.erase l ∧
        readBytes t.bench1 (interleave (64 * l.line)) 64 = l.bytes) ∧
    (s.lines.filter (fun x => x.unit_ = u.val) = [] → exec (.lineWriteback u) s = .next s)

/-- STORE, LOAD and ATOMIC at their home: a request turned away is answered with its status; a store's bytes are what the
home holds from then on, a load answers with the bytes it holds, and an atomic leaves the new value and answers with the old.
-/
def Obligations.HomeRequests : Prop :=
  ∀ (s u : State) (p : Packet), frozen s = false → NoHeldLines s → CleanHbm s → p.long = true → Arrives s p u →
    let v := openSession u p
    let n := memLen p
    let port := herePort v p
    (∀ st, memTarget v p = .error st → st ≠ 1 →
      (p.op = 1 → exec (.store p) s = .next (sendAck v port p st 0)) ∧
      (p.op = 2 → exec (.load p) s = .next (sendAck v port p st 0)) ∧
      (p.op = 3 → exec (.atomic p) s = .next (sendAck v port p st 0))) ∧
    (∀ x, memTarget v p = .ok x →
      (p.op = 1 → settleHolds v (memOfs p) n = true → exec (.store p) s = .next s) ∧
      (p.op = 1 → settleHolds v (memOfs p) n = false → doorbell v p = none → p.payload.length % 64 = 0 → x % 64 = 0 →
        v.lines.length + n / 64 ≤ 64 →
        ∃ t, exec (.store p) s = .next t ∧ Answered t p 0 0 ∧ peekHome t x n = p.payload) ∧
      (p.op = 2 → ∃ t q, exec (.load p) s = .next t ∧ (q, withCrc { pkt0 with
        dest := p.src
        src := BitVec.ofNat 14 (node s)
        vc := 5
        op := 4
        ctx := p.ctx
        psn := p.psn
        session := p.session
        payload := (homeRead v x n).1 }) ∈ t.fab.inject) ∧
      (p.op = 3 → settleHolds v (memOfs p) 8 = false →
        let old := natOf (homeRead v x 8).1
        ∃ t, exec (.atomic p) s = .next t ∧ Answered t p 0 old ∧ (x % 8 = 0 → (∀ l ∈ v.lines, l.bytes.length = 64) →
          peekHome t x 8 = bytesOf 8 (atomNew (memAtop p) old p.w4.toNat p.w5.toNat))))

/-! ### Collectives -/

/-- COLLECTIVE_START, and the control packets of an operation: an operation starts once every member that the engine serves
has posted it, and counts the bytes it drops; a HEADER is kept for its operation; a MISMATCH completes every member with its
status; CREDIT is noted; a packet for a context without cores is turned away. -/
def Obligations.CollectivesStart : Prop :=
  ∀ (s u : State) (p : Packet) (d : Fin 8) (g : Fin 64), frozen s = false → NoHeldLines s →
    (nextCseq (getColl s d.val) g.val = none → exec (.collectiveStart d g) s = .next s) ∧
    (∀ q c e0 m e, nextCseq (getColl s d.val) g.val = some q → (getColl s d.val).queue.find? (fun e => e.group = g.val) = some e0 →
      e0.ctx = c → (cLocal s g.val).filter (fun m => dieOf s c.val m.2 = d.val) = [m] →
      (getColl s d.val).queue.find? (fun e => e.group = g.val && e.cseq = q && e.core = m.2 && e.ctx = e0.ctx) = some e →
      (getColl s d.val).ops = [] → collSends s c.val = true → (getColl s d.val).early = [] →
      let x := getColl s d.val
      let o : COp := { group := g.val, cseq := q, ctx := c, mems := [startMem s m.1 e], hdrs := [] }
      let t := setColl s d.val { x with
        queue := x.queue.filter (fun y => y ≠ e)
        ops := [o]
        overflow := inc64 x.overflow (if e.var_ then e.len - cSize s e else 0) }
      hdrStep t d.val g.val q = none → exec (.collectiveStart d g) s = .next t) ∧
    (p.long = true → p.op = 9 → Arrives s p u →
      let v := openSession u p
      let w := accept v 0 p
      let c := p.ctx.toNat
      let f := collFld p
      let n := (cMembers w f.group).length
      let e := dieOf w c ((cMembers w f.group).getD (treeLoc n 0 (parentLo f.lo f.level) (f.level + 1)) (0, 0)).2
      let h : CHdr := { lo := f.lo, level := f.level, hash := BitVec.ofNat 16 f.hash, mis := f.mis }
      let x := getColl w e
      let run := noImage v = false ∧ (getCtx v c).st = .running
      let all := fun (t : Host.Outcome State Fault Refusal) => exec (.header p) s = t ∧ exec (.verdict p) s = t ∧
        exec (.credit p) s = t ∧ exec (.collectiveResult p) s = t ∧ exec (.data p) s = t ∧ exec (.failed p) s = t ∧
        exec (.partialVal p true) s = t
      (noImage v = true → all (.next (sendAck v 0 p 2 0))) ∧
      (noImage v = false → (getCtx v c).st = .teardown ∨ (getCtx v c).st = .gone →
        all (.next (sendAck (setCtx v c { getCtx v c with droppedIn := inc64 (getCtx v c).droppedIn 1 }) 0 p 1 0))) ∧
      (run → findCop w e f.group f.cseq = none →
        exec (.header p) s = .next (setColl w e { x with early := x.early ++ [(f.group, f.cseq, h)] })) ∧
      (∀ o, run → findCop w e f.group f.cseq = some o →
        let t := mapCop w e f.group f.cseq (fun y => { y with hdrs := y.hdrs ++ [h] })
        hdrStep t e f.group f.cseq = none → exec (.header p) s = .next t) ∧
      (∀ i o m, run → f.mis = true → p.mcast = false → nodeCops w f.group f.cseq = [(i, o)] → o.verdict = none → o.mems = [m] → o.dests = [] →
        m.finished = false → ∃ t, exec (.verdict p) s = .next t ∧ findCop t i f.group f.cseq = none ∧
          (getColl t i).opsDone = inc64 (getColl w i).opsDone 1 ∧ (getCGroup t f.group).lastCseq = f.cseq ∧
          (getCGroup t f.group).lastStatus = (if m.bad then 4 else 1)) ∧
      (∀ i o m, noImage v = false → f.mis = false → p.mcast = false → nodeCops w f.group f.cseq = [(i, o)] → o.verdict = none →
        o.mems = [m] → m.desc.sparse = false →
        let go := mapCop w i f.group f.cseq (fun y => { y with verdict := some false })
        ((getCtx v c).st = .running → exec (.verdict p) s = .next (guarded s (collAdvanceAll go f.group f.cseq))) ∧
        ((getCtx v c).st = .saving → o.ctx.val = c → m.finished = false →
          (∃ k ∈ expects o (cGeo w o) m, k ∉ m.done ∧ k ∉ m.failed) → ∃ t y, exec (.verdict p) s = .next t ∧
            findCop t i f.group f.cseq = some y ∧ y = { o with verdict := some false, starved := y.starved } ∧
            t = { w with colls := t.colls })) ∧
      (∀ i o, run → nodeCops w f.group f.cseq = [(i, o)] → ∃ t,
        exec (.credit p) s = .next (guarded s (collAdvanceAll t f.group f.cseq)) ∧
        (o.verdict ≠ some false → exec (.credit p) s = .next t) ∧
        findCop t i f.group f.cseq = some { o with credit := o.credit ++ [(p.src.toNat, f.lo, f.level, f.chunk)] } ∧
        t = { w with colls := t.colls }) ∧
      (run → nodeCops w f.group f.cseq = [] → p.mcast = false → ∃ t, exec (.verdict p) s = .next t ∧ t = w))

/-- The data of an operation: PARTIAL and FAILED leave a child's value, or its failure, at the node that combines it; a
residue mismatch there is counted; RESULT and DATA are written to the outputs of the members that await the chunk and tick it
off; a failed root ticks it off as failed. From there the node's engines go on, which before the verdict GO changes nothing.
-/
def Obligations.CollectiveValues : Prop :=
  ∀ (s u : State) (p : Packet) (ok : Bool), frozen s = false → NoHeldLines s → p.long = true → p.op = 9 → Arrives s p u →
    noImage u = false → (getCtx (openSession u p) p.ctx.toNat).st = .running → p.mcast = false → partOfs p = 0 →
    msgFlits p ≤ flits p → u.fab.msgs = [] →
    let w := accept (openSession u p) 0 p
    let c := p.ctx.toNat
    let f := collFld p
    let rows := bodyRows p.payload
    (parentCop w f = none → exec (.partialVal p ok) s = .next w) ∧
    (nodeCops w f.group f.cseq = [] → exec (.collectiveResult p) s = .next w ∧ exec (.data p) s = .next w) ∧
    (∀ d o, nodeCops w f.group f.cseq = [(d, o)] →
      let after := fun (i : Instr) (t : State) => exec i s = .next (guarded s (collAdvanceAll t f.group f.cseq)) ∧
        (o.verdict ≠ some false → exec i s = .next t)
      let geo := cGeo w o
      let n := chunkLen geo f.chunk
      let vs := if f.empty then List.replicate n (enc (accFmt geo.fmt) none (dec geo.fmt 0)) else bytesVals geo.fmt f.level n rows
      let val : CVal := { lo := f.lo, level := f.level, chunk := f.chunk, vals := vs, failed := false }
      let here := parentCop w f = some (d, o, geo)
      (here → ok = true → ∃ t, after (.partialVal p ok) t ∧
        findCop t d f.group f.cseq = some { o with vals := o.vals ++ [val] } ∧
        (getColl t d).chunksRecv = inc64 (getColl w d).chunksRecv 1 ∧ t = { w with colls := t.colls }) ∧
      (here → ok = false → ∃ t z, after (.partialVal p ok) t ∧ findCop t d f.group f.cseq = some z ∧
        z.vals = o.vals ++ [val, { lo := parentLo f.lo f.level, level := f.level + 1, chunk := f.chunk, vals := [], failed := true }] ∧
        z.arithPosted = true ∧ (getColl t d).arithFails = inc32 (getColl w d).arithFails 1) ∧
      (here → f.level ≠ cDepth (cMembers w f.group).length → ∃ t, after (.failed p) t ∧
        findCop t d f.group f.cseq = some { o with
          vals := o.vals ++ [{ lo := f.lo, level := f.level, chunk := f.chunk, vals := [], failed := true }] } ∧
        t = { w with colls := t.colls }) ∧
      (∀ m, o.mems = [m] → m.finished = false →
        (f.level = cDepth (cMembers w f.group).length → (expects o geo m).contains f.chunk = true →
          m.done.contains f.chunk = false → m.failed.contains f.chunk = false → ∃ t, after (.failed p) t ∧
          findCop t d f.group f.cseq = some { o with mems := [{ m with failed := m.failed ++ [f.chunk] }] } ∧
          t = { w with colls := t.colls }) ∧
        (m.desc.kind = 0 → (expects o geo m).contains f.chunk = true → m.done.contains f.chunk = false →
          m.failed.contains f.chunk = false → ∃ t, after (.collectiveResult p) t ∧
          findCop t d f.group f.cseq = some { o with mems := [{ m with done := m.done ++ [f.chunk] }] } ∧
          t.cores = (putRun w o.ctx.val m.desc.core (64 * m.desc.dstAddr) geo.fmt geo.ranges (chunkAt geo f.chunk)
            (unpackElems geo.fmt n rows)).cores) ∧
        (m.desc.kind = 3 → m.desc.var_ = false → f.empty = false → (expects o geo m).contains (f.lo * 2 ^ 32 + f.chunk) = true →
          m.done.contains (f.lo * 2 ^ 32 + f.chunk) = false → ∃ t, after (.data p) t ∧
          findCop t d f.group f.cseq = some { o with mems := [{ m with done := m.done ++ [f.lo * 2 ^ 32 + f.chunk] }] } ∧
          t.cores = (b0Write w o.ctx.val m.desc.core (64 * m.desc.dstAddr + 65536 * f.chunk)
            (rows.take (min 65536 (geo.c - 65536 * f.chunk)))).cores)))

/-! ### The Halyard and the Dip -/

/-- The Halyard: a device made root from FREE is LOCKED at once; a device that changes its parent while LOCKED measures
again, and a root that ends being one enters HOLDOVER; HOLDOVER ends in FREE 1,000,000 counts after it began, and an armed
commit whose count has not come is refused NOT_LOCKED; a slew advances the count by 2 in one ns, or holds it. -/
def Obligations.HalyardStates : Prop :=
  ∀ (s : State) (root en adv : Bool) (a : BitVec 5), mainUp s = true → MapsOk s →
    let y := s.syn
    let x := getAdit s a.toNat
    let par := en = true ∧ a.toNat < 24 ∧ x.st = .up ∧ x.delayValid = true ∧ x.partnerTime = true
    let e := holdRate s
    (∃ t, exec (.parentAdit root a en) s = .next t ∧ t.syn.root = root ∧ t.syn.parentAdit = a ∧ t.syn.parentEn = en ∧
      (y.st = .free → root = true → t.syn.st = .locked ∧ t.syn.everLocked = true ∧ (s.pwr.stage = .sync → t.pwr.stage = .ready)) ∧
      (y.st = .free → root = false → t.syn.st = (if par then .acquiring else .free)) ∧
      (y.st = .acquiring → root = false → t.syn.st = (if par then .acquiring else .free)) ∧
      (y.st = .locked → root = true → t.syn.st = .locked) ∧
      (y.st = .locked → y.root = false → root = false → t.syn.st = .acquiring ∧ t.syn.lockLosses = inc32 y.lockLosses 1 ∧
        t.syn.frames = 0) ∧
      (y.st = .locked → y.root = true → root = false → t.syn.st = .holdover ∧ t.syn.holdAt = s.halyard ∧
        t.syn.lockLosses = inc32 y.lockLosses 1) ∧
      (y.st = .holdover → root = false → t.syn.st = (if par then .acquiring else .holdover))) ∧
    (y.st ≠ .holdover → exec .holdoverExpiry s = .next s ∧ exec (.holdoverSlew adv) s = .next s) ∧
    (y.st = .holdover → s.halyard ≤ y.holdAt + 1000000 → y.holdAt + 1000000 < 2 ^ 64 →
      ∃ t, exec .holdoverExpiry s = .next t ∧ t.halyard = y.holdAt + 1000000 ∧
        (y.root = true → t.syn.st = .locked) ∧ (y.root = false → y.parentEn = false → t.syn.st = .free) ∧
        (s.hst.st = .armed → y.holdAt + 1000000 < s.hst.commitCount.toNat → t.hst.st = .refused ∧ t.hst.err = 0x0A)) ∧
    (y.st = .holdover → (0 < e ∧ adv = true) ∨ (e < 0 ∧ adv = false) → s.halyard + 2 < 2 ^ 64 →
      y.lastSlew + 10000000 / e.natAbs ≤ s.ns + 1 → ∃ t, exec (.holdoverSlew adv) s = .next t ∧ t.ns = s.ns + 1 ∧
        t.halyard = (if adv then s.halyard + 2 else s.halyard) ∧ t.syn.slews = inc64 y.slews 1 ∧ t.syn.lastSlew = t.ns)

/-- The Dip: a request of any source makes it pending, its cut 64 core cycles (26 whole ns) later, and one that meets a
pending or present Dip is ignored and counted; the cut freezes the block, stops every unit that is not FAULTED, and notes the
count. -/
def Obligations.DipCuts : Prop :=
  ∀ (s : State) (b : Bool), mainUp s = true →
    let req := fun (n : Nat) => if s.syn.dipSt = .running then
        { s with syn := { s.syn with dipSt := .pending, dipSrc := BitVec.ofNat 3 n, dipCutNs := s.ns + 26 } }
      else { s with syn := { s.syn with dipIgnored := inc32 s.syn.dipIgnored 1 } }
    exec (.dipReq b) s = .next (req (if b then 2 else 1)) ∧ exec .firmwareDipRequest s = .next (req 5) ∧
    (s.syn.atArmed = false → exec .synDipAt s = .next s) ∧
    (s.syn.atArmed = true → s.halyard ≤ s.syn.dipAt.toNat → ∃ t, exec .synDipAt s = .next t ∧ t.halyard = s.syn.dipAt.toNat ∧
      t.syn.atArmed = false ∧
      (s.syn.dipSt = .running → t.syn.dipSt = .pending ∧ t.syn.dipSrc = 3 ∧ t.syn.dipCutNs = t.ns) ∧
      (s.syn.dipSt ≠ .running → t.syn.dipSt = s.syn.dipSt ∧ t.syn.dipIgnored = inc32 s.syn.dipIgnored 1)) ∧
    (s.syn.dipSt ≠ .pending → exec .dipCut s = .next s) ∧
    (s.syn.dipSt = .pending → s.syn.dipCutNs ≤ s.ns → s.halyard < 2 ^ 64 → ∃ t, exec .dipCut s = .next t ∧ frozen t = true ∧
      t.syn.dipCount = BitVec.ofNat 64 s.halyard ∧ t.ns = s.ns ∧
      ∀ u, u < 584 → (u < 512 → coreEnabled s u = true) →
        (getFace t u).stopIn = true ∧ (getFace t u).stopSrc = 2 ∧
        (getFace t u).st = (if (getFace s u).st = .faulted ∨ 552 ≤ u then (getFace s u).st else .stopped) ∧
        mget 0 (getFace t u).cnt 3 = inc64 (mget 0 (getFace s u).cnt 3) 1)

/-- Counters and samples: DBG_CNT_RESET zeroes the masked counters of a unit, or of every unit of a kind, and no other; a set
that is off fires nothing, one on a period fires at a multiple of it, one on the trigger at a boundary; the strobe reads the
counters and appends one record of 32 bytes to the sample ring for each. -/
def Obligations.CountersAndSamples : Prop :=
  ∀ (s : State) (v : W64) (j : Fin 16), mainUp s = true →
    let k := bits v.toNat 2 0
    let i := bits v.toNat 11 3
    let all := bitAt v.toNat 12
    let m := BitVec.ofNat 32 (v.toNat / 2 ^ 32)
    let hit := fun (u : Nat) => kindBase k ≤ u ∧ u < kindBase k + kindCount k ∧ (all = true ∨ u = kindBase k + i)
    let x := getSet s j.val
    let p := 1000 * max 1 x.period.toNat
    (4 ≤ k → exec (.dbgCntReset v) s = .next s) ∧
    (k < 4 → ∃ t, exec (.dbgCntReset v) s = .next t ∧ t = { s with faces := t.faces, dbg := { s.dbg with resets := t.dbg.resets } } ∧
      ∀ u, (hit u → getFace t u = { getFace s u with cnt := (getFace t u).cnt } ∧
          ∀ n, n < 32 → mget 0 (getFace t u).cnt n = if m.getLsbD n then 0 else mget 0 (getFace s u).cnt n) ∧
        (¬ hit u → getFace t u = getFace s u)) ∧
    (frozen s = false →
      (x.en = false → exec (.sampleFire j) s = .next s) ∧
      (x.en = true → x.trig = false → s.halyard + p < 2 ^ 64 → ∃ t, exec (.sampleFire j) s = .next t ∧
        t.halyard % p = 0 ∧ s.halyard ≤ t.halyard ∧ t.halyard ≤ s.halyard + p ∧
        getSet t j.val = { x with strobeAt := t.ns + 27, lastFire := t.halyard + 1 }) ∧
      (x.en = true → x.trig = true → s.tick.period ≠ 0 → s.halyard = s.tick.last → x.lastFire ≠ s.halyard + 1 →
        exec (.sampleFire j) s = .next (putSet s j.val { x with strobeAt := s.ns + 27, lastFire := s.halyard + 1 })) ∧
      (x.strobeAt = 0 → exec (.strobe j) s = .next s) ∧
      (∀ c, NoHeldLines s → x.strobeAt ≠ 0 → x.strobeAt ≤ s.ns + 1 → (List.range 32).filter (fun n => x.mask.getLsbD n) = [c] →
        x.tkind = 1 → x.tindex.toNat < 512 → s.dbg.resets = [] → ringOn s.dbg.samp = true →
        (s.dbg.samp.wr - s.dbg.samp.rd).toNat ≠ ringSlots s.dbg.samp 32 → ∃ t, exec (.strobe j) s = .next t ∧
        getSet t j.val = { x with strobeAt := 0 } ∧ t.dbg.strobes = inc64 s.dbg.strobes 1 ∧
        t.dbg.samp = { s.dbg.samp with wr := inc32 s.dbg.samp.wr 1 } ∧
        let ofs := s.dbg.samp.base.toNat + 32 * (s.dbg.samp.wr.toNat % ringSlots s.dbg.samp 32)
        (ofs % 32 = 0 → 16 * frameSize ≤ ofs → served s (ofs / 4096 % 32) = true →
          readBytes t.bench1 (interleave ofs) 32 = bytesOf 8 s.halyard ++
            bytesOf 8 (mget 0 (getFace s x.tindex.toNat).cnt c).toNat ++
            bytesOf 8 (j.val + 16 + 128 * x.tindex.toNat + 2 ^ 19 * c) ++ bytesOf 8 s.dbg.strobes.toNat)))

/-! ### The image broadcast -/

/-- SEND, ARM and ABANDON: SEND is BAD_STATE unless the loader is VALID and no broadcast runs, NOT_LOCKED without a lock, and
else sends the image to the heads of the other chassis and to the board, row and column peers; ARM is INCOMPLETE in any state
but DONE_OK, and else arms the loader for the agreed count when the image it holds is the one sent; ABANDON ends the
broadcast. -/
def Obligations.BroadcastCommands : Prop :=
  ∀ (s : State),
    let y := s.syn
    (loaderTakes s = false → exec .send s = .next s ∧ exec .bcastArm s = .next s ∧ exec .abandon s = .next s) ∧
    (loaderTakes s = true →
      (NoHeldLines s → s.hst.st ≠ .valid ∨ y.bst = .sending → exec .send s = .next { s with syn := { y with berr := 1 } }) ∧
      (NoHeldLines s → s.hst.st = .valid → y.bst ≠ .sending → locked s = false →
        exec .send s = .next { s with syn := { y with berr := 3 } }) ∧
      (NoHeldLines s → CleanHbm s → s.hst.st = .valid → y.bst ≠ .sending → locked s = true → ∃ t, exec .send s = .next t ∧
        t.syn.bst = .sending ∧ t.syn.berr = 0 ∧ t.syn.okCount = 0 ∧ t.syn.firstFail = 0 ∧ t.syn.isOrigin = true ∧
        t.syn.sentId = BitVec.ofNat 64 (stagedId s) ∧
        t.syn.children.map (fun c => (c.node, c.fwd, c.report)) = (originChildren s).map (fun c => (c.node, c.fwd, none)) ∧
        t.hst = s.hst) ∧
      (y.bst ≠ .doneOk → exec .bcastArm s = .next { s with syn := { y with berr := 2 } }) ∧
      (y.bst = .doneOk → ∃ t, exec .bcastArm s = .next t ∧ t.syn.bst = .armSent ∧ t.syn.berr = 0 ∧
        (s.hst.st = .valid → stagedId s = y.sentId.toNat → t.hst.commitCount = y.bcastCommit ∧
          (locked s = true → s.halyard < y.bcastCommit.toNat →
            t.hst.st = (if s.hst.stagedKind then .arming else .armed) ∧
            t.syn.armPending = some (y.sentId, y.bcastLaunch, y.ctxMask))) ∧
        (s.hst.st ≠ .valid → t.hst = s.hst)) ∧
      exec .abandon s = .next { s with syn := { y with
        bst := .idle
        berr := 0
        children := if y.isOrigin then [] else y.children } })

/-- Packets of a broadcast: DATA is answered NOT_READY while the loader is busy, and counted as a dropped write; else its
bytes are staged, the first packet of another image acting as BEGIN, and with the last flit the loader validates; a REPORT of
a child that has not reported is taken once, and with the last one the broadcast ends; a child that does not report in time
fails; ARM arms the loader that holds the image. -/
def Obligations.BroadcastPackets : Prop :=
  ∀ (s u : State) (p : Packet) (c : BChild), frozen s = false → NoHeldLines s → CleanHbm s → p.long = true → p.op = 10 →
    Arrives s p u →
    let v := openSession u p
    let kind := p.w5.toNat % 4
    let o := partOfs p
    let got := v.syn.rxParts.filter (fun e => e.1 ≠ o) ++ [(o, flits p)]
    let whole := msgFlits p ≤ got.foldl (fun n e => n + e.2) 0
    let w := fun (i n : Nat) => natAt p.payload i n
    (kind = 0 →
      (stageBusy v = true → exec (.imageData p) s = .next (sendAck (stageDrop v) 32 p 2 0)) ∧
      (stageBusy v = false → loaderUp v = false → exec (.imageData p) s = .next (sendAck v 32 p 2 0)) ∧
      (stageBusy v = false → loaderUp v = true → v.syn.isOrigin = false → bits p.w5.toNat 4 2 = 0 →
        (v.syn.rxId ≠ p.w4 → flits p < msgFlits p → ∃ t, exec (.imageData p) s = .next t ∧ Answered t p 0 0 ∧
          t.hst.st = .staging ∧ t.hst.stageLen = 0 ∧ t.syn.rxId = p.w4 ∧ t.syn.rxParent = p.src ∧
          t.syn.rxParts = [(o, flits p)] ∧ t.syn.children = []) ∧
        (v.syn.rxId = p.w4 → v.syn.children = [] → ∃ t, exec (.imageData p) s = .next t ∧ Answered t p 0 0 ∧
          t.syn.rxParts = got ∧
          t.bench1 = (b1Write v (stageBase + 64 * o) (p.payload.take (stageSize - 64 * o)) { kind := 8, index := 0, ctx := none }).bench1 ∧
          (¬ whole → t.hst = v.hst) ∧
          (whole → v.hst.st = .staging → t.hst.st = .validating ∧
            t.hst.stageLen = BitVec.ofNat 32 (p.w5.toNat / 2 ^ 32) ∧ t.syn.ownPending = true)))) ∧
    (kind = 1 → v.syn.isOrigin = true → v.syn.bst = .sending → v.syn.children = [c] → c.node = p.src → c.report = none →
      (p.w4 ≠ v.syn.sentId → exec (.report p) s = .next (accept v 32 p)) ∧
      (p.w4 = v.syn.sentId → ∃ t, exec (.report p) s = .next t ∧ Answered t p 0 0 ∧ t.syn.okCount = BitVec.ofNat 32 (1 + w 0 4) ∧
        t.syn.bst = (if 1 + w 0 4 = 64 * (v.syn.chHi.toNat + 1 - v.syn.chLo.toNat) ∧ bitAt (w 6 1) 0 = false then .doneOk
          else .doneFail) ∧
        (bitAt (w 6 1) 0 = true → t.syn.firstFail = BitVec.ofNat 14 (w 4 2)))) ∧
    (kind = 2 → v.syn.children = [] → locked v = true → v.hst.st = .valid → stagedId v = w 0 8 → v.halyard < w 8 8 →
      ∃ t, exec (.imageArm p) s = .next t ∧ Answered t p 0 0 ∧ t.hst.commitCount = BitVec.ofNat 64 (w 8 8) ∧
        t.hst.st = (if v.hst.stagedKind then .arming else .armed) ∧
        t.syn.armPending = some (BitVec.ofNat 64 (w 0 8), BitVec.ofNat 64 (w 16 8), BitVec.ofNat 16 (w 24 2))) ∧
    (s.syn.children.any (fun x => x.node = c.node && x.report.isNone) = false → exec (.reportTimeout c.node) s = .next s) ∧
    (s.syn.children = [c] → c.report = none → c.unacked = 0 → s.syn.isOrigin = true → s.syn.bst = .sending →
      let due := s.syn.copiesAt + s.syn.timeoutUs.toNat * bcastStages s * 1000
      due < 2 ^ 64 → ∃ t, exec (.reportTimeout c.node) s = .next t ∧ due ≤ t.halyard ∧ t.syn.bst = .doneFail ∧
        t.syn.okCount = 1 ∧ t.syn.firstFail = c.node)

/-! ### Dragiper Link -/

/-- The link layer: a flit that fails its CRC is discarded and counted, and asks for a replay; the next flit in order is
taken and its credit noted; NAK replays what is outstanding, and a flit replayed 16 times takes the link down; 2,000 counts
after the last good flit the link goes down, with its filter and what is held; 1,000,000 counts later it trains again, and
comes up. -/
def Obligations.DragiperLink : Prop :=
  ∀ (s : State) (a : BitVec 12) (bs : List Byte),
    let d := s.drg
    let x := drgAcked d a
    let w := natAt bs 0 8
    let c := bits w 28 26
    let good := natAt bs 248 8 = (crc64 (padTo 248 (bs.take 248))).toNat
    let next := bitAt w 25 = false ∧ BitVec.ofNat 12 w = d.rxSeq + 1
    (d.st ≠ .up → exec (.nak a) s = .next s ∧ exec (.dragiperFlit bs) s = .next s ∧ exec .hostDown s = .next s) ∧
    (d.st = .up → ¬ good → exec (.dragiperFlit bs) s =
      .next { s with drg := { d with crcErrors := inc64 d.crcErrors 1, awaitReplay := true, nakDue := true } }) ∧
    (d.st = .up → good → bitAt w 24 = false → d.unacked = [] → exec (.dragiperFlit bs) s = .next { s with drg := { d with
      lastFlit := s.halyard
      credit := if c < 4 then mput 0 d.credit c (mget 0 d.credit c + bits w 40 29) else d.credit
      rxSeq := if next then d.rxSeq + 1 else d.rxSeq
      awaitReplay := if next then false else d.awaitReplay
      nakDue := if next then false else d.nakDue } }) ∧
    (d.st = .up → x.unacked = [] → exec (.nak a) s = .next { s with drg := x }) ∧
    (d.st = .up → x.unacked ≠ [] → (∀ e ∈ x.unacked, e.2 < 15) → exec (.nak a) s = .next { s with drg := { x with
      replays := inc64 x.replays 1
      unacked := x.unacked.map (fun e => (e.1, e.2 + 1)) } }) ∧
    (d.st = .up → (∃ e ∈ x.unacked, 15 ≤ e.2) → d.reqs = [] → ∃ t, exec (.nak a) s = .next t ∧ t.drg.st = .down) ∧
    (d.st = .up → d.reqs = [] → d.lastFlit + 2000 < 2 ^ 64 → ∃ t, exec .hostDown s = .next t ∧ t.drg.st = .down ∧
      d.lastFlit + 2000 ≤ t.halyard ∧ t.drg.downs = inc32 d.downs 1 ∧ t.drg.filter = [] ∧ t.drg.held = [] ∧
      t.drg.unacked = [] ∧ t.drg.trainAt = t.halyard ∧ t.aon.alertStatus.getLsbD 2 = true) ∧
    (pastBoot s = true → d.st ≠ .up → d.trainAt + 1000000 < 2 ^ 64 → ∃ t, exec .hostRetrain s = .next t ∧
      d.trainAt + 1000000 ≤ t.halyard ∧ t.drg = { d with st := .training, trainAt := t.halyard }) ∧
    (pastBoot s = false → exec .hostRetrain s = .next s ∧ exec .hostLinkUp s = .next s) ∧
    (pastBoot s = true → d.st = .training → ∃ t, exec .hostLinkUp s = .next t ∧ t.drg.st = .up ∧ t.drg.lastFlit = s.halyard ∧
      (s.evt.queue.length < 256 → t.evt.seq = inc32 s.evt.seq 1))

/-- The host window: a request that is misaligned or runs past the window is answered RANGE; one that meets an outstanding
snoop or an earlier held request is held; a read answers with the bytes of Bench 1 and grants the line, evicting the entry
allocated earliest from a full set; a write leaves its bytes; evictions and the answers to snoops leave the filter without
the line, or with it shared, and the modified bytes in Bench 1. -/
def Obligations.HostWindow : Prop :=
  ∀ (s : State) (tag : BitVec 12) (a : BitVec 56) (lenM1 : BitVec 3) (mask : BitVec 32) (b h : List Byte),
    linkIsUp s = true → CleanHbm s → s.drg.need = [] → b.length = 64 → h.length = 32 →
    let x := a.toNat
    let l := x / 64
    let f := s.drg.filter
    let q := fun (op : Nat) (n : BitVec 3) (m : BitVec 32) (d : List Byte) =>
      ({ opcode := BitVec.ofNat 8 op, tag := tag, addr := a, lenM1 := n, mask := m, data := d } : HostReq)
    let msg := fun (op : Nat) (st : Byte) (d : List Byte) =>
      ({ opcode := BitVec.ofNat 8 op, tag := tag, status := st, addr := 0, mask := 0, data := d } : DrgMsg)
    let put := fun (g : List (Nat × Bool)) => { s with drg := { s.drg with filter := g } }
    let del := f.filter (fun e => e.1 ≠ l)
    let grantd := fun (m : Bool) => if f.any (fun e => e.1 = l) then f.map (fun e => if e.1 = l then (l, m) else e) else f ++ [(l, m)]
    let bytes := fun (t : State) (n : Nat) => readBytes t.bench1 (interleave x) n
    let held := fun (c : HostReq) => { s with drg := { s.drg with held := s.drg.held ++ [c] } }
    let plain := windowAt s x = none ∧ 16 * frameSize ≤ x ∧ x + 64 ≤ hostWindow ∧ served s (x / 4096 % 32) = true ∧ stageBusy s = false
    let free := mustHold s (q 0x10 0 0 []) = false
    (x % 64 ≠ 0 ∨ hostWindow < x + 64 →
      exec (.hwRdS tag a) s = .next (drgSend s (msg 0x41 2 (List.replicate 64 0))) ∧
      exec (.hwRdM tag a) s = .next (drgSend s (msg 0x41 2 (List.replicate 64 0))) ∧
      exec (.hwRdNc tag a 0) s = .next (drgSend s (msg 0x41 2 (List.replicate 64 0))) ∧
      exec (.hwWr tag a 0 b) s = .next (drgSend s (msg 0x40 2 [])) ∧
      exec (.hwEvictM tag a b) s = .next (drgSend s (msg 0x40 2 [])) ∧
      exec (.hwEvictS tag a) s = .next (drgSend s (msg 0x40 2 []))) ∧
    (x % 32 ≠ 0 ∨ hostWindow < x + 32 → exec (.hwWrPart tag a mask h) s = .next (drgSend s (msg 0x40 2 []))) ∧
    (x % 64 = 0 → x + 64 ≤ hostWindow → free = false →
      exec (.hwRdS tag a) s = .next (held (q 0x10 0 0 [])) ∧ exec (.hwRdM tag a) s = .next (held (q 0x11 0 0 [])) ∧
      exec (.hwRdNc tag a 0) s = .next (held (q 0x12 0 0 [])) ∧ exec (.hwWr tag a 0 b) s = .next (held (q 0x13 0 0 b)) ∧
      exec (.hwWrPart tag a mask h) s = .next (held (q 0x14 0 mask h))) ∧
    (x % 64 = 0 → plain → free →
      (∀ m : Bool, needsEvict s l = false → ∃ t, exec (if m then .hwRdM tag a else .hwRdS tag a) s = .next t ∧
        t.drg = (drgSend (put (grantd m)) (msg 0x41 0 (bytes s 64))).drg ∧ t.bench1 = s.bench1) ∧
      (∀ e r, needsEvict s l = true → s.drg.snoops = [] → setEntries s l = e :: r → ∃ t, exec (.hwRdS tag a) s = .next t ∧
        t.drg.held = s.drg.held ++ [q 0x10 0 0 []] ∧ t.drg.snoops = [(s.drg.nextTag, e.1, true)] ∧
        t.drg.snpEvicts = inc64 s.drg.snpEvicts 1 ∧ t.drg.filter = f) ∧
      (∃ t, exec (.hwRdNc tag a 0) s = .next t ∧ t.drg = (drgSend s (msg 0x41 0 (bytes s 64))).drg ∧ t.bench1 = s.bench1) ∧
      (∃ t, exec (.hwWr tag a 0 b) s = .next t ∧ t.drg = (drgSend s (msg 0x40 0 [])).drg ∧ bytes t 64 = b ∧
        ∀ y, (y < interleave x ∨ interleave x + 64 ≤ y) → mget 0 t.bench1 y = mget 0 s.bench1 y)) ∧
    (x % 32 = 0 → windowAt s x = none → 16 * frameSize ≤ x → x + 32 ≤ hostWindow → served s (x / 4096 % 32) = true →
      stageBusy s = false → mustHold s (q 0x14 0 mask h) = false →
      (∃ t, exec (.hwWrPart tag a mask h) s = .next t ∧ t.drg = (drgSend s (msg 0x40 0 [])).drg ∧
        bytes t 32 = merge (bytes s 32) h (fun i => mask.getLsbD i) ∧
        ∀ y, (y < interleave x ∨ interleave x + 32 ≤ y) → mget 0 t.bench1 y = mget 0 s.bench1 y)) ∧
    (x % 64 = 0 → plain → snoopOut s l = false →
      (∃ t, exec (.hwEvictM tag a b) s = .next t ∧ t.drg = (drgSend (put del) (msg 0x40 0 [])).drg ∧ bytes t 64 = b) ∧
      exec (.hwEvictS tag a) s = .next (drgSend (put del) (msg 0x40 0 []))) ∧
    (s.drg.snoops.find? (fun o => o.1 = tag) = none →
      exec (.snpRspI tag) s = .next s ∧ exec (.snpRspS tag) s = .next s ∧ exec (.snpRspD tag b) s = .next s) ∧
    (∀ inv, s.drg.snoops = [(tag, l, inv)] → s.drg.held = [] →
      exec (.snpRspI tag) s = .next { s with drg := { s.drg with snoops := [], filter := del } } ∧
      (inv = false → exec (.snpRspS tag) s = .next { s with drg := { s.drg with snoops := [], filter := grantd false } }) ∧
      (x % 64 = 0 → plain → ∃ t, exec (.snpRspD tag b) s = .next t ∧ bytes t 64 = b ∧
        t.drg = { s.drg with snoops := [], filter := if inv then del else grantd false }))

/-- The control window and the event ring: CW_RD answers with the register's value, and CW_WR writes it; an address that is
misaligned or past the window is answered RANGE; an answer from companion memory ends its request; EVENT_DRAIN writes the
queued event with its 32 bytes while the ring has room, and sends its IRQ; a deferred IRQ is sent at the end of the holdoff;
the node number is taken in EMPTY, STAGING and REFUSED only. -/
def Obligations.HostRegistersAndEvents : Prop :=
  ∀ (s : State) (tag : BitVec 12) (a : BitVec 56) (v : W64) (st : Byte) (b : List Byte) (n : BitVec 14), linkIsUp s = true →
    let msg := fun (op : Nat) (st : Byte) (d : List Byte) =>
      ({ opcode := BitVec.ofNat 8 op, tag := tag, status := st, addr := 0, mask := 0, data := d } : DrgMsg)
    let done := { s with drg := { s.drg with reqs := [] } }
    let x := s.evt
    (cwOk a.toNat = true →
      exec (.cwRd tag a) s = .next (drgSend s (msg 0x41 0 (bytesOf 8 (regValue s a.toNat) ++ List.replicate 8 0))) ∧
      exec (.cwWr tag a v) s = .next (drgSend (writeReg s false a.toNat v.toNat) (msg 0x40 0 []))) ∧
    (cwOk a.toNat = false → exec (.cwRd tag a) s = .next (drgSend s (msg 0x41 2 (List.replicate 16 0))) ∧
      exec (.cwWr tag a v) s = .next (drgSend s (msg 0x40 2 []))) ∧
    (s.drg.reqs.find? (fun r => r.1 = tag) = none → exec (.cmp tag st) s = .next s ∧ exec (.rspData tag st b) s = .next s) ∧
    (∀ k, s.drg.reqs = [(tag, .event k)] → st = 0 → exec (.cmp tag st) s = .next done) ∧
    (∀ k, s.drg.reqs = [(tag, .event k)] → st ≠ 0 → exec (.cmp tag st) s =
      .next (unreachableEvent done none (node s) (if st = 2 then 0xF1 else 0xF0) 9 0 0)) ∧
    (∀ k e, s.drg.reqs = [(tag, .tier k)] → st = 0 → frozen s = false → s.tir.xfers = [e] → e.id = k →
      exec (.rspData tag st b) s = .next { done with tir := { s.tir with xfers := [{ e with res := some true, data := b }] } }) ∧
    (∀ e, mainUp s = true → x.queue = [e] → x.lostSince = 0 → (x.wr - x.rd).toNat < evtSlots s → x.irqEn = false →
      ∃ t, exec .eventDrain s = .next t ∧ t.evt = { x with queue := [], wr := inc32 x.wr 1 } ∧
        t.drg.reqs = s.drg.reqs ++ [(s.drg.nextTag, .event e.seq.toNat)] ∧ t.drg.tx = s.drg.tx ++ [{
          opcode := 0x32
          tag := s.drg.nextTag
          status := 0
          addr := BitVec.ofNat 56 (x.base.toNat + 32 * (x.wr.toNat % evtSlots s))
          mask := 0xFFFFFFFF
          data := evBytes e }]) ∧
    (x.queue = [] → x.lostSince = 0 → exec .eventDrain s = .next s) ∧
    (x.irqDue = false → exec .irqHoldoff s = .next s) ∧
    (mainUp s = true → x.irqDue = true → x.irqEn = true → x.irqNext < 2 ^ 64 → ∃ t, exec .irqHoldoff s = .next t ∧
      t.evt = { x with irqDue := false, irqNext := t.halyard + x.holdoff.toNat * 1000 } ∧ x.irqNext ≤ t.halyard ∧
      t.drg.reqs = s.drg.reqs ++ [(s.drg.nextTag, .irq)]) ∧
    (mainUp s = true → (if s.hst.st = .empty ∨ s.hst.st = .staging ∨ s.hst.st = .refused then
      ∃ t, exec (.node n) s = .next t ∧ t.dev = { s.dev with node := n, nodeSet := true } ∧ (getMeas t 6).pending = true
      else exec (.node n) s = .next s))

/-! ### The Burgee port -/

/-- I3C and MCTP control on standby power alone: without it nothing answers; ENTDAA gives an address to a target that has
none; direct commands need an address; the event enables follow ENEC and DISEC; a control message is answered with its
command, a completion code and its data, and an MCTP answer asks for an in-band interrupt where that is enabled. GETSTATUS
answers with a free value. -/
def Obligations.BurgeeBusAndControl : Prop :=
  ∀ (s : State) (da : BitVec 7) (m e y : Byte) (op : BitVec 2),
    let a := s.aon
    let on := s.pins.vaon = true
    let ans := fun (d : List Byte) => (.next { s with aon := { a with answer := d } } : Host.Outcome State Fault Refusal)
    let ibi := decide (a.i3cDa ≠ 0) && a.i3cEvents.getLsbD 0
    let ctl := fun (d : List Byte) => (.next { s with aon := { a with answer := [0, 0] ++ d, ibi := ibi } } :
      Host.Outcome State Fault Refusal)
    let still := fun (i : Instr) => exec i s = .next s
    (¬ on → still (.entdaa da) ∧ still .rstdaa ∧ still (.enec m) ∧ still (.disec m) ∧ still (.setEndpointId op e) ∧
      still .getEndpointId ∧ still .getEndpointUuid ∧ still (.getMctpVersionSupport y) ∧ still .getMessageTypeSupport ∧
      still (.getVendorDefinedMessageSupport y)) ∧
    (¬ on ∨ a.i3cDa = 0 → still (.setnewda da) ∧ still .getpid ∧ still .getbcr ∧ still .getdcr ∧ still .getstatus ∧ still .getmxds) ∧
    (on →
      (a.i3cDa ≠ 0 → still (.entdaa da)) ∧
      (a.i3cDa = 0 → exec (.entdaa da) s = .next { s with aon := { a with
        i3cDa := da
        hotJoin := false
        answer := pidBytes s ++ [Config.i3cBcr, Config.i3cDcr] } }) ∧
      exec .rstdaa s = .next { s with aon := { a with i3cDa := 0 } } ∧
      exec (.enec m) s = .next { s with aon := { a with i3cEvents := a.i3cEvents ||| (m &&& 9) } } ∧
      exec (.disec m) s = .next { s with aon := { a with i3cEvents := a.i3cEvents &&& ~~~ m } } ∧
      (a.i3cDa ≠ 0 → exec (.setnewda da) s = .next { s with aon := { a with i3cDa := da } } ∧
        exec .getpid s = ans (bytesBE 6 (s.fuses.serialLo.toNat % 2 ^ 32 + 2 ^ 32 + Config.i3cMfr.toNat * 2 ^ 33)) ∧
        exec .getbcr s = ans [Config.i3cBcr] ∧ exec .getdcr s = ans [Config.i3cDcr] ∧
        exec .getmxds s = ans (bytesBE 2 Config.i3cMxds.toNat) ∧
        ∃ w : BitVec 16, exec .getstatus s =
          .next { s with aon := { a with answer := bytesBE 2 w.toNat }, free := s.free + 1 }) ∧
      (2 ≤ op.toNat ∨ e = 0 ∨ e = 0xFF → exec (.setEndpointId op e) s = ctl [1, 2]) ∧
      (op.toNat < 2 → e ≠ 0 → e ≠ 0xFF → exec (.setEndpointId op e) s =
        .next { s with aon := { a with eid := e, answer := [0, 0, 1, 0, 0, e, 0], ibi := ibi } }) ∧
      exec .getEndpointId s = ctl [2, 0, a.eid, 0, 0] ∧
      exec .getEndpointUuid s = ctl ([3, 0] ++ fit 16 Config.endpointUuid) ∧
      (y = 0xFF ∨ y = 0 ∨ y = 0x7F → exec (.getMctpVersionSupport y) s = ctl [4, 0, 1, 0xF1, 0xF3, 0xFF, 0x00]) ∧
      (y ≠ 0xFF → y ≠ 0 → y ≠ 0x7F → exec (.getMctpVersionSupport y) s = ctl [4, 0x80]) ∧
      exec .getMessageTypeSupport s = ctl [5, 0, 1, 0x7F] ∧
      (y = 0 → exec (.getVendorDefinedMessageSupport y) s =
        ctl ([6, 0, 0xFF, 1] ++ bytesBE 4 s.fuses.pen.toNat ++ bytesBE 2 Config.mctpVendorSet.toNat)) ∧
      (y ≠ 0 → exec (.getVendorDefinedMessageSupport y) s = ctl [6, 2]))

/-- Hjelnor messages: every answer names the class, the code, the requester's sequence and a status. REG_READ reads 1 to 16
registers and REG_WRITE writes one, within the port's reach and in a powered domain; identity, measurements and keys are read
out; a measurement taken anew replaces the slot's value and counts a change. -/
def Obligations.BurgeeMessages : Prop :=
  ∀ (s : State) (r : BitVec 7) (b : List Byte) (k : Fin 8), s.pins.vaon = true →
    let ans := fun (t : State) (cls code st : Byte) (d : List Byte) => (.next { t with aon := { t.aon with
        answer := [0x7F] ++ bytesBE 4 t.fuses.pen.toNat ++ [cls, code, 0x80 ||| r.zeroExtend 8, st] ++ d
        ibi := decide (t.aon.i3cDa ≠ 0) && t.aon.i3cEvents.getLsbD 0 } } : Host.Outcome State Fault Refusal)
    let o := natAt b 0 4
    let n := natAt b 4 1
    let regs := (List.range n).map (fun i => o + 8 * i)
    let x := getMeas s k.val
    (b.length = 5 → n = 0 ∨ 16 < n → exec (.regRead r b) s = ans s 1 1 2 []) ∧
    (b.length ≠ 5 → exec (.regRead r b) s = ans s 1 1 2 []) ∧
    (b.length = 5 → 0 < n → n ≤ 16 → (∃ x ∈ regs, burgeeReach x = false) → exec (.regRead r b) s = ans s 1 1 3 []) ∧
    (b.length = 5 → 0 < n → n ≤ 16 → (∀ x ∈ regs, burgeeReach x = true) →
      ((∃ x ∈ regs, unpowered s x = true) → exec (.regRead r b) s = ans s 1 1 4 []) ∧
      ((∀ x ∈ regs, unpowered s x = false) → exec (.regRead r b) s = ans s 1 1 0 (regs.flatMap (fun x => bytesOf 8 (regValue s x))))) ∧
    (b.length ≠ 12 → exec (.regWrite r b) s = ans s 1 2 2 []) ∧
    (b.length = 12 → burgeeReach o = false → exec (.regWrite r b) s = ans s 1 2 3 []) ∧
    (b.length = 12 → burgeeReach o = true → unpowered s o = true → exec (.regWrite r b) s = ans s 1 2 4 []) ∧
    (b.length = 12 → burgeeReach o = true → unpowered s o = false →
      exec (.regWrite r b) s = ans (writeReg s true o (natAt b 4 8)) 1 2 0 []) ∧
    (b ≠ [] → exec (.getIdentity r b) s = ans s 2 0x10 2 [] ∧ exec (.getKeys r b) s = ans s 3 0x22 2 []) ∧
    (b = [] → exec (.getIdentity r b) s = ans s 2 0x10 0 (identity s) ∧ (identity s).length = 16 + 11 + 57 + 16 + 114 ∧
      exec (.getKeys r b) s = ans s 3 0x22 0 (bytesOf 4 s.aon.keySeq.toNat ++ (List.range 8).flatMap (slotKeyId s))) ∧
    (b.length ≠ 33 → exec (.getMeasurements r b) s = ans s 2 0x11 2 []) ∧
    (b.length = 33 → (getMeas s 0).value = [] → exec (.getMeasurements r b) s = ans s 2 0x11 5 []) ∧
    (b.length = 33 → (getMeas s 0).value ≠ [] → ∃ sig : List Byte, sig.length = 114 ∧ exec (.getMeasurements r b) s = ans s 2 0x11 0
      (((List.range 8).filter (bitAt (natAt b 32 1))).flatMap (fun i => [BitVec.ofNat 8 i, BitVec.ofNat 8 (b2n (getMeas s i).pending)] ++
        bytesOf 4 (getMeas s i).count.toNat ++ fit 64 (getMeas s i).value) ++ sig)) ∧
    (x.pending = false → exec (.measurementRecomputed k) s = .next s) ∧
    (x.pending = true → ∃ t, exec (.measurementRecomputed k) s = .next t ∧ t = { s with aon := { s.aon with meas := t.aon.meas } } ∧
        getMeas t k.val = { x with
          value := x.next
          pending := false
          next := []
          count := if x.value = x.next then x.count else inc32 x.count 1 } ∧
        ∀ j, j ≠ k.val → getMeas t j = getMeas s j)

/-- Keys: a request of the wrong length, for no role or slot, with another sequence number, or without the signature of an
enrolled operator key is turned away with its status and changes no key; the first operator key needs no signature; an
accepted request fills or empties the slot, advances KEY_SEQ, and starts the role's measurement. -/
def Obligations.KeysAreEnrolledAndRevoked : Prop :=
  ∀ (s : State) (r : BitVec 7) (b : List Byte), s.pins.vaon = true →
    let ans := fun (t : State) (code st : Byte) => (.next { t with aon := { t.aon with
        answer := [0x7F] ++ bytesBE 4 t.fuses.pen.toNat ++ [3, code, 0x80 ||| r.zeroExtend 8, st]
        ibi := decide (t.aon.i3cDa ≠ 0) && t.aon.i3cEvents.getLsbD 0 } } : Host.Outcome State Fault Refusal)
    let role := natAt b 0 1
    let slot := natAt b 1 1
    let named := (role = 1 ∨ role = 2) ∧ slot < 4
    let seq := natAt b 2 4 = s.aon.keySeq.toNat
    let taken := fun (o : Host.Outcome State Fault Refusal) (key : List Byte) => ∃ t, o = .next t ∧
      mget [] t.aon.keys (4 * (role - 1) + slot) = key ∧ t.aon.keySeq = inc32 s.aon.keySeq 1 ∧
      (getMeas t (role + 1)).pending = true ∧ t.aon.alertStatus.getLsbD 6 = true ∧
      (∀ j, j ≠ 4 * (role - 1) + slot → mget [] t.aon.keys j = mget [] s.aon.keys j) ∧ t = { s with aon := t.aon }
    (b.length ≠ 177 → exec (.enrollKey r b) s = ans s 0x20 2) ∧ (b.length ≠ 120 → exec (.revokeKey r b) s = ans s 0x21 2) ∧
    (¬ named → (b.length = 177 → exec (.enrollKey r b) s = ans s 0x20 3) ∧ (b.length = 120 → exec (.revokeKey r b) s = ans s 0x21 3)) ∧
    (named → ¬ seq → (b.length = 177 → exec (.enrollKey r b) s = ans s 0x20 7) ∧
      (b.length = 120 → exec (.revokeKey r b) s = ans s 0x21 7)) ∧
    (named → seq →
      (b.length = 177 → keySigned s (b.take 63) (b.drop 63) = false → ¬ (role = 1 ∧ operatorKeys s = [] ∧ natOf (b.drop 63) = 0) →
        exec (.enrollKey r b) s = ans s 0x20 6) ∧
      (b.length = 177 → keySigned s (b.take 63) (b.drop 63) = true ∨ (role = 1 ∧ operatorKeys s = [] ∧ natOf (b.drop 63) = 0) →
        taken (exec (.enrollKey r b) s) ((b.drop 6).take 57)) ∧
      (b.length = 120 → keySigned s (b.take 6) (b.drop 6) = false → exec (.revokeKey r b) s = ans s 0x21 6) ∧
      (b.length = 120 → keySigned s (b.take 6) (b.drop 6) = true → taken (exec (.revokeKey r b) s) []))

/-! ### Power and resets -/

/-- Standby power, pins and the power-up: VAON_UP starts the always-on domain, and VAON_LOSS loses it with all else; PGOOD_IN
falling and RESET_N asserted reset the main side, whose stored memory stays; RESET_N released begins FUSE; FUSE starts the
Halyard and boots; BOOT runs the first image that passes its checks, and measures it, or fails; ADIT_TRAIN begins every
adit's training; a sensor at its trip point resets the main side with THERMTRIP_N low. -/
def Obligations.PowerPinsAndStages : Prop :=
  ∀ (s : State) (i0 i1 : List Byte) (die : Fin 13) (tj : Byte),
    let p := s.pins
    let w := s.pwr
    let down := fun (o : Host.Outcome State Fault Refusal) (cause : BitVec 3) (st : Stage) => ∃ t, o = .next t ∧
      t.pwr.stage = st ∧ t.aon.resetCause = cause ∧ t.aon.keys = s.aon.keys ∧ t.bench1 = s.bench1 ∧ t.pins.pgoodOut = false ∧
      t.hst = {} ∧ t.ctxs = [] ∧ t.cores = [] ∧ t.adits = [] ∧ t.drg = {} ∧ t.halyard = 0 ∧ t.pending = s.pending
    let up := fun (o : Host.Outcome State Fault Refusal) (img : List Byte) => ∃ t, o = .next t ∧ t.pwr.stage = .hbmTrain ∧
      t.dev.fw = .running ∧ t.dev.fwVersion = BitVec.ofNat 32 (natAt img 12 4) ∧ t.dev.fwSvn = BitVec.ofNat 16 (natAt img 4 2) ∧
      t.drg.st = .training ∧ (∀ n, n < 32 → (getHbm t n).st = .training) ∧ (getMeas t 0).value = shake256 (fwSigned img) 64
    (p.vaon = true → exec .vaonUp s = .next s) ∧
    (p.vaon = false → exec .vaonUp s = .next { s with pins := { p with vaon := true }, aon := { hotJoin := true } } ∧
      exec .vaonLoss s = .next s) ∧
    (p.vaon = true → ∃ t, exec .vaonLoss s = .next t ∧ t.pwr.stage = .off ∧ t.aon = {} ∧ t.bench1 = [] ∧ t.chk = [] ∧
      t.pins.vaon = false ∧ t.pins.resetN = false ∧ t.pins.pgoodOut = false ∧ t.hst = {} ∧ t.ctxs = []) ∧
    (p.pgoodIn = false → exec .pgoodIn s = .next s) ∧ (p.resetN = false → exec .resetNAssert s = .next s) ∧
    (p.pgoodIn = true → p.resetN = true → railsUp s = true → down (exec .pgoodIn s) 1 .off) ∧
    (p.pgoodIn = true → p.resetN = false → exec .pgoodIn s = .next { s with pins := { p with pgoodIn := false } }) ∧
    (p.resetN = true → railsUp s = true → down (exec .resetNAssert s) 2 .off) ∧
    (p.vaon = true → p.resetN = false → exec .resetNRelease s = .next { s with
      pins := { p with resetN := true, pgoodIn := true, thermtripN := true }
      pwr := { w with stage := .fuse } }) ∧
    (w.stage ≠ .fuse → exec .fuse s = .next s) ∧
    (w.stage = .fuse → exec .fuse s = .next { s with
      halyard := 0
      pins := { p with pgoodOut := true }
      dev := { s.dev with fw := .verifying }
      pwr := { w with stage := .boot, limitW := s.fuses.pwrLimit, tjHot := s.fuses.tjHot } }) ∧
    (w.stage ≠ .boot → exec (.boot i0 i1) s = .next s) ∧
    (w.stage = .boot → fwCheck s i0 = .running → up (exec (.boot i0 i1) s) i0) ∧
    (w.stage = .boot → fwCheck s i0 ≠ .running → fwCheck s i1 = .running → up (exec (.boot i0 i1) s) i1) ∧
    (w.stage = .boot → fwCheck s i0 ≠ .running → fwCheck s i1 ≠ .running → ∃ t, exec (.boot i0 i1) s = .next t ∧
      t.pwr.stage = .failed ∧ t.pwr.failStage = 2 ∧ t.dev.fw = fwCheck s i1 ∧ t.aon.alertStatus.getLsbD 0 = true) ∧
    (w.stage ≠ .aditTrain → exec .aditTrain s = .next s) ∧
    (w.stage = .aditTrain → ∃ t, exec .aditTrain s = .next t ∧ t.pwr.stage = (if locked s then .ready else .sync) ∧
      t = { s with adits := t.adits, pwr := t.pwr } ∧ ∀ a, a < 24 → getAdit t a = { getAdit s a with
        st := .training
        trainAt := s.halyard
        trainAttempts := inc32 (getAdit s a).trainAttempts 1
        delayValid := false }) ∧
    (railsUp s = false → exec (.thermalTrip die tj) s = .next s) ∧
    (railsUp s = true → s.fuses.tjTrip.toNat ≤ tj.toNat → down (exec (.thermalTrip die tj) s) 4 .fuse ∧
      ∃ t, exec (.thermalTrip die tj) s = .next t ∧ t.pins.thermtripN = false) ∧
    (railsUp s = true → tj.toNat < s.fuses.tjTrip.toNat → ∃ t, exec (.thermalTrip die tj) s = .next t ∧
      t = { s with pwr := { w with tjDie := mput 0 w.tjDie die.val tj, tjMax := t.pwr.tjMax } } ∧ tj.toNat ≤ t.pwr.tjMax.toNat)

/-- PWR_RESET: 1 µs after its write a reset acts with every request that waits: the compute domain's blocks are at reset and
the fabric's stay; the fabric domain takes the compute domain with it and starts the Halyard at 0; the HBM domain takes host,
fabric and compute with it, and its controllers train; the host domain drops the link and its filter, and nothing else; MAIN,
from the Burgee port, resets the main side. -/
def Obligations.ResetDomains : Prop :=
  ∀ (s : State) (m : BitVec 5) (i : Instr), s.lines = [] → s.drg.reqs = [] → s.tab.mode.bunting = false →
    (m, i) ∈ ([(1, .pwrResetCompute), (2, .pwrResetFabric), (4, .pwrResetHbm), (8, .pwrResetHost)] : List (BitVec 5 × Instr)) →
    let w := s.pwr.resetAt.getD (s.ns + 1000, 0)
    let k := w.2 ||| m
    let compute := fun (t : State) => t.hst = { reqOperator := s.hst.reqOperator, reqTenant := s.hst.reqTenant } ∧ t.tab = {} ∧
      t.tick = {} ∧ t.ctab = {} ∧ t.ctxs = [] ∧ t.cores = [] ∧ t.saved = [] ∧ t.riddles = [] ∧ t.tramways = [] ∧ t.tir = {} ∧
      t.bpm = {} ∧ t.colls = [] ∧ t.buckets = [] ∧ t.gangs = [] ∧ t.dbg = {} ∧ t.syn.dipSt = .running
    let fabric := fun (t : State) => compute t ∧ t.adits = [] ∧ t.yard = {} ∧ t.fab = {} ∧ t.syn = {} ∧ t.halyard = 0
    (railsUp s = false → exec i s = .next s) ∧
    (railsUp s = true → k.getLsbD 4 = false → ∃ t, exec i s = .next t ∧ w.1 ≤ t.ns ∧ t.pwr.resetAt = none ∧
      (k.getLsbD 2 = true → fabric t ∧ t.evt = {} ∧ t.drg = { trainAt := t.drg.trainAt } ∧ t.faces = [] ∧ t.bench1 = s.bench1 ∧
        ∀ n, n < 32 → (getHbm t n).st = (if hbmStarted s then .training else .down)) ∧
      (k.getLsbD 2 = false → k.getLsbD 1 = true → fabric t) ∧
      (k.getLsbD 2 = false → k.getLsbD 1 = false → k.getLsbD 0 = true → compute t ∧
        (w.1 ≤ s.ns → t.halyard = s.halyard ∧ t.syn.st = s.syn.st ∧ ∀ a, (getAdit t a).st = (getAdit s a).st)) ∧
      (k.getLsbD 2 = false → k.getLsbD 3 = true → t.drg = { trainAt := t.drg.trainAt } ∧ t.evt = {}) ∧
      (k = 8 → w.1 ≤ s.ns → t.ctxs = s.ctxs ∧ t.hst = s.hst ∧ t.syn = s.syn ∧ t.halyard = s.halyard)) ∧
    (s.pins.vaon = true → railsUp s = true → ∃ t, exec .pwrResetMain s = .next t ∧ t.pwr.stage = .fuse ∧ t.aon.resetCause = 3 ∧
      t.aon.keys = s.aon.keys ∧ t.bench1 = s.bench1 ∧ t.hst = {} ∧ t.ctxs = [] ∧ t.adits = [] ∧ t.drg = {})

/-- The throttle and the ramp governor: a hot interval, or one above the power limit, raises AUTO_LEVEL by one, at most to 8,
and 100 cool ones lower it by one; a driver level acts at once, or is held for PWR_THR_AT; a wave wakes up to 32 queued cores
at least 5,000 counts after the wave before, and each is awake 5,000 counts later. -/
def Obligations.ThrottleAndGovernor : Prop :=
  ∀ (s : State) (hot en : Bool) (avg : BitVec 16) (tj : Byte) (l : BitVec 4) (c : Fin 512), mainUp s = true →
    let p := s.pwr
    let high := hot = true ∨ p.tjHot.toNat ≤ tj.toNat ∨ p.limitW.toNat < avg.toNat
    (s.halyard + 1000000 < 2 ^ 64 → ∃ t, exec (.autoLevel hot avg tj) s = .next t ∧ t.halyard % 1000000 = 0 ∧
      s.halyard < t.halyard ∧ t.halyard ≤ s.halyard + 1000000 ∧ t.pwr.avgW = avg ∧ t.pwr.tjMax = tj ∧
      (high → t.pwr.autoLevel = min 8 (p.autoLevel + 1) ∧ t.pwr.coolFor = 0 ∧ t.aon.alertStatus.getLsbD 3 = true) ∧
      (¬ high → t.pwr.coolFor = min 100 (p.coolFor + 1) ∧
        t.pwr.autoLevel = if 99 ≤ p.coolFor then p.autoLevel - 1 else p.autoLevel)) ∧
    (∃ t, exec (.drvLevel l en) s = .next t ∧ t = { s with pwr := t.pwr } ∧ t.pwr.drvLevel = l ∧ t.pwr.thrAtEn = en ∧
      (en = false → t.pwr.drvInForce = min 8 l.toNat ∧ t.pwr.drvHeld = none) ∧
      (en = true → t.pwr.drvInForce = p.drvInForce ∧ t.pwr.drvHeld = some (min 8 l.toNat))) ∧
    (p.drvHeld = none → exec .pwrThrAt s = .next s) ∧
    (∀ n, p.drvHeld = some n → ∃ t, exec .pwrThrAt s = .next t ∧ p.thrAt.toNat ≤ t.halyard ∧ t.pwr.drvInForce = n ∧
      t.pwr.drvHeld = none) ∧
    (p.govQueue = [] → exec .governorWave s = .next s) ∧
    (p.govQueue ≠ [] → p.govNext < 2 ^ 64 → ∃ t, exec .governorWave s = .next t ∧ p.govNext ≤ t.halyard ∧
      t.pwr.govQueue = p.govQueue.drop 32 ∧ t.pwr.govWaves = inc32 p.govWaves 1 ∧ t.pwr.govNext = t.halyard + 5000 ∧
      t.pwr.waking = p.waking ++ (p.govQueue.take 32).map (fun e => (e.1, t.halyard + 5000))) ∧
    (p.waking.find? (fun e => e.1 = c.val) = none → exec (.coreAwake c) s = .next s) ∧
    (∀ e, p.waking.find? (fun e => e.1 = c.val) = some e → e.2 < 2 ^ 64 → ∃ t, exec (.coreAwake c) s = .next t ∧ e.2 ≤ t.halyard ∧
      t.pwr.awake = p.awake ++ [c.val] ∧ ∀ x ∈ t.pwr.waking, x.1 ≠ c.val)

/-! ### Register writes, reset and the invariant -/

/-- REGISTER_WRITE: from the companion while its link is up, or from the Burgee port within its reach and in a powered
domain, the register reads from then on as it was written, in the bits of its fields; a register that is read-only keeps its
value; a write that reaches nothing changes nothing. -/
def Obligations.RegisterWritesReadBack : Prop :=
  ∀ (s : State) (burgee : Bool) (v : W64),
    let reach := fun (o : Nat) => if burgee then s.pins.vaon && burgeeReach o && !unpowered s o else linkIsUp s
    let field := fun (m w b : Nat) => m / 2 ^ b % 2 ^ w * 2 ^ b
    let n := v.toNat
    let reads := fun (o x : Nat) => ∃ t, exec (.registerWrite burgee (BitVec.ofNat 28 o) v) s = .next t ∧ regValue t o = x
    (∀ o : BitVec 28, reach o.toNat = false → exec (.registerWrite burgee o v) s = .next s) ∧
    (∀ o, o < 0x80000 → reach o = true →
      (o ∈ [0x10020, 0x20410, 0x20418] → reads o n) ∧ (o ∈ [0x40000, 0x40018] → reads o (field n 53 0)) ∧
      (o = 0x20210 → reads o (field n 5 0)) ∧ (o = 0x20408 → reads o (field n 16 0)) ∧
      (o = 0x20420 → reads o (field n 16 0 + field n 32 32)) ∧ (o = 0x40800 → reads o (field n 13 0 + field n 32 16)) ∧
      (o ∈ [0, 8, 16, 0x10038, 0x20018, 0x20220, 0x40010] → reads o (regValue s o))) ∧
    (burgee = false → linkIsUp s = true →
      (∀ o ∈ [0x80018, 0x100010], reads o n) ∧
      (∀ o ∈ [0x80010, 0x100018, 0x200018], reads o (field n 32 0)) ∧
      reads 0x200020 (field n 20 0) ∧ reads 0x1008000 (field n 10 0 + field n 10 16) ∧ reads 0xC00000 (field n 1 0) ∧
      (∀ o ∈ [0x80008, 0x80020, 0x80028, 0x80038], reads o (regValue s o)))

/-- The machine after reset: standby and main power are on and RESET_N is released, the power-up is in FUSE, the Halyard
stands at 0 in FREE, the loader is EMPTY, every context ABSENT, every unit IDLE, every adit DISABLED and Dragiper Link down,
Bench 1 and the queues of commands and events empty. That reset stands at this moment of the power-up is the model's own
choice (log entry 7). The invariant of the maps holds. -/
def Obligations.ResetState : Prop :=
  (State.reset.pwr.stage = .fuse ∧ State.reset.syn.st = .free ∧ State.reset.halyard = 0 ∧ State.reset.hst.st = .empty ∧
    (∀ c, (getCtx State.reset c).st = .absent) ∧ (∀ u, (getFace State.reset u).st = .idle) ∧
    (∀ a, (getAdit State.reset a).st = .disabled) ∧ State.reset.drg.st = .down ∧ State.reset.pins.vaon = true ∧
    State.reset.pins.resetN = true ∧ mainUp State.reset = true ∧ State.reset.bench1 = [] ∧ State.reset.pending = [] ∧ State.reset.evt.queue = [] ∧
    step State.reset = .next (elapse 1 State.reset)) ∧
  (MapsOk State.reset)

/-- The invariant is kept by every step: whatever the command and the state, the memories and every table of the machine that
the model rewrites as a whole stay in canonical form (keys rising, no entry equal to what an unlisted key reads as). -/
def Obligations.StepKeepsMaps : Prop :=
  ∀ (s t : State), MapsOk s → step s = .next t → MapsOk t
end

