-- ==== Sys2Proof/Laws/Map.lean ====
section
/-!
SUPPORT. Laws of sparse maps and memories: what a read finds after a write, and that every operation keeps the canonical form.
-/
namespace Sys2Proof.Machine

section
variable {α : Type} (d : α)

@[simp] theorem mget_nil (k : Nat) : mget d ([] : SMap α) k = d := rfl

theorem mget_cons (i : Nat) (v : α) (r : SMap α) (k : Nat) :
    mget d ((i, v) :: r) k = if i = k then v else mget d r k := rfl

/-- What holds of the default and of every value listed holds of every value read. -/
theorem mget_all (P : α → Prop) (hd : P d) (m : SMap α) (h : ∀ x ∈ m, P x.2) (k : Nat) : P (mget d m k) := by
  induction m with
  | nil => exact hd
  | cons x r ih =>
    rw [mget_cons]
    split
    · exact h x (by simp)
    · exact ih (fun y hy => h y (by simp [hy]))

theorem mget_mins (m : SMap α) (k : Nat) (v : α) (j : Nat) :
    mget d (mins m k v) j = if j = k then v else mget d m j := by
  induction m with
  | nil => simp only [mins, mget_cons, mget_nil, eq_comm]
  | cons e r ih =>
    obtain ⟨i, w⟩ := e
    simp only [mins]
    split
    · simp only [mget_cons, eq_comm]
    · split
      · subst_vars
        simp only [mget_cons]
        by_cases hj : j = i
        · simp [hj]
        · simp [hj, Ne.symm hj]
      · simp only [mget_cons, ih]
        split <;> split <;> simp_all

theorem mget_filter_ne (m : SMap α) (k j : Nat) :
    mget d (m.filter (fun e => decide (e.1 ≠ k))) j = if j = k then d else mget d m j := by
  induction m with
  | nil => simp
  | cons e r ih =>
    obtain ⟨i, w⟩ := e
    by_cases h : i = k
    · subst h
      simp only [List.filter_cons, ne_eq, not_true_eq_false, decide_false, Bool.false_eq_true, if_false, ih, mget_cons]
      split
      · rfl
      · rw [if_neg]; intro e; simp_all
    · simp only [List.filter_cons, ne_eq, h, not_false_eq_true, decide_true, if_true, mget_cons, ih]
      split <;> split <;> simp_all

/-- A read after a write: the value written at its key, what was there at every other. -/
theorem mget_mput [DecidableEq α] (m : SMap α) (k : Nat) (v : α) (j : Nat) :
    mget d (mput d m k v) j = if j = k then v else mget d m j := by
  unfold mput
  split
  · rename_i h; rw [mget_filter_ne, h]
  · exact mget_mins d m k v j

@[simp] theorem mget_mput_same [DecidableEq α] (m : SMap α) (k : Nat) (v : α) : mget d (mput d m k v) k = v := by
  simp [mget_mput]

theorem mget_mput_other [DecidableEq α] (m : SMap α) (k j : Nat) (v : α) (h : j ≠ k) :
    mget d (mput d m k v) j = mget d m j := by simp [mget_mput, h]

theorem mget_mclear (m : SMap α) (p : Nat → Bool) (j : Nat) :
    mget d (mclear m p) j = if p j then d else mget d m j := by
  induction m with
  | nil => simp [mclear]
  | cons e r ih =>
    obtain ⟨i, w⟩ := e
    unfold mclear at ih ⊢
    by_cases h : p i
    · simp only [List.filter_cons, h, Bool.not_true, Bool.false_eq_true, if_false, ih, mget_cons]
      by_cases hj : i = j
      · subst hj; simp [h]
      · simp [hj]
    · simp only [List.filter_cons, h, mget_cons]
      by_cases hj : i = j
      · subst hj; simp [h, mget_cons]
      · simp [hj, mget_cons, ih]

/-! ### The canonical form -/

theorem mwfFrom_mono [DecidableEq α] (m : SMap α) (lo lo' : Nat) (h : lo' ≤ lo) (hm : mwfFrom d lo m = true) :
    mwfFrom d lo' m = true := by
  cases m with
  | nil => rfl
  | cons e r =>
    obtain ⟨i, v⟩ := e
    simp only [mwfFrom, Bool.and_eq_true, decide_eq_true_eq] at hm ⊢
    exact ⟨⟨by omega, hm.1.2⟩, hm.2⟩

theorem mget_below [DecidableEq α] (m : SMap α) (lo j : Nat) (hm : mwfFrom d lo m = true) (hj : j < lo) : mget d m j = d := by
  induction m generalizing lo with
  | nil => rfl
  | cons e r ih =>
    obtain ⟨i, v⟩ := e
    simp only [mwfFrom, Bool.and_eq_true, decide_eq_true_eq] at hm
    rw [mget_cons, if_neg (by omega)]
    exact ih (i + 1) hm.2 (by omega)

theorem mwfFrom_mins [DecidableEq α] (m : SMap α) (lo k : Nat) (v : α) (hk : lo ≤ k) (hv : v ≠ d) (hm : mwfFrom d lo m = true) :
    mwfFrom d lo (mins m k v) = true := by
  induction m generalizing lo with
  | nil => simp [mins, mwfFrom, hk, hv]
  | cons e r ih =>
    obtain ⟨i, w⟩ := e
    simp only [mwfFrom, Bool.and_eq_true, decide_eq_true_eq] at hm
    obtain ⟨⟨h1, h2⟩, h3⟩ := hm
    simp only [mins]
    split
    · simp only [mwfFrom, Bool.and_eq_true, decide_eq_true_eq]
      exact ⟨⟨hk, hv⟩, ⟨by omega, h2⟩, h3⟩
    · split
      · subst_vars
        simp only [mwfFrom, Bool.and_eq_true, decide_eq_true_eq]
        exact ⟨⟨hk, hv⟩, h3⟩
      · simp only [mwfFrom, Bool.and_eq_true, decide_eq_true_eq]
        exact ⟨⟨h1, h2⟩, ih (i + 1) (by omega) h3⟩

theorem mwfFrom_filter [DecidableEq α] (m : SMap α) (p : Nat × α → Bool) (lo : Nat) (hm : mwfFrom d lo m = true) :
    mwfFrom d lo (m.filter p) = true := by
  induction m generalizing lo with
  | nil => rfl
  | cons e r ih =>
    obtain ⟨i, w⟩ := e
    simp only [mwfFrom, Bool.and_eq_true, decide_eq_true_eq] at hm
    obtain ⟨⟨h1, h2⟩, h3⟩ := hm
    rw [List.filter_cons]
    split
    · simp only [mwfFrom, Bool.and_eq_true, decide_eq_true_eq]
      exact ⟨⟨h1, h2⟩, ih (i + 1) h3⟩
    · exact mwfFrom_mono d _ (i + 1) lo (by omega) (ih (i + 1) h3)

theorem mwf_mput [DecidableEq α] (m : SMap α) (k : Nat) (v : α) (hm : mwf d m = true) : mwf d (mput d m k v) = true := by
  unfold mput mwf at *
  split
  · exact mwfFrom_filter d m _ 0 hm
  · exact mwfFrom_mins d m 0 k v (Nat.zero_le _) ‹_› hm

theorem mwf_mclear [DecidableEq α] (m : SMap α) (p : Nat → Bool) (hm : mwf d m = true) : mwf d (mclear m p) = true :=
  mwfFrom_filter d m _ 0 hm

theorem mwfFrom_mmap [DecidableEq α] (f : Nat → α → α) (m : SMap α) (lo : Nat) (hm : mwfFrom d lo m = true) :
    mwfFrom d lo (mmap d f m) = true := by
  induction m generalizing lo with
  | nil => rfl
  | cons e r ih =>
    obtain ⟨i, w⟩ := e
    simp only [mwfFrom, Bool.and_eq_true, decide_eq_true_eq] at hm
    obtain ⟨⟨h1, h2⟩, h3⟩ := hm
    unfold mmap at ih ⊢
    by_cases h : f i w = d
    · simp only [List.filterMap_cons, h, if_true]
      exact mwfFrom_mono d _ (i + 1) lo (by omega) (ih (i + 1) h3)
    · simp only [List.filterMap_cons, h, if_false, mwfFrom, Bool.and_eq_true, decide_eq_true_eq]
      exact ⟨⟨h1, h⟩, ih (i + 1) h3⟩

theorem mwf_mmap [DecidableEq α] (f : Nat → α → α) (m : SMap α) (hm : mwf d m = true) : mwf d (mmap d f m) = true :=
  mwfFrom_mmap d f m 0 hm

/-- A read after every value of a canonical map is changed by a function that leaves the default alone. -/
theorem mget_mmap [DecidableEq α] (f : Nat → α → α) (hf : ∀ k, f k d = d) (m : SMap α) (lo : Nat) (hm : mwfFrom d lo m = true)
    (j : Nat) : mget d (mmap d f m) j = f j (mget d m j) := by
  induction m generalizing lo with
  | nil => exact (hf j).symm
  | cons e r ih =>
    obtain ⟨i, w⟩ := e
    simp only [mwfFrom, Bool.and_eq_true, decide_eq_true_eq] at hm
    have hr := ih (i + 1) hm.2
    unfold mmap at hr ⊢
    by_cases h : f i w = d
    · simp only [List.filterMap_cons, h, if_true, mget_cons]
      by_cases hj : i = j
      · subst hj; rw [if_pos rfl, h, hr, mget_below d r (i + 1) i hm.2 (by omega), hf]
      · rw [if_neg hj]; exact hr
    · simp only [List.filterMap_cons, h, if_false, mget_cons]
      by_cases hj : i = j
      · subst hj; rw [if_pos rfl, if_pos rfl]
      · rw [if_neg hj, if_neg hj]; exact hr

theorem mins_mins (m : SMap α) (k : Nat) (v w : α) : mins (mins m k v) k w = mins m k w := by
  induction m with
  | nil => simp [mins]
  | cons e r ih =>
    obtain ⟨i, x⟩ := e
    by_cases h1 : k < i
    · simp [mins, h1]
    · by_cases h2 : k = i
      · subst h2; simp [mins]
      · simp [mins, h1, h2, ih]

theorem filter_mins (m : SMap α) (k : Nat) (v : α) :
    (mins m k v).filter (fun e => e.1 ≠ k) = m.filter (fun e => e.1 ≠ k) := by
  induction m with
  | nil => simp [mins]
  | cons e r ih =>
    obtain ⟨i, x⟩ := e
    by_cases h1 : k < i
    · simp [mins, h1]
    · by_cases h2 : k = i
      · subst h2; simp [mins]
      · have h3 : i ≠ k := fun h => h2 h.symm
        simp only [mins, h1, h2, if_false, List.filter_cons]
        rw [ih]

/-- The last of two puts at one key stays, when the first is no default. -/
theorem mput_mput [DecidableEq α] (m : SMap α) (k : Nat) (v w : α) (h : v ≠ d) : mput d (mput d m k v) k w = mput d m k w := by
  unfold mput
  simp only [h, if_false]
  split
  · exact filter_mins m k v
  · exact mins_mins m k v w

theorem mwf_nil [DecidableEq α] : mwf d ([] : SMap α) = true := rfl

end

/-! ### Bytes -/

theorem wf_nil : Memory.wf [] = true := rfl

theorem wf_mput (m : Mem) (a : Nat) (b : Byte) (h : Memory.wf m = true) : Memory.wf (mput 0 m a b) = true := mwf_mput 0 m a b h

theorem wf_mclear (m : Mem) (p : Nat → Bool) (h : Memory.wf m = true) : Memory.wf (mclear m p) = true := mwf_mclear 0 m p h

theorem wf_writeBytes (m : Mem) (a : Nat) (bs : List Byte) (h : Memory.wf m = true) : Memory.wf (writeBytes m a bs) = true := by
  induction bs generalizing m a with
  | nil => exact h
  | cons b r ih => exact ih _ _ (wf_mput m a b h)

/-- A byte after bytes are written: the byte written there, or what was there. -/
theorem mget_writeBytes (m : Mem) (a : Nat) (bs : List Byte) (j : Nat) :
    mget 0 (writeBytes m a bs) j = if a ≤ j ∧ j < a + bs.length then bs.getD (j - a) 0 else mget 0 m j := by
  induction bs generalizing m a with
  | nil => simp [writeBytes]
  | cons b r ih =>
    simp only [writeBytes, ih, mget_mput, List.length_cons]
    by_cases h1 : j = a
    · subst h1; simp
    · by_cases h2 : a + 1 ≤ j ∧ j < a + 1 + r.length
      · have h3 : a ≤ j ∧ j < a + (r.length + 1) := by omega
        obtain ⟨n, hn⟩ : ∃ n, j - a = n + 1 := ⟨j - a - 1, by omega⟩
        rw [if_pos h2, if_pos h3, hn, List.getD_cons_succ]
        congr 1; omega
      · have h3 : ¬ (a ≤ j ∧ j < a + (r.length + 1)) := by omega
        rw [if_neg h2, if_neg h3, if_neg h1]

/-- A byte outside the written range is as before. -/
theorem mget_writeBytes_out (m : Mem) (a : Nat) (bs : List Byte) (j : Nat) (h : j < a ∨ a + bs.length ≤ j) :
    mget 0 (writeBytes m a bs) j = mget 0 m j := by
  rw [mget_writeBytes, if_neg]; omega

end Sys2Proof.Machine
end

