-- ==== Sys2Proof/Laws/State.lean ====
section
/-!
SUPPORT. Fields after each named update of the state, and reads after it: one lemma per field per update, true by definition.
-/
namespace Sys2Proof.Machine

section
variable (s : State)

/-! ### setFace -/

@[simp] theorem setFace_pending (u : Nat) (f : Face) : (setFace s u f).pending = s.pending := rfl
@[simp] theorem setFace_free (u : Nat) (f : Face) : (setFace s u f).free = s.free := rfl
@[simp] theorem setFace_ns (u : Nat) (f : Face) : (setFace s u f).ns = s.ns := rfl
@[simp] theorem setFace_halyard (u : Nat) (f : Face) : (setFace s u f).halyard = s.halyard := rfl
@[simp] theorem setFace_fuses (u : Nat) (f : Face) : (setFace s u f).fuses = s.fuses := rfl
@[simp] theorem setFace_pins (u : Nat) (f : Face) : (setFace s u f).pins = s.pins := rfl
@[simp] theorem setFace_aon (u : Nat) (f : Face) : (setFace s u f).aon = s.aon := rfl
@[simp] theorem setFace_dev (u : Nat) (f : Face) : (setFace s u f).dev = s.dev := rfl
@[simp] theorem setFace_pwr (u : Nat) (f : Face) : (setFace s u f).pwr = s.pwr := rfl
@[simp] theorem setFace_syn (u : Nat) (f : Face) : (setFace s u f).syn = s.syn := rfl
@[simp] theorem setFace_dbg (u : Nat) (f : Face) : (setFace s u f).dbg = s.dbg := rfl
@[simp] theorem setFace_hst (u : Nat) (f : Face) : (setFace s u f).hst = s.hst := rfl
@[simp] theorem setFace_tab (u : Nat) (f : Face) : (setFace s u f).tab = s.tab := rfl
@[simp] theorem setFace_tick (u : Nat) (f : Face) : (setFace s u f).tick = s.tick := rfl
@[simp] theorem setFace_ctab (u : Nat) (f : Face) : (setFace s u f).ctab = s.ctab := rfl
@[simp] theorem setFace_ctxs (u : Nat) (f : Face) : (setFace s u f).ctxs = s.ctxs := rfl
@[simp] theorem setFace_buckets (u : Nat) (f : Face) : (setFace s u f).buckets = s.buckets := rfl
@[simp] theorem setFace_faces (u : Nat) (f : Face) : (setFace s u f).faces = mput {} s.faces u f := rfl
@[simp] theorem setFace_gangs (u : Nat) (f : Face) : (setFace s u f).gangs = s.gangs := rfl
@[simp] theorem setFace_cores (u : Nat) (f : Face) : (setFace s u f).cores = s.cores := rfl
@[simp] theorem setFace_saved (u : Nat) (f : Face) : (setFace s u f).saved = s.saved := rfl
@[simp] theorem setFace_riddles (u : Nat) (f : Face) : (setFace s u f).riddles = s.riddles := rfl
@[simp] theorem setFace_rdl (u : Nat) (f : Face) : (setFace s u f).rdl = s.rdl := rfl
@[simp] theorem setFace_tramways (u : Nat) (f : Face) : (setFace s u f).tramways = s.tramways := rfl
@[simp] theorem setFace_tir (u : Nat) (f : Face) : (setFace s u f).tir = s.tir := rfl
@[simp] theorem setFace_bpm (u : Nat) (f : Face) : (setFace s u f).bpm = s.bpm := rfl
@[simp] theorem setFace_bench1 (u : Nat) (f : Face) : (setFace s u f).bench1 = s.bench1 := rfl
@[simp] theorem setFace_chk (u : Nat) (f : Face) : (setFace s u f).chk = s.chk := rfl
@[simp] theorem setFace_hbms (u : Nat) (f : Face) : (setFace s u f).hbms = s.hbms := rfl
@[simp] theorem setFace_yard (u : Nat) (f : Face) : (setFace s u f).yard = s.yard := rfl
@[simp] theorem setFace_adits (u : Nat) (f : Face) : (setFace s u f).adits = s.adits := rfl
@[simp] theorem setFace_fab (u : Nat) (f : Face) : (setFace s u f).fab = s.fab := rfl
@[simp] theorem setFace_lines (u : Nat) (f : Face) : (setFace s u f).lines = s.lines := rfl
@[simp] theorem setFace_colls (u : Nat) (f : Face) : (setFace s u f).colls = s.colls := rfl
@[simp] theorem setFace_cgroups (u : Nat) (f : Face) : (setFace s u f).cgroups = s.cgroups := rfl
@[simp] theorem setFace_drg (u : Nat) (f : Face) : (setFace s u f).drg = s.drg := rfl
@[simp] theorem setFace_evt (u : Nat) (f : Face) : (setFace s u f).evt = s.evt := rfl

/-! ### setGangFace -/

@[simp] theorem setGangFace_pending (g : Nat) (f : GangFace) : (setGangFace s g f).pending = s.pending := rfl
@[simp] theorem setGangFace_free (g : Nat) (f : GangFace) : (setGangFace s g f).free = s.free := rfl
@[simp] theorem setGangFace_ns (g : Nat) (f : GangFace) : (setGangFace s g f).ns = s.ns := rfl
@[simp] theorem setGangFace_halyard (g : Nat) (f : GangFace) : (setGangFace s g f).halyard = s.halyard := rfl
@[simp] theorem setGangFace_fuses (g : Nat) (f : GangFace) : (setGangFace s g f).fuses = s.fuses := rfl
@[simp] theorem setGangFace_pins (g : Nat) (f : GangFace) : (setGangFace s g f).pins = s.pins := rfl
@[simp] theorem setGangFace_aon (g : Nat) (f : GangFace) : (setGangFace s g f).aon = s.aon := rfl
@[simp] theorem setGangFace_dev (g : Nat) (f : GangFace) : (setGangFace s g f).dev = s.dev := rfl
@[simp] theorem setGangFace_pwr (g : Nat) (f : GangFace) : (setGangFace s g f).pwr = s.pwr := rfl
@[simp] theorem setGangFace_syn (g : Nat) (f : GangFace) : (setGangFace s g f).syn = s.syn := rfl
@[simp] theorem setGangFace_dbg (g : Nat) (f : GangFace) : (setGangFace s g f).dbg = s.dbg := rfl
@[simp] theorem setGangFace_hst (g : Nat) (f : GangFace) : (setGangFace s g f).hst = s.hst := rfl
@[simp] theorem setGangFace_tab (g : Nat) (f : GangFace) : (setGangFace s g f).tab = s.tab := rfl
@[simp] theorem setGangFace_tick (g : Nat) (f : GangFace) : (setGangFace s g f).tick = s.tick := rfl
@[simp] theorem setGangFace_ctab (g : Nat) (f : GangFace) : (setGangFace s g f).ctab = s.ctab := rfl
@[simp] theorem setGangFace_ctxs (g : Nat) (f : GangFace) : (setGangFace s g f).ctxs = s.ctxs := rfl
@[simp] theorem setGangFace_buckets (g : Nat) (f : GangFace) : (setGangFace s g f).buckets = s.buckets := rfl
@[simp] theorem setGangFace_faces (g : Nat) (f : GangFace) : (setGangFace s g f).faces = s.faces := rfl
@[simp] theorem setGangFace_gangs (g : Nat) (f : GangFace) : (setGangFace s g f).gangs = mput {} s.gangs g f := rfl
@[simp] theorem setGangFace_cores (g : Nat) (f : GangFace) : (setGangFace s g f).cores = s.cores := rfl
@[simp] theorem setGangFace_saved (g : Nat) (f : GangFace) : (setGangFace s g f).saved = s.saved := rfl
@[simp] theorem setGangFace_riddles (g : Nat) (f : GangFace) : (setGangFace s g f).riddles = s.riddles := rfl
@[simp] theorem setGangFace_rdl (g : Nat) (f : GangFace) : (setGangFace s g f).rdl = s.rdl := rfl
@[simp] theorem setGangFace_tramways (g : Nat) (f : GangFace) : (setGangFace s g f).tramways = s.tramways := rfl
@[simp] theorem setGangFace_tir (g : Nat) (f : GangFace) : (setGangFace s g f).tir = s.tir := rfl
@[simp] theorem setGangFace_bpm (g : Nat) (f : GangFace) : (setGangFace s g f).bpm = s.bpm := rfl
@[simp] theorem setGangFace_bench1 (g : Nat) (f : GangFace) : (setGangFace s g f).bench1 = s.bench1 := rfl
@[simp] theorem setGangFace_chk (g : Nat) (f : GangFace) : (setGangFace s g f).chk = s.chk := rfl
@[simp] theorem setGangFace_hbms (g : Nat) (f : GangFace) : (setGangFace s g f).hbms = s.hbms := rfl
@[simp] theorem setGangFace_yard (g : Nat) (f : GangFace) : (setGangFace s g f).yard = s.yard := rfl
@[simp] theorem setGangFace_adits (g : Nat) (f : GangFace) : (setGangFace s g f).adits = s.adits := rfl
@[simp] theorem setGangFace_fab (g : Nat) (f : GangFace) : (setGangFace s g f).fab = s.fab := rfl
@[simp] theorem setGangFace_lines (g : Nat) (f : GangFace) : (setGangFace s g f).lines = s.lines := rfl
@[simp] theorem setGangFace_colls (g : Nat) (f : GangFace) : (setGangFace s g f).colls = s.colls := rfl
@[simp] theorem setGangFace_cgroups (g : Nat) (f : GangFace) : (setGangFace s g f).cgroups = s.cgroups := rfl
@[simp] theorem setGangFace_drg (g : Nat) (f : GangFace) : (setGangFace s g f).drg = s.drg := rfl
@[simp] theorem setGangFace_evt (g : Nat) (f : GangFace) : (setGangFace s g f).evt = s.evt := rfl

/-! ### setCore -/

@[simp] theorem setCore_pending (k : Nat) (c : Core) : (setCore s k c).pending = s.pending := rfl
@[simp] theorem setCore_free (k : Nat) (c : Core) : (setCore s k c).free = s.free := rfl
@[simp] theorem setCore_ns (k : Nat) (c : Core) : (setCore s k c).ns = s.ns := rfl
@[simp] theorem setCore_halyard (k : Nat) (c : Core) : (setCore s k c).halyard = s.halyard := rfl
@[simp] theorem setCore_fuses (k : Nat) (c : Core) : (setCore s k c).fuses = s.fuses := rfl
@[simp] theorem setCore_pins (k : Nat) (c : Core) : (setCore s k c).pins = s.pins := rfl
@[simp] theorem setCore_aon (k : Nat) (c : Core) : (setCore s k c).aon = s.aon := rfl
@[simp] theorem setCore_dev (k : Nat) (c : Core) : (setCore s k c).dev = s.dev := rfl
@[simp] theorem setCore_pwr (k : Nat) (c : Core) : (setCore s k c).pwr = s.pwr := rfl
@[simp] theorem setCore_syn (k : Nat) (c : Core) : (setCore s k c).syn = s.syn := rfl
@[simp] theorem setCore_dbg (k : Nat) (c : Core) : (setCore s k c).dbg = s.dbg := rfl
@[simp] theorem setCore_hst (k : Nat) (c : Core) : (setCore s k c).hst = s.hst := rfl
@[simp] theorem setCore_tab (k : Nat) (c : Core) : (setCore s k c).tab = s.tab := rfl
@[simp] theorem setCore_tick (k : Nat) (c : Core) : (setCore s k c).tick = s.tick := rfl
@[simp] theorem setCore_ctab (k : Nat) (c : Core) : (setCore s k c).ctab = s.ctab := rfl
@[simp] theorem setCore_ctxs (k : Nat) (c : Core) : (setCore s k c).ctxs = s.ctxs := rfl
@[simp] theorem setCore_buckets (k : Nat) (c : Core) : (setCore s k c).buckets = s.buckets := rfl
@[simp] theorem setCore_faces (k : Nat) (c : Core) : (setCore s k c).faces = s.faces := rfl
@[simp] theorem setCore_gangs (k : Nat) (c : Core) : (setCore s k c).gangs = s.gangs := rfl
@[simp] theorem setCore_cores (k : Nat) (c : Core) : (setCore s k c).cores = mput {} s.cores k c := rfl
@[simp] theorem setCore_saved (k : Nat) (c : Core) : (setCore s k c).saved = s.saved := rfl
@[simp] theorem setCore_riddles (k : Nat) (c : Core) : (setCore s k c).riddles = s.riddles := rfl
@[simp] theorem setCore_rdl (k : Nat) (c : Core) : (setCore s k c).rdl = s.rdl := rfl
@[simp] theorem setCore_tramways (k : Nat) (c : Core) : (setCore s k c).tramways = s.tramways := rfl
@[simp] theorem setCore_tir (k : Nat) (c : Core) : (setCore s k c).tir = s.tir := rfl
@[simp] theorem setCore_bpm (k : Nat) (c : Core) : (setCore s k c).bpm = s.bpm := rfl
@[simp] theorem setCore_bench1 (k : Nat) (c : Core) : (setCore s k c).bench1 = s.bench1 := rfl
@[simp] theorem setCore_chk (k : Nat) (c : Core) : (setCore s k c).chk = s.chk := rfl
@[simp] theorem setCore_hbms (k : Nat) (c : Core) : (setCore s k c).hbms = s.hbms := rfl
@[simp] theorem setCore_yard (k : Nat) (c : Core) : (setCore s k c).yard = s.yard := rfl
@[simp] theorem setCore_adits (k : Nat) (c : Core) : (setCore s k c).adits = s.adits := rfl
@[simp] theorem setCore_fab (k : Nat) (c : Core) : (setCore s k c).fab = s.fab := rfl
@[simp] theorem setCore_lines (k : Nat) (c : Core) : (setCore s k c).lines = s.lines := rfl
@[simp] theorem setCore_colls (k : Nat) (c : Core) : (setCore s k c).colls = s.colls := rfl
@[simp] theorem setCore_cgroups (k : Nat) (c : Core) : (setCore s k c).cgroups = s.cgroups := rfl
@[simp] theorem setCore_drg (k : Nat) (c : Core) : (setCore s k c).drg = s.drg := rfl
@[simp] theorem setCore_evt (k : Nat) (c : Core) : (setCore s k c).evt = s.evt := rfl

/-! ### setCtx -/

@[simp] theorem setCtx_pending (c : Nat) (x : Ctx) : (setCtx s c x).pending = s.pending := rfl
@[simp] theorem setCtx_free (c : Nat) (x : Ctx) : (setCtx s c x).free = s.free := rfl
@[simp] theorem setCtx_ns (c : Nat) (x : Ctx) : (setCtx s c x).ns = s.ns := rfl
@[simp] theorem setCtx_halyard (c : Nat) (x : Ctx) : (setCtx s c x).halyard = s.halyard := rfl
@[simp] theorem setCtx_fuses (c : Nat) (x : Ctx) : (setCtx s c x).fuses = s.fuses := rfl
@[simp] theorem setCtx_pins (c : Nat) (x : Ctx) : (setCtx s c x).pins = s.pins := rfl
@[simp] theorem setCtx_aon (c : Nat) (x : Ctx) : (setCtx s c x).aon = s.aon := rfl
@[simp] theorem setCtx_dev (c : Nat) (x : Ctx) : (setCtx s c x).dev = s.dev := rfl
@[simp] theorem setCtx_pwr (c : Nat) (x : Ctx) : (setCtx s c x).pwr = s.pwr := rfl
@[simp] theorem setCtx_syn (c : Nat) (x : Ctx) : (setCtx s c x).syn = s.syn := rfl
@[simp] theorem setCtx_dbg (c : Nat) (x : Ctx) : (setCtx s c x).dbg = s.dbg := rfl
@[simp] theorem setCtx_hst (c : Nat) (x : Ctx) : (setCtx s c x).hst = s.hst := rfl
@[simp] theorem setCtx_tab (c : Nat) (x : Ctx) : (setCtx s c x).tab = s.tab := rfl
@[simp] theorem setCtx_tick (c : Nat) (x : Ctx) : (setCtx s c x).tick = s.tick := rfl
@[simp] theorem setCtx_ctab (c : Nat) (x : Ctx) : (setCtx s c x).ctab = s.ctab := rfl
@[simp] theorem setCtx_ctxs (c : Nat) (x : Ctx) : (setCtx s c x).ctxs = mput {} s.ctxs c x := rfl
@[simp] theorem setCtx_buckets (c : Nat) (x : Ctx) : (setCtx s c x).buckets = s.buckets := rfl
@[simp] theorem setCtx_faces (c : Nat) (x : Ctx) : (setCtx s c x).faces = s.faces := rfl
@[simp] theorem setCtx_gangs (c : Nat) (x : Ctx) : (setCtx s c x).gangs = s.gangs := rfl
@[simp] theorem setCtx_cores (c : Nat) (x : Ctx) : (setCtx s c x).cores = s.cores := rfl
@[simp] theorem setCtx_saved (c : Nat) (x : Ctx) : (setCtx s c x).saved = s.saved := rfl
@[simp] theorem setCtx_riddles (c : Nat) (x : Ctx) : (setCtx s c x).riddles = s.riddles := rfl
@[simp] theorem setCtx_rdl (c : Nat) (x : Ctx) : (setCtx s c x).rdl = s.rdl := rfl
@[simp] theorem setCtx_tramways (c : Nat) (x : Ctx) : (setCtx s c x).tramways = s.tramways := rfl
@[simp] theorem setCtx_tir (c : Nat) (x : Ctx) : (setCtx s c x).tir = s.tir := rfl
@[simp] theorem setCtx_bpm (c : Nat) (x : Ctx) : (setCtx s c x).bpm = s.bpm := rfl
@[simp] theorem setCtx_bench1 (c : Nat) (x : Ctx) : (setCtx s c x).bench1 = s.bench1 := rfl
@[simp] theorem setCtx_chk (c : Nat) (x : Ctx) : (setCtx s c x).chk = s.chk := rfl
@[simp] theorem setCtx_hbms (c : Nat) (x : Ctx) : (setCtx s c x).hbms = s.hbms := rfl
@[simp] theorem setCtx_yard (c : Nat) (x : Ctx) : (setCtx s c x).yard = s.yard := rfl
@[simp] theorem setCtx_adits (c : Nat) (x : Ctx) : (setCtx s c x).adits = s.adits := rfl
@[simp] theorem setCtx_fab (c : Nat) (x : Ctx) : (setCtx s c x).fab = s.fab := rfl
@[simp] theorem setCtx_lines (c : Nat) (x : Ctx) : (setCtx s c x).lines = s.lines := rfl
@[simp] theorem setCtx_colls (c : Nat) (x : Ctx) : (setCtx s c x).colls = s.colls := rfl
@[simp] theorem setCtx_cgroups (c : Nat) (x : Ctx) : (setCtx s c x).cgroups = s.cgroups := rfl
@[simp] theorem setCtx_drg (c : Nat) (x : Ctx) : (setCtx s c x).drg = s.drg := rfl
@[simp] theorem setCtx_evt (c : Nat) (x : Ctx) : (setCtx s c x).evt = s.evt := rfl

/-! ### setRiddle -/

@[simp] theorem setRiddle_pending (e : Nat) (r : Riddle) : (setRiddle s e r).pending = s.pending := rfl
@[simp] theorem setRiddle_free (e : Nat) (r : Riddle) : (setRiddle s e r).free = s.free := rfl
@[simp] theorem setRiddle_ns (e : Nat) (r : Riddle) : (setRiddle s e r).ns = s.ns := rfl
@[simp] theorem setRiddle_halyard (e : Nat) (r : Riddle) : (setRiddle s e r).halyard = s.halyard := rfl
@[simp] theorem setRiddle_fuses (e : Nat) (r : Riddle) : (setRiddle s e r).fuses = s.fuses := rfl
@[simp] theorem setRiddle_pins (e : Nat) (r : Riddle) : (setRiddle s e r).pins = s.pins := rfl
@[simp] theorem setRiddle_aon (e : Nat) (r : Riddle) : (setRiddle s e r).aon = s.aon := rfl
@[simp] theorem setRiddle_dev (e : Nat) (r : Riddle) : (setRiddle s e r).dev = s.dev := rfl
@[simp] theorem setRiddle_pwr (e : Nat) (r : Riddle) : (setRiddle s e r).pwr = s.pwr := rfl
@[simp] theorem setRiddle_syn (e : Nat) (r : Riddle) : (setRiddle s e r).syn = s.syn := rfl
@[simp] theorem setRiddle_dbg (e : Nat) (r : Riddle) : (setRiddle s e r).dbg = s.dbg := rfl
@[simp] theorem setRiddle_hst (e : Nat) (r : Riddle) : (setRiddle s e r).hst = s.hst := rfl
@[simp] theorem setRiddle_tab (e : Nat) (r : Riddle) : (setRiddle s e r).tab = s.tab := rfl
@[simp] theorem setRiddle_tick (e : Nat) (r : Riddle) : (setRiddle s e r).tick = s.tick := rfl
@[simp] theorem setRiddle_ctab (e : Nat) (r : Riddle) : (setRiddle s e r).ctab = s.ctab := rfl
@[simp] theorem setRiddle_ctxs (e : Nat) (r : Riddle) : (setRiddle s e r).ctxs = s.ctxs := rfl
@[simp] theorem setRiddle_buckets (e : Nat) (r : Riddle) : (setRiddle s e r).buckets = s.buckets := rfl
@[simp] theorem setRiddle_faces (e : Nat) (r : Riddle) : (setRiddle s e r).faces = s.faces := rfl
@[simp] theorem setRiddle_gangs (e : Nat) (r : Riddle) : (setRiddle s e r).gangs = s.gangs := rfl
@[simp] theorem setRiddle_cores (e : Nat) (r : Riddle) : (setRiddle s e r).cores = s.cores := rfl
@[simp] theorem setRiddle_saved (e : Nat) (r : Riddle) : (setRiddle s e r).saved = s.saved := rfl
@[simp] theorem setRiddle_riddles (e : Nat) (r : Riddle) : (setRiddle s e r).riddles = mput {} s.riddles e r := rfl
@[simp] theorem setRiddle_rdl (e : Nat) (r : Riddle) : (setRiddle s e r).rdl = s.rdl := rfl
@[simp] theorem setRiddle_tramways (e : Nat) (r : Riddle) : (setRiddle s e r).tramways = s.tramways := rfl
@[simp] theorem setRiddle_tir (e : Nat) (r : Riddle) : (setRiddle s e r).tir = s.tir := rfl
@[simp] theorem setRiddle_bpm (e : Nat) (r : Riddle) : (setRiddle s e r).bpm = s.bpm := rfl
@[simp] theorem setRiddle_bench1 (e : Nat) (r : Riddle) : (setRiddle s e r).bench1 = s.bench1 := rfl
@[simp] theorem setRiddle_chk (e : Nat) (r : Riddle) : (setRiddle s e r).chk = s.chk := rfl
@[simp] theorem setRiddle_hbms (e : Nat) (r : Riddle) : (setRiddle s e r).hbms = s.hbms := rfl
@[simp] theorem setRiddle_yard (e : Nat) (r : Riddle) : (setRiddle s e r).yard = s.yard := rfl
@[simp] theorem setRiddle_adits (e : Nat) (r : Riddle) : (setRiddle s e r).adits = s.adits := rfl
@[simp] theorem setRiddle_fab (e : Nat) (r : Riddle) : (setRiddle s e r).fab = s.fab := rfl
@[simp] theorem setRiddle_lines (e : Nat) (r : Riddle) : (setRiddle s e r).lines = s.lines := rfl
@[simp] theorem setRiddle_colls (e : Nat) (r : Riddle) : (setRiddle s e r).colls = s.colls := rfl
@[simp] theorem setRiddle_cgroups (e : Nat) (r : Riddle) : (setRiddle s e r).cgroups = s.cgroups := rfl
@[simp] theorem setRiddle_drg (e : Nat) (r : Riddle) : (setRiddle s e r).drg = s.drg := rfl
@[simp] theorem setRiddle_evt (e : Nat) (r : Riddle) : (setRiddle s e r).evt = s.evt := rfl

/-! ### setTrw -/

@[simp] theorem setTrw_pending (t : Nat) (w : Tramway) : (setTrw s t w).pending = s.pending := rfl
@[simp] theorem setTrw_free (t : Nat) (w : Tramway) : (setTrw s t w).free = s.free := rfl
@[simp] theorem setTrw_ns (t : Nat) (w : Tramway) : (setTrw s t w).ns = s.ns := rfl
@[simp] theorem setTrw_halyard (t : Nat) (w : Tramway) : (setTrw s t w).halyard = s.halyard := rfl
@[simp] theorem setTrw_fuses (t : Nat) (w : Tramway) : (setTrw s t w).fuses = s.fuses := rfl
@[simp] theorem setTrw_pins (t : Nat) (w : Tramway) : (setTrw s t w).pins = s.pins := rfl
@[simp] theorem setTrw_aon (t : Nat) (w : Tramway) : (setTrw s t w).aon = s.aon := rfl
@[simp] theorem setTrw_dev (t : Nat) (w : Tramway) : (setTrw s t w).dev = s.dev := rfl
@[simp] theorem setTrw_pwr (t : Nat) (w : Tramway) : (setTrw s t w).pwr = s.pwr := rfl
@[simp] theorem setTrw_syn (t : Nat) (w : Tramway) : (setTrw s t w).syn = s.syn := rfl
@[simp] theorem setTrw_dbg (t : Nat) (w : Tramway) : (setTrw s t w).dbg = s.dbg := rfl
@[simp] theorem setTrw_hst (t : Nat) (w : Tramway) : (setTrw s t w).hst = s.hst := rfl
@[simp] theorem setTrw_tab (t : Nat) (w : Tramway) : (setTrw s t w).tab = s.tab := rfl
@[simp] theorem setTrw_tick (t : Nat) (w : Tramway) : (setTrw s t w).tick = s.tick := rfl
@[simp] theorem setTrw_ctab (t : Nat) (w : Tramway) : (setTrw s t w).ctab = s.ctab := rfl
@[simp] theorem setTrw_ctxs (t : Nat) (w : Tramway) : (setTrw s t w).ctxs = s.ctxs := rfl
@[simp] theorem setTrw_buckets (t : Nat) (w : Tramway) : (setTrw s t w).buckets = s.buckets := rfl
@[simp] theorem setTrw_faces (t : Nat) (w : Tramway) : (setTrw s t w).faces = s.faces := rfl
@[simp] theorem setTrw_gangs (t : Nat) (w : Tramway) : (setTrw s t w).gangs = s.gangs := rfl
@[simp] theorem setTrw_cores (t : Nat) (w : Tramway) : (setTrw s t w).cores = s.cores := rfl
@[simp] theorem setTrw_saved (t : Nat) (w : Tramway) : (setTrw s t w).saved = s.saved := rfl
@[simp] theorem setTrw_riddles (t : Nat) (w : Tramway) : (setTrw s t w).riddles = s.riddles := rfl
@[simp] theorem setTrw_rdl (t : Nat) (w : Tramway) : (setTrw s t w).rdl = s.rdl := rfl
@[simp] theorem setTrw_tramways (t : Nat) (w : Tramway) : (setTrw s t w).tramways = mput {} s.tramways t w := rfl
@[simp] theorem setTrw_tir (t : Nat) (w : Tramway) : (setTrw s t w).tir = s.tir := rfl
@[simp] theorem setTrw_bpm (t : Nat) (w : Tramway) : (setTrw s t w).bpm = s.bpm := rfl
@[simp] theorem setTrw_bench1 (t : Nat) (w : Tramway) : (setTrw s t w).bench1 = s.bench1 := rfl
@[simp] theorem setTrw_chk (t : Nat) (w : Tramway) : (setTrw s t w).chk = s.chk := rfl
@[simp] theorem setTrw_hbms (t : Nat) (w : Tramway) : (setTrw s t w).hbms = s.hbms := rfl
@[simp] theorem setTrw_yard (t : Nat) (w : Tramway) : (setTrw s t w).yard = s.yard := rfl
@[simp] theorem setTrw_adits (t : Nat) (w : Tramway) : (setTrw s t w).adits = s.adits := rfl
@[simp] theorem setTrw_fab (t : Nat) (w : Tramway) : (setTrw s t w).fab = s.fab := rfl
@[simp] theorem setTrw_lines (t : Nat) (w : Tramway) : (setTrw s t w).lines = s.lines := rfl
@[simp] theorem setTrw_colls (t : Nat) (w : Tramway) : (setTrw s t w).colls = s.colls := rfl
@[simp] theorem setTrw_cgroups (t : Nat) (w : Tramway) : (setTrw s t w).cgroups = s.cgroups := rfl
@[simp] theorem setTrw_drg (t : Nat) (w : Tramway) : (setTrw s t w).drg = s.drg := rfl
@[simp] theorem setTrw_evt (t : Nat) (w : Tramway) : (setTrw s t w).evt = s.evt := rfl

/-! ### setHbm -/

@[simp] theorem setHbm_pending (n : Nat) (h : Hbm) : (setHbm s n h).pending = s.pending := rfl
@[simp] theorem setHbm_free (n : Nat) (h : Hbm) : (setHbm s n h).free = s.free := rfl
@[simp] theorem setHbm_ns (n : Nat) (h : Hbm) : (setHbm s n h).ns = s.ns := rfl
@[simp] theorem setHbm_halyard (n : Nat) (h : Hbm) : (setHbm s n h).halyard = s.halyard := rfl
@[simp] theorem setHbm_fuses (n : Nat) (h : Hbm) : (setHbm s n h).fuses = s.fuses := rfl
@[simp] theorem setHbm_pins (n : Nat) (h : Hbm) : (setHbm s n h).pins = s.pins := rfl
@[simp] theorem setHbm_aon (n : Nat) (h : Hbm) : (setHbm s n h).aon = s.aon := rfl
@[simp] theorem setHbm_dev (n : Nat) (h : Hbm) : (setHbm s n h).dev = s.dev := rfl
@[simp] theorem setHbm_pwr (n : Nat) (h : Hbm) : (setHbm s n h).pwr = s.pwr := rfl
@[simp] theorem setHbm_syn (n : Nat) (h : Hbm) : (setHbm s n h).syn = s.syn := rfl
@[simp] theorem setHbm_dbg (n : Nat) (h : Hbm) : (setHbm s n h).dbg = s.dbg := rfl
@[simp] theorem setHbm_hst (n : Nat) (h : Hbm) : (setHbm s n h).hst = s.hst := rfl
@[simp] theorem setHbm_tab (n : Nat) (h : Hbm) : (setHbm s n h).tab = s.tab := rfl
@[simp] theorem setHbm_tick (n : Nat) (h : Hbm) : (setHbm s n h).tick = s.tick := rfl
@[simp] theorem setHbm_ctab (n : Nat) (h : Hbm) : (setHbm s n h).ctab = s.ctab := rfl
@[simp] theorem setHbm_ctxs (n : Nat) (h : Hbm) : (setHbm s n h).ctxs = s.ctxs := rfl
@[simp] theorem setHbm_buckets (n : Nat) (h : Hbm) : (setHbm s n h).buckets = s.buckets := rfl
@[simp] theorem setHbm_faces (n : Nat) (h : Hbm) : (setHbm s n h).faces = s.faces := rfl
@[simp] theorem setHbm_gangs (n : Nat) (h : Hbm) : (setHbm s n h).gangs = s.gangs := rfl
@[simp] theorem setHbm_cores (n : Nat) (h : Hbm) : (setHbm s n h).cores = s.cores := rfl
@[simp] theorem setHbm_saved (n : Nat) (h : Hbm) : (setHbm s n h).saved = s.saved := rfl
@[simp] theorem setHbm_riddles (n : Nat) (h : Hbm) : (setHbm s n h).riddles = s.riddles := rfl
@[simp] theorem setHbm_rdl (n : Nat) (h : Hbm) : (setHbm s n h).rdl = s.rdl := rfl
@[simp] theorem setHbm_tramways (n : Nat) (h : Hbm) : (setHbm s n h).tramways = s.tramways := rfl
@[simp] theorem setHbm_tir (n : Nat) (h : Hbm) : (setHbm s n h).tir = s.tir := rfl
@[simp] theorem setHbm_bpm (n : Nat) (h : Hbm) : (setHbm s n h).bpm = s.bpm := rfl
@[simp] theorem setHbm_bench1 (n : Nat) (h : Hbm) : (setHbm s n h).bench1 = s.bench1 := rfl
@[simp] theorem setHbm_chk (n : Nat) (h : Hbm) : (setHbm s n h).chk = s.chk := rfl
@[simp] theorem setHbm_hbms (n : Nat) (h : Hbm) : (setHbm s n h).hbms = mput {} s.hbms n h := rfl
@[simp] theorem setHbm_yard (n : Nat) (h : Hbm) : (setHbm s n h).yard = s.yard := rfl
@[simp] theorem setHbm_adits (n : Nat) (h : Hbm) : (setHbm s n h).adits = s.adits := rfl
@[simp] theorem setHbm_fab (n : Nat) (h : Hbm) : (setHbm s n h).fab = s.fab := rfl
@[simp] theorem setHbm_lines (n : Nat) (h : Hbm) : (setHbm s n h).lines = s.lines := rfl
@[simp] theorem setHbm_colls (n : Nat) (h : Hbm) : (setHbm s n h).colls = s.colls := rfl
@[simp] theorem setHbm_cgroups (n : Nat) (h : Hbm) : (setHbm s n h).cgroups = s.cgroups := rfl
@[simp] theorem setHbm_drg (n : Nat) (h : Hbm) : (setHbm s n h).drg = s.drg := rfl
@[simp] theorem setHbm_evt (n : Nat) (h : Hbm) : (setHbm s n h).evt = s.evt := rfl

/-! ### setAdit -/

@[simp] theorem setAdit_pending (a : Nat) (x : Adit) : (setAdit s a x).pending = s.pending := rfl
@[simp] theorem setAdit_free (a : Nat) (x : Adit) : (setAdit s a x).free = s.free := rfl
@[simp] theorem setAdit_ns (a : Nat) (x : Adit) : (setAdit s a x).ns = s.ns := rfl
@[simp] theorem setAdit_halyard (a : Nat) (x : Adit) : (setAdit s a x).halyard = s.halyard := rfl
@[simp] theorem setAdit_fuses (a : Nat) (x : Adit) : (setAdit s a x).fuses = s.fuses := rfl
@[simp] theorem setAdit_pins (a : Nat) (x : Adit) : (setAdit s a x).pins = s.pins := rfl
@[simp] theorem setAdit_aon (a : Nat) (x : Adit) : (setAdit s a x).aon = s.aon := rfl
@[simp] theorem setAdit_dev (a : Nat) (x : Adit) : (setAdit s a x).dev = s.dev := rfl
@[simp] theorem setAdit_pwr (a : Nat) (x : Adit) : (setAdit s a x).pwr = s.pwr := rfl
@[simp] theorem setAdit_syn (a : Nat) (x : Adit) : (setAdit s a x).syn = s.syn := rfl
@[simp] theorem setAdit_dbg (a : Nat) (x : Adit) : (setAdit s a x).dbg = s.dbg := rfl
@[simp] theorem setAdit_hst (a : Nat) (x : Adit) : (setAdit s a x).hst = s.hst := rfl
@[simp] theorem setAdit_tab (a : Nat) (x : Adit) : (setAdit s a x).tab = s.tab := rfl
@[simp] theorem setAdit_tick (a : Nat) (x : Adit) : (setAdit s a x).tick = s.tick := rfl
@[simp] theorem setAdit_ctab (a : Nat) (x : Adit) : (setAdit s a x).ctab = s.ctab := rfl
@[simp] theorem setAdit_ctxs (a : Nat) (x : Adit) : (setAdit s a x).ctxs = s.ctxs := rfl
@[simp] theorem setAdit_buckets (a : Nat) (x : Adit) : (setAdit s a x).buckets = s.buckets := rfl
@[simp] theorem setAdit_faces (a : Nat) (x : Adit) : (setAdit s a x).faces = s.faces := rfl
@[simp] theorem setAdit_gangs (a : Nat) (x : Adit) : (setAdit s a x).gangs = s.gangs := rfl
@[simp] theorem setAdit_cores (a : Nat) (x : Adit) : (setAdit s a x).cores = s.cores := rfl
@[simp] theorem setAdit_saved (a : Nat) (x : Adit) : (setAdit s a x).saved = s.saved := rfl
@[simp] theorem setAdit_riddles (a : Nat) (x : Adit) : (setAdit s a x).riddles = s.riddles := rfl
@[simp] theorem setAdit_rdl (a : Nat) (x : Adit) : (setAdit s a x).rdl = s.rdl := rfl
@[simp] theorem setAdit_tramways (a : Nat) (x : Adit) : (setAdit s a x).tramways = s.tramways := rfl
@[simp] theorem setAdit_tir (a : Nat) (x : Adit) : (setAdit s a x).tir = s.tir := rfl
@[simp] theorem setAdit_bpm (a : Nat) (x : Adit) : (setAdit s a x).bpm = s.bpm := rfl
@[simp] theorem setAdit_bench1 (a : Nat) (x : Adit) : (setAdit s a x).bench1 = s.bench1 := rfl
@[simp] theorem setAdit_chk (a : Nat) (x : Adit) : (setAdit s a x).chk = s.chk := rfl
@[simp] theorem setAdit_hbms (a : Nat) (x : Adit) : (setAdit s a x).hbms = s.hbms := rfl
@[simp] theorem setAdit_yard (a : Nat) (x : Adit) : (setAdit s a x).yard = s.yard := rfl
@[simp] theorem setAdit_adits (a : Nat) (x : Adit) : (setAdit s a x).adits = mput {} s.adits a x := rfl
@[simp] theorem setAdit_fab (a : Nat) (x : Adit) : (setAdit s a x).fab = s.fab := rfl
@[simp] theorem setAdit_lines (a : Nat) (x : Adit) : (setAdit s a x).lines = s.lines := rfl
@[simp] theorem setAdit_colls (a : Nat) (x : Adit) : (setAdit s a x).colls = s.colls := rfl
@[simp] theorem setAdit_cgroups (a : Nat) (x : Adit) : (setAdit s a x).cgroups = s.cgroups := rfl
@[simp] theorem setAdit_drg (a : Nat) (x : Adit) : (setAdit s a x).drg = s.drg := rfl
@[simp] theorem setAdit_evt (a : Nat) (x : Adit) : (setAdit s a x).evt = s.evt := rfl

/-! ### setColl -/

@[simp] theorem setColl_pending (d : Nat) (x : Coll) : (setColl s d x).pending = s.pending := rfl
@[simp] theorem setColl_free (d : Nat) (x : Coll) : (setColl s d x).free = s.free := rfl
@[simp] theorem setColl_ns (d : Nat) (x : Coll) : (setColl s d x).ns = s.ns := rfl
@[simp] theorem setColl_halyard (d : Nat) (x : Coll) : (setColl s d x).halyard = s.halyard := rfl
@[simp] theorem setColl_fuses (d : Nat) (x : Coll) : (setColl s d x).fuses = s.fuses := rfl
@[simp] theorem setColl_pins (d : Nat) (x : Coll) : (setColl s d x).pins = s.pins := rfl
@[simp] theorem setColl_aon (d : Nat) (x : Coll) : (setColl s d x).aon = s.aon := rfl
@[simp] theorem setColl_dev (d : Nat) (x : Coll) : (setColl s d x).dev = s.dev := rfl
@[simp] theorem setColl_pwr (d : Nat) (x : Coll) : (setColl s d x).pwr = s.pwr := rfl
@[simp] theorem setColl_syn (d : Nat) (x : Coll) : (setColl s d x).syn = s.syn := rfl
@[simp] theorem setColl_dbg (d : Nat) (x : Coll) : (setColl s d x).dbg = s.dbg := rfl
@[simp] theorem setColl_hst (d : Nat) (x : Coll) : (setColl s d x).hst = s.hst := rfl
@[simp] theorem setColl_tab (d : Nat) (x : Coll) : (setColl s d x).tab = s.tab := rfl
@[simp] theorem setColl_tick (d : Nat) (x : Coll) : (setColl s d x).tick = s.tick := rfl
@[simp] theorem setColl_ctab (d : Nat) (x : Coll) : (setColl s d x).ctab = s.ctab := rfl
@[simp] theorem setColl_ctxs (d : Nat) (x : Coll) : (setColl s d x).ctxs = s.ctxs := rfl
@[simp] theorem setColl_buckets (d : Nat) (x : Coll) : (setColl s d x).buckets = s.buckets := rfl
@[simp] theorem setColl_faces (d : Nat) (x : Coll) : (setColl s d x).faces = s.faces := rfl
@[simp] theorem setColl_gangs (d : Nat) (x : Coll) : (setColl s d x).gangs = s.gangs := rfl
@[simp] theorem setColl_cores (d : Nat) (x : Coll) : (setColl s d x).cores = s.cores := rfl
@[simp] theorem setColl_saved (d : Nat) (x : Coll) : (setColl s d x).saved = s.saved := rfl
@[simp] theorem setColl_riddles (d : Nat) (x : Coll) : (setColl s d x).riddles = s.riddles := rfl
@[simp] theorem setColl_rdl (d : Nat) (x : Coll) : (setColl s d x).rdl = s.rdl := rfl
@[simp] theorem setColl_tramways (d : Nat) (x : Coll) : (setColl s d x).tramways = s.tramways := rfl
@[simp] theorem setColl_tir (d : Nat) (x : Coll) : (setColl s d x).tir = s.tir := rfl
@[simp] theorem setColl_bpm (d : Nat) (x : Coll) : (setColl s d x).bpm = s.bpm := rfl
@[simp] theorem setColl_bench1 (d : Nat) (x : Coll) : (setColl s d x).bench1 = s.bench1 := rfl
@[simp] theorem setColl_chk (d : Nat) (x : Coll) : (setColl s d x).chk = s.chk := rfl
@[simp] theorem setColl_hbms (d : Nat) (x : Coll) : (setColl s d x).hbms = s.hbms := rfl
@[simp] theorem setColl_yard (d : Nat) (x : Coll) : (setColl s d x).yard = s.yard := rfl
@[simp] theorem setColl_adits (d : Nat) (x : Coll) : (setColl s d x).adits = s.adits := rfl
@[simp] theorem setColl_fab (d : Nat) (x : Coll) : (setColl s d x).fab = s.fab := rfl
@[simp] theorem setColl_lines (d : Nat) (x : Coll) : (setColl s d x).lines = s.lines := rfl
@[simp] theorem setColl_colls (d : Nat) (x : Coll) : (setColl s d x).colls = mput {} s.colls d x := rfl
@[simp] theorem setColl_cgroups (d : Nat) (x : Coll) : (setColl s d x).cgroups = s.cgroups := rfl
@[simp] theorem setColl_drg (d : Nat) (x : Coll) : (setColl s d x).drg = s.drg := rfl
@[simp] theorem setColl_evt (d : Nat) (x : Coll) : (setColl s d x).evt = s.evt := rfl

/-! ### setCGroup -/

@[simp] theorem setCGroup_pending (g : Nat) (x : CGroup) : (setCGroup s g x).pending = s.pending := rfl
@[simp] theorem setCGroup_free (g : Nat) (x : CGroup) : (setCGroup s g x).free = s.free := rfl
@[simp] theorem setCGroup_ns (g : Nat) (x : CGroup) : (setCGroup s g x).ns = s.ns := rfl
@[simp] theorem setCGroup_halyard (g : Nat) (x : CGroup) : (setCGroup s g x).halyard = s.halyard := rfl
@[simp] theorem setCGroup_fuses (g : Nat) (x : CGroup) : (setCGroup s g x).fuses = s.fuses := rfl
@[simp] theorem setCGroup_pins (g : Nat) (x : CGroup) : (setCGroup s g x).pins = s.pins := rfl
@[simp] theorem setCGroup_aon (g : Nat) (x : CGroup) : (setCGroup s g x).aon = s.aon := rfl
@[simp] theorem setCGroup_dev (g : Nat) (x : CGroup) : (setCGroup s g x).dev = s.dev := rfl
@[simp] theorem setCGroup_pwr (g : Nat) (x : CGroup) : (setCGroup s g x).pwr = s.pwr := rfl
@[simp] theorem setCGroup_syn (g : Nat) (x : CGroup) : (setCGroup s g x).syn = s.syn := rfl
@[simp] theorem setCGroup_dbg (g : Nat) (x : CGroup) : (setCGroup s g x).dbg = s.dbg := rfl
@[simp] theorem setCGroup_hst (g : Nat) (x : CGroup) : (setCGroup s g x).hst = s.hst := rfl
@[simp] theorem setCGroup_tab (g : Nat) (x : CGroup) : (setCGroup s g x).tab = s.tab := rfl
@[simp] theorem setCGroup_tick (g : Nat) (x : CGroup) : (setCGroup s g x).tick = s.tick := rfl
@[simp] theorem setCGroup_ctab (g : Nat) (x : CGroup) : (setCGroup s g x).ctab = s.ctab := rfl
@[simp] theorem setCGroup_ctxs (g : Nat) (x : CGroup) : (setCGroup s g x).ctxs = s.ctxs := rfl
@[simp] theorem setCGroup_buckets (g : Nat) (x : CGroup) : (setCGroup s g x).buckets = s.buckets := rfl
@[simp] theorem setCGroup_faces (g : Nat) (x : CGroup) : (setCGroup s g x).faces = s.faces := rfl
@[simp] theorem setCGroup_gangs (g : Nat) (x : CGroup) : (setCGroup s g x).gangs = s.gangs := rfl
@[simp] theorem setCGroup_cores (g : Nat) (x : CGroup) : (setCGroup s g x).cores = s.cores := rfl
@[simp] theorem setCGroup_saved (g : Nat) (x : CGroup) : (setCGroup s g x).saved = s.saved := rfl
@[simp] theorem setCGroup_riddles (g : Nat) (x : CGroup) : (setCGroup s g x).riddles = s.riddles := rfl
@[simp] theorem setCGroup_rdl (g : Nat) (x : CGroup) : (setCGroup s g x).rdl = s.rdl := rfl
@[simp] theorem setCGroup_tramways (g : Nat) (x : CGroup) : (setCGroup s g x).tramways = s.tramways := rfl
@[simp] theorem setCGroup_tir (g : Nat) (x : CGroup) : (setCGroup s g x).tir = s.tir := rfl
@[simp] theorem setCGroup_bpm (g : Nat) (x : CGroup) : (setCGroup s g x).bpm = s.bpm := rfl
@[simp] theorem setCGroup_bench1 (g : Nat) (x : CGroup) : (setCGroup s g x).bench1 = s.bench1 := rfl
@[simp] theorem setCGroup_chk (g : Nat) (x : CGroup) : (setCGroup s g x).chk = s.chk := rfl
@[simp] theorem setCGroup_hbms (g : Nat) (x : CGroup) : (setCGroup s g x).hbms = s.hbms := rfl
@[simp] theorem setCGroup_yard (g : Nat) (x : CGroup) : (setCGroup s g x).yard = s.yard := rfl
@[simp] theorem setCGroup_adits (g : Nat) (x : CGroup) : (setCGroup s g x).adits = s.adits := rfl
@[simp] theorem setCGroup_fab (g : Nat) (x : CGroup) : (setCGroup s g x).fab = s.fab := rfl
@[simp] theorem setCGroup_lines (g : Nat) (x : CGroup) : (setCGroup s g x).lines = s.lines := rfl
@[simp] theorem setCGroup_colls (g : Nat) (x : CGroup) : (setCGroup s g x).colls = s.colls := rfl
@[simp] theorem setCGroup_cgroups (g : Nat) (x : CGroup) : (setCGroup s g x).cgroups = mput {} s.cgroups g x := rfl
@[simp] theorem setCGroup_drg (g : Nat) (x : CGroup) : (setCGroup s g x).drg = s.drg := rfl
@[simp] theorem setCGroup_evt (g : Nat) (x : CGroup) : (setCGroup s g x).evt = s.evt := rfl

/-! ### setPool -/

@[simp] theorem setPool_pending (p : Nat) (x : Pool) : (setPool s p x).pending = s.pending := rfl
@[simp] theorem setPool_free (p : Nat) (x : Pool) : (setPool s p x).free = s.free := rfl
@[simp] theorem setPool_ns (p : Nat) (x : Pool) : (setPool s p x).ns = s.ns := rfl
@[simp] theorem setPool_halyard (p : Nat) (x : Pool) : (setPool s p x).halyard = s.halyard := rfl
@[simp] theorem setPool_fuses (p : Nat) (x : Pool) : (setPool s p x).fuses = s.fuses := rfl
@[simp] theorem setPool_pins (p : Nat) (x : Pool) : (setPool s p x).pins = s.pins := rfl
@[simp] theorem setPool_aon (p : Nat) (x : Pool) : (setPool s p x).aon = s.aon := rfl
@[simp] theorem setPool_dev (p : Nat) (x : Pool) : (setPool s p x).dev = s.dev := rfl
@[simp] theorem setPool_pwr (p : Nat) (x : Pool) : (setPool s p x).pwr = s.pwr := rfl
@[simp] theorem setPool_syn (p : Nat) (x : Pool) : (setPool s p x).syn = s.syn := rfl
@[simp] theorem setPool_dbg (p : Nat) (x : Pool) : (setPool s p x).dbg = s.dbg := rfl
@[simp] theorem setPool_hst (p : Nat) (x : Pool) : (setPool s p x).hst = s.hst := rfl
@[simp] theorem setPool_tab (p : Nat) (x : Pool) : (setPool s p x).tab = s.tab := rfl
@[simp] theorem setPool_tick (p : Nat) (x : Pool) : (setPool s p x).tick = s.tick := rfl
@[simp] theorem setPool_ctab (p : Nat) (x : Pool) : (setPool s p x).ctab = s.ctab := rfl
@[simp] theorem setPool_ctxs (p : Nat) (x : Pool) : (setPool s p x).ctxs = s.ctxs := rfl
@[simp] theorem setPool_buckets (p : Nat) (x : Pool) : (setPool s p x).buckets = s.buckets := rfl
@[simp] theorem setPool_faces (p : Nat) (x : Pool) : (setPool s p x).faces = s.faces := rfl
@[simp] theorem setPool_gangs (p : Nat) (x : Pool) : (setPool s p x).gangs = s.gangs := rfl
@[simp] theorem setPool_cores (p : Nat) (x : Pool) : (setPool s p x).cores = s.cores := rfl
@[simp] theorem setPool_saved (p : Nat) (x : Pool) : (setPool s p x).saved = s.saved := rfl
@[simp] theorem setPool_riddles (p : Nat) (x : Pool) : (setPool s p x).riddles = s.riddles := rfl
@[simp] theorem setPool_rdl (p : Nat) (x : Pool) : (setPool s p x).rdl = s.rdl := rfl
@[simp] theorem setPool_tramways (p : Nat) (x : Pool) : (setPool s p x).tramways = s.tramways := rfl
@[simp] theorem setPool_tir (p : Nat) (x : Pool) : (setPool s p x).tir = s.tir := rfl
@[simp] theorem setPool_bpm (p : Nat) (x : Pool) : (setPool s p x).bpm = { s.bpm with pools := mput {} s.bpm.pools p x } := rfl
@[simp] theorem setPool_bench1 (p : Nat) (x : Pool) : (setPool s p x).bench1 = s.bench1 := rfl
@[simp] theorem setPool_chk (p : Nat) (x : Pool) : (setPool s p x).chk = s.chk := rfl
@[simp] theorem setPool_hbms (p : Nat) (x : Pool) : (setPool s p x).hbms = s.hbms := rfl
@[simp] theorem setPool_yard (p : Nat) (x : Pool) : (setPool s p x).yard = s.yard := rfl
@[simp] theorem setPool_adits (p : Nat) (x : Pool) : (setPool s p x).adits = s.adits := rfl
@[simp] theorem setPool_fab (p : Nat) (x : Pool) : (setPool s p x).fab = s.fab := rfl
@[simp] theorem setPool_lines (p : Nat) (x : Pool) : (setPool s p x).lines = s.lines := rfl
@[simp] theorem setPool_colls (p : Nat) (x : Pool) : (setPool s p x).colls = s.colls := rfl
@[simp] theorem setPool_cgroups (p : Nat) (x : Pool) : (setPool s p x).cgroups = s.cgroups := rfl
@[simp] theorem setPool_drg (p : Nat) (x : Pool) : (setPool s p x).drg = s.drg := rfl
@[simp] theorem setPool_evt (p : Nat) (x : Pool) : (setPool s p x).evt = s.evt := rfl

/-! ### setBucket -/

@[simp] theorem setBucket_pending (p l : Nat) (b : Bucket) : (setBucket s p l b).pending = s.pending := rfl
@[simp] theorem setBucket_free (p l : Nat) (b : Bucket) : (setBucket s p l b).free = s.free := rfl
@[simp] theorem setBucket_ns (p l : Nat) (b : Bucket) : (setBucket s p l b).ns = s.ns := rfl
@[simp] theorem setBucket_halyard (p l : Nat) (b : Bucket) : (setBucket s p l b).halyard = s.halyard := rfl
@[simp] theorem setBucket_fuses (p l : Nat) (b : Bucket) : (setBucket s p l b).fuses = s.fuses := rfl
@[simp] theorem setBucket_pins (p l : Nat) (b : Bucket) : (setBucket s p l b).pins = s.pins := rfl
@[simp] theorem setBucket_aon (p l : Nat) (b : Bucket) : (setBucket s p l b).aon = s.aon := rfl
@[simp] theorem setBucket_dev (p l : Nat) (b : Bucket) : (setBucket s p l b).dev = s.dev := rfl
@[simp] theorem setBucket_pwr (p l : Nat) (b : Bucket) : (setBucket s p l b).pwr = s.pwr := rfl
@[simp] theorem setBucket_syn (p l : Nat) (b : Bucket) : (setBucket s p l b).syn = s.syn := rfl
@[simp] theorem setBucket_dbg (p l : Nat) (b : Bucket) : (setBucket s p l b).dbg = s.dbg := rfl
@[simp] theorem setBucket_hst (p l : Nat) (b : Bucket) : (setBucket s p l b).hst = s.hst := rfl
@[simp] theorem setBucket_tab (p l : Nat) (b : Bucket) : (setBucket s p l b).tab = s.tab := rfl
@[simp] theorem setBucket_tick (p l : Nat) (b : Bucket) : (setBucket s p l b).tick = s.tick := rfl
@[simp] theorem setBucket_ctab (p l : Nat) (b : Bucket) : (setBucket s p l b).ctab = s.ctab := rfl
@[simp] theorem setBucket_ctxs (p l : Nat) (b : Bucket) : (setBucket s p l b).ctxs = s.ctxs := rfl
@[simp] theorem setBucket_buckets (p l : Nat) (b : Bucket) : (setBucket s p l b).buckets = mput {} s.buckets (5 * p + l) b := rfl
@[simp] theorem setBucket_faces (p l : Nat) (b : Bucket) : (setBucket s p l b).faces = s.faces := rfl
@[simp] theorem setBucket_gangs (p l : Nat) (b : Bucket) : (setBucket s p l b).gangs = s.gangs := rfl
@[simp] theorem setBucket_cores (p l : Nat) (b : Bucket) : (setBucket s p l b).cores = s.cores := rfl
@[simp] theorem setBucket_saved (p l : Nat) (b : Bucket) : (setBucket s p l b).saved = s.saved := rfl
@[simp] theorem setBucket_riddles (p l : Nat) (b : Bucket) : (setBucket s p l b).riddles = s.riddles := rfl
@[simp] theorem setBucket_rdl (p l : Nat) (b : Bucket) : (setBucket s p l b).rdl = s.rdl := rfl
@[simp] theorem setBucket_tramways (p l : Nat) (b : Bucket) : (setBucket s p l b).tramways = s.tramways := rfl
@[simp] theorem setBucket_tir (p l : Nat) (b : Bucket) : (setBucket s p l b).tir = s.tir := rfl
@[simp] theorem setBucket_bpm (p l : Nat) (b : Bucket) : (setBucket s p l b).bpm = s.bpm := rfl
@[simp] theorem setBucket_bench1 (p l : Nat) (b : Bucket) : (setBucket s p l b).bench1 = s.bench1 := rfl
@[simp] theorem setBucket_chk (p l : Nat) (b : Bucket) : (setBucket s p l b).chk = s.chk := rfl
@[simp] theorem setBucket_hbms (p l : Nat) (b : Bucket) : (setBucket s p l b).hbms = s.hbms := rfl
@[simp] theorem setBucket_yard (p l : Nat) (b : Bucket) : (setBucket s p l b).yard = s.yard := rfl
@[simp] theorem setBucket_adits (p l : Nat) (b : Bucket) : (setBucket s p l b).adits = s.adits := rfl
@[simp] theorem setBucket_fab (p l : Nat) (b : Bucket) : (setBucket s p l b).fab = s.fab := rfl
@[simp] theorem setBucket_lines (p l : Nat) (b : Bucket) : (setBucket s p l b).lines = s.lines := rfl
@[simp] theorem setBucket_colls (p l : Nat) (b : Bucket) : (setBucket s p l b).colls = s.colls := rfl
@[simp] theorem setBucket_cgroups (p l : Nat) (b : Bucket) : (setBucket s p l b).cgroups = s.cgroups := rfl
@[simp] theorem setBucket_drg (p l : Nat) (b : Bucket) : (setBucket s p l b).drg = s.drg := rfl
@[simp] theorem setBucket_evt (p l : Nat) (b : Bucket) : (setBucket s p l b).evt = s.evt := rfl

/-! ### setTirCtx -/

@[simp] theorem setTirCtx_pending (c : Nat) (x : TirCtx) : (setTirCtx s c x).pending = s.pending := rfl
@[simp] theorem setTirCtx_free (c : Nat) (x : TirCtx) : (setTirCtx s c x).free = s.free := rfl
@[simp] theorem setTirCtx_ns (c : Nat) (x : TirCtx) : (setTirCtx s c x).ns = s.ns := rfl
@[simp] theorem setTirCtx_halyard (c : Nat) (x : TirCtx) : (setTirCtx s c x).halyard = s.halyard := rfl
@[simp] theorem setTirCtx_fuses (c : Nat) (x : TirCtx) : (setTirCtx s c x).fuses = s.fuses := rfl
@[simp] theorem setTirCtx_pins (c : Nat) (x : TirCtx) : (setTirCtx s c x).pins = s.pins := rfl
@[simp] theorem setTirCtx_aon (c : Nat) (x : TirCtx) : (setTirCtx s c x).aon = s.aon := rfl
@[simp] theorem setTirCtx_dev (c : Nat) (x : TirCtx) : (setTirCtx s c x).dev = s.dev := rfl
@[simp] theorem setTirCtx_pwr (c : Nat) (x : TirCtx) : (setTirCtx s c x).pwr = s.pwr := rfl
@[simp] theorem setTirCtx_syn (c : Nat) (x : TirCtx) : (setTirCtx s c x).syn = s.syn := rfl
@[simp] theorem setTirCtx_dbg (c : Nat) (x : TirCtx) : (setTirCtx s c x).dbg = s.dbg := rfl
@[simp] theorem setTirCtx_hst (c : Nat) (x : TirCtx) : (setTirCtx s c x).hst = s.hst := rfl
@[simp] theorem setTirCtx_tab (c : Nat) (x : TirCtx) : (setTirCtx s c x).tab = s.tab := rfl
@[simp] theorem setTirCtx_tick (c : Nat) (x : TirCtx) : (setTirCtx s c x).tick = s.tick := rfl
@[simp] theorem setTirCtx_ctab (c : Nat) (x : TirCtx) : (setTirCtx s c x).ctab = s.ctab := rfl
@[simp] theorem setTirCtx_ctxs (c : Nat) (x : TirCtx) : (setTirCtx s c x).ctxs = s.ctxs := rfl
@[simp] theorem setTirCtx_buckets (c : Nat) (x : TirCtx) : (setTirCtx s c x).buckets = s.buckets := rfl
@[simp] theorem setTirCtx_faces (c : Nat) (x : TirCtx) : (setTirCtx s c x).faces = s.faces := rfl
@[simp] theorem setTirCtx_gangs (c : Nat) (x : TirCtx) : (setTirCtx s c x).gangs = s.gangs := rfl
@[simp] theorem setTirCtx_cores (c : Nat) (x : TirCtx) : (setTirCtx s c x).cores = s.cores := rfl
@[simp] theorem setTirCtx_saved (c : Nat) (x : TirCtx) : (setTirCtx s c x).saved = s.saved := rfl
@[simp] theorem setTirCtx_riddles (c : Nat) (x : TirCtx) : (setTirCtx s c x).riddles = s.riddles := rfl
@[simp] theorem setTirCtx_rdl (c : Nat) (x : TirCtx) : (setTirCtx s c x).rdl = s.rdl := rfl
@[simp] theorem setTirCtx_tramways (c : Nat) (x : TirCtx) : (setTirCtx s c x).tramways = s.tramways := rfl
@[simp] theorem setTirCtx_tir (c : Nat) (x : TirCtx) : (setTirCtx s c x).tir = { s.tir with regs := mput {} s.tir.regs c x } := rfl
@[simp] theorem setTirCtx_bpm (c : Nat) (x : TirCtx) : (setTirCtx s c x).bpm = s.bpm := rfl
@[simp] theorem setTirCtx_bench1 (c : Nat) (x : TirCtx) : (setTirCtx s c x).bench1 = s.bench1 := rfl
@[simp] theorem setTirCtx_chk (c : Nat) (x : TirCtx) : (setTirCtx s c x).chk = s.chk := rfl
@[simp] theorem setTirCtx_hbms (c : Nat) (x : TirCtx) : (setTirCtx s c x).hbms = s.hbms := rfl
@[simp] theorem setTirCtx_yard (c : Nat) (x : TirCtx) : (setTirCtx s c x).yard = s.yard := rfl
@[simp] theorem setTirCtx_adits (c : Nat) (x : TirCtx) : (setTirCtx s c x).adits = s.adits := rfl
@[simp] theorem setTirCtx_fab (c : Nat) (x : TirCtx) : (setTirCtx s c x).fab = s.fab := rfl
@[simp] theorem setTirCtx_lines (c : Nat) (x : TirCtx) : (setTirCtx s c x).lines = s.lines := rfl
@[simp] theorem setTirCtx_colls (c : Nat) (x : TirCtx) : (setTirCtx s c x).colls = s.colls := rfl
@[simp] theorem setTirCtx_cgroups (c : Nat) (x : TirCtx) : (setTirCtx s c x).cgroups = s.cgroups := rfl
@[simp] theorem setTirCtx_drg (c : Nat) (x : TirCtx) : (setTirCtx s c x).drg = s.drg := rfl
@[simp] theorem setTirCtx_evt (c : Nat) (x : TirCtx) : (setTirCtx s c x).evt = s.evt := rfl

/-! ### setPort -/

@[simp] theorem setPort_pending (q : Nat) (y : YPort) : (setPort s q y).pending = s.pending := rfl
@[simp] theorem setPort_free (q : Nat) (y : YPort) : (setPort s q y).free = s.free := rfl
@[simp] theorem setPort_ns (q : Nat) (y : YPort) : (setPort s q y).ns = s.ns := rfl
@[simp] theorem setPort_halyard (q : Nat) (y : YPort) : (setPort s q y).halyard = s.halyard := rfl
@[simp] theorem setPort_fuses (q : Nat) (y : YPort) : (setPort s q y).fuses = s.fuses := rfl
@[simp] theorem setPort_pins (q : Nat) (y : YPort) : (setPort s q y).pins = s.pins := rfl
@[simp] theorem setPort_aon (q : Nat) (y : YPort) : (setPort s q y).aon = s.aon := rfl
@[simp] theorem setPort_dev (q : Nat) (y : YPort) : (setPort s q y).dev = s.dev := rfl
@[simp] theorem setPort_pwr (q : Nat) (y : YPort) : (setPort s q y).pwr = s.pwr := rfl
@[simp] theorem setPort_syn (q : Nat) (y : YPort) : (setPort s q y).syn = s.syn := rfl
@[simp] theorem setPort_dbg (q : Nat) (y : YPort) : (setPort s q y).dbg = s.dbg := rfl
@[simp] theorem setPort_hst (q : Nat) (y : YPort) : (setPort s q y).hst = s.hst := rfl
@[simp] theorem setPort_tab (q : Nat) (y : YPort) : (setPort s q y).tab = s.tab := rfl
@[simp] theorem setPort_tick (q : Nat) (y : YPort) : (setPort s q y).tick = s.tick := rfl
@[simp] theorem setPort_ctab (q : Nat) (y : YPort) : (setPort s q y).ctab = s.ctab := rfl
@[simp] theorem setPort_ctxs (q : Nat) (y : YPort) : (setPort s q y).ctxs = s.ctxs := rfl
@[simp] theorem setPort_buckets (q : Nat) (y : YPort) : (setPort s q y).buckets = s.buckets := rfl
@[simp] theorem setPort_faces (q : Nat) (y : YPort) : (setPort s q y).faces = s.faces := rfl
@[simp] theorem setPort_gangs (q : Nat) (y : YPort) : (setPort s q y).gangs = s.gangs := rfl
@[simp] theorem setPort_cores (q : Nat) (y : YPort) : (setPort s q y).cores = s.cores := rfl
@[simp] theorem setPort_saved (q : Nat) (y : YPort) : (setPort s q y).saved = s.saved := rfl
@[simp] theorem setPort_riddles (q : Nat) (y : YPort) : (setPort s q y).riddles = s.riddles := rfl
@[simp] theorem setPort_rdl (q : Nat) (y : YPort) : (setPort s q y).rdl = s.rdl := rfl
@[simp] theorem setPort_tramways (q : Nat) (y : YPort) : (setPort s q y).tramways = s.tramways := rfl
@[simp] theorem setPort_tir (q : Nat) (y : YPort) : (setPort s q y).tir = s.tir := rfl
@[simp] theorem setPort_bpm (q : Nat) (y : YPort) : (setPort s q y).bpm = s.bpm := rfl
@[simp] theorem setPort_bench1 (q : Nat) (y : YPort) : (setPort s q y).bench1 = s.bench1 := rfl
@[simp] theorem setPort_chk (q : Nat) (y : YPort) : (setPort s q y).chk = s.chk := rfl
@[simp] theorem setPort_hbms (q : Nat) (y : YPort) : (setPort s q y).hbms = s.hbms := rfl
@[simp] theorem setPort_yard (q : Nat) (y : YPort) : (setPort s q y).yard = { s.yard with ports := mput {} s.yard.ports q y } := rfl
@[simp] theorem setPort_adits (q : Nat) (y : YPort) : (setPort s q y).adits = s.adits := rfl
@[simp] theorem setPort_fab (q : Nat) (y : YPort) : (setPort s q y).fab = s.fab := rfl
@[simp] theorem setPort_lines (q : Nat) (y : YPort) : (setPort s q y).lines = s.lines := rfl
@[simp] theorem setPort_colls (q : Nat) (y : YPort) : (setPort s q y).colls = s.colls := rfl
@[simp] theorem setPort_cgroups (q : Nat) (y : YPort) : (setPort s q y).cgroups = s.cgroups := rfl
@[simp] theorem setPort_drg (q : Nat) (y : YPort) : (setPort s q y).drg = s.drg := rfl
@[simp] theorem setPort_evt (q : Nat) (y : YPort) : (setPort s q y).evt = s.evt := rfl

/-! ### setMeas -/

@[simp] theorem setMeas_pending (m : Nat) (x : Meas) : (setMeas s m x).pending = s.pending := rfl
@[simp] theorem setMeas_free (m : Nat) (x : Meas) : (setMeas s m x).free = s.free := rfl
@[simp] theorem setMeas_ns (m : Nat) (x : Meas) : (setMeas s m x).ns = s.ns := rfl
@[simp] theorem setMeas_halyard (m : Nat) (x : Meas) : (setMeas s m x).halyard = s.halyard := rfl
@[simp] theorem setMeas_fuses (m : Nat) (x : Meas) : (setMeas s m x).fuses = s.fuses := rfl
@[simp] theorem setMeas_pins (m : Nat) (x : Meas) : (setMeas s m x).pins = s.pins := rfl
@[simp] theorem setMeas_aon (m : Nat) (x : Meas) : (setMeas s m x).aon = { s.aon with meas := mput {} s.aon.meas m x } := rfl
@[simp] theorem setMeas_dev (m : Nat) (x : Meas) : (setMeas s m x).dev = s.dev := rfl
@[simp] theorem setMeas_pwr (m : Nat) (x : Meas) : (setMeas s m x).pwr = s.pwr := rfl
@[simp] theorem setMeas_syn (m : Nat) (x : Meas) : (setMeas s m x).syn = s.syn := rfl
@[simp] theorem setMeas_dbg (m : Nat) (x : Meas) : (setMeas s m x).dbg = s.dbg := rfl
@[simp] theorem setMeas_hst (m : Nat) (x : Meas) : (setMeas s m x).hst = s.hst := rfl
@[simp] theorem setMeas_tab (m : Nat) (x : Meas) : (setMeas s m x).tab = s.tab := rfl
@[simp] theorem setMeas_tick (m : Nat) (x : Meas) : (setMeas s m x).tick = s.tick := rfl
@[simp] theorem setMeas_ctab (m : Nat) (x : Meas) : (setMeas s m x).ctab = s.ctab := rfl
@[simp] theorem setMeas_ctxs (m : Nat) (x : Meas) : (setMeas s m x).ctxs = s.ctxs := rfl
@[simp] theorem setMeas_buckets (m : Nat) (x : Meas) : (setMeas s m x).buckets = s.buckets := rfl
@[simp] theorem setMeas_faces (m : Nat) (x : Meas) : (setMeas s m x).faces = s.faces := rfl
@[simp] theorem setMeas_gangs (m : Nat) (x : Meas) : (setMeas s m x).gangs = s.gangs := rfl
@[simp] theorem setMeas_cores (m : Nat) (x : Meas) : (setMeas s m x).cores = s.cores := rfl
@[simp] theorem setMeas_saved (m : Nat) (x : Meas) : (setMeas s m x).saved = s.saved := rfl
@[simp] theorem setMeas_riddles (m : Nat) (x : Meas) : (setMeas s m x).riddles = s.riddles := rfl
@[simp] theorem setMeas_rdl (m : Nat) (x : Meas) : (setMeas s m x).rdl = s.rdl := rfl
@[simp] theorem setMeas_tramways (m : Nat) (x : Meas) : (setMeas s m x).tramways = s.tramways := rfl
@[simp] theorem setMeas_tir (m : Nat) (x : Meas) : (setMeas s m x).tir = s.tir := rfl
@[simp] theorem setMeas_bpm (m : Nat) (x : Meas) : (setMeas s m x).bpm = s.bpm := rfl
@[simp] theorem setMeas_bench1 (m : Nat) (x : Meas) : (setMeas s m x).bench1 = s.bench1 := rfl
@[simp] theorem setMeas_chk (m : Nat) (x : Meas) : (setMeas s m x).chk = s.chk := rfl
@[simp] theorem setMeas_hbms (m : Nat) (x : Meas) : (setMeas s m x).hbms = s.hbms := rfl
@[simp] theorem setMeas_yard (m : Nat) (x : Meas) : (setMeas s m x).yard = s.yard := rfl
@[simp] theorem setMeas_adits (m : Nat) (x : Meas) : (setMeas s m x).adits = s.adits := rfl
@[simp] theorem setMeas_fab (m : Nat) (x : Meas) : (setMeas s m x).fab = s.fab := rfl
@[simp] theorem setMeas_lines (m : Nat) (x : Meas) : (setMeas s m x).lines = s.lines := rfl
@[simp] theorem setMeas_colls (m : Nat) (x : Meas) : (setMeas s m x).colls = s.colls := rfl
@[simp] theorem setMeas_cgroups (m : Nat) (x : Meas) : (setMeas s m x).cgroups = s.cgroups := rfl
@[simp] theorem setMeas_drg (m : Nat) (x : Meas) : (setMeas s m x).drg = s.drg := rfl
@[simp] theorem setMeas_evt (m : Nat) (x : Meas) : (setMeas s m x).evt = s.evt := rfl

/-! ### putSet -/

@[simp] theorem putSet_pending (j : Nat) (x : SampleSet) : (putSet s j x).pending = s.pending := rfl
@[simp] theorem putSet_free (j : Nat) (x : SampleSet) : (putSet s j x).free = s.free := rfl
@[simp] theorem putSet_ns (j : Nat) (x : SampleSet) : (putSet s j x).ns = s.ns := rfl
@[simp] theorem putSet_halyard (j : Nat) (x : SampleSet) : (putSet s j x).halyard = s.halyard := rfl
@[simp] theorem putSet_fuses (j : Nat) (x : SampleSet) : (putSet s j x).fuses = s.fuses := rfl
@[simp] theorem putSet_pins (j : Nat) (x : SampleSet) : (putSet s j x).pins = s.pins := rfl
@[simp] theorem putSet_aon (j : Nat) (x : SampleSet) : (putSet s j x).aon = s.aon := rfl
@[simp] theorem putSet_dev (j : Nat) (x : SampleSet) : (putSet s j x).dev = s.dev := rfl
@[simp] theorem putSet_pwr (j : Nat) (x : SampleSet) : (putSet s j x).pwr = s.pwr := rfl
@[simp] theorem putSet_syn (j : Nat) (x : SampleSet) : (putSet s j x).syn = s.syn := rfl
@[simp] theorem putSet_dbg (j : Nat) (x : SampleSet) : (putSet s j x).dbg = { s.dbg with sets := mput {} s.dbg.sets j x } := rfl
@[simp] theorem putSet_hst (j : Nat) (x : SampleSet) : (putSet s j x).hst = s.hst := rfl
@[simp] theorem putSet_tab (j : Nat) (x : SampleSet) : (putSet s j x).tab = s.tab := rfl
@[simp] theorem putSet_tick (j : Nat) (x : SampleSet) : (putSet s j x).tick = s.tick := rfl
@[simp] theorem putSet_ctab (j : Nat) (x : SampleSet) : (putSet s j x).ctab = s.ctab := rfl
@[simp] theorem putSet_ctxs (j : Nat) (x : SampleSet) : (putSet s j x).ctxs = s.ctxs := rfl
@[simp] theorem putSet_buckets (j : Nat) (x : SampleSet) : (putSet s j x).buckets = s.buckets := rfl
@[simp] theorem putSet_faces (j : Nat) (x : SampleSet) : (putSet s j x).faces = s.faces := rfl
@[simp] theorem putSet_gangs (j : Nat) (x : SampleSet) : (putSet s j x).gangs = s.gangs := rfl
@[simp] theorem putSet_cores (j : Nat) (x : SampleSet) : (putSet s j x).cores = s.cores := rfl
@[simp] theorem putSet_saved (j : Nat) (x : SampleSet) : (putSet s j x).saved = s.saved := rfl
@[simp] theorem putSet_riddles (j : Nat) (x : SampleSet) : (putSet s j x).riddles = s.riddles := rfl
@[simp] theorem putSet_rdl (j : Nat) (x : SampleSet) : (putSet s j x).rdl = s.rdl := rfl
@[simp] theorem putSet_tramways (j : Nat) (x : SampleSet) : (putSet s j x).tramways = s.tramways := rfl
@[simp] theorem putSet_tir (j : Nat) (x : SampleSet) : (putSet s j x).tir = s.tir := rfl
@[simp] theorem putSet_bpm (j : Nat) (x : SampleSet) : (putSet s j x).bpm = s.bpm := rfl
@[simp] theorem putSet_bench1 (j : Nat) (x : SampleSet) : (putSet s j x).bench1 = s.bench1 := rfl
@[simp] theorem putSet_chk (j : Nat) (x : SampleSet) : (putSet s j x).chk = s.chk := rfl
@[simp] theorem putSet_hbms (j : Nat) (x : SampleSet) : (putSet s j x).hbms = s.hbms := rfl
@[simp] theorem putSet_yard (j : Nat) (x : SampleSet) : (putSet s j x).yard = s.yard := rfl
@[simp] theorem putSet_adits (j : Nat) (x : SampleSet) : (putSet s j x).adits = s.adits := rfl
@[simp] theorem putSet_fab (j : Nat) (x : SampleSet) : (putSet s j x).fab = s.fab := rfl
@[simp] theorem putSet_lines (j : Nat) (x : SampleSet) : (putSet s j x).lines = s.lines := rfl
@[simp] theorem putSet_colls (j : Nat) (x : SampleSet) : (putSet s j x).colls = s.colls := rfl
@[simp] theorem putSet_cgroups (j : Nat) (x : SampleSet) : (putSet s j x).cgroups = s.cgroups := rfl
@[simp] theorem putSet_drg (j : Nat) (x : SampleSet) : (putSet s j x).drg = s.drg := rfl
@[simp] theorem putSet_evt (j : Nat) (x : SampleSet) : (putSet s j x).evt = s.evt := rfl

/-! ### setHst -/

@[simp] theorem setHst_pending (f : Loader → Loader) : (setHst s f).pending = s.pending := rfl
@[simp] theorem setHst_free (f : Loader → Loader) : (setHst s f).free = s.free := rfl
@[simp] theorem setHst_ns (f : Loader → Loader) : (setHst s f).ns = s.ns := rfl
@[simp] theorem setHst_halyard (f : Loader → Loader) : (setHst s f).halyard = s.halyard := rfl
@[simp] theorem setHst_fuses (f : Loader → Loader) : (setHst s f).fuses = s.fuses := rfl
@[simp] theorem setHst_pins (f : Loader → Loader) : (setHst s f).pins = s.pins := rfl
@[simp] theorem setHst_aon (f : Loader → Loader) : (setHst s f).aon = s.aon := rfl
@[simp] theorem setHst_dev (f : Loader → Loader) : (setHst s f).dev = s.dev := rfl
@[simp] theorem setHst_pwr (f : Loader → Loader) : (setHst s f).pwr = s.pwr := rfl
@[simp] theorem setHst_syn (f : Loader → Loader) : (setHst s f).syn = s.syn := rfl
@[simp] theorem setHst_dbg (f : Loader → Loader) : (setHst s f).dbg = s.dbg := rfl
@[simp] theorem setHst_hst (f : Loader → Loader) : (setHst s f).hst = f s.hst := rfl
@[simp] theorem setHst_tab (f : Loader → Loader) : (setHst s f).tab = s.tab := rfl
@[simp] theorem setHst_tick (f : Loader → Loader) : (setHst s f).tick = s.tick := rfl
@[simp] theorem setHst_ctab (f : Loader → Loader) : (setHst s f).ctab = s.ctab := rfl
@[simp] theorem setHst_ctxs (f : Loader → Loader) : (setHst s f).ctxs = s.ctxs := rfl
@[simp] theorem setHst_buckets (f : Loader → Loader) : (setHst s f).buckets = s.buckets := rfl
@[simp] theorem setHst_faces (f : Loader → Loader) : (setHst s f).faces = s.faces := rfl
@[simp] theorem setHst_gangs (f : Loader → Loader) : (setHst s f).gangs = s.gangs := rfl
@[simp] theorem setHst_cores (f : Loader → Loader) : (setHst s f).cores = s.cores := rfl
@[simp] theorem setHst_saved (f : Loader → Loader) : (setHst s f).saved = s.saved := rfl
@[simp] theorem setHst_riddles (f : Loader → Loader) : (setHst s f).riddles = s.riddles := rfl
@[simp] theorem setHst_rdl (f : Loader → Loader) : (setHst s f).rdl = s.rdl := rfl
@[simp] theorem setHst_tramways (f : Loader → Loader) : (setHst s f).tramways = s.tramways := rfl
@[simp] theorem setHst_tir (f : Loader → Loader) : (setHst s f).tir = s.tir := rfl
@[simp] theorem setHst_bpm (f : Loader → Loader) : (setHst s f).bpm = s.bpm := rfl
@[simp] theorem setHst_bench1 (f : Loader → Loader) : (setHst s f).bench1 = s.bench1 := rfl
@[simp] theorem setHst_chk (f : Loader → Loader) : (setHst s f).chk = s.chk := rfl
@[simp] theorem setHst_hbms (f : Loader → Loader) : (setHst s f).hbms = s.hbms := rfl
@[simp] theorem setHst_yard (f : Loader → Loader) : (setHst s f).yard = s.yard := rfl
@[simp] theorem setHst_adits (f : Loader → Loader) : (setHst s f).adits = s.adits := rfl
@[simp] theorem setHst_fab (f : Loader → Loader) : (setHst s f).fab = s.fab := rfl
@[simp] theorem setHst_lines (f : Loader → Loader) : (setHst s f).lines = s.lines := rfl
@[simp] theorem setHst_colls (f : Loader → Loader) : (setHst s f).colls = s.colls := rfl
@[simp] theorem setHst_cgroups (f : Loader → Loader) : (setHst s f).cgroups = s.cgroups := rfl
@[simp] theorem setHst_drg (f : Loader → Loader) : (setHst s f).drg = s.drg := rfl
@[simp] theorem setHst_evt (f : Loader → Loader) : (setHst s f).evt = s.evt := rfl

/-! ### setSyn -/

@[simp] theorem setSyn_pending (f : Syn → Syn) : (setSyn s f).pending = s.pending := rfl
@[simp] theorem setSyn_free (f : Syn → Syn) : (setSyn s f).free = s.free := rfl
@[simp] theorem setSyn_ns (f : Syn → Syn) : (setSyn s f).ns = s.ns := rfl
@[simp] theorem setSyn_halyard (f : Syn → Syn) : (setSyn s f).halyard = s.halyard := rfl
@[simp] theorem setSyn_fuses (f : Syn → Syn) : (setSyn s f).fuses = s.fuses := rfl
@[simp] theorem setSyn_pins (f : Syn → Syn) : (setSyn s f).pins = s.pins := rfl
@[simp] theorem setSyn_aon (f : Syn → Syn) : (setSyn s f).aon = s.aon := rfl
@[simp] theorem setSyn_dev (f : Syn → Syn) : (setSyn s f).dev = s.dev := rfl
@[simp] theorem setSyn_pwr (f : Syn → Syn) : (setSyn s f).pwr = s.pwr := rfl
@[simp] theorem setSyn_syn (f : Syn → Syn) : (setSyn s f).syn = f s.syn := rfl
@[simp] theorem setSyn_dbg (f : Syn → Syn) : (setSyn s f).dbg = s.dbg := rfl
@[simp] theorem setSyn_hst (f : Syn → Syn) : (setSyn s f).hst = s.hst := rfl
@[simp] theorem setSyn_tab (f : Syn → Syn) : (setSyn s f).tab = s.tab := rfl
@[simp] theorem setSyn_tick (f : Syn → Syn) : (setSyn s f).tick = s.tick := rfl
@[simp] theorem setSyn_ctab (f : Syn → Syn) : (setSyn s f).ctab = s.ctab := rfl
@[simp] theorem setSyn_ctxs (f : Syn → Syn) : (setSyn s f).ctxs = s.ctxs := rfl
@[simp] theorem setSyn_buckets (f : Syn → Syn) : (setSyn s f).buckets = s.buckets := rfl
@[simp] theorem setSyn_faces (f : Syn → Syn) : (setSyn s f).faces = s.faces := rfl
@[simp] theorem setSyn_gangs (f : Syn → Syn) : (setSyn s f).gangs = s.gangs := rfl
@[simp] theorem setSyn_cores (f : Syn → Syn) : (setSyn s f).cores = s.cores := rfl
@[simp] theorem setSyn_saved (f : Syn → Syn) : (setSyn s f).saved = s.saved := rfl
@[simp] theorem setSyn_riddles (f : Syn → Syn) : (setSyn s f).riddles = s.riddles := rfl
@[simp] theorem setSyn_rdl (f : Syn → Syn) : (setSyn s f).rdl = s.rdl := rfl
@[simp] theorem setSyn_tramways (f : Syn → Syn) : (setSyn s f).tramways = s.tramways := rfl
@[simp] theorem setSyn_tir (f : Syn → Syn) : (setSyn s f).tir = s.tir := rfl
@[simp] theorem setSyn_bpm (f : Syn → Syn) : (setSyn s f).bpm = s.bpm := rfl
@[simp] theorem setSyn_bench1 (f : Syn → Syn) : (setSyn s f).bench1 = s.bench1 := rfl
@[simp] theorem setSyn_chk (f : Syn → Syn) : (setSyn s f).chk = s.chk := rfl
@[simp] theorem setSyn_hbms (f : Syn → Syn) : (setSyn s f).hbms = s.hbms := rfl
@[simp] theorem setSyn_yard (f : Syn → Syn) : (setSyn s f).yard = s.yard := rfl
@[simp] theorem setSyn_adits (f : Syn → Syn) : (setSyn s f).adits = s.adits := rfl
@[simp] theorem setSyn_fab (f : Syn → Syn) : (setSyn s f).fab = s.fab := rfl
@[simp] theorem setSyn_lines (f : Syn → Syn) : (setSyn s f).lines = s.lines := rfl
@[simp] theorem setSyn_colls (f : Syn → Syn) : (setSyn s f).colls = s.colls := rfl
@[simp] theorem setSyn_cgroups (f : Syn → Syn) : (setSyn s f).cgroups = s.cgroups := rfl
@[simp] theorem setSyn_drg (f : Syn → Syn) : (setSyn s f).drg = s.drg := rfl
@[simp] theorem setSyn_evt (f : Syn → Syn) : (setSyn s f).evt = s.evt := rfl

/-! ### setDrg -/

@[simp] theorem setDrg_pending (f : Drg → Drg) : (setDrg s f).pending = s.pending := rfl
@[simp] theorem setDrg_free (f : Drg → Drg) : (setDrg s f).free = s.free := rfl
@[simp] theorem setDrg_ns (f : Drg → Drg) : (setDrg s f).ns = s.ns := rfl
@[simp] theorem setDrg_halyard (f : Drg → Drg) : (setDrg s f).halyard = s.halyard := rfl
@[simp] theorem setDrg_fuses (f : Drg → Drg) : (setDrg s f).fuses = s.fuses := rfl
@[simp] theorem setDrg_pins (f : Drg → Drg) : (setDrg s f).pins = s.pins := rfl
@[simp] theorem setDrg_aon (f : Drg → Drg) : (setDrg s f).aon = s.aon := rfl
@[simp] theorem setDrg_dev (f : Drg → Drg) : (setDrg s f).dev = s.dev := rfl
@[simp] theorem setDrg_pwr (f : Drg → Drg) : (setDrg s f).pwr = s.pwr := rfl
@[simp] theorem setDrg_syn (f : Drg → Drg) : (setDrg s f).syn = s.syn := rfl
@[simp] theorem setDrg_dbg (f : Drg → Drg) : (setDrg s f).dbg = s.dbg := rfl
@[simp] theorem setDrg_hst (f : Drg → Drg) : (setDrg s f).hst = s.hst := rfl
@[simp] theorem setDrg_tab (f : Drg → Drg) : (setDrg s f).tab = s.tab := rfl
@[simp] theorem setDrg_tick (f : Drg → Drg) : (setDrg s f).tick = s.tick := rfl
@[simp] theorem setDrg_ctab (f : Drg → Drg) : (setDrg s f).ctab = s.ctab := rfl
@[simp] theorem setDrg_ctxs (f : Drg → Drg) : (setDrg s f).ctxs = s.ctxs := rfl
@[simp] theorem setDrg_buckets (f : Drg → Drg) : (setDrg s f).buckets = s.buckets := rfl
@[simp] theorem setDrg_faces (f : Drg → Drg) : (setDrg s f).faces = s.faces := rfl
@[simp] theorem setDrg_gangs (f : Drg → Drg) : (setDrg s f).gangs = s.gangs := rfl
@[simp] theorem setDrg_cores (f : Drg → Drg) : (setDrg s f).cores = s.cores := rfl
@[simp] theorem setDrg_saved (f : Drg → Drg) : (setDrg s f).saved = s.saved := rfl
@[simp] theorem setDrg_riddles (f : Drg → Drg) : (setDrg s f).riddles = s.riddles := rfl
@[simp] theorem setDrg_rdl (f : Drg → Drg) : (setDrg s f).rdl = s.rdl := rfl
@[simp] theorem setDrg_tramways (f : Drg → Drg) : (setDrg s f).tramways = s.tramways := rfl
@[simp] theorem setDrg_tir (f : Drg → Drg) : (setDrg s f).tir = s.tir := rfl
@[simp] theorem setDrg_bpm (f : Drg → Drg) : (setDrg s f).bpm = s.bpm := rfl
@[simp] theorem setDrg_bench1 (f : Drg → Drg) : (setDrg s f).bench1 = s.bench1 := rfl
@[simp] theorem setDrg_chk (f : Drg → Drg) : (setDrg s f).chk = s.chk := rfl
@[simp] theorem setDrg_hbms (f : Drg → Drg) : (setDrg s f).hbms = s.hbms := rfl
@[simp] theorem setDrg_yard (f : Drg → Drg) : (setDrg s f).yard = s.yard := rfl
@[simp] theorem setDrg_adits (f : Drg → Drg) : (setDrg s f).adits = s.adits := rfl
@[simp] theorem setDrg_fab (f : Drg → Drg) : (setDrg s f).fab = s.fab := rfl
@[simp] theorem setDrg_lines (f : Drg → Drg) : (setDrg s f).lines = s.lines := rfl
@[simp] theorem setDrg_colls (f : Drg → Drg) : (setDrg s f).colls = s.colls := rfl
@[simp] theorem setDrg_cgroups (f : Drg → Drg) : (setDrg s f).cgroups = s.cgroups := rfl
@[simp] theorem setDrg_drg (f : Drg → Drg) : (setDrg s f).drg = f s.drg := rfl
@[simp] theorem setDrg_evt (f : Drg → Drg) : (setDrg s f).evt = s.evt := rfl

/-! ### setDbg -/

@[simp] theorem setDbg_pending (f : Dbg → Dbg) : (setDbg s f).pending = s.pending := rfl
@[simp] theorem setDbg_free (f : Dbg → Dbg) : (setDbg s f).free = s.free := rfl
@[simp] theorem setDbg_ns (f : Dbg → Dbg) : (setDbg s f).ns = s.ns := rfl
@[simp] theorem setDbg_halyard (f : Dbg → Dbg) : (setDbg s f).halyard = s.halyard := rfl
@[simp] theorem setDbg_fuses (f : Dbg → Dbg) : (setDbg s f).fuses = s.fuses := rfl
@[simp] theorem setDbg_pins (f : Dbg → Dbg) : (setDbg s f).pins = s.pins := rfl
@[simp] theorem setDbg_aon (f : Dbg → Dbg) : (setDbg s f).aon = s.aon := rfl
@[simp] theorem setDbg_dev (f : Dbg → Dbg) : (setDbg s f).dev = s.dev := rfl
@[simp] theorem setDbg_pwr (f : Dbg → Dbg) : (setDbg s f).pwr = s.pwr := rfl
@[simp] theorem setDbg_syn (f : Dbg → Dbg) : (setDbg s f).syn = s.syn := rfl
@[simp] theorem setDbg_dbg (f : Dbg → Dbg) : (setDbg s f).dbg = f s.dbg := rfl
@[simp] theorem setDbg_hst (f : Dbg → Dbg) : (setDbg s f).hst = s.hst := rfl
@[simp] theorem setDbg_tab (f : Dbg → Dbg) : (setDbg s f).tab = s.tab := rfl
@[simp] theorem setDbg_tick (f : Dbg → Dbg) : (setDbg s f).tick = s.tick := rfl
@[simp] theorem setDbg_ctab (f : Dbg → Dbg) : (setDbg s f).ctab = s.ctab := rfl
@[simp] theorem setDbg_ctxs (f : Dbg → Dbg) : (setDbg s f).ctxs = s.ctxs := rfl
@[simp] theorem setDbg_buckets (f : Dbg → Dbg) : (setDbg s f).buckets = s.buckets := rfl
@[simp] theorem setDbg_faces (f : Dbg → Dbg) : (setDbg s f).faces = s.faces := rfl
@[simp] theorem setDbg_gangs (f : Dbg → Dbg) : (setDbg s f).gangs = s.gangs := rfl
@[simp] theorem setDbg_cores (f : Dbg → Dbg) : (setDbg s f).cores = s.cores := rfl
@[simp] theorem setDbg_saved (f : Dbg → Dbg) : (setDbg s f).saved = s.saved := rfl
@[simp] theorem setDbg_riddles (f : Dbg → Dbg) : (setDbg s f).riddles = s.riddles := rfl
@[simp] theorem setDbg_rdl (f : Dbg → Dbg) : (setDbg s f).rdl = s.rdl := rfl
@[simp] theorem setDbg_tramways (f : Dbg → Dbg) : (setDbg s f).tramways = s.tramways := rfl
@[simp] theorem setDbg_tir (f : Dbg → Dbg) : (setDbg s f).tir = s.tir := rfl
@[simp] theorem setDbg_bpm (f : Dbg → Dbg) : (setDbg s f).bpm = s.bpm := rfl
@[simp] theorem setDbg_bench1 (f : Dbg → Dbg) : (setDbg s f).bench1 = s.bench1 := rfl
@[simp] theorem setDbg_chk (f : Dbg → Dbg) : (setDbg s f).chk = s.chk := rfl
@[simp] theorem setDbg_hbms (f : Dbg → Dbg) : (setDbg s f).hbms = s.hbms := rfl
@[simp] theorem setDbg_yard (f : Dbg → Dbg) : (setDbg s f).yard = s.yard := rfl
@[simp] theorem setDbg_adits (f : Dbg → Dbg) : (setDbg s f).adits = s.adits := rfl
@[simp] theorem setDbg_fab (f : Dbg → Dbg) : (setDbg s f).fab = s.fab := rfl
@[simp] theorem setDbg_lines (f : Dbg → Dbg) : (setDbg s f).lines = s.lines := rfl
@[simp] theorem setDbg_colls (f : Dbg → Dbg) : (setDbg s f).colls = s.colls := rfl
@[simp] theorem setDbg_cgroups (f : Dbg → Dbg) : (setDbg s f).cgroups = s.cgroups := rfl
@[simp] theorem setDbg_drg (f : Dbg → Dbg) : (setDbg s f).drg = s.drg := rfl
@[simp] theorem setDbg_evt (f : Dbg → Dbg) : (setDbg s f).evt = s.evt := rfl

/-! ### setAon -/

@[simp] theorem setAon_pending (f : Aon → Aon) : (setAon s f).pending = s.pending := rfl
@[simp] theorem setAon_free (f : Aon → Aon) : (setAon s f).free = s.free := rfl
@[simp] theorem setAon_ns (f : Aon → Aon) : (setAon s f).ns = s.ns := rfl
@[simp] theorem setAon_halyard (f : Aon → Aon) : (setAon s f).halyard = s.halyard := rfl
@[simp] theorem setAon_fuses (f : Aon → Aon) : (setAon s f).fuses = s.fuses := rfl
@[simp] theorem setAon_pins (f : Aon → Aon) : (setAon s f).pins = s.pins := rfl
@[simp] theorem setAon_aon (f : Aon → Aon) : (setAon s f).aon = f s.aon := rfl
@[simp] theorem setAon_dev (f : Aon → Aon) : (setAon s f).dev = s.dev := rfl
@[simp] theorem setAon_pwr (f : Aon → Aon) : (setAon s f).pwr = s.pwr := rfl
@[simp] theorem setAon_syn (f : Aon → Aon) : (setAon s f).syn = s.syn := rfl
@[simp] theorem setAon_dbg (f : Aon → Aon) : (setAon s f).dbg = s.dbg := rfl
@[simp] theorem setAon_hst (f : Aon → Aon) : (setAon s f).hst = s.hst := rfl
@[simp] theorem setAon_tab (f : Aon → Aon) : (setAon s f).tab = s.tab := rfl
@[simp] theorem setAon_tick (f : Aon → Aon) : (setAon s f).tick = s.tick := rfl
@[simp] theorem setAon_ctab (f : Aon → Aon) : (setAon s f).ctab = s.ctab := rfl
@[simp] theorem setAon_ctxs (f : Aon → Aon) : (setAon s f).ctxs = s.ctxs := rfl
@[simp] theorem setAon_buckets (f : Aon → Aon) : (setAon s f).buckets = s.buckets := rfl
@[simp] theorem setAon_faces (f : Aon → Aon) : (setAon s f).faces = s.faces := rfl
@[simp] theorem setAon_gangs (f : Aon → Aon) : (setAon s f).gangs = s.gangs := rfl
@[simp] theorem setAon_cores (f : Aon → Aon) : (setAon s f).cores = s.cores := rfl
@[simp] theorem setAon_saved (f : Aon → Aon) : (setAon s f).saved = s.saved := rfl
@[simp] theorem setAon_riddles (f : Aon → Aon) : (setAon s f).riddles = s.riddles := rfl
@[simp] theorem setAon_rdl (f : Aon → Aon) : (setAon s f).rdl = s.rdl := rfl
@[simp] theorem setAon_tramways (f : Aon → Aon) : (setAon s f).tramways = s.tramways := rfl
@[simp] theorem setAon_tir (f : Aon → Aon) : (setAon s f).tir = s.tir := rfl
@[simp] theorem setAon_bpm (f : Aon → Aon) : (setAon s f).bpm = s.bpm := rfl
@[simp] theorem setAon_bench1 (f : Aon → Aon) : (setAon s f).bench1 = s.bench1 := rfl
@[simp] theorem setAon_chk (f : Aon → Aon) : (setAon s f).chk = s.chk := rfl
@[simp] theorem setAon_hbms (f : Aon → Aon) : (setAon s f).hbms = s.hbms := rfl
@[simp] theorem setAon_yard (f : Aon → Aon) : (setAon s f).yard = s.yard := rfl
@[simp] theorem setAon_adits (f : Aon → Aon) : (setAon s f).adits = s.adits := rfl
@[simp] theorem setAon_fab (f : Aon → Aon) : (setAon s f).fab = s.fab := rfl
@[simp] theorem setAon_lines (f : Aon → Aon) : (setAon s f).lines = s.lines := rfl
@[simp] theorem setAon_colls (f : Aon → Aon) : (setAon s f).colls = s.colls := rfl
@[simp] theorem setAon_cgroups (f : Aon → Aon) : (setAon s f).cgroups = s.cgroups := rfl
@[simp] theorem setAon_drg (f : Aon → Aon) : (setAon s f).drg = s.drg := rfl
@[simp] theorem setAon_evt (f : Aon → Aon) : (setAon s f).evt = s.evt := rfl

/-! ### setTir -/

@[simp] theorem setTir_pending (f : Tier → Tier) : (setTir s f).pending = s.pending := rfl
@[simp] theorem setTir_free (f : Tier → Tier) : (setTir s f).free = s.free := rfl
@[simp] theorem setTir_ns (f : Tier → Tier) : (setTir s f).ns = s.ns := rfl
@[simp] theorem setTir_halyard (f : Tier → Tier) : (setTir s f).halyard = s.halyard := rfl
@[simp] theorem setTir_fuses (f : Tier → Tier) : (setTir s f).fuses = s.fuses := rfl
@[simp] theorem setTir_pins (f : Tier → Tier) : (setTir s f).pins = s.pins := rfl
@[simp] theorem setTir_aon (f : Tier → Tier) : (setTir s f).aon = s.aon := rfl
@[simp] theorem setTir_dev (f : Tier → Tier) : (setTir s f).dev = s.dev := rfl
@[simp] theorem setTir_pwr (f : Tier → Tier) : (setTir s f).pwr = s.pwr := rfl
@[simp] theorem setTir_syn (f : Tier → Tier) : (setTir s f).syn = s.syn := rfl
@[simp] theorem setTir_dbg (f : Tier → Tier) : (setTir s f).dbg = s.dbg := rfl
@[simp] theorem setTir_hst (f : Tier → Tier) : (setTir s f).hst = s.hst := rfl
@[simp] theorem setTir_tab (f : Tier → Tier) : (setTir s f).tab = s.tab := rfl
@[simp] theorem setTir_tick (f : Tier → Tier) : (setTir s f).tick = s.tick := rfl
@[simp] theorem setTir_ctab (f : Tier → Tier) : (setTir s f).ctab = s.ctab := rfl
@[simp] theorem setTir_ctxs (f : Tier → Tier) : (setTir s f).ctxs = s.ctxs := rfl
@[simp] theorem setTir_buckets (f : Tier → Tier) : (setTir s f).buckets = s.buckets := rfl
@[simp] theorem setTir_faces (f : Tier → Tier) : (setTir s f).faces = s.faces := rfl
@[simp] theorem setTir_gangs (f : Tier → Tier) : (setTir s f).gangs = s.gangs := rfl
@[simp] theorem setTir_cores (f : Tier → Tier) : (setTir s f).cores = s.cores := rfl
@[simp] theorem setTir_saved (f : Tier → Tier) : (setTir s f).saved = s.saved := rfl
@[simp] theorem setTir_riddles (f : Tier → Tier) : (setTir s f).riddles = s.riddles := rfl
@[simp] theorem setTir_rdl (f : Tier → Tier) : (setTir s f).rdl = s.rdl := rfl
@[simp] theorem setTir_tramways (f : Tier → Tier) : (setTir s f).tramways = s.tramways := rfl
@[simp] theorem setTir_tir (f : Tier → Tier) : (setTir s f).tir = f s.tir := rfl
@[simp] theorem setTir_bpm (f : Tier → Tier) : (setTir s f).bpm = s.bpm := rfl
@[simp] theorem setTir_bench1 (f : Tier → Tier) : (setTir s f).bench1 = s.bench1 := rfl
@[simp] theorem setTir_chk (f : Tier → Tier) : (setTir s f).chk = s.chk := rfl
@[simp] theorem setTir_hbms (f : Tier → Tier) : (setTir s f).hbms = s.hbms := rfl
@[simp] theorem setTir_yard (f : Tier → Tier) : (setTir s f).yard = s.yard := rfl
@[simp] theorem setTir_adits (f : Tier → Tier) : (setTir s f).adits = s.adits := rfl
@[simp] theorem setTir_fab (f : Tier → Tier) : (setTir s f).fab = s.fab := rfl
@[simp] theorem setTir_lines (f : Tier → Tier) : (setTir s f).lines = s.lines := rfl
@[simp] theorem setTir_colls (f : Tier → Tier) : (setTir s f).colls = s.colls := rfl
@[simp] theorem setTir_cgroups (f : Tier → Tier) : (setTir s f).cgroups = s.cgroups := rfl
@[simp] theorem setTir_drg (f : Tier → Tier) : (setTir s f).drg = s.drg := rfl
@[simp] theorem setTir_evt (f : Tier → Tier) : (setTir s f).evt = s.evt := rfl

/-! ### setYard -/

@[simp] theorem setYard_pending (f : Yard → Yard) : (setYard s f).pending = s.pending := rfl
@[simp] theorem setYard_free (f : Yard → Yard) : (setYard s f).free = s.free := rfl
@[simp] theorem setYard_ns (f : Yard → Yard) : (setYard s f).ns = s.ns := rfl
@[simp] theorem setYard_halyard (f : Yard → Yard) : (setYard s f).halyard = s.halyard := rfl
@[simp] theorem setYard_fuses (f : Yard → Yard) : (setYard s f).fuses = s.fuses := rfl
@[simp] theorem setYard_pins (f : Yard → Yard) : (setYard s f).pins = s.pins := rfl
@[simp] theorem setYard_aon (f : Yard → Yard) : (setYard s f).aon = s.aon := rfl
@[simp] theorem setYard_dev (f : Yard → Yard) : (setYard s f).dev = s.dev := rfl
@[simp] theorem setYard_pwr (f : Yard → Yard) : (setYard s f).pwr = s.pwr := rfl
@[simp] theorem setYard_syn (f : Yard → Yard) : (setYard s f).syn = s.syn := rfl
@[simp] theorem setYard_dbg (f : Yard → Yard) : (setYard s f).dbg = s.dbg := rfl
@[simp] theorem setYard_hst (f : Yard → Yard) : (setYard s f).hst = s.hst := rfl
@[simp] theorem setYard_tab (f : Yard → Yard) : (setYard s f).tab = s.tab := rfl
@[simp] theorem setYard_tick (f : Yard → Yard) : (setYard s f).tick = s.tick := rfl
@[simp] theorem setYard_ctab (f : Yard → Yard) : (setYard s f).ctab = s.ctab := rfl
@[simp] theorem setYard_ctxs (f : Yard → Yard) : (setYard s f).ctxs = s.ctxs := rfl
@[simp] theorem setYard_buckets (f : Yard → Yard) : (setYard s f).buckets = s.buckets := rfl
@[simp] theorem setYard_faces (f : Yard → Yard) : (setYard s f).faces = s.faces := rfl
@[simp] theorem setYard_gangs (f : Yard → Yard) : (setYard s f).gangs = s.gangs := rfl
@[simp] theorem setYard_cores (f : Yard → Yard) : (setYard s f).cores = s.cores := rfl
@[simp] theorem setYard_saved (f : Yard → Yard) : (setYard s f).saved = s.saved := rfl
@[simp] theorem setYard_riddles (f : Yard → Yard) : (setYard s f).riddles = s.riddles := rfl
@[simp] theorem setYard_rdl (f : Yard → Yard) : (setYard s f).rdl = s.rdl := rfl
@[simp] theorem setYard_tramways (f : Yard → Yard) : (setYard s f).tramways = s.tramways := rfl
@[simp] theorem setYard_tir (f : Yard → Yard) : (setYard s f).tir = s.tir := rfl
@[simp] theorem setYard_bpm (f : Yard → Yard) : (setYard s f).bpm = s.bpm := rfl
@[simp] theorem setYard_bench1 (f : Yard → Yard) : (setYard s f).bench1 = s.bench1 := rfl
@[simp] theorem setYard_chk (f : Yard → Yard) : (setYard s f).chk = s.chk := rfl
@[simp] theorem setYard_hbms (f : Yard → Yard) : (setYard s f).hbms = s.hbms := rfl
@[simp] theorem setYard_yard (f : Yard → Yard) : (setYard s f).yard = f s.yard := rfl
@[simp] theorem setYard_adits (f : Yard → Yard) : (setYard s f).adits = s.adits := rfl
@[simp] theorem setYard_fab (f : Yard → Yard) : (setYard s f).fab = s.fab := rfl
@[simp] theorem setYard_lines (f : Yard → Yard) : (setYard s f).lines = s.lines := rfl
@[simp] theorem setYard_colls (f : Yard → Yard) : (setYard s f).colls = s.colls := rfl
@[simp] theorem setYard_cgroups (f : Yard → Yard) : (setYard s f).cgroups = s.cgroups := rfl
@[simp] theorem setYard_drg (f : Yard → Yard) : (setYard s f).drg = s.drg := rfl
@[simp] theorem setYard_evt (f : Yard → Yard) : (setYard s f).evt = s.evt := rfl

/-! ### setPwr -/

@[simp] theorem setPwr_pending (f : Pwr → Pwr) : (setPwr s f).pending = s.pending := rfl
@[simp] theorem setPwr_free (f : Pwr → Pwr) : (setPwr s f).free = s.free := rfl
@[simp] theorem setPwr_ns (f : Pwr → Pwr) : (setPwr s f).ns = s.ns := rfl
@[simp] theorem setPwr_halyard (f : Pwr → Pwr) : (setPwr s f).halyard = s.halyard := rfl
@[simp] theorem setPwr_fuses (f : Pwr → Pwr) : (setPwr s f).fuses = s.fuses := rfl
@[simp] theorem setPwr_pins (f : Pwr → Pwr) : (setPwr s f).pins = s.pins := rfl
@[simp] theorem setPwr_aon (f : Pwr → Pwr) : (setPwr s f).aon = s.aon := rfl
@[simp] theorem setPwr_dev (f : Pwr → Pwr) : (setPwr s f).dev = s.dev := rfl
@[simp] theorem setPwr_pwr (f : Pwr → Pwr) : (setPwr s f).pwr = f s.pwr := rfl
@[simp] theorem setPwr_syn (f : Pwr → Pwr) : (setPwr s f).syn = s.syn := rfl
@[simp] theorem setPwr_dbg (f : Pwr → Pwr) : (setPwr s f).dbg = s.dbg := rfl
@[simp] theorem setPwr_hst (f : Pwr → Pwr) : (setPwr s f).hst = s.hst := rfl
@[simp] theorem setPwr_tab (f : Pwr → Pwr) : (setPwr s f).tab = s.tab := rfl
@[simp] theorem setPwr_tick (f : Pwr → Pwr) : (setPwr s f).tick = s.tick := rfl
@[simp] theorem setPwr_ctab (f : Pwr → Pwr) : (setPwr s f).ctab = s.ctab := rfl
@[simp] theorem setPwr_ctxs (f : Pwr → Pwr) : (setPwr s f).ctxs = s.ctxs := rfl
@[simp] theorem setPwr_buckets (f : Pwr → Pwr) : (setPwr s f).buckets = s.buckets := rfl
@[simp] theorem setPwr_faces (f : Pwr → Pwr) : (setPwr s f).faces = s.faces := rfl
@[simp] theorem setPwr_gangs (f : Pwr → Pwr) : (setPwr s f).gangs = s.gangs := rfl
@[simp] theorem setPwr_cores (f : Pwr → Pwr) : (setPwr s f).cores = s.cores := rfl
@[simp] theorem setPwr_saved (f : Pwr → Pwr) : (setPwr s f).saved = s.saved := rfl
@[simp] theorem setPwr_riddles (f : Pwr → Pwr) : (setPwr s f).riddles = s.riddles := rfl
@[simp] theorem setPwr_rdl (f : Pwr → Pwr) : (setPwr s f).rdl = s.rdl := rfl
@[simp] theorem setPwr_tramways (f : Pwr → Pwr) : (setPwr s f).tramways = s.tramways := rfl
@[simp] theorem setPwr_tir (f : Pwr → Pwr) : (setPwr s f).tir = s.tir := rfl
@[simp] theorem setPwr_bpm (f : Pwr → Pwr) : (setPwr s f).bpm = s.bpm := rfl
@[simp] theorem setPwr_bench1 (f : Pwr → Pwr) : (setPwr s f).bench1 = s.bench1 := rfl
@[simp] theorem setPwr_chk (f : Pwr → Pwr) : (setPwr s f).chk = s.chk := rfl
@[simp] theorem setPwr_hbms (f : Pwr → Pwr) : (setPwr s f).hbms = s.hbms := rfl
@[simp] theorem setPwr_yard (f : Pwr → Pwr) : (setPwr s f).yard = s.yard := rfl
@[simp] theorem setPwr_adits (f : Pwr → Pwr) : (setPwr s f).adits = s.adits := rfl
@[simp] theorem setPwr_fab (f : Pwr → Pwr) : (setPwr s f).fab = s.fab := rfl
@[simp] theorem setPwr_lines (f : Pwr → Pwr) : (setPwr s f).lines = s.lines := rfl
@[simp] theorem setPwr_colls (f : Pwr → Pwr) : (setPwr s f).colls = s.colls := rfl
@[simp] theorem setPwr_cgroups (f : Pwr → Pwr) : (setPwr s f).cgroups = s.cgroups := rfl
@[simp] theorem setPwr_drg (f : Pwr → Pwr) : (setPwr s f).drg = s.drg := rfl
@[simp] theorem setPwr_evt (f : Pwr → Pwr) : (setPwr s f).evt = s.evt := rfl

/-! ### setPins -/

@[simp] theorem setPins_pending (f : Pins → Pins) : (setPins s f).pending = s.pending := rfl
@[simp] theorem setPins_free (f : Pins → Pins) : (setPins s f).free = s.free := rfl
@[simp] theorem setPins_ns (f : Pins → Pins) : (setPins s f).ns = s.ns := rfl
@[simp] theorem setPins_halyard (f : Pins → Pins) : (setPins s f).halyard = s.halyard := rfl
@[simp] theorem setPins_fuses (f : Pins → Pins) : (setPins s f).fuses = s.fuses := rfl
@[simp] theorem setPins_pins (f : Pins → Pins) : (setPins s f).pins = f s.pins := rfl
@[simp] theorem setPins_aon (f : Pins → Pins) : (setPins s f).aon = s.aon := rfl
@[simp] theorem setPins_dev (f : Pins → Pins) : (setPins s f).dev = s.dev := rfl
@[simp] theorem setPins_pwr (f : Pins → Pins) : (setPins s f).pwr = s.pwr := rfl
@[simp] theorem setPins_syn (f : Pins → Pins) : (setPins s f).syn = s.syn := rfl
@[simp] theorem setPins_dbg (f : Pins → Pins) : (setPins s f).dbg = s.dbg := rfl
@[simp] theorem setPins_hst (f : Pins → Pins) : (setPins s f).hst = s.hst := rfl
@[simp] theorem setPins_tab (f : Pins → Pins) : (setPins s f).tab = s.tab := rfl
@[simp] theorem setPins_tick (f : Pins → Pins) : (setPins s f).tick = s.tick := rfl
@[simp] theorem setPins_ctab (f : Pins → Pins) : (setPins s f).ctab = s.ctab := rfl
@[simp] theorem setPins_ctxs (f : Pins → Pins) : (setPins s f).ctxs = s.ctxs := rfl
@[simp] theorem setPins_buckets (f : Pins → Pins) : (setPins s f).buckets = s.buckets := rfl
@[simp] theorem setPins_faces (f : Pins → Pins) : (setPins s f).faces = s.faces := rfl
@[simp] theorem setPins_gangs (f : Pins → Pins) : (setPins s f).gangs = s.gangs := rfl
@[simp] theorem setPins_cores (f : Pins → Pins) : (setPins s f).cores = s.cores := rfl
@[simp] theorem setPins_saved (f : Pins → Pins) : (setPins s f).saved = s.saved := rfl
@[simp] theorem setPins_riddles (f : Pins → Pins) : (setPins s f).riddles = s.riddles := rfl
@[simp] theorem setPins_rdl (f : Pins → Pins) : (setPins s f).rdl = s.rdl := rfl
@[simp] theorem setPins_tramways (f : Pins → Pins) : (setPins s f).tramways = s.tramways := rfl
@[simp] theorem setPins_tir (f : Pins → Pins) : (setPins s f).tir = s.tir := rfl
@[simp] theorem setPins_bpm (f : Pins → Pins) : (setPins s f).bpm = s.bpm := rfl
@[simp] theorem setPins_bench1 (f : Pins → Pins) : (setPins s f).bench1 = s.bench1 := rfl
@[simp] theorem setPins_chk (f : Pins → Pins) : (setPins s f).chk = s.chk := rfl
@[simp] theorem setPins_hbms (f : Pins → Pins) : (setPins s f).hbms = s.hbms := rfl
@[simp] theorem setPins_yard (f : Pins → Pins) : (setPins s f).yard = s.yard := rfl
@[simp] theorem setPins_adits (f : Pins → Pins) : (setPins s f).adits = s.adits := rfl
@[simp] theorem setPins_fab (f : Pins → Pins) : (setPins s f).fab = s.fab := rfl
@[simp] theorem setPins_lines (f : Pins → Pins) : (setPins s f).lines = s.lines := rfl
@[simp] theorem setPins_colls (f : Pins → Pins) : (setPins s f).colls = s.colls := rfl
@[simp] theorem setPins_cgroups (f : Pins → Pins) : (setPins s f).cgroups = s.cgroups := rfl
@[simp] theorem setPins_drg (f : Pins → Pins) : (setPins s f).drg = s.drg := rfl
@[simp] theorem setPins_evt (f : Pins → Pins) : (setPins s f).evt = s.evt := rfl

/-! ### Reads after updates -/

@[simp] theorem getFace_setGangFace (g : Nat) (f : GangFace) (j : Nat) : getFace (setGangFace s g f) j = getFace s j := rfl
@[simp] theorem getFace_setCore (k : Nat) (c : Core) (j : Nat) : getFace (setCore s k c) j = getFace s j := rfl
@[simp] theorem getFace_setCtx (c : Nat) (x : Ctx) (j : Nat) : getFace (setCtx s c x) j = getFace s j := rfl
@[simp] theorem getFace_setRiddle (e : Nat) (r : Riddle) (j : Nat) : getFace (setRiddle s e r) j = getFace s j := rfl
@[simp] theorem getFace_setTrw (t : Nat) (w : Tramway) (j : Nat) : getFace (setTrw s t w) j = getFace s j := rfl
@[simp] theorem getFace_setHbm (n : Nat) (h : Hbm) (j : Nat) : getFace (setHbm s n h) j = getFace s j := rfl
@[simp] theorem getFace_setAdit (a : Nat) (x : Adit) (j : Nat) : getFace (setAdit s a x) j = getFace s j := rfl
@[simp] theorem getFace_setColl (d : Nat) (x : Coll) (j : Nat) : getFace (setColl s d x) j = getFace s j := rfl
@[simp] theorem getFace_setCGroup (g : Nat) (x : CGroup) (j : Nat) : getFace (setCGroup s g x) j = getFace s j := rfl
@[simp] theorem getFace_setPool (p : Nat) (x : Pool) (j : Nat) : getFace (setPool s p x) j = getFace s j := rfl
@[simp] theorem getFace_setBucket (p l : Nat) (b : Bucket) (j : Nat) : getFace (setBucket s p l b) j = getFace s j := rfl
@[simp] theorem getFace_setTirCtx (c : Nat) (x : TirCtx) (j : Nat) : getFace (setTirCtx s c x) j = getFace s j := rfl
@[simp] theorem getFace_setPort (q : Nat) (y : YPort) (j : Nat) : getFace (setPort s q y) j = getFace s j := rfl
@[simp] theorem getFace_setMeas (m : Nat) (x : Meas) (j : Nat) : getFace (setMeas s m x) j = getFace s j := rfl
@[simp] theorem getFace_putSet (i : Nat) (x : SampleSet) (j : Nat) : getFace (putSet s i x) j = getFace s j := rfl
@[simp] theorem getFace_setHst (f : Loader → Loader) (j : Nat) : getFace (setHst s f) j = getFace s j := rfl
@[simp] theorem getFace_setSyn (f : Syn → Syn) (j : Nat) : getFace (setSyn s f) j = getFace s j := rfl
@[simp] theorem getFace_setDrg (f : Drg → Drg) (j : Nat) : getFace (setDrg s f) j = getFace s j := rfl
@[simp] theorem getFace_setDbg (f : Dbg → Dbg) (j : Nat) : getFace (setDbg s f) j = getFace s j := rfl
@[simp] theorem getFace_setAon (f : Aon → Aon) (j : Nat) : getFace (setAon s f) j = getFace s j := rfl
@[simp] theorem getFace_setTir (f : Tier → Tier) (j : Nat) : getFace (setTir s f) j = getFace s j := rfl
@[simp] theorem getFace_setYard (f : Yard → Yard) (j : Nat) : getFace (setYard s f) j = getFace s j := rfl
@[simp] theorem getFace_setPwr (f : Pwr → Pwr) (j : Nat) : getFace (setPwr s f) j = getFace s j := rfl
@[simp] theorem getFace_setPins (f : Pins → Pins) (j : Nat) : getFace (setPins s f) j = getFace s j := rfl
@[simp] theorem getGangFace_setFace (u : Nat) (f : Face) (j : Nat) : getGangFace (setFace s u f) j = getGangFace s j := rfl
@[simp] theorem getGangFace_setCore (k : Nat) (c : Core) (j : Nat) : getGangFace (setCore s k c) j = getGangFace s j := rfl
@[simp] theorem getGangFace_setCtx (c : Nat) (x : Ctx) (j : Nat) : getGangFace (setCtx s c x) j = getGangFace s j := rfl
@[simp] theorem getGangFace_setRiddle (e : Nat) (r : Riddle) (j : Nat) : getGangFace (setRiddle s e r) j = getGangFace s j := rfl
@[simp] theorem getGangFace_setTrw (t : Nat) (w : Tramway) (j : Nat) : getGangFace (setTrw s t w) j = getGangFace s j := rfl
@[simp] theorem getGangFace_setHbm (n : Nat) (h : Hbm) (j : Nat) : getGangFace (setHbm s n h) j = getGangFace s j := rfl
@[simp] theorem getGangFace_setAdit (a : Nat) (x : Adit) (j : Nat) : getGangFace (setAdit s a x) j = getGangFace s j := rfl
@[simp] theorem getGangFace_setColl (d : Nat) (x : Coll) (j : Nat) : getGangFace (setColl s d x) j = getGangFace s j := rfl
@[simp] theorem getGangFace_setCGroup (g : Nat) (x : CGroup) (j : Nat) : getGangFace (setCGroup s g x) j = getGangFace s j := rfl
@[simp] theorem getGangFace_setPool (p : Nat) (x : Pool) (j : Nat) : getGangFace (setPool s p x) j = getGangFace s j := rfl
@[simp] theorem getGangFace_setBucket (p l : Nat) (b : Bucket) (j : Nat) : getGangFace (setBucket s p l b) j = getGangFace s j := rfl
@[simp] theorem getGangFace_setTirCtx (c : Nat) (x : TirCtx) (j : Nat) : getGangFace (setTirCtx s c x) j = getGangFace s j := rfl
@[simp] theorem getGangFace_setPort (q : Nat) (y : YPort) (j : Nat) : getGangFace (setPort s q y) j = getGangFace s j := rfl
@[simp] theorem getGangFace_setMeas (m : Nat) (x : Meas) (j : Nat) : getGangFace (setMeas s m x) j = getGangFace s j := rfl
@[simp] theorem getGangFace_putSet (i : Nat) (x : SampleSet) (j : Nat) : getGangFace (putSet s i x) j = getGangFace s j := rfl
@[simp] theorem getGangFace_setHst (f : Loader → Loader) (j : Nat) : getGangFace (setHst s f) j = getGangFace s j := rfl
@[simp] theorem getGangFace_setSyn (f : Syn → Syn) (j : Nat) : getGangFace (setSyn s f) j = getGangFace s j := rfl
@[simp] theorem getGangFace_setDrg (f : Drg → Drg) (j : Nat) : getGangFace (setDrg s f) j = getGangFace s j := rfl
@[simp] theorem getGangFace_setDbg (f : Dbg → Dbg) (j : Nat) : getGangFace (setDbg s f) j = getGangFace s j := rfl
@[simp] theorem getGangFace_setAon (f : Aon → Aon) (j : Nat) : getGangFace (setAon s f) j = getGangFace s j := rfl
@[simp] theorem getGangFace_setTir (f : Tier → Tier) (j : Nat) : getGangFace (setTir s f) j = getGangFace s j := rfl
@[simp] theorem getGangFace_setYard (f : Yard → Yard) (j : Nat) : getGangFace (setYard s f) j = getGangFace s j := rfl
@[simp] theorem getGangFace_setPwr (f : Pwr → Pwr) (j : Nat) : getGangFace (setPwr s f) j = getGangFace s j := rfl
@[simp] theorem getGangFace_setPins (f : Pins → Pins) (j : Nat) : getGangFace (setPins s f) j = getGangFace s j := rfl
@[simp] theorem getCore_setFace (u : Nat) (f : Face) (j : Nat) : getCore (setFace s u f) j = getCore s j := rfl
@[simp] theorem getCore_setGangFace (g : Nat) (f : GangFace) (j : Nat) : getCore (setGangFace s g f) j = getCore s j := rfl
@[simp] theorem getCore_setCtx (c : Nat) (x : Ctx) (j : Nat) : getCore (setCtx s c x) j = getCore s j := rfl
@[simp] theorem getCore_setRiddle (e : Nat) (r : Riddle) (j : Nat) : getCore (setRiddle s e r) j = getCore s j := rfl
@[simp] theorem getCore_setTrw (t : Nat) (w : Tramway) (j : Nat) : getCore (setTrw s t w) j = getCore s j := rfl
@[simp] theorem getCore_setHbm (n : Nat) (h : Hbm) (j : Nat) : getCore (setHbm s n h) j = getCore s j := rfl
@[simp] theorem getCore_setAdit (a : Nat) (x : Adit) (j : Nat) : getCore (setAdit s a x) j = getCore s j := rfl
@[simp] theorem getCore_setColl (d : Nat) (x : Coll) (j : Nat) : getCore (setColl s d x) j = getCore s j := rfl
@[simp] theorem getCore_setCGroup (g : Nat) (x : CGroup) (j : Nat) : getCore (setCGroup s g x) j = getCore s j := rfl
@[simp] theorem getCore_setPool (p : Nat) (x : Pool) (j : Nat) : getCore (setPool s p x) j = getCore s j := rfl
@[simp] theorem getCore_setBucket (p l : Nat) (b : Bucket) (j : Nat) : getCore (setBucket s p l b) j = getCore s j := rfl
@[simp] theorem getCore_setTirCtx (c : Nat) (x : TirCtx) (j : Nat) : getCore (setTirCtx s c x) j = getCore s j := rfl
@[simp] theorem getCore_setPort (q : Nat) (y : YPort) (j : Nat) : getCore (setPort s q y) j = getCore s j := rfl
@[simp] theorem getCore_setMeas (m : Nat) (x : Meas) (j : Nat) : getCore (setMeas s m x) j = getCore s j := rfl
@[simp] theorem getCore_putSet (i : Nat) (x : SampleSet) (j : Nat) : getCore (putSet s i x) j = getCore s j := rfl
@[simp] theorem getCore_setHst (f : Loader → Loader) (j : Nat) : getCore (setHst s f) j = getCore s j := rfl
@[simp] theorem getCore_setSyn (f : Syn → Syn) (j : Nat) : getCore (setSyn s f) j = getCore s j := rfl
@[simp] theorem getCore_setDrg (f : Drg → Drg) (j : Nat) : getCore (setDrg s f) j = getCore s j := rfl
@[simp] theorem getCore_setDbg (f : Dbg → Dbg) (j : Nat) : getCore (setDbg s f) j = getCore s j := rfl
@[simp] theorem getCore_setAon (f : Aon → Aon) (j : Nat) : getCore (setAon s f) j = getCore s j := rfl
@[simp] theorem getCore_setTir (f : Tier → Tier) (j : Nat) : getCore (setTir s f) j = getCore s j := rfl
@[simp] theorem getCore_setYard (f : Yard → Yard) (j : Nat) : getCore (setYard s f) j = getCore s j := rfl
@[simp] theorem getCore_setPwr (f : Pwr → Pwr) (j : Nat) : getCore (setPwr s f) j = getCore s j := rfl
@[simp] theorem getCore_setPins (f : Pins → Pins) (j : Nat) : getCore (setPins s f) j = getCore s j := rfl
@[simp] theorem getCtx_setFace (u : Nat) (f : Face) (j : Nat) : getCtx (setFace s u f) j = getCtx s j := rfl
@[simp] theorem getCtx_setGangFace (g : Nat) (f : GangFace) (j : Nat) : getCtx (setGangFace s g f) j = getCtx s j := rfl
@[simp] theorem getCtx_setCore (k : Nat) (c : Core) (j : Nat) : getCtx (setCore s k c) j = getCtx s j := rfl
@[simp] theorem getCtx_setRiddle (e : Nat) (r : Riddle) (j : Nat) : getCtx (setRiddle s e r) j = getCtx s j := rfl
@[simp] theorem getCtx_setTrw (t : Nat) (w : Tramway) (j : Nat) : getCtx (setTrw s t w) j = getCtx s j := rfl
@[simp] theorem getCtx_setHbm (n : Nat) (h : Hbm) (j : Nat) : getCtx (setHbm s n h) j = getCtx s j := rfl
@[simp] theorem getCtx_setAdit (a : Nat) (x : Adit) (j : Nat) : getCtx (setAdit s a x) j = getCtx s j := rfl
@[simp] theorem getCtx_setColl (d : Nat) (x : Coll) (j : Nat) : getCtx (setColl s d x) j = getCtx s j := rfl
@[simp] theorem getCtx_setCGroup (g : Nat) (x : CGroup) (j : Nat) : getCtx (setCGroup s g x) j = getCtx s j := rfl
@[simp] theorem getCtx_setPool (p : Nat) (x : Pool) (j : Nat) : getCtx (setPool s p x) j = getCtx s j := rfl
@[simp] theorem getCtx_setBucket (p l : Nat) (b : Bucket) (j : Nat) : getCtx (setBucket s p l b) j = getCtx s j := rfl
@[simp] theorem getCtx_setTirCtx (c : Nat) (x : TirCtx) (j : Nat) : getCtx (setTirCtx s c x) j = getCtx s j := rfl
@[simp] theorem getCtx_setPort (q : Nat) (y : YPort) (j : Nat) : getCtx (setPort s q y) j = getCtx s j := rfl
@[simp] theorem getCtx_setMeas (m : Nat) (x : Meas) (j : Nat) : getCtx (setMeas s m x) j = getCtx s j := rfl
@[simp] theorem getCtx_putSet (i : Nat) (x : SampleSet) (j : Nat) : getCtx (putSet s i x) j = getCtx s j := rfl
@[simp] theorem getCtx_setHst (f : Loader → Loader) (j : Nat) : getCtx (setHst s f) j = getCtx s j := rfl
@[simp] theorem getCtx_setSyn (f : Syn → Syn) (j : Nat) : getCtx (setSyn s f) j = getCtx s j := rfl
@[simp] theorem getCtx_setDrg (f : Drg → Drg) (j : Nat) : getCtx (setDrg s f) j = getCtx s j := rfl
@[simp] theorem getCtx_setDbg (f : Dbg → Dbg) (j : Nat) : getCtx (setDbg s f) j = getCtx s j := rfl
@[simp] theorem getCtx_setAon (f : Aon → Aon) (j : Nat) : getCtx (setAon s f) j = getCtx s j := rfl
@[simp] theorem getCtx_setTir (f : Tier → Tier) (j : Nat) : getCtx (setTir s f) j = getCtx s j := rfl
@[simp] theorem getCtx_setYard (f : Yard → Yard) (j : Nat) : getCtx (setYard s f) j = getCtx s j := rfl
@[simp] theorem getCtx_setPwr (f : Pwr → Pwr) (j : Nat) : getCtx (setPwr s f) j = getCtx s j := rfl
@[simp] theorem getCtx_setPins (f : Pins → Pins) (j : Nat) : getCtx (setPins s f) j = getCtx s j := rfl
@[simp] theorem getRiddle_setFace (u : Nat) (f : Face) (j : Nat) : getRiddle (setFace s u f) j = getRiddle s j := rfl
@[simp] theorem getRiddle_setGangFace (g : Nat) (f : GangFace) (j : Nat) : getRiddle (setGangFace s g f) j = getRiddle s j := rfl
@[simp] theorem getRiddle_setCore (k : Nat) (c : Core) (j : Nat) : getRiddle (setCore s k c) j = getRiddle s j := rfl
@[simp] theorem getRiddle_setCtx (c : Nat) (x : Ctx) (j : Nat) : getRiddle (setCtx s c x) j = getRiddle s j := rfl
@[simp] theorem getRiddle_setTrw (t : Nat) (w : Tramway) (j : Nat) : getRiddle (setTrw s t w) j = getRiddle s j := rfl
@[simp] theorem getRiddle_setHbm (n : Nat) (h : Hbm) (j : Nat) : getRiddle (setHbm s n h) j = getRiddle s j := rfl
@[simp] theorem getRiddle_setAdit (a : Nat) (x : Adit) (j : Nat) : getRiddle (setAdit s a x) j = getRiddle s j := rfl
@[simp] theorem getRiddle_setColl (d : Nat) (x : Coll) (j : Nat) : getRiddle (setColl s d x) j = getRiddle s j := rfl
@[simp] theorem getRiddle_setCGroup (g : Nat) (x : CGroup) (j : Nat) : getRiddle (setCGroup s g x) j = getRiddle s j := rfl
@[simp] theorem getRiddle_setPool (p : Nat) (x : Pool) (j : Nat) : getRiddle (setPool s p x) j = getRiddle s j := rfl
@[simp] theorem getRiddle_setBucket (p l : Nat) (b : Bucket) (j : Nat) : getRiddle (setBucket s p l b) j = getRiddle s j := rfl
@[simp] theorem getRiddle_setTirCtx (c : Nat) (x : TirCtx) (j : Nat) : getRiddle (setTirCtx s c x) j = getRiddle s j := rfl
@[simp] theorem getRiddle_setPort (q : Nat) (y : YPort) (j : Nat) : getRiddle (setPort s q y) j = getRiddle s j := rfl
@[simp] theorem getRiddle_setMeas (m : Nat) (x : Meas) (j : Nat) : getRiddle (setMeas s m x) j = getRiddle s j := rfl
@[simp] theorem getRiddle_putSet (i : Nat) (x : SampleSet) (j : Nat) : getRiddle (putSet s i x) j = getRiddle s j := rfl
@[simp] theorem getRiddle_setHst (f : Loader → Loader) (j : Nat) : getRiddle (setHst s f) j = getRiddle s j := rfl
@[simp] theorem getRiddle_setSyn (f : Syn → Syn) (j : Nat) : getRiddle (setSyn s f) j = getRiddle s j := rfl
@[simp] theorem getRiddle_setDrg (f : Drg → Drg) (j : Nat) : getRiddle (setDrg s f) j = getRiddle s j := rfl
@[simp] theorem getRiddle_setDbg (f : Dbg → Dbg) (j : Nat) : getRiddle (setDbg s f) j = getRiddle s j := rfl
@[simp] theorem getRiddle_setAon (f : Aon → Aon) (j : Nat) : getRiddle (setAon s f) j = getRiddle s j := rfl
@[simp] theorem getRiddle_setTir (f : Tier → Tier) (j : Nat) : getRiddle (setTir s f) j = getRiddle s j := rfl
@[simp] theorem getRiddle_setYard (f : Yard → Yard) (j : Nat) : getRiddle (setYard s f) j = getRiddle s j := rfl
@[simp] theorem getRiddle_setPwr (f : Pwr → Pwr) (j : Nat) : getRiddle (setPwr s f) j = getRiddle s j := rfl
@[simp] theorem getRiddle_setPins (f : Pins → Pins) (j : Nat) : getRiddle (setPins s f) j = getRiddle s j := rfl
@[simp] theorem getTrw_setFace (u : Nat) (f : Face) (j : Nat) : getTrw (setFace s u f) j = getTrw s j := rfl
@[simp] theorem getTrw_setGangFace (g : Nat) (f : GangFace) (j : Nat) : getTrw (setGangFace s g f) j = getTrw s j := rfl
@[simp] theorem getTrw_setCore (k : Nat) (c : Core) (j : Nat) : getTrw (setCore s k c) j = getTrw s j := rfl
@[simp] theorem getTrw_setCtx (c : Nat) (x : Ctx) (j : Nat) : getTrw (setCtx s c x) j = getTrw s j := rfl
@[simp] theorem getTrw_setRiddle (e : Nat) (r : Riddle) (j : Nat) : getTrw (setRiddle s e r) j = getTrw s j := rfl
@[simp] theorem getTrw_setHbm (n : Nat) (h : Hbm) (j : Nat) : getTrw (setHbm s n h) j = getTrw s j := rfl
@[simp] theorem getTrw_setAdit (a : Nat) (x : Adit) (j : Nat) : getTrw (setAdit s a x) j = getTrw s j := rfl
@[simp] theorem getTrw_setColl (d : Nat) (x : Coll) (j : Nat) : getTrw (setColl s d x) j = getTrw s j := rfl
@[simp] theorem getTrw_setCGroup (g : Nat) (x : CGroup) (j : Nat) : getTrw (setCGroup s g x) j = getTrw s j := rfl
@[simp] theorem getTrw_setPool (p : Nat) (x : Pool) (j : Nat) : getTrw (setPool s p x) j = getTrw s j := rfl
@[simp] theorem getTrw_setBucket (p l : Nat) (b : Bucket) (j : Nat) : getTrw (setBucket s p l b) j = getTrw s j := rfl
@[simp] theorem getTrw_setTirCtx (c : Nat) (x : TirCtx) (j : Nat) : getTrw (setTirCtx s c x) j = getTrw s j := rfl
@[simp] theorem getTrw_setPort (q : Nat) (y : YPort) (j : Nat) : getTrw (setPort s q y) j = getTrw s j := rfl
@[simp] theorem getTrw_setMeas (m : Nat) (x : Meas) (j : Nat) : getTrw (setMeas s m x) j = getTrw s j := rfl
@[simp] theorem getTrw_putSet (i : Nat) (x : SampleSet) (j : Nat) : getTrw (putSet s i x) j = getTrw s j := rfl
@[simp] theorem getTrw_setHst (f : Loader → Loader) (j : Nat) : getTrw (setHst s f) j = getTrw s j := rfl
@[simp] theorem getTrw_setSyn (f : Syn → Syn) (j : Nat) : getTrw (setSyn s f) j = getTrw s j := rfl
@[simp] theorem getTrw_setDrg (f : Drg → Drg) (j : Nat) : getTrw (setDrg s f) j = getTrw s j := rfl
@[simp] theorem getTrw_setDbg (f : Dbg → Dbg) (j : Nat) : getTrw (setDbg s f) j = getTrw s j := rfl
@[simp] theorem getTrw_setAon (f : Aon → Aon) (j : Nat) : getTrw (setAon s f) j = getTrw s j := rfl
@[simp] theorem getTrw_setTir (f : Tier → Tier) (j : Nat) : getTrw (setTir s f) j = getTrw s j := rfl
@[simp] theorem getTrw_setYard (f : Yard → Yard) (j : Nat) : getTrw (setYard s f) j = getTrw s j := rfl
@[simp] theorem getTrw_setPwr (f : Pwr → Pwr) (j : Nat) : getTrw (setPwr s f) j = getTrw s j := rfl
@[simp] theorem getTrw_setPins (f : Pins → Pins) (j : Nat) : getTrw (setPins s f) j = getTrw s j := rfl
@[simp] theorem getHbm_setFace (u : Nat) (f : Face) (j : Nat) : getHbm (setFace s u f) j = getHbm s j := rfl
@[simp] theorem getHbm_setGangFace (g : Nat) (f : GangFace) (j : Nat) : getHbm (setGangFace s g f) j = getHbm s j := rfl
@[simp] theorem getHbm_setCore (k : Nat) (c : Core) (j : Nat) : getHbm (setCore s k c) j = getHbm s j := rfl
@[simp] theorem getHbm_setCtx (c : Nat) (x : Ctx) (j : Nat) : getHbm (setCtx s c x) j = getHbm s j := rfl
@[simp] theorem getHbm_setRiddle (e : Nat) (r : Riddle) (j : Nat) : getHbm (setRiddle s e r) j = getHbm s j := rfl
@[simp] theorem getHbm_setTrw (t : Nat) (w : Tramway) (j : Nat) : getHbm (setTrw s t w) j = getHbm s j := rfl
@[simp] theorem getHbm_setAdit (a : Nat) (x : Adit) (j : Nat) : getHbm (setAdit s a x) j = getHbm s j := rfl
@[simp] theorem getHbm_setColl (d : Nat) (x : Coll) (j : Nat) : getHbm (setColl s d x) j = getHbm s j := rfl
@[simp] theorem getHbm_setCGroup (g : Nat) (x : CGroup) (j : Nat) : getHbm (setCGroup s g x) j = getHbm s j := rfl
@[simp] theorem getHbm_setPool (p : Nat) (x : Pool) (j : Nat) : getHbm (setPool s p x) j = getHbm s j := rfl
@[simp] theorem getHbm_setBucket (p l : Nat) (b : Bucket) (j : Nat) : getHbm (setBucket s p l b) j = getHbm s j := rfl
@[simp] theorem getHbm_setTirCtx (c : Nat) (x : TirCtx) (j : Nat) : getHbm (setTirCtx s c x) j = getHbm s j := rfl
@[simp] theorem getHbm_setPort (q : Nat) (y : YPort) (j : Nat) : getHbm (setPort s q y) j = getHbm s j := rfl
@[simp] theorem getHbm_setMeas (m : Nat) (x : Meas) (j : Nat) : getHbm (setMeas s m x) j = getHbm s j := rfl
@[simp] theorem getHbm_putSet (i : Nat) (x : SampleSet) (j : Nat) : getHbm (putSet s i x) j = getHbm s j := rfl
@[simp] theorem getHbm_setHst (f : Loader → Loader) (j : Nat) : getHbm (setHst s f) j = getHbm s j := rfl
@[simp] theorem getHbm_setSyn (f : Syn → Syn) (j : Nat) : getHbm (setSyn s f) j = getHbm s j := rfl
@[simp] theorem getHbm_setDrg (f : Drg → Drg) (j : Nat) : getHbm (setDrg s f) j = getHbm s j := rfl
@[simp] theorem getHbm_setDbg (f : Dbg → Dbg) (j : Nat) : getHbm (setDbg s f) j = getHbm s j := rfl
@[simp] theorem getHbm_setAon (f : Aon → Aon) (j : Nat) : getHbm (setAon s f) j = getHbm s j := rfl
@[simp] theorem getHbm_setTir (f : Tier → Tier) (j : Nat) : getHbm (setTir s f) j = getHbm s j := rfl
@[simp] theorem getHbm_setYard (f : Yard → Yard) (j : Nat) : getHbm (setYard s f) j = getHbm s j := rfl
@[simp] theorem getHbm_setPwr (f : Pwr → Pwr) (j : Nat) : getHbm (setPwr s f) j = getHbm s j := rfl
@[simp] theorem getHbm_setPins (f : Pins → Pins) (j : Nat) : getHbm (setPins s f) j = getHbm s j := rfl
@[simp] theorem getAdit_setFace (u : Nat) (f : Face) (j : Nat) : getAdit (setFace s u f) j = getAdit s j := rfl
@[simp] theorem getAdit_setGangFace (g : Nat) (f : GangFace) (j : Nat) : getAdit (setGangFace s g f) j = getAdit s j := rfl
@[simp] theorem getAdit_setCore (k : Nat) (c : Core) (j : Nat) : getAdit (setCore s k c) j = getAdit s j := rfl
@[simp] theorem getAdit_setCtx (c : Nat) (x : Ctx) (j : Nat) : getAdit (setCtx s c x) j = getAdit s j := rfl
@[simp] theorem getAdit_setRiddle (e : Nat) (r : Riddle) (j : Nat) : getAdit (setRiddle s e r) j = getAdit s j := rfl
@[simp] theorem getAdit_setTrw (t : Nat) (w : Tramway) (j : Nat) : getAdit (setTrw s t w) j = getAdit s j := rfl
@[simp] theorem getAdit_setHbm (n : Nat) (h : Hbm) (j : Nat) : getAdit (setHbm s n h) j = getAdit s j := rfl
@[simp] theorem getAdit_setColl (d : Nat) (x : Coll) (j : Nat) : getAdit (setColl s d x) j = getAdit s j := rfl
@[simp] theorem getAdit_setCGroup (g : Nat) (x : CGroup) (j : Nat) : getAdit (setCGroup s g x) j = getAdit s j := rfl
@[simp] theorem getAdit_setPool (p : Nat) (x : Pool) (j : Nat) : getAdit (setPool s p x) j = getAdit s j := rfl
@[simp] theorem getAdit_setBucket (p l : Nat) (b : Bucket) (j : Nat) : getAdit (setBucket s p l b) j = getAdit s j := rfl
@[simp] theorem getAdit_setTirCtx (c : Nat) (x : TirCtx) (j : Nat) : getAdit (setTirCtx s c x) j = getAdit s j := rfl
@[simp] theorem getAdit_setPort (q : Nat) (y : YPort) (j : Nat) : getAdit (setPort s q y) j = getAdit s j := rfl
@[simp] theorem getAdit_setMeas (m : Nat) (x : Meas) (j : Nat) : getAdit (setMeas s m x) j = getAdit s j := rfl
@[simp] theorem getAdit_putSet (i : Nat) (x : SampleSet) (j : Nat) : getAdit (putSet s i x) j = getAdit s j := rfl
@[simp] theorem getAdit_setHst (f : Loader → Loader) (j : Nat) : getAdit (setHst s f) j = getAdit s j := rfl
@[simp] theorem getAdit_setSyn (f : Syn → Syn) (j : Nat) : getAdit (setSyn s f) j = getAdit s j := rfl
@[simp] theorem getAdit_setDrg (f : Drg → Drg) (j : Nat) : getAdit (setDrg s f) j = getAdit s j := rfl
@[simp] theorem getAdit_setDbg (f : Dbg → Dbg) (j : Nat) : getAdit (setDbg s f) j = getAdit s j := rfl
@[simp] theorem getAdit_setAon (f : Aon → Aon) (j : Nat) : getAdit (setAon s f) j = getAdit s j := rfl
@[simp] theorem getAdit_setTir (f : Tier → Tier) (j : Nat) : getAdit (setTir s f) j = getAdit s j := rfl
@[simp] theorem getAdit_setYard (f : Yard → Yard) (j : Nat) : getAdit (setYard s f) j = getAdit s j := rfl
@[simp] theorem getAdit_setPwr (f : Pwr → Pwr) (j : Nat) : getAdit (setPwr s f) j = getAdit s j := rfl
@[simp] theorem getAdit_setPins (f : Pins → Pins) (j : Nat) : getAdit (setPins s f) j = getAdit s j := rfl
@[simp] theorem getColl_setFace (u : Nat) (f : Face) (j : Nat) : getColl (setFace s u f) j = getColl s j := rfl
@[simp] theorem getColl_setGangFace (g : Nat) (f : GangFace) (j : Nat) : getColl (setGangFace s g f) j = getColl s j := rfl
@[simp] theorem getColl_setCore (k : Nat) (c : Core) (j : Nat) : getColl (setCore s k c) j = getColl s j := rfl
@[simp] theorem getColl_setCtx (c : Nat) (x : Ctx) (j : Nat) : getColl (setCtx s c x) j = getColl s j := rfl
@[simp] theorem getColl_setRiddle (e : Nat) (r : Riddle) (j : Nat) : getColl (setRiddle s e r) j = getColl s j := rfl
@[simp] theorem getColl_setTrw (t : Nat) (w : Tramway) (j : Nat) : getColl (setTrw s t w) j = getColl s j := rfl
@[simp] theorem getColl_setHbm (n : Nat) (h : Hbm) (j : Nat) : getColl (setHbm s n h) j = getColl s j := rfl
@[simp] theorem getColl_setAdit (a : Nat) (x : Adit) (j : Nat) : getColl (setAdit s a x) j = getColl s j := rfl
@[simp] theorem getColl_setCGroup (g : Nat) (x : CGroup) (j : Nat) : getColl (setCGroup s g x) j = getColl s j := rfl
@[simp] theorem getColl_setPool (p : Nat) (x : Pool) (j : Nat) : getColl (setPool s p x) j = getColl s j := rfl
@[simp] theorem getColl_setBucket (p l : Nat) (b : Bucket) (j : Nat) : getColl (setBucket s p l b) j = getColl s j := rfl
@[simp] theorem getColl_setTirCtx (c : Nat) (x : TirCtx) (j : Nat) : getColl (setTirCtx s c x) j = getColl s j := rfl
@[simp] theorem getColl_setPort (q : Nat) (y : YPort) (j : Nat) : getColl (setPort s q y) j = getColl s j := rfl
@[simp] theorem getColl_setMeas (m : Nat) (x : Meas) (j : Nat) : getColl (setMeas s m x) j = getColl s j := rfl
@[simp] theorem getColl_putSet (i : Nat) (x : SampleSet) (j : Nat) : getColl (putSet s i x) j = getColl s j := rfl
@[simp] theorem getColl_setHst (f : Loader → Loader) (j : Nat) : getColl (setHst s f) j = getColl s j := rfl
@[simp] theorem getColl_setSyn (f : Syn → Syn) (j : Nat) : getColl (setSyn s f) j = getColl s j := rfl
@[simp] theorem getColl_setDrg (f : Drg → Drg) (j : Nat) : getColl (setDrg s f) j = getColl s j := rfl
@[simp] theorem getColl_setDbg (f : Dbg → Dbg) (j : Nat) : getColl (setDbg s f) j = getColl s j := rfl
@[simp] theorem getColl_setAon (f : Aon → Aon) (j : Nat) : getColl (setAon s f) j = getColl s j := rfl
@[simp] theorem getColl_setTir (f : Tier → Tier) (j : Nat) : getColl (setTir s f) j = getColl s j := rfl
@[simp] theorem getColl_setYard (f : Yard → Yard) (j : Nat) : getColl (setYard s f) j = getColl s j := rfl
@[simp] theorem getColl_setPwr (f : Pwr → Pwr) (j : Nat) : getColl (setPwr s f) j = getColl s j := rfl
@[simp] theorem getColl_setPins (f : Pins → Pins) (j : Nat) : getColl (setPins s f) j = getColl s j := rfl
@[simp] theorem getCGroup_setFace (u : Nat) (f : Face) (j : Nat) : getCGroup (setFace s u f) j = getCGroup s j := rfl
@[simp] theorem getCGroup_setGangFace (g : Nat) (f : GangFace) (j : Nat) : getCGroup (setGangFace s g f) j = getCGroup s j := rfl
@[simp] theorem getCGroup_setCore (k : Nat) (c : Core) (j : Nat) : getCGroup (setCore s k c) j = getCGroup s j := rfl
@[simp] theorem getCGroup_setCtx (c : Nat) (x : Ctx) (j : Nat) : getCGroup (setCtx s c x) j = getCGroup s j := rfl
@[simp] theorem getCGroup_setRiddle (e : Nat) (r : Riddle) (j : Nat) : getCGroup (setRiddle s e r) j = getCGroup s j := rfl
@[simp] theorem getCGroup_setTrw (t : Nat) (w : Tramway) (j : Nat) : getCGroup (setTrw s t w) j = getCGroup s j := rfl
@[simp] theorem getCGroup_setHbm (n : Nat) (h : Hbm) (j : Nat) : getCGroup (setHbm s n h) j = getCGroup s j := rfl
@[simp] theorem getCGroup_setAdit (a : Nat) (x : Adit) (j : Nat) : getCGroup (setAdit s a x) j = getCGroup s j := rfl
@[simp] theorem getCGroup_setColl (d : Nat) (x : Coll) (j : Nat) : getCGroup (setColl s d x) j = getCGroup s j := rfl
@[simp] theorem getCGroup_setPool (p : Nat) (x : Pool) (j : Nat) : getCGroup (setPool s p x) j = getCGroup s j := rfl
@[simp] theorem getCGroup_setBucket (p l : Nat) (b : Bucket) (j : Nat) : getCGroup (setBucket s p l b) j = getCGroup s j := rfl
@[simp] theorem getCGroup_setTirCtx (c : Nat) (x : TirCtx) (j : Nat) : getCGroup (setTirCtx s c x) j = getCGroup s j := rfl
@[simp] theorem getCGroup_setPort (q : Nat) (y : YPort) (j : Nat) : getCGroup (setPort s q y) j = getCGroup s j := rfl
@[simp] theorem getCGroup_setMeas (m : Nat) (x : Meas) (j : Nat) : getCGroup (setMeas s m x) j = getCGroup s j := rfl
@[simp] theorem getCGroup_putSet (i : Nat) (x : SampleSet) (j : Nat) : getCGroup (putSet s i x) j = getCGroup s j := rfl
@[simp] theorem getCGroup_setHst (f : Loader → Loader) (j : Nat) : getCGroup (setHst s f) j = getCGroup s j := rfl
@[simp] theorem getCGroup_setSyn (f : Syn → Syn) (j : Nat) : getCGroup (setSyn s f) j = getCGroup s j := rfl
@[simp] theorem getCGroup_setDrg (f : Drg → Drg) (j : Nat) : getCGroup (setDrg s f) j = getCGroup s j := rfl
@[simp] theorem getCGroup_setDbg (f : Dbg → Dbg) (j : Nat) : getCGroup (setDbg s f) j = getCGroup s j := rfl
@[simp] theorem getCGroup_setAon (f : Aon → Aon) (j : Nat) : getCGroup (setAon s f) j = getCGroup s j := rfl
@[simp] theorem getCGroup_setTir (f : Tier → Tier) (j : Nat) : getCGroup (setTir s f) j = getCGroup s j := rfl
@[simp] theorem getCGroup_setYard (f : Yard → Yard) (j : Nat) : getCGroup (setYard s f) j = getCGroup s j := rfl
@[simp] theorem getCGroup_setPwr (f : Pwr → Pwr) (j : Nat) : getCGroup (setPwr s f) j = getCGroup s j := rfl
@[simp] theorem getCGroup_setPins (f : Pins → Pins) (j : Nat) : getCGroup (setPins s f) j = getCGroup s j := rfl
@[simp] theorem getPool_setFace (u : Nat) (f : Face) (j : Nat) : getPool (setFace s u f) j = getPool s j := rfl
@[simp] theorem getPool_setGangFace (g : Nat) (f : GangFace) (j : Nat) : getPool (setGangFace s g f) j = getPool s j := rfl
@[simp] theorem getPool_setCore (k : Nat) (c : Core) (j : Nat) : getPool (setCore s k c) j = getPool s j := rfl
@[simp] theorem getPool_setCtx (c : Nat) (x : Ctx) (j : Nat) : getPool (setCtx s c x) j = getPool s j := rfl
@[simp] theorem getPool_setRiddle (e : Nat) (r : Riddle) (j : Nat) : getPool (setRiddle s e r) j = getPool s j := rfl
@[simp] theorem getPool_setTrw (t : Nat) (w : Tramway) (j : Nat) : getPool (setTrw s t w) j = getPool s j := rfl
@[simp] theorem getPool_setHbm (n : Nat) (h : Hbm) (j : Nat) : getPool (setHbm s n h) j = getPool s j := rfl
@[simp] theorem getPool_setAdit (a : Nat) (x : Adit) (j : Nat) : getPool (setAdit s a x) j = getPool s j := rfl
@[simp] theorem getPool_setColl (d : Nat) (x : Coll) (j : Nat) : getPool (setColl s d x) j = getPool s j := rfl
@[simp] theorem getPool_setCGroup (g : Nat) (x : CGroup) (j : Nat) : getPool (setCGroup s g x) j = getPool s j := rfl
@[simp] theorem getPool_setBucket (p l : Nat) (b : Bucket) (j : Nat) : getPool (setBucket s p l b) j = getPool s j := rfl
@[simp] theorem getPool_setTirCtx (c : Nat) (x : TirCtx) (j : Nat) : getPool (setTirCtx s c x) j = getPool s j := rfl
@[simp] theorem getPool_setPort (q : Nat) (y : YPort) (j : Nat) : getPool (setPort s q y) j = getPool s j := rfl
@[simp] theorem getPool_setMeas (m : Nat) (x : Meas) (j : Nat) : getPool (setMeas s m x) j = getPool s j := rfl
@[simp] theorem getPool_putSet (i : Nat) (x : SampleSet) (j : Nat) : getPool (putSet s i x) j = getPool s j := rfl
@[simp] theorem getPool_setHst (f : Loader → Loader) (j : Nat) : getPool (setHst s f) j = getPool s j := rfl
@[simp] theorem getPool_setSyn (f : Syn → Syn) (j : Nat) : getPool (setSyn s f) j = getPool s j := rfl
@[simp] theorem getPool_setDrg (f : Drg → Drg) (j : Nat) : getPool (setDrg s f) j = getPool s j := rfl
@[simp] theorem getPool_setDbg (f : Dbg → Dbg) (j : Nat) : getPool (setDbg s f) j = getPool s j := rfl
@[simp] theorem getPool_setAon (f : Aon → Aon) (j : Nat) : getPool (setAon s f) j = getPool s j := rfl
@[simp] theorem getPool_setTir (f : Tier → Tier) (j : Nat) : getPool (setTir s f) j = getPool s j := rfl
@[simp] theorem getPool_setYard (f : Yard → Yard) (j : Nat) : getPool (setYard s f) j = getPool s j := rfl
@[simp] theorem getPool_setPwr (f : Pwr → Pwr) (j : Nat) : getPool (setPwr s f) j = getPool s j := rfl
@[simp] theorem getPool_setPins (f : Pins → Pins) (j : Nat) : getPool (setPins s f) j = getPool s j := rfl
@[simp] theorem getTirCtx_setFace (u : Nat) (f : Face) (j : Nat) : getTirCtx (setFace s u f) j = getTirCtx s j := rfl
@[simp] theorem getTirCtx_setGangFace (g : Nat) (f : GangFace) (j : Nat) : getTirCtx (setGangFace s g f) j = getTirCtx s j := rfl
@[simp] theorem getTirCtx_setCore (k : Nat) (c : Core) (j : Nat) : getTirCtx (setCore s k c) j = getTirCtx s j := rfl
@[simp] theorem getTirCtx_setCtx (c : Nat) (x : Ctx) (j : Nat) : getTirCtx (setCtx s c x) j = getTirCtx s j := rfl
@[simp] theorem getTirCtx_setRiddle (e : Nat) (r : Riddle) (j : Nat) : getTirCtx (setRiddle s e r) j = getTirCtx s j := rfl
@[simp] theorem getTirCtx_setTrw (t : Nat) (w : Tramway) (j : Nat) : getTirCtx (setTrw s t w) j = getTirCtx s j := rfl
@[simp] theorem getTirCtx_setHbm (n : Nat) (h : Hbm) (j : Nat) : getTirCtx (setHbm s n h) j = getTirCtx s j := rfl
@[simp] theorem getTirCtx_setAdit (a : Nat) (x : Adit) (j : Nat) : getTirCtx (setAdit s a x) j = getTirCtx s j := rfl
@[simp] theorem getTirCtx_setColl (d : Nat) (x : Coll) (j : Nat) : getTirCtx (setColl s d x) j = getTirCtx s j := rfl
@[simp] theorem getTirCtx_setCGroup (g : Nat) (x : CGroup) (j : Nat) : getTirCtx (setCGroup s g x) j = getTirCtx s j := rfl
@[simp] theorem getTirCtx_setPool (p : Nat) (x : Pool) (j : Nat) : getTirCtx (setPool s p x) j = getTirCtx s j := rfl
@[simp] theorem getTirCtx_setBucket (p l : Nat) (b : Bucket) (j : Nat) : getTirCtx (setBucket s p l b) j = getTirCtx s j := rfl
@[simp] theorem getTirCtx_setPort (q : Nat) (y : YPort) (j : Nat) : getTirCtx (setPort s q y) j = getTirCtx s j := rfl
@[simp] theorem getTirCtx_setMeas (m : Nat) (x : Meas) (j : Nat) : getTirCtx (setMeas s m x) j = getTirCtx s j := rfl
@[simp] theorem getTirCtx_putSet (i : Nat) (x : SampleSet) (j : Nat) : getTirCtx (putSet s i x) j = getTirCtx s j := rfl
@[simp] theorem getTirCtx_setHst (f : Loader → Loader) (j : Nat) : getTirCtx (setHst s f) j = getTirCtx s j := rfl
@[simp] theorem getTirCtx_setSyn (f : Syn → Syn) (j : Nat) : getTirCtx (setSyn s f) j = getTirCtx s j := rfl
@[simp] theorem getTirCtx_setDrg (f : Drg → Drg) (j : Nat) : getTirCtx (setDrg s f) j = getTirCtx s j := rfl
@[simp] theorem getTirCtx_setDbg (f : Dbg → Dbg) (j : Nat) : getTirCtx (setDbg s f) j = getTirCtx s j := rfl
@[simp] theorem getTirCtx_setAon (f : Aon → Aon) (j : Nat) : getTirCtx (setAon s f) j = getTirCtx s j := rfl
@[simp] theorem getTirCtx_setYard (f : Yard → Yard) (j : Nat) : getTirCtx (setYard s f) j = getTirCtx s j := rfl
@[simp] theorem getTirCtx_setPwr (f : Pwr → Pwr) (j : Nat) : getTirCtx (setPwr s f) j = getTirCtx s j := rfl
@[simp] theorem getTirCtx_setPins (f : Pins → Pins) (j : Nat) : getTirCtx (setPins s f) j = getTirCtx s j := rfl
@[simp] theorem getPort_setFace (u : Nat) (f : Face) (j : Nat) : getPort (setFace s u f) j = getPort s j := rfl
@[simp] theorem getPort_setGangFace (g : Nat) (f : GangFace) (j : Nat) : getPort (setGangFace s g f) j = getPort s j := rfl
@[simp] theorem getPort_setCore (k : Nat) (c : Core) (j : Nat) : getPort (setCore s k c) j = getPort s j := rfl
@[simp] theorem getPort_setCtx (c : Nat) (x : Ctx) (j : Nat) : getPort (setCtx s c x) j = getPort s j := rfl
@[simp] theorem getPort_setRiddle (e : Nat) (r : Riddle) (j : Nat) : getPort (setRiddle s e r) j = getPort s j := rfl
@[simp] theorem getPort_setTrw (t : Nat) (w : Tramway) (j : Nat) : getPort (setTrw s t w) j = getPort s j := rfl
@[simp] theorem getPort_setHbm (n : Nat) (h : Hbm) (j : Nat) : getPort (setHbm s n h) j = getPort s j := rfl
@[simp] theorem getPort_setAdit (a : Nat) (x : Adit) (j : Nat) : getPort (setAdit s a x) j = getPort s j := rfl
@[simp] theorem getPort_setColl (d : Nat) (x : Coll) (j : Nat) : getPort (setColl s d x) j = getPort s j := rfl
@[simp] theorem getPort_setCGroup (g : Nat) (x : CGroup) (j : Nat) : getPort (setCGroup s g x) j = getPort s j := rfl
@[simp] theorem getPort_setPool (p : Nat) (x : Pool) (j : Nat) : getPort (setPool s p x) j = getPort s j := rfl
@[simp] theorem getPort_setBucket (p l : Nat) (b : Bucket) (j : Nat) : getPort (setBucket s p l b) j = getPort s j := rfl
@[simp] theorem getPort_setTirCtx (c : Nat) (x : TirCtx) (j : Nat) : getPort (setTirCtx s c x) j = getPort s j := rfl
@[simp] theorem getPort_setMeas (m : Nat) (x : Meas) (j : Nat) : getPort (setMeas s m x) j = getPort s j := rfl
@[simp] theorem getPort_putSet (i : Nat) (x : SampleSet) (j : Nat) : getPort (putSet s i x) j = getPort s j := rfl
@[simp] theorem getPort_setHst (f : Loader → Loader) (j : Nat) : getPort (setHst s f) j = getPort s j := rfl
@[simp] theorem getPort_setSyn (f : Syn → Syn) (j : Nat) : getPort (setSyn s f) j = getPort s j := rfl
@[simp] theorem getPort_setDrg (f : Drg → Drg) (j : Nat) : getPort (setDrg s f) j = getPort s j := rfl
@[simp] theorem getPort_setDbg (f : Dbg → Dbg) (j : Nat) : getPort (setDbg s f) j = getPort s j := rfl
@[simp] theorem getPort_setAon (f : Aon → Aon) (j : Nat) : getPort (setAon s f) j = getPort s j := rfl
@[simp] theorem getPort_setTir (f : Tier → Tier) (j : Nat) : getPort (setTir s f) j = getPort s j := rfl
@[simp] theorem getPort_setPwr (f : Pwr → Pwr) (j : Nat) : getPort (setPwr s f) j = getPort s j := rfl
@[simp] theorem getPort_setPins (f : Pins → Pins) (j : Nat) : getPort (setPins s f) j = getPort s j := rfl
@[simp] theorem getMeas_setFace (u : Nat) (f : Face) (j : Nat) : getMeas (setFace s u f) j = getMeas s j := rfl
@[simp] theorem getMeas_setGangFace (g : Nat) (f : GangFace) (j : Nat) : getMeas (setGangFace s g f) j = getMeas s j := rfl
@[simp] theorem getMeas_setCore (k : Nat) (c : Core) (j : Nat) : getMeas (setCore s k c) j = getMeas s j := rfl
@[simp] theorem getMeas_setCtx (c : Nat) (x : Ctx) (j : Nat) : getMeas (setCtx s c x) j = getMeas s j := rfl
@[simp] theorem getMeas_setRiddle (e : Nat) (r : Riddle) (j : Nat) : getMeas (setRiddle s e r) j = getMeas s j := rfl
@[simp] theorem getMeas_setTrw (t : Nat) (w : Tramway) (j : Nat) : getMeas (setTrw s t w) j = getMeas s j := rfl
@[simp] theorem getMeas_setHbm (n : Nat) (h : Hbm) (j : Nat) : getMeas (setHbm s n h) j = getMeas s j := rfl
@[simp] theorem getMeas_setAdit (a : Nat) (x : Adit) (j : Nat) : getMeas (setAdit s a x) j = getMeas s j := rfl
@[simp] theorem getMeas_setColl (d : Nat) (x : Coll) (j : Nat) : getMeas (setColl s d x) j = getMeas s j := rfl
@[simp] theorem getMeas_setCGroup (g : Nat) (x : CGroup) (j : Nat) : getMeas (setCGroup s g x) j = getMeas s j := rfl
@[simp] theorem getMeas_setPool (p : Nat) (x : Pool) (j : Nat) : getMeas (setPool s p x) j = getMeas s j := rfl
@[simp] theorem getMeas_setBucket (p l : Nat) (b : Bucket) (j : Nat) : getMeas (setBucket s p l b) j = getMeas s j := rfl
@[simp] theorem getMeas_setTirCtx (c : Nat) (x : TirCtx) (j : Nat) : getMeas (setTirCtx s c x) j = getMeas s j := rfl
@[simp] theorem getMeas_setPort (q : Nat) (y : YPort) (j : Nat) : getMeas (setPort s q y) j = getMeas s j := rfl
@[simp] theorem getMeas_putSet (i : Nat) (x : SampleSet) (j : Nat) : getMeas (putSet s i x) j = getMeas s j := rfl
@[simp] theorem getMeas_setHst (f : Loader → Loader) (j : Nat) : getMeas (setHst s f) j = getMeas s j := rfl
@[simp] theorem getMeas_setSyn (f : Syn → Syn) (j : Nat) : getMeas (setSyn s f) j = getMeas s j := rfl
@[simp] theorem getMeas_setDrg (f : Drg → Drg) (j : Nat) : getMeas (setDrg s f) j = getMeas s j := rfl
@[simp] theorem getMeas_setDbg (f : Dbg → Dbg) (j : Nat) : getMeas (setDbg s f) j = getMeas s j := rfl
@[simp] theorem getMeas_setTir (f : Tier → Tier) (j : Nat) : getMeas (setTir s f) j = getMeas s j := rfl
@[simp] theorem getMeas_setYard (f : Yard → Yard) (j : Nat) : getMeas (setYard s f) j = getMeas s j := rfl
@[simp] theorem getMeas_setPwr (f : Pwr → Pwr) (j : Nat) : getMeas (setPwr s f) j = getMeas s j := rfl
@[simp] theorem getMeas_setPins (f : Pins → Pins) (j : Nat) : getMeas (setPins s f) j = getMeas s j := rfl
@[simp] theorem getSet_setFace (u : Nat) (f : Face) (j : Nat) : getSet (setFace s u f) j = getSet s j := rfl
@[simp] theorem getSet_setGangFace (g : Nat) (f : GangFace) (j : Nat) : getSet (setGangFace s g f) j = getSet s j := rfl
@[simp] theorem getSet_setCore (k : Nat) (c : Core) (j : Nat) : getSet (setCore s k c) j = getSet s j := rfl
@[simp] theorem getSet_setCtx (c : Nat) (x : Ctx) (j : Nat) : getSet (setCtx s c x) j = getSet s j := rfl
@[simp] theorem getSet_setRiddle (e : Nat) (r : Riddle) (j : Nat) : getSet (setRiddle s e r) j = getSet s j := rfl
@[simp] theorem getSet_setTrw (t : Nat) (w : Tramway) (j : Nat) : getSet (setTrw s t w) j = getSet s j := rfl
@[simp] theorem getSet_setHbm (n : Nat) (h : Hbm) (j : Nat) : getSet (setHbm s n h) j = getSet s j := rfl
@[simp] theorem getSet_setAdit (a : Nat) (x : Adit) (j : Nat) : getSet (setAdit s a x) j = getSet s j := rfl
@[simp] theorem getSet_setColl (d : Nat) (x : Coll) (j : Nat) : getSet (setColl s d x) j = getSet s j := rfl
@[simp] theorem getSet_setCGroup (g : Nat) (x : CGroup) (j : Nat) : getSet (setCGroup s g x) j = getSet s j := rfl
@[simp] theorem getSet_setPool (p : Nat) (x : Pool) (j : Nat) : getSet (setPool s p x) j = getSet s j := rfl
@[simp] theorem getSet_setBucket (p l : Nat) (b : Bucket) (j : Nat) : getSet (setBucket s p l b) j = getSet s j := rfl
@[simp] theorem getSet_setTirCtx (c : Nat) (x : TirCtx) (j : Nat) : getSet (setTirCtx s c x) j = getSet s j := rfl
@[simp] theorem getSet_setPort (q : Nat) (y : YPort) (j : Nat) : getSet (setPort s q y) j = getSet s j := rfl
@[simp] theorem getSet_setMeas (m : Nat) (x : Meas) (j : Nat) : getSet (setMeas s m x) j = getSet s j := rfl
@[simp] theorem getSet_setHst (f : Loader → Loader) (j : Nat) : getSet (setHst s f) j = getSet s j := rfl
@[simp] theorem getSet_setSyn (f : Syn → Syn) (j : Nat) : getSet (setSyn s f) j = getSet s j := rfl
@[simp] theorem getSet_setDrg (f : Drg → Drg) (j : Nat) : getSet (setDrg s f) j = getSet s j := rfl
@[simp] theorem getSet_setAon (f : Aon → Aon) (j : Nat) : getSet (setAon s f) j = getSet s j := rfl
@[simp] theorem getSet_setTir (f : Tier → Tier) (j : Nat) : getSet (setTir s f) j = getSet s j := rfl
@[simp] theorem getSet_setYard (f : Yard → Yard) (j : Nat) : getSet (setYard s f) j = getSet s j := rfl
@[simp] theorem getSet_setPwr (f : Pwr → Pwr) (j : Nat) : getSet (setPwr s f) j = getSet s j := rfl
@[simp] theorem getSet_setPins (f : Pins → Pins) (j : Nat) : getSet (setPins s f) j = getSet s j := rfl
theorem getFace_setFace (u : Nat) (f : Face) (j : Nat) : getFace (setFace s u f) j = if j = u then f else getFace s j := mget_mput _ _ _ _ _
@[simp] theorem getFace_setFace_same (u : Nat) (f : Face) : getFace (setFace s u f) u = f := mget_mput_same _ _ _ _
theorem getGangFace_setGangFace (g : Nat) (f : GangFace) (j : Nat) : getGangFace (setGangFace s g f) j = if j = g then f else getGangFace s j := mget_mput _ _ _ _ _
@[simp] theorem getGangFace_setGangFace_same (g : Nat) (f : GangFace) : getGangFace (setGangFace s g f) g = f := mget_mput_same _ _ _ _
theorem getCore_setCore (k : Nat) (c : Core) (j : Nat) : getCore (setCore s k c) j = if j = k then c else getCore s j := mget_mput _ _ _ _ _
@[simp] theorem getCore_setCore_same (k : Nat) (c : Core) : getCore (setCore s k c) k = c := mget_mput_same _ _ _ _
theorem getCtx_setCtx (c : Nat) (x : Ctx) (j : Nat) : getCtx (setCtx s c x) j = if j = c then x else getCtx s j := mget_mput _ _ _ _ _
@[simp] theorem getCtx_setCtx_same (c : Nat) (x : Ctx) : getCtx (setCtx s c x) c = x := mget_mput_same _ _ _ _
theorem getRiddle_setRiddle (e : Nat) (r : Riddle) (j : Nat) : getRiddle (setRiddle s e r) j = if j = e then r else getRiddle s j := mget_mput _ _ _ _ _
@[simp] theorem getRiddle_setRiddle_same (e : Nat) (r : Riddle) : getRiddle (setRiddle s e r) e = r := mget_mput_same _ _ _ _
theorem getTrw_setTrw (t : Nat) (w : Tramway) (j : Nat) : getTrw (setTrw s t w) j = if j = t then w else getTrw s j := mget_mput _ _ _ _ _
@[simp] theorem getTrw_setTrw_same (t : Nat) (w : Tramway) : getTrw (setTrw s t w) t = w := mget_mput_same _ _ _ _
theorem getHbm_setHbm (n : Nat) (h : Hbm) (j : Nat) : getHbm (setHbm s n h) j = if j = n then h else getHbm s j := mget_mput _ _ _ _ _
@[simp] theorem getHbm_setHbm_same (n : Nat) (h : Hbm) : getHbm (setHbm s n h) n = h := mget_mput_same _ _ _ _
theorem getAdit_setAdit (a : Nat) (x : Adit) (j : Nat) : getAdit (setAdit s a x) j = if j = a then x else getAdit s j := mget_mput _ _ _ _ _
@[simp] theorem getAdit_setAdit_same (a : Nat) (x : Adit) : getAdit (setAdit s a x) a = x := mget_mput_same _ _ _ _
theorem getColl_setColl (d : Nat) (x : Coll) (j : Nat) : getColl (setColl s d x) j = if j = d then x else getColl s j := mget_mput _ _ _ _ _
@[simp] theorem getColl_setColl_same (d : Nat) (x : Coll) : getColl (setColl s d x) d = x := mget_mput_same _ _ _ _
theorem getCGroup_setCGroup (g : Nat) (x : CGroup) (j : Nat) : getCGroup (setCGroup s g x) j = if j = g then x else getCGroup s j := mget_mput _ _ _ _ _
@[simp] theorem getCGroup_setCGroup_same (g : Nat) (x : CGroup) : getCGroup (setCGroup s g x) g = x := mget_mput_same _ _ _ _
theorem getPool_setPool (p : Nat) (x : Pool) (j : Nat) : getPool (setPool s p x) j = if j = p then x else getPool s j := mget_mput _ _ _ _ _
@[simp] theorem getPool_setPool_same (p : Nat) (x : Pool) : getPool (setPool s p x) p = x := mget_mput_same _ _ _ _
theorem getTirCtx_setTirCtx (c : Nat) (x : TirCtx) (j : Nat) : getTirCtx (setTirCtx s c x) j = if j = c then x else getTirCtx s j := mget_mput _ _ _ _ _
@[simp] theorem getTirCtx_setTirCtx_same (c : Nat) (x : TirCtx) : getTirCtx (setTirCtx s c x) c = x := mget_mput_same _ _ _ _
theorem getPort_setPort (q : Nat) (y : YPort) (j : Nat) : getPort (setPort s q y) j = if j = q then y else getPort s j := mget_mput _ _ _ _ _
@[simp] theorem getPort_setPort_same (q : Nat) (y : YPort) : getPort (setPort s q y) q = y := mget_mput_same _ _ _ _
theorem getMeas_setMeas (m : Nat) (x : Meas) (j : Nat) : getMeas (setMeas s m x) j = if j = m then x else getMeas s j := mget_mput _ _ _ _ _
@[simp] theorem getMeas_setMeas_same (m : Nat) (x : Meas) : getMeas (setMeas s m x) m = x := mget_mput_same _ _ _ _
theorem getSet_putSet (i : Nat) (x : SampleSet) (j : Nat) : getSet (putSet s i x) j = if j = i then x else getSet s j := mget_mput _ _ _ _ _
@[simp] theorem getSet_putSet_same (i : Nat) (x : SampleSet) : getSet (putSet s i x) i = x := mget_mput_same _ _ _ _

end

end Sys2Proof.Machine
end

