-- ==== Sys2Proof/Laws/Issue.lean ====
section
/-!
SUPPORT. What the shared operations of the sequencer do: the advance of the program counter, the issue of an operation, and the
faults of an instruction.
-/
namespace Sys2Proof.Machine

/-- The last of two updates of a core stays, when the first leaves it in a state that is not the blank one. -/
theorem setCore_setCore (s : State) (k : Nat) (c d : Core) (h : c ≠ {}) : setCore (setCore s k c) k d = setCore s k d := by
  simp only [setCore]
  rw [mput_mput {} s.cores k c d h]

theorem setFace_setFace (s : State) (u : Nat) (f g : Face) (h : f ≠ {}) : setFace (setFace s u f) u g = setFace s u g := by
  simp only [setFace]
  rw [mput_mput {} s.faces u f g h]

/-- A core that has not ended is not the blank one. -/
theorem core_ne_blank (c : Core) (h : c.ended = false) : c ≠ {} := by
  intro e; rw [e] at h; exact absurd h (by decide)

theorem canIssue_ended (s : State) (k : Nat) (h : canIssue s k = true) : (getCore s k).ended = false := by
  simp only [canIssue, sequences, Bool.and_eq_true, Bool.not_eq_true'] at h
  exact h.1.1.2

theorem issue_of (s : State) (k : Nat) (f : Core → State) (h : canIssue s k = true) : issue s k f = f (getCore s k) := by
  simp [issue, h]

theorem popLoops_straight (pc : Nat) (l : List LoopF) (h : ∀ f r, l = f :: r → f.first + f.len ≠ pc) :
    popLoops pc l = (pc, l) := by
  cases l with
  | nil => rfl
  | cons f r => simp [popLoops, h f r rfl]

/-- `next` after an update of the core that leaves it going on straight. -/
theorem next_setCore (s : State) (k : Nat) (c : Core) (he : c.ended = false) (hp : c.pc + 1 < progLen s c)
    (hl : ∀ f r, c.loops = f :: r → f.first + f.len ≠ c.pc + 1) : next (setCore s k c) k = setCore s k (stepped c) := by
  have hpl : progLen (setCore s k c) c = progLen s c := rfl
  have hpop : popLoops (c.pc + 1) c.loops = (c.pc + 1, c.loops) := popLoops_straight _ _ hl
  have hpc : ¬ progLen s c ≤ c.pc + 1 := by omega
  unfold next advance
  simp only [getCore_setCore_same, hpop, hpl, hpc, if_false, setCore_setCore s k c _ (core_ne_blank c he), stepped]

/-- `next` after an update of the core that keeps its program, place, loops and that it has not ended. -/
theorem next_straight (s : State) (k : Nat) (c : Core) (h : Straight s k) (hp : c.pc = (getCore s k).pc)
    (hg : c.prog = (getCore s k).prog) (hl : c.loops = (getCore s k).loops) (he : c.ended = (getCore s k).ended) :
    next (setCore s k c) k = setCore s k (stepped c) := by
  obtain ⟨h1, h2, h3⟩ := h
  refine next_setCore s k c (by rw [he]; exact canIssue_ended s k h1) ?_ ?_
  · rw [hp]; simpa [progLen, hg] using h2
  · rw [hp, hl]; exact h3

/-- `next` with no update before it. -/
theorem next_self (s : State) (k : Nat) (h : Straight s k) : next s k = setCore s k (stepped (getCore s k)) := by
  obtain ⟨h1, h2, h3⟩ := h
  have hpop : popLoops ((getCore s k).pc + 1) (getCore s k).loops = ((getCore s k).pc + 1, (getCore s k).loops) :=
    popLoops_straight _ _ h3
  have hpc : ¬ progLen s (getCore s k) ≤ (getCore s k).pc + 1 := by omega
  unfold next advance
  simp only [hpop, hpc, if_false, stepped]

@[simp] theorem setS_pc (c : Core) (i : BitVec 5) (v : W64) : (setS c i v).pc = c.pc := by unfold setS; split <;> rfl
@[simp] theorem setS_prog (c : Core) (i : BitVec 5) (v : W64) : (setS c i v).prog = c.prog := by unfold setS; split <;> rfl
@[simp] theorem setS_loops (c : Core) (i : BitVec 5) (v : W64) : (setS c i v).loops = c.loops := by unfold setS; split <;> rfl
@[simp] theorem setS_ended (c : Core) (i : BitVec 5) (v : W64) : (setS c i v).ended = c.ended := by unfold setS; split <;> rfl
@[simp] theorem setM_pc (c : Core) (i : BitVec 3) (v : W64) : (setM c i v).pc = c.pc := by unfold setM; split <;> rfl
@[simp] theorem setM_prog (c : Core) (i : BitVec 3) (v : W64) : (setM c i v).prog = c.prog := by unfold setM; split <;> rfl
@[simp] theorem setM_loops (c : Core) (i : BitVec 3) (v : W64) : (setM c i v).loops = c.loops := by unfold setM; split <;> rfl
@[simp] theorem setM_ended (c : Core) (i : BitVec 3) (v : W64) : (setM c i v).ended = c.ended := by unfold setM; split <;> rfl

/-- An instruction that writes one scalar register. -/
theorem writeS_straight (s : State) (k : Nat) (h : Straight s k) (sd : BitVec 5) (v : W64) :
    writeS s k (getCore s k) sd v = setCore s k (stepped (setS (getCore s k) sd v)) :=
  next_straight s k _ h (by simp) (by simp) (by simp) (by simp)

/-- An admitted operation that changes nothing but its core is appended to its queue. -/
theorem issueOp_admitted (s : State) (k q : Nat) (rd wr : List (Nat × Nat)) (o : Core → Op) (h : Admitted s k q rd wr) :
    issueOp s k q rd wr (fun s c => (o c, s)) = setCore s k (withOp (getCore s k) q rd wr (o (getCore s k))) := by
  obtain ⟨h1, h2, h3⟩ := h
  unfold issueOp
  simp only [h2, h3, Bool.not_true, Bool.false_eq_true, if_false]
  exact next_straight s k _ h1 rfl rfl rfl rfl

theorem guarded_of (s t : State) (h : t.drg.need = []) : guarded s t = t := by simp [guarded, h]

end Sys2Proof.Machine
end

