-- ==== Sys2Proof/Laws/Vec.lean ====
section
/-!
SUPPORT. What a vector instruction does to the lanes it writes, and what it leaves.
-/
namespace Sys2Proof.Machine

/-- What `writeLanes` leaves unchanged. -/
theorem writeLanes_frame (k : Nat) (vd : BitVec 5) (fmt : Nat) (g : Nat → Option Nat) (ls : List Nat) (s : State) :
    let t := writeLanes s k vd fmt g ls
    t = { s with cores := t.cores, free := t.free } ∧ (∀ j, j ≠ k → getCore t j = getCore s j) ∧
    getCore t k = { getCore s k with v := (getCore t k).v } ∧
    (∀ j, (∀ i ∈ ls, j ≠ 64 * vd.toNat + i) → mget 0 (getCore t k).v j = mget 0 (getCore s k).v j) := by
  induction ls generalizing s with
  | nil => exact ⟨rfl, fun _ _ => rfl, rfl, fun _ _ => rfl⟩
  | cons i r ih =>
    have step : ∀ (x : Nat) (s1 : State), s1 = { s with free := s1.free } →
        let s2 := setCore s1 k (setV (getCore s1 k) vd i x)
        let t := writeLanes s2 k vd fmt g r
        t = { s with cores := t.cores, free := t.free } ∧ (∀ j, j ≠ k → getCore t j = getCore s j) ∧
        getCore t k = { getCore s k with v := (getCore t k).v } ∧
        (∀ j, (∀ i' ∈ i :: r, j ≠ 64 * vd.toNat + i') → mget 0 (getCore t k).v j = mget 0 (getCore s k).v j) := by
      intro x s1 h1
      obtain ⟨a, b, c, d⟩ := ih (setCore s1 k (setV (getCore s1 k) vd i x))
      have hc : getCore s1 = getCore s := by funext j; rw [h1]; rfl
      refine ⟨?_, ?_, ?_, ?_⟩
      · rw [a, h1]; rfl
      · intro j hj; rw [b j hj, getCore_setCore]; simp [hj, hc]
      · rw [c]; simp [setV, hc]
      · intro j hj
        rw [d j (fun i' hi' => hj i' (List.mem_cons_of_mem _ hi'))]
        simp only [getCore_setCore_same, setV, mget_mput, hc]
        rw [if_neg (hj i (List.mem_cons_self ..))]
    unfold writeLanes
    simp only [List.foldl_cons]
    cases hg : g i with
    | some x => exact step x s rfl
    | none => exact step _ { s with free := s.free + 1 } rfl

/-- Lanes with a stated result hold it, when the lanes are distinct. -/
theorem writeLanes_res (k : Nat) (vd : BitVec 5) (fmt : Nat) (g : Nat → Option Nat) (ls : List Nat) (s : State)
    (hn : ls.Nodup) (i x : Nat) (hi : i ∈ ls) (hx : g i = some x) :
    mget 0 (getCore (writeLanes s k vd fmt g ls) k).v (64 * vd.toNat + i) = BitVec.ofNat 64 x := by
  induction ls generalizing s with
  | nil => cases hi
  | cons j r ih =>
    obtain ⟨hj, hr⟩ := List.nodup_cons.mp hn
    rcases List.mem_cons.mp hi with rfl | hi'
    · unfold writeLanes
      simp only [List.foldl_cons, hx, orFree]
      have := (writeLanes_frame k vd fmt g r (setCore s k (setV (getCore s k) vd i x))).2.2.2 (64 * vd.toNat + i)
        (fun i' hi' e => hj (by have : i = i' := by omega
                                rw [this]; exact hi'))
      exact this.trans (by simp [setV, mget_mput])
    · exact ih _ hr hi'

/-- With a result stated for every lane no free value is taken. -/
theorem writeLanes_free (k : Nat) (vd : BitVec 5) (fmt : Nat) (g : Nat → Option Nat) (ls : List Nat) (s : State)
    (h : ∀ i ∈ ls, (g i).isSome = true) : (writeLanes s k vd fmt g ls).free = s.free := by
  induction ls generalizing s with
  | nil => rfl
  | cons j r ih =>
    unfold writeLanes
    simp only [List.foldl_cons]
    obtain ⟨x, hx⟩ := Option.isSome_iff_exists.mp (h j (List.mem_cons_self ..))
    simp only [hx, orFree]
    exact (ih _ (fun i hi => h i (List.mem_cons_of_mem _ hi)))

/-- What an admitted vector instruction on registers does. -/
theorem vecIssue_admitted (k : Nat) (f : VecF) (ok : Nat → Bool) (wx : Bool) (dst : Nat) (ls : Core → List Nat)
    (g : Core → Nat → Option Nat) (s : State) (hok : ok f.fmt.toNat = true) (h : Admitted s k 6 [] []) :
    VecFrame s k f [] (ls (getCore s k)) (vecIssue k f ok wx dst ls g s) := by
  obtain ⟨hs, hq, ha⟩ := h
  unfold vecIssue
  rw [issue_of _ _ _ hs.1]
  simp only [hok, Bool.not_true, Bool.false_eq_true, if_false, issueOp, hq, ha]
  have fr := writeLanes_frame k f.vd dst (g (getCore s k)) (ls (getCore s k)) s
  generalize hw : writeLanes s k f.vd dst (g (getCore s k)) (ls (getCore s k)) = w at fr ⊢
  obtain ⟨a, b, c, d⟩ := fr
  have hend : (getCore w k).ended = false := by rw [c]; exact canIssue_ended s k hs.1
  have hpl : ∀ e : Core, e.prog = (getCore s k).prog → progLen w e = progLen s (getCore s k) := by
    intro e he; rw [a]; simp [progLen, he]
  have key := next_setCore w k { getCore w k with
    ops := (getCore w k).ops ++ [{ vecOp (getCore s k) wx f.vd (ls (getCore s k)) with id := (getCore w k).nextOp, q := 6, rd := [], wr := [] }]
    nextOp := (getCore w k).nextOp + 1 } hend
    (by rw [hpl _ (by rw [c])]; rw [c]; exact hs.2.1) (by rw [c]; exact hs.2.2)
  rw [key]
  refine ⟨?_, ?_, ?_, ?_⟩
  · simp only [setCore]; rw [a]
  · intro j hj; rw [getCore_setCore]; simp [hj, b j hj]
  · refine ⟨wx, (ls (getCore s k)).map (fun i => (64 * f.vd.toNat + i, BitVec.ofNat 64 (getV (getCore s k) f.vd i))), ?_⟩
    rw [getCore_setCore_same, c]; rfl
  · intro j hj; rw [getCore_setCore_same]; exact d j hj

/-- An admitted vector instruction with a result stated for every lane it writes. -/
theorem vecIssue_writes (k : Nat) (f : VecF) (ok : Nat → Bool) (wx : Bool) (dst : Nat) (ls : Core → List Nat)
    (g : Core → Nat → Option Nat) (s : State) (i : Instr) (res : Nat → Nat) (hok : ok f.fmt.toNat = true)
    (h : Admitted s k 6 [] []) (hi : exec i s = .next (vecIssue k f ok wx dst ls g s)) (hn : (ls (getCore s k)).Nodup)
    (hg : ∀ j ∈ ls (getCore s k), g (getCore s k) j = some (res j)) : VecWrites s k f (ls (getCore s k)) i res := by
  refine ⟨_, hi, vecIssue_admitted k f ok wx dst ls g s hok h, ?_, ?_⟩
  all_goals
    obtain ⟨hs, hq, ha⟩ := h
    unfold vecIssue
    rw [issue_of _ _ _ hs.1]
    simp only [hok, Bool.not_true, Bool.false_eq_true, if_false, issueOp, hq, ha]
    have fr := writeLanes_frame k f.vd dst (g (getCore s k)) (ls (getCore s k)) s
    have hfree := writeLanes_free k f.vd dst (g (getCore s k)) (ls (getCore s k)) s
      (fun j hj => by rw [hg j hj]; rfl)
    have hres := fun j hj => writeLanes_res k f.vd dst (g (getCore s k)) (ls (getCore s k)) s hn j (res j) hj (hg j hj)
    generalize hw : writeLanes s k f.vd dst (g (getCore s k)) (ls (getCore s k)) = w at fr hfree hres ⊢
    obtain ⟨a, b, c, d⟩ := fr
    have hend : (getCore w k).ended = false := by rw [c]; exact canIssue_ended s k hs.1
    have hpl : ∀ e : Core, e.prog = (getCore s k).prog → progLen w e = progLen s (getCore s k) := by
      intro e he; rw [a]; simp [progLen, he]
    have key := next_setCore w k { getCore w k with
      ops := (getCore w k).ops ++ [{ vecOp (getCore s k) wx f.vd (ls (getCore s k)) with
        id := (getCore w k).nextOp, q := 6, rd := [], wr := [] }]
      nextOp := (getCore w k).nextOp + 1 } hend
      (by rw [hpl _ (by rw [c])]; rw [c]; exact hs.2.1) (by rw [c]; exact hs.2.2)
    rw [key]
  · rw [setCore_free, hfree]
  · intro j hj; rw [getCore_setCore_same]; exact hres j hj

theorem activeLanes_nodup (c : Core) (f : VecF) : (activeLanes c f).Nodup := List.Nodup.filter _ List.nodup_range

end Sys2Proof.Machine
end

