-- ==== Sys2Proof/Machine/Slot.lean ====
section
/-!
DEFINITION. The words of programs (04 R133-R157, 07 R226, 08 R260): the instruction or command that a word of a program store
spells, rejecting reserved classes, operations and field values by `none`, and the instruction at a core's pc. Reserved fields are
ignored (04 R134). The commands of the model carry the fields; this is how a program store encodes them.
-/
namespace Sys2Proof.Machine

/-! ### Fields -/

def vecF (w : Nat) : VecF :=
  { vd := BitVec.ofNat 5 (bits w 53 49), va := BitVec.ofNat 5 (bits w 48 44), vb := BitVec.ofNat 5 (bits w 43 39),
    vc := BitVec.ofNat 5 (bits w 38 34), fmt := BitVec.ofNat 4 (bits w 33 30), mask := BitVec.ofNat 3 (bits w 29 27),
    lanes := BitVec.ofNat 6 (bits w 26 21), sreg := BitVec.ofNat 5 (bits w 20 16), areg := BitVec.ofNat 4 (bits w 15 12),
    imm := BitVec.ofNat 12 (bits w 11 0) }

def movF (w : Nat) : MovF :=
  { dst := BitVec.ofNat 4 (bits w 53 50), src := BitVec.ofNat 4 (bits w 49 46), lenSrc := bitAt w 45,
    len := BitVec.ofNat 16 (bits w 44 29), peer := BitVec.ofNat 5 (bits w 28 24), atop := BitVec.ofNat 4 (bits w 23 20),
    sv := BitVec.ofNat 5 (bits w 19 15), sc := BitVec.ofNat 5 (bits w 14 10), sr := BitVec.ofNat 5 (bits w 9 5),
    flag := bitAt w 4, cnt := BitVec.ofNat 4 (bits w 3 0) }

def arrF (w : Nat) : ArrF :=
  { array := BitVec.ofNat 2 (bits w 53 52), flow := BitVec.ofNat 2 (bits w 51 50), fmtA := BitVec.ofNat 4 (bits w 49 46),
    fmtB := BitVec.ofNat 4 (bits w 45 42), aReg := BitVec.ofNat 4 (bits w 41 38), bReg := BitVec.ofNat 4 (bits w 37 34),
    cReg := BitVec.ofNat 4 (bits w 33 30), outFmt := BitVec.ofNat 4 (bits w 29 26), acc := bitAt w 25, mxA := bitAt w 24,
    mxB := bitAt w 23, mSrc := bitAt w 22, mField := BitVec.ofNat 8 (bits w 21 14), kField := BitVec.ofNat 11 (bits w 13 3),
    sr := bitAt w 2, outMx := bitAt w 1, bTier := bitAt w 0 }

def sprF (w : Nat) : SprF :=
  { engine := BitVec.ofNat 1 (bits w 53 53), maskKind := BitVec.ofNat 2 (bits w 52 51), transpose := bitAt w 50,
    fmtA := BitVec.ofNat 4 (bits w 49 46), fmtB := BitVec.ofNat 4 (bits w 45 42), aReg := BitVec.ofNat 4 (bits w 41 38),
    bReg := BitVec.ofNat 4 (bits w 37 34), cReg := BitVec.ofNat 4 (bits w 33 30), outFmt := BitVec.ofNat 4 (bits w 29 26),
    acc := bitAt w 25, mxA := bitAt w 24, mxB := bitAt w 23, mSrc := bitAt w 22, mField := BitVec.ofNat 8 (bits w 21 14),
    kField := BitVec.ofNat 11 (bits w 13 3), sr := bitAt w 2, outMx := bitAt w 1 }

/-! ### Instructions of a core, by class -/

def ctlInstr (k : Fin 512) (w : Nat) : Option Instr :=
  let sd := BitVec.ofNat 5 (bits w 53 49)
  let sa := BitVec.ofNat 5 (bits w 48 44)
  let sb := BitVec.ofNat 5 (bits w 43 39)
  let ad := BitVec.ofNat 4 (bits w 38 35)
  let imm := BitVec.ofNat 32 (bits w 31 0)
  match bits w 59 54 with
  | 0x00 => some (.nop k)
  | 0x01 => some (.endProg k)
  | 0x02 => some (.loop k sa imm)
  | 0x03 => some (.br k (BitVec.ofNat 3 (bits w 34 32)) sa sb imm)
  | 0x04 => some (.li k sd imm)
  | 0x05 => some (.lih k sd imm)
  | 0x06 => some (.add k sd sa sb imm)
  | 0x07 => some (.sub k sd sa sb imm)
  | 0x08 => some (.mul k sd sa sb imm)
  | 0x09 => some (.and k sd sa sb imm)
  | 0x0A => some (.or k sd sa sb imm)
  | 0x0B => some (.xor k sd sa sb imm)
  | 0x0C => some (.shl k sd sa sb imm)
  | 0x0D => some (.shr k sd sa sb imm)
  | 0x0E => some (.sra k sd sa sb imm)
  | 0x0F => some (.min k sd sa sb imm)
  | 0x10 => some (.max k sd sa sb imm)
  | 0x11 => some (.aset k ad sa imm)
  | 0x12 => some (.aadd k ad sa imm)
  | 0x13 => some (.aget k sd ad)
  | 0x14 => some (.rdsys k sd imm)
  | 0x15 => some (.sld k sd ad imm)
  | 0x16 => some (.sst k sa ad imm)
  | _ => none

def synInstr (k : Fin 512) (w : Nat) : Option Instr :=
  let sv := BitVec.ofNat 5 (bits w 53 49)
  let cnt := BitVec.ofNat 4 (bits w 48 45)
  match bits w 59 54 with
  | 0x00 => some (.waittick k (BitVec.ofNat 20 (bits w 24 5)))
  | 0x01 => some (.muster k (BitVec.ofNat 12 (bits w 44 33)))
  | 0x02 => some (.waitc k sv cnt)
  | 0x03 => some (.takec k sv cnt)
  | 0x04 => some (.fence k (BitVec.ofNat 8 (bits w 32 25)))
  | _ => none

def movInstr (k : Fin 512) (w : Nat) : Option Instr :=
  match bits w 59 54 with
  | 0x00 => some (.movL k (movF w))
  | 0x01 => some (.movP k (movF w))
  | 0x02 => some (.movT k (movF w))
  | 0x03 => some (.movHR k (movF w))
  | 0x04 => some (.movHW k (movF w))
  | 0x05 => some (.atom k (movF w))
  | _ => none

def vecInstr (k : Fin 512) (w : Nat) : Option Instr :=
  let f := vecF w
  match bits w 59 54 with
  | 0x00 => some (.vld k f)
  | 0x01 => some (.vst k f)
  | 0x02 => some (.vadd k f)
  | 0x03 => some (.vsub k f)
  | 0x04 => some (.vmul k f)
  | 0x05 => some (.vfma k f)
  | 0x06 => some (.vmax k f)
  | 0x07 => some (.vmin k f)
  | 0x08 => some (.vabs k f)
  | 0x09 => some (.vneg k f)
  | 0x0A => some (.vcvt k f)
  | 0x0B => some (.vexp k f)
  | 0x0C => some (.vlog k f)
  | 0x0D => some (.vtanh k f)
  | 0x0E => some (.vrcp k f)
  | 0x0F => some (.vrsqrt k f)
  | 0x10 => some (.vsqrt k f)
  | 0x11 => some (.vdiv k f)
  | 0x12 => some (.vcmp k f)
  | 0x13 => some (.vsel k f)
  | 0x14 => some (.vbcast k f)
  | 0x15 => some (.vrsum k f)
  | 0x16 => some (.vrmax k f)
  | 0x17 => some (.vrmin k f)
  | 0x18 => some (.vacc k f)
  | 0x19 => some (.vgets k f)
  | 0x1A => some (.vand k f)
  | 0x1B => some (.vor k f)
  | 0x1C => some (.vxor k f)
  | 0x1D => some (.vshl k f)
  | 0x1E => some (.vshr k f)
  | _ => none

/-- The instruction that a word of a core's program spells; none for a reserved class or operation. -/
def slotInstr (k : Fin 512) (w : Nat) : Option Instr :=
  match bits w 63 60 with
  | 0 => ctlInstr k w
  | 1 => synInstr k w
  | 2 => movInstr k w
  | 3 => vecInstr k w
  | 4 => if bits w 59 54 = 0 then some (.matmul k (arrF w)) else none
  | 5 => match bits w 59 54 with
    | 0 => some (.spmm k (sprF w))
    | 1 => some (.pack k (sprF w))
    | _ => none
  | _ => none

/-- The instruction at a core's pc, in the program of its slot (04 R124). -/
def nextInstr (s : State) (k : Fin 512) : Option Instr :=
  let c := mget {} s.cores k.val
  match (programOf s c.prog)[c.pc]? with
  | some w => slotInstr k w.toNat
  | none => none

/-! ### Riddle and Tramway commands -/

def routeF (w0 w1 : Nat) : RouteF :=
  { cfg := BitVec.ofNat 16 (bits w0 59 44), srcCore := BitVec.ofNat 9 (bits w0 43 35), srcStride := BitVec.ofNat 8 (bits w0 34 27),
    scoreAddr := BitVec.ofNat 16 (bits w0 26 11), tM1 := BitVec.ofNat 11 (bits w0 10 0), tag := BitVec.ofNat 16 (bits w1 15 0),
    pool := BitVec.ofNat 4 (bits w1 19 16), scoreFmt := BitVec.ofNat 2 (bits w1 21 20), actAddr := BitVec.ofNat 16 (bits w1 37 22) }

def lrtabF (w : Nat) : LrtabF :=
  { rank := BitVec.ofNat 2 (bits w 59 58), dField := BitVec.ofNat 7 (bits w 57 51), addr := BitVec.ofNat 35 (bits w 34 0) }

/-- The command that starts with word `w0`, `w1` being the word after it (07 R226). -/
def riddleInstr (e : Fin 32) (w0 w1 : Nat) : Option Instr :=
  match bits w0 63 60 with
  | 0 => some (.riddleEnd e)
  | 1 => some (.route e (routeF w0 w1))
  | 2 => some (.lrtab e (lrtabF w0))
  | _ => none

def dispatchF (w0 w1 : Nat) : DispatchF :=
  { cfg := BitVec.ofNat 16 (bits w0 59 44), tag := BitVec.ofNat 16 (bits w0 43 28), group := BitVec.ofNat 6 (bits w0 27 22),
    tokPool := BitVec.ofNat 4 (bits w0 21 18), recPool := BitVec.ofNat 4 (bits w0 17 14), rowFmt := BitVec.ofNat 4 (bits w0 13 10),
    enginesM1 := BitVec.ofNat 5 (bits w0 9 5), dField := BitVec.ofNat 11 (bits w1 10 0), batchAddr := BitVec.ofNat 16 (bits w1 26 11),
    batchStride := BitVec.ofNat 16 (bits w1 42 27), batchField := BitVec.ofNat 8 (bits w1 50 43), layout := bitAt w1 51,
    cnt := BitVec.ofNat 4 (bits w1 55 52), zcomp := bitAt w1 56 }

def combineF (w0 w1 : Nat) : CombineF :=
  { cfg := BitVec.ofNat 16 (bits w0 59 44), tag := BitVec.ofNat 16 (bits w0 43 28), group := BitVec.ofNat 6 (bits w0 27 22),
    resPool := BitVec.ofNat 4 (bits w0 21 18), ansPool := BitVec.ofNat 4 (bits w0 17 14), resFmt := BitVec.ofNat 4 (bits w0 13 10),
    outFmt := BitVec.ofNat 4 (bits w0 9 6), fa := bitAt w0 5, wField := BitVec.ofNat 11 (bits w1 10 0),
    resAddr := BitVec.ofNat 16 (bits w1 26 11), resStride := BitVec.ofNat 16 (bits w1 42 27),
    outAddr := BitVec.ofNat 16 (bits w1 58 43), cnt := BitVec.ofNat 4 (bits w1 62 59), zcomp := bitAt w1 63 }

def xchgF (w0 w1 w2 : Nat) : XchgF :=
  { xkind := BitVec.ofNat 2 (bits w0 59 58), group := BitVec.ofNat 6 (bits w0 57 52), srcAddr := BitVec.ofNat 16 (bits w0 51 36),
    dstAddr := BitVec.ofNat 16 (bits w0 35 20), cnt := BitVec.ofNat 4 (bits w0 19 16), zcomp := bitAt w0 15,
    tokPool := BitVec.ofNat 4 (bits w0 14 11), seg := BitVec.ofNat 16 (bits w1 15 0), lenAddr := BitVec.ofNat 16 (bits w1 31 16),
    permAddr := BitVec.ofNat 27 (bits w1 58 32), tag := BitVec.ofNat 16 (bits w2 15 0) }

/-- The command that starts with word `w0`, with the two words after it (08 R260). -/
def trwInstr (t : Fin 8) (w0 w1 w2 : Nat) : Option Instr :=
  match bits w0 63 60 with
  | 0 => some (.tramwayEnd t)
  | 1 => some (.dispatch t (dispatchF w0 w1))
  | 2 => some (.combine t (combineF w0 w1))
  | 3 => some (.xchg t (xchgF w0 w1 w2))
  | _ => none

end Sys2Proof.Machine
end

