-- ==== Sys2Proof/WellFormed.lean ====
section
/-!
DEFINITION. Which commands are well formed: lengths of data, bodies, packets and frames as the spec fixes them (12 R396, R402;
10 R342, R350; 15 R508, R512, R531), and aligned offsets. Operand widths are in the types. The meanings are total on every
command; these are the shapes in which a command reaches the device.
-/
namespace Sys2Proof

/-- A packet's payload is whole flits, at most 32 of them; a control packet has none (12 R402). -/
def Packet.wf (p : Packet) : Bool :=
  p.payload.length % 64 = 0 && decide (p.payload.length ≤ 2048) && (p.long || p.payload = [])

/-- A slot holds 64 bytes (12 R396). -/
def Slot.wf (x : Slot) : Bool := x.bytes.length = 64

/-- A frame has 38 slots and six SENT and FREED words (12 R396); a discarded frame shows none of them. -/
def Frame.wf (f : Frame) : Bool :=
  f.uncorr || (f.slots.length = 38 && f.slots.all Slot.wf && f.sent.length = 6 && f.freed.length = 6)

/-- A message of the Burgee port is at most 1,024 bytes, eight of them before the body (15 R531, R532). -/
def bodyWf (b : List Byte) : Bool := decide (b.length ≤ 1016)

/-- A codeword access names an aligned codeword, and a write brings 32 bytes (10 R342). -/
def narrowWf (a : BitVec 48) (mask : W32) (d : List Byte) : Bool :=
  a.toNat % 32 = 0 && (mask = 0 || d.length = 32)

/-- A long burst names aligned 2 KiB, and a write brings them (10 R350). -/
def burstWf (a : BitVec 48) (wr : Bool) (d : List Byte) : Bool :=
  a.toNat % 2048 = 0 && (!wr || d.length = 2048)

/-- The shape of a command. -/
def Instr.wf : Instr → Bool
  | .narrowPath _ a mask d _ _ => narrowWf a mask d
  | .longBurst _ a wr d _ _ => burstWf a wr d
  | .blockDescriptor p | .rows p | .result p _ | .cancelled p | .segment p | .packetAccept _ p | .ack p | .notice p
  | .store p | .load p | .atomic p | .loadResp p | .header p | .verdict p | .credit p | .partialVal p _ | .failed p
  | .collectiveResult p | .data p | .imageData p | .report p | .imageArm p => p.wf
  | .linkFrame _ f => f.wf
  | .hwWr _ _ lenM1 d => d.length = 64 * (lenM1.toNat + 1)
  | .hwWrPart _ _ _ d => d.length = 32
  | .hwEvictM _ _ d => d.length = 64
  | .snpRspD _ d => d.length = 64
  | .dragiperFlit b => b.length = 256
  | .regRead _ b | .regWrite _ b | .getIdentity _ b | .getMeasurements _ b | .enrollKey _ b | .revokeKey _ b
  | .getKeys _ b => bodyWf b
  | .registerWrite _ off _ => off.toNat % 8 = 0
  | _ => true

end Sys2Proof
end

