-- ==== Sys2Proof/Tests/Slice0.lean ====
section
/-!
SUPPORT. Tests: terms that the well-formedness check refuses, single commands on small states with results taken from the spec,
and, for every statement with hypotheses, states and operands that meet them.
-/
namespace Sys2Proof.Tests
open Sys2Proof Sys2Proof.Machine

-- one thread at a time: the checks of this file are many and small.
set_option Elab.async false
set_option maxRecDepth 20000

/-! ### Helpers -/

/-- The state that answers a command (the state itself where none does). -/
def after (i : Instr) (s : State) : State := match exec i s with | .next t => t | _ => s

/-- A device with a program 0 of eight instructions, a program 1 of one, gang 1 with cores 0 and 1, and context 0 that runs. -/
def dev0 : State :=
  { State.reset with
    tab := { State.reset.tab with
      programs := [(0, List.replicate 8 0), (1, [0])]
      members := [⟨1, 1, 0, 0⟩, ⟨1, 1, 1, 0⟩] }
    ctxs := [(0, { st := .running, bind := [(0, 0), (1, 1)] })] }

/-- The device with core 0 running for context 0 as `c`. -/
def withCore (c : Core) : State := setFace (setCore dev0 0 c) 0 { st := .running, owner := some 0 }

def core0 : Core :=
  { ended := false, gang := 1, s := [(1, 5), (2, 0xFFFF_FFFF_FFFF_FFFE), (3, 64)], a := [(1, 64)], c := [(1, 3)] }
def s0 : State := withCore core0

theorem straight_of (s : State) (k : Nat) (h : canIssue s k = true) (p : (getCore s k).pc + 1 < progLen s (getCore s k))
    (e : (getCore s k).loops = []) : Straight s k := by
  refine ⟨h, p, ?_⟩
  intro f r g
  rw [e] at g
  cases g

theorem straight_s0 : Straight s0 0 := straight_of s0 0 (by decide) (by decide) (by decide)

/-! ### CTL (04 R124-R138) -/

theorem test_add_wraps : getS (getCore (after (.add 0 4 1 2 1) s0) 0) 4 = 4 := by decide
theorem test_sub : getS (getCore (after (.sub 0 4 1 2 1) s0) 0) 4 = 6 := by decide
theorem test_mul_low : getS (getCore (after (.mul 0 4 2 1 0) s0) 0) 4 = BitVec.ofInt 64 (-10) := by decide
theorem test_and : getS (getCore (after (.and 0 4 1 2 0) s0) 0) 4 = 4 := by decide
theorem test_or : getS (getCore (after (.or 0 4 1 0 2) s0) 0) 4 = 7 := by decide
theorem test_xor : getS (getCore (after (.xor 0 4 1 0 1) s0) 0) 4 = 4 := by decide
/-- a count of 64 shifts by 0. -/
theorem test_shl_modulo : getS (getCore (after (.shl 0 4 1 3 1) s0) 0) 4 = 10 := by decide
theorem test_shr_logical : getS (getCore (after (.shr 0 4 2 3 1) s0) 0) 4 = 0x7FFF_FFFF_FFFF_FFFF := by decide
theorem test_sra_arithmetic : getS (getCore (after (.sra 0 4 2 3 1) s0) 0) 4 = BitVec.allOnes 64 := by decide
theorem test_min_signed : getS (getCore (after (.min 0 4 1 2 0) s0) 0) 4 = 0xFFFF_FFFF_FFFF_FFFE := by decide
theorem test_max_signed : getS (getCore (after (.max 0 4 1 2 0) s0) 0) 4 = 5 := by decide
theorem test_li_extends : getS (getCore (after (.li 0 4 0x8000_0000) s0) 0) 4 = 0xFFFF_FFFF_8000_0000 := by decide
theorem test_lih_keeps_low : getS (getCore (after (.lih 0 2 7) s0) 0) 2 = 0x7_FFFF_FFFE := by decide
theorem test_s0_ignores : getS (getCore (after (.li 0 0 7) s0) 0) 0 = 0 := by decide
theorem test_nop : (getCore (after (.nop 0) s0) 0).pc = 1 := by decide
theorem test_aset : getA (getCore (after (.aset 0 2 1 0xFFFF_FFFF) s0) 0) 2 = 4 := by decide
theorem test_aadd : getA (getCore (after (.aadd 0 1 1 1) s0) 0) 1 = 70 := by decide
theorem test_aget : getS (getCore (after (.aget 0 6 1) s0) 0) 6 = 64 := by decide
/-- a member of rank 1 of gang 1 that runs on core 1. -/
theorem test_rdsys_units : getS (getCore (after (.rdsys 0 4 2) s0) 0) 4 = 2 := by decide
theorem test_rdsys_reserved : (getFace (after (.rdsys 0 4 8) s0) 0).fault = 1 := by decide
theorem test_sst_bytes : readBytes (getCore (after (.sst 0 2 1 8) s0) 0).b0 71 3 = [0, 0xFE, 0xFF] := by decide
theorem test_sst_align : (getFace (after (.sst 0 2 1 1) s0) 0).fault = 2 := by decide
theorem test_sld : getS (getCore (after (.sld 0 4 1 0) (withCore { core0 with b0 := [(64, 3), (71, 0x80)] })) 0) 4 =
  0x8000_0000_0000_0003 := by decide
theorem test_sld_bounds : (getFace (after (.sld 0 4 1 0x27_FFC0) s0) 0).fault = 3 := by decide
/-- n = s1[31:0] + IMM32[15:0] = 7, L = 2. -/
theorem test_loop : (getCore (after (.loop 0 1 0x2_0002) s0) 0).loops = [⟨1, 2, 7⟩] := by decide
theorem test_loop_no_body : (getFace (after (.loop 0 1 2) s0) 0).fault = 1 := by decide
theorem test_br_taken : (getCore (after (.br 0 3 2 1 4) s0) 0).pc = 5 := by decide
theorem test_br_past_end : (getFace (after (.br 0 0 0 0 7) s0) 0).fault = 7 := by decide
theorem test_end : (getFace (after (.endProg 0) s0) 0).st = .idle := by decide

/-! Witnesses of ScalarArithmetic, AddressAndSystemRegisters, SequencerLoadStore, LoopsAndBranches. -/
theorem wit_ScalarArithmetic : Straight s0 (0 : Fin 512).val := straight_s0
theorem wit_AddressAndSystemRegisters : Straight s0 (0 : Fin 512).val ∧ (15 : BitVec 32).toNat % 16 = 15 := ⟨straight_s0, by decide⟩
/-- the last eight bytes of Bench 0; one byte further; and a range that an operation writes. -/
theorem wit_SequencerLoadStore :
    (0x27_FFF8 % 8 = 0 ∧ 0x27_FFF8 + 8 ≤ 0x280000 ∧ (getA core0 1 + (0x27_FFB8 : BitVec 32).signExtend 64).toNat = 0x27_FFF8) ∧
    (getA core0 1 + (0x27_FFC0 : BitVec 32).signExtend 64).toNat = 0x28_0000 ∧
    admits core0 [(0x27_FFF8, 8)] [] = true ∧ admits core0 [] [(0x27_FFF8, 8)] = true ∧
    admits { core0 with ops := [{ op0 .movL with wr := [(64, 1)] }] } [(64, 8)] [] = false := by decide
def core8 : Core := { core0 with loops := List.replicate 8 ⟨0, 5, 1⟩ }
theorem straight_core8 : Straight (withCore core8) 0 := by
  refine ⟨by decide, by decide, ?_⟩
  have e : (getCore (withCore core8) 0).loops = ⟨0, 5, 1⟩ :: List.replicate 7 ⟨0, 5, 1⟩ := by decide
  intro f r g
  rw [e] at g
  cases g
  decide
/-- eight levels are open, and the innermost body ends at instruction 4. -/
theorem wit_LoopsAndBranches : Straight (withCore core8) 0 ∧ 8 ≤ core8.loops.length ∧ core8.pc + 1 + 3 < progLen dev0 core8 ∧
    core8.pc + 1 + 4 < progLen dev0 core8 ∧ progLen dev0 core8 ≤ core8.pc + 1 + 7 :=
  ⟨straight_core8, by decide⟩
def loopEnd : Core := { core0 with pc := 3, loops := [⟨2, 2, 2⟩] }
theorem wit_LoopsAndBranches_end : canIssue (withCore loopEnd) 0 = true ∧ 2 + 2 = loopEnd.pc + 1 ∧ 2 < progLen dev0 loopEnd ∧
    (getCore (after (.nop 0) (withCore loopEnd)) 0).pc = 2 ∧
    (getCore (after (.nop 0) (withCore { loopEnd with loops := [⟨2, 2, 1⟩] })) 0).pc = 4 ∧
    canIssue (withCore { core0 with pc := 7 }) 0 = true ∧ progLen dev0 core0 ≤ 7 + 1 := by decide

/-! ### SYN (04 R139-R141, 01 R36) -/

theorem test_waittick_waits : (getFace (after (.waittick 0 5) s0) 0).st = .waiting := by decide
theorem test_waitc_holds : (getCore (after (.waitc 0 1 1) s0) 0).wait = .count 1 5 false := by decide
theorem test_takec : getC (getCore (after (.takec 0 5 1) (withCore { core0 with s := [(5, 3)] })) 0) 1 = 0 := by decide
theorem test_fence : (getCore (after (.fence 0 0x80) (withCore { core0 with ops := [{ op0 .movL with q := 7 }] })) 0).wait =
  .fence 0x80 := by decide
theorem test_muster_foreign : (getFace (after (.muster 0 9) s0) 0).fault = 5 := by decide
/-- core 1 has arrived; core 0 is the last. -/
def sMuster : State :=
  setFace (setCore s0 1 { core0 with wait := .muster 1 }) 1 { st := .waiting, owner := some 0, arrived := true }
theorem test_muster_last : (getGangFace (after (.muster 0 1) sMuster) 1).gen = 1 ∧
    (getFace (after (.muster 0 1) sMuster) 1).st = .running := by decide
theorem test_waittick_target : (getFace (after (.waittickTarget 0) (after (.waittick 0 5) s0)) 0).st = .running ∧
    (after (.waittickTarget 0) (after (.waittick 0 5) s0)).halyard = 5 := by decide
theorem wit_WaitsOfACore : Straight s0 (0 : Fin 512).val ∧
    s0.tick.last + (0 : BitVec 20).toNat ≤ s0.halyard ∧ s0.halyard < s0.tick.last + (1 : BitVec 20).toNat :=
  ⟨straight_s0, by decide⟩
theorem wit_WaitsOfACore_muster : canIssue sMuster 0 = true ∧ 0 ∈ unitsOf sMuster 0 1 ∧ 0 ∉ unitsOf sMuster 0 2 ∧
    gangArrived (treeFuel sMuster) (setFace (setCore (setFace sMuster 0 { getFace sMuster 0 with st := .waiting }) 0
      { getCore sMuster 0 with wait := .muster 1, stall := 0 }) 0 { getFace sMuster 0 with st := .waiting, arrived := true }) 0 1 1 = true := by
  decide
theorem wit_WaitsOfACore_target : let s := after (.waittick 0 5) s0
    frozen s = false ∧ (getCore s 0).wait = .tick 5 ∧ (getFace s 0).st = .waiting ∧ (getCore s 0).ended = false ∧ s.halyard < 5 ∧
    (getCore s 0).pc + 1 < progLen s (getCore s 0) ∧ (getCore s 0).loops = [] := by decide

/-! ### MOV and ATOM (04 R142-R145) -/

/-- one 64-byte unit from a1 = 64 to a2 = 128; the peer is logical core 1. -/
def mv : MovF := ⟨2, 1, false, 1, 4, 0, 0, 0, 7, true, 3⟩
def sMov : State :=
  setFace (setCore (withCore { core0 with s := [(4, 1)], a := [(1, 64), (2, 128)], b0 := [(64, 7), (127, 9)] }) 1
    { ended := false }) 1 { st := .running, owner := some 0 }

theorem test_movL_issues : ((getCore (after (.movL 0 mv) sMov) 0).ops.map (fun o => (o.q, o.rd, o.wr))) =
  [(7, [(64, 64)], [(128, 64)])] := by decide
theorem test_movL_completes : readBytes (getCore (after (.operationComplete 0 7 true) (after (.movL 0 mv) sMov)) 0).b0 128 64 =
  readBytes (getCore sMov 0).b0 64 64 := by decide
theorem test_movP_completes : (getC (getCore (after (.operationComplete 0 7 true) (after (.movP 0 mv) sMov)) 1) 3,
  readBytes (getCore (after (.operationComplete 0 7 true) (after (.movP 0 mv) sMov)) 1).b0 191 1) = (1, [9]) := by decide
theorem test_mov_zero_units : (getFace (after (.movL 0 { mv with len := 0 }) sMov) 0).fault = 1 := by decide
theorem test_mov_align : (getFace (after (.movL 0 { mv with dst := 3, lenSrc := true, len := 4 })
  (withCore { core0 with s := [(4, 1)], a := [(3, 65)] })) 0).fault = 2 := by decide
theorem test_atom_reserved : (getFace (after (.atom 0 { mv with atop := 10 }) sMov) 0).fault = 1 := by decide
theorem test_atom_request : (after (.atom 0 { mv with atop := 0 }) sMov).fab.nextOrd = 1 := by decide
/-- 64 units from a fabric offset that begins 64 bytes before a 2 KiB border: three pieces. -/
def sFab : State := withCore { core0 with a := [(1, 0x1000_0000_07C0), (2, 128)] }
theorem test_movHR_pieces : ((getCore (after (.movHR 0 { mv with len := 64 }) sFab) 0).ops.map (·.pieces)) = [3] := by decide
theorem test_movHW_bounds : (getFace (after (.movHW 0 { mv with src := 2, dst := 1, len := 0xFFFF }) sFab) 0).fault = 3 := by decide

theorem straight_sMov : Straight sMov 0 := straight_of sMov 0 (by decide) (by decide) (by decide)
theorem wit_MovWithinPackage : movLen (getCore sMov 0) mv = .ok 64 ∧ 64 % 64 = 0 ∧ 128 + 64 ≤ 0x280000 ∧
    Admitted sMov 0 7 [(64, 64)] [(128, 64)] ∧ Admitted sMov 0 7 [(64, 64)] [] ∧
    (∃ e ∈ (getCtx sMov (coreCtx sMov 0)).bind, e.1 = ((getS (getCore sMov 0) mv.peer).toNat)) :=
  ⟨rfl, by decide, by decide, ⟨straight_sMov, by decide, by decide⟩, ⟨straight_sMov, by decide, by decide⟩, by decide⟩
/-- frame 0 of a tier region at a1 = 4096 lies in the first stage slot of core 0. -/
def sTier : State :=
  let s := withCore { core0 with a := [(1, 4096), (2, 128)] }
  { s with tab := { s.tab with regions := [⟨0, 1, 0, 4096, 4096, 0⟩] } }
theorem straight_sTier : Straight sTier 0 := straight_of sTier 0 (by decide) (by decide) (by decide)
theorem test_mov_tier : (getCore (after (.movT 0 mv) sTier) 0).ops.length = 1 := by decide +kernel
theorem wit_MovWithinPackage_faults : canIssue sMov 0 = true ∧ (0 : Nat) % 64 = 0 ∧ (65 : Nat) % 64 ≠ 0 ∧
    0x280000 < 0x27_FFC0 + 64 * 2 ∧ (9 : Nat) < (10 : BitVec 4).toNat := by decide
theorem wit_FabricMovesAndAtomics : movLen (getCore sFab 0) { mv with len := 64 } = .ok 4096 ∧ 128 + 4096 ≤ 0x280000 ∧
    Admitted sFab 0 7 [] [(128, 4096)] ∧ Admitted sFab 0 7 [] [] ∧ 0x1000_0000_07C0 % 8 = 0 :=
  have h : Straight sFab 0 := straight_of sFab 0 (by decide) (by decide) (by decide)
  ⟨rfl, by decide, ⟨h, by decide, by decide⟩, ⟨h, by decide, by decide⟩, by decide⟩

/-! ### VEC (04 R146-R149, 05) -/

/-- lane 0 of v1 and v2: 1.0 and 2.0 in FP32. -/
def vf : VecF := ⟨3, 1, 2, 0, 1, 0, 0, 5, 1, 0⟩
def sVec : State := withCore { core0 with v := [(64, 0x3F80_0000), (128, 0x4000_0000)] }
def lane (i : Instr) : Nat := getV (getCore (after i sVec) 0) 3 0

theorem test_vadd : lane (.vadd 0 vf) = 0x4040_0000 := by decide
theorem test_vsub : lane (.vsub 0 vf) = 0xBF80_0000 := by decide
theorem test_vmul : lane (.vmul 0 vf) = 0x4000_0000 := by decide
theorem test_vfma : lane (.vfma 0 { vf with vc := 1 }) = 0x4040_0000 := by decide
theorem test_vmax : lane (.vmax 0 vf) = 0x4000_0000 := by decide
theorem test_vmin : lane (.vmin 0 vf) = 0x3F80_0000 := by decide
theorem test_vneg : lane (.vneg 0 vf) = 0xBF80_0000 := by decide
theorem test_vabs : lane (.vabs 0 vf) = 0x3F80_0000 := by decide
theorem test_vdiv : lane (.vdiv 0 vf) = 0x3F00_0000 := by decide
theorem test_vrcp : lane (.vrcp 0 { vf with va := 2 }) = 0x3F00_0000 := by decide
/-- 1.0 in FP16. -/
theorem test_vcvt : lane (.vcvt 0 { vf with vc := 2 }) = 0x3C00 := by decide
theorem test_vsel : lane (.vsel 0 vf) = 0x3F80_0000 := by decide
theorem test_vbcast : lane (.vbcast 0 { vf with sreg := 1 }) = 5 := by decide
theorem test_vrsum : lane (.vrsum 0 vf) = 0x3F80_0000 := by decide
theorem test_vrmax : lane (.vrmax 0 { vf with lanes := 1 }) = 0x3F80_0000 := by decide
theorem test_vrmin : lane (.vrmin 0 { vf with lanes := 1 }) = 0 := by decide
theorem test_vgets : getS (getCore (after (.vgets 0 vf) sVec) 0) 5 = 0x3F80_0000 := by decide
theorem test_vcmp_less : getM (getCore (after (.vcmp 0 { vf with vc := 2 }) sVec) 0) 3 =
  (if cmpHolds 2 (.fin false 1 0) (.fin false 1 1) = some true then 1 else 0) := by decide
theorem test_vand_int : lane (.vand 0 { vf with fmt := 10 }) = 0 := by decide
theorem test_vor_int : lane (.vor 0 { vf with fmt := 10 }) = 0x7F80_0000 := by decide
theorem test_vxor_int : lane (.vxor 0 { vf with fmt := 10 }) = 0x7F80_0000 := by decide
theorem test_vadd_saturates : lane (.vadd 0 { vf with fmt := 10, vb := 2, va := 2 }) = 0x7FFF_FFFF := by decide
theorem test_vfma_int : (getFace (after (.vfma 0 { vf with fmt := 10 }) sVec) 0).fault = 1 := by decide
theorem test_vexp_other_format : (getFace (after (.vexp 0 { vf with fmt := 2 }) sVec) 0).fault = 1 := by decide
theorem test_vst : readBytes (getCore (after (.operationComplete 0 6 true) (after (.vst 0 { vf with vd := 1, va := 1 }) sVec)) 0).b0 64 4 =
  (if (vstBytes (getCore sVec 0) { vf with vd := 1, va := 1 } 64) = [] then [0, 0, 0, 0] else [0, 0, 0x80, 0x3F]) := by decide
theorem test_vsqrt : lane (.vsqrt 0 vf) = 0x3F80_0000 := by decide +kernel
theorem test_vrsqrt : lane (.vrsqrt 0 vf) = 0x3F80_0000 := by decide +kernel
theorem test_vlog : lane (.vlog 0 vf) = 0 := by decide +kernel
/-- tanh 1 = 0.76159415…, in FP32 0x3F42F7D6. -/
theorem test_vtanh : lane (.vtanh 0 vf) = 0x3F42_F7D6 := by decide +kernel
/-- integer lanes 5 and 1. -/
def sInt : State := withCore { core0 with v := [(64, 5), (128, 1)] }
theorem test_vshl_int : getV (getCore (after (.vshl 0 { vf with fmt := 10 }) sInt) 0) 3 0 = 10 := by decide +kernel
theorem test_vshr_int : getV (getCore (after (.vshr 0 { vf with fmt := 10 }) sInt) 0) 3 0 = 2 := by decide +kernel
/-- 1.0 in WX48. -/
theorem test_vacc : lane (.vacc 0 vf) = 0x3FE0_0000_0000 := by decide +kernel
theorem test_vld : lane (.vld 0 vf) = 0 := by decide

theorem admitted_sVec : Admitted sVec (0 : Fin 512).val 6 [] [] :=
  ⟨straight_of sVec 0 (by decide) (by decide) (by decide), by decide, by decide⟩
theorem wit_VectorArithmetic : Admitted sVec (0 : Fin 512).val 6 [] [] ∧ (ffmt 1).isSome = true ∧ intW 10 ≠ 0 := ⟨admitted_sVec, by decide⟩
theorem wit_VectorFunctions : Admitted sVec (0 : Fin 512).val 6 [] [] ∧
    (∀ i ∈ activeLanes (getCore sVec 0) vf, (laneVal (getCore sVec 0) vf.va 1 i).isZero = false) := ⟨admitted_sVec, by decide⟩
theorem wit_ReductionsAndCompares : Admitted sVec (0 : Fin 512).val 6 [] [] ∧ vf.fmt.toNat ≠ 9 ∧ vf.fmt.toNat < 15 ∧
    2 ≤ ((List.range (63 + 1)).map (fun i => laneVal (getCore sVec 0) vf.va 1 i)).length := ⟨admitted_sVec, by decide⟩
theorem wit_FormatsRoundTrip : (ffmt 1).isSome = true ∧ (0x3F80_0000 : Nat) < 2 ^ (8 + 23 + 1) ∧ (0x3F80_0000 : Nat) % 2 ^ (8 + 23) ≤ 0x7F7F_FFFF ∧
    intW 13 ≠ 0 ∧ 15 < 2 ^ intW 13 := by decide +kernel
/-- the last four bytes of Bench 0, and one unit further. -/
theorem wit_VectorLoadStore : vf.fmt.toNat < 15 ∧ canIssue sVec 0 = true ∧ 0x27_FFC0 + elemBytes 1 1 ≤ 0x280000 ∧
    0x280000 < 0x28_0000 + elemBytes 1 1 ∧ Admitted sVec (0 : Fin 512).val 6 [(64, 4)] [] :=
  ⟨by decide, by decide, by decide, by decide, straight_of sVec 0 (by decide) (by decide) (by decide), by decide, by decide⟩

/-! ### ARR, SPR and completion (04 R150-R166, 06) -/

/-- FP16 by FP16 into FP32, 16 rows, K = 16: A at 64, B at 1,024, C at 4,096. -/
def arf : ArrF := ⟨0, 0, 2, 2, 1, 2, 3, 1, false, false, false, false, 0, 0, false, false, false⟩
def coreArr : Core :=
  { core0 with a := [(1, 64), (2, 1024), (3, 4096)], b0 := [(65, 0x3C), (1025, 0x40)] }
def sArr : State := withCore coreArr
/-- row 0 of A is 1.0, 0.5 and column 0 of B 2.0, 4.0: element (0, 0) of C is 4.0, and element (0, 1) is 0. -/
theorem test_product : ((product 2 1 false false false 0 [[.fin false 1 0, .fin false 1 (-1)]] [.fin false 1 1 :: List.replicate 31 (.fin false 0 0), .fin false 1 2 :: List.replicate 31 (.fin false 0 0)] [] []).1.flatten.take 8) = [0, 0, 0x80, 0x40, 0, 0, 0, 0] := by decide
theorem test_matmul : (getCore (after (.matmul 0 arf) sArr) 0).ops.map (fun o => (o.kind, o.q, o.wr)) =
  [(.arr, 0, [(4096, 2048)])] := by decide
theorem test_matmul_reserved_flow : (getFace (after (.matmul 0 { arf with flow := 3 }) sArr) 0).fault = 1 := by decide
theorem wit_ArrayAndSparseIssue :
    let ops := acRanges coreArr 2 1 16 16 false false 1 3 ++ bRanges coreArr 2 16 false 2
    arf.bTier = false ∧ arf.flow ≠ 3 ∧ productOk 2 2 1 16 false false false false = true ∧ mOf coreArr false 0 = 16 ∧
    operandFault ops = none ∧ Admitted sArr 0 0 ops (cRanges coreArr 1 16 false 3) :=
  ⟨by decide, by decide, by decide, by decide, by decide, straight_of sArr 0 (by decide) (by decide) (by decide), by decide, by decide⟩
theorem wit_ArrayAndSparseIssue_faults : canIssue sArr 0 = true ∧ 4096 < mOf { coreArr with s := [(0, 0), (5, 4097)] } true 5 ∧
    mOf { coreArr with s := [(5, 0)] } true 5 = 0 ∧ productOk 0 0 1 16 false false false false = false := by decide
/-- a dense tile of 16 × 16 FP16 values (06 R200). -/
def spf : SprF := ⟨0, 0, false, 2, 2, 1, 2, 3, 1, false, false, false, false, 0, 0, false, false⟩
def coreSpr : Core := { coreArr with b0 := [(64, 0x42), (73, 0x3C), (1025, 0x40)] }
def sSpr : State := withCore coreSpr
theorem test_spmm : (getCore (after (.spmm 0 spf) sSpr) 0).ops.map (fun o => (o.kind, o.q, o.wr)) = [(.spr, 4, [(4096, 2048)])] := by
  decide
theorem wit_SpmmIssues :
    let h := parseS8 (readNat coreSpr.b0 64 8)
    admits coreSpr [(64, 8)] [] = true ∧ spmmHdrOk h spf 16 16 = true ∧ 64 + s8Len h ≤ 0x280000 ∧
    (tileRows (readBytes coreSpr.b0 64 (s8Len h)) h).2 = none ∧
    Admitted sSpr 0 4 ((64, s8Len h) :: bRanges coreSpr 2 16 false 2) (cRanges coreSpr 1 16 false 3) :=
  ⟨by decide, by decide, by decide, by decide, straight_of sSpr 0 (by decide) (by decide) (by decide), by decide, by decide⟩
/-- an unstructured mask of 16 × 32 without entries (06 R198), and 16 × 32 FP16 values. -/
def pkf : SprF := { spf with maskKind := 3, kField := 1, outFmt := 2 }
def corePack : Core := { coreArr with b0 := [(64, 0xB0), (66, 0x10)] }
def sPack : State := withCore corePack
theorem test_pack : (getCore (after (.pack 0 pkf) sPack) 0).ops.map (fun o => (o.kind, o.q)) = [(.pack, 4)] := by decide
theorem wit_PackIssues :
    let h := parseS8 (readNat corePack.b0 64 8)
    packOk pkf 32 = true ∧ maskHdrOk h pkf 16 32 = true ∧ (tileCols (readBytes corePack.b0 64 (s8Sparse h)) h (List.range h.rows) 0 []).2 = none ∧
    Admitted sPack 0 4 [(64, s8Sparse h), (1024, 1024)] [(4096, roundUp (s8Dense 2 16 32) 64)] :=
  ⟨by decide, by decide, by decide, straight_of sPack 0 (by decide) (by decide) (by decide), by decide, by decide⟩
theorem wit_OperationCompletes : let s := after (.movP 0 mv) sMov
    frozen s = false ∧ s.drg.need = [] ∧ (getFace s 0).st = .running ∧ (getCore s 0).wait = .none ∧ (getCore s 0).ended = false ∧
    ((getCore s 0).ops.find? (fun x => x.q = 7)).map (fun o => (o.pieces, o.out.length)) = some (0, 1) ∧
    (getCtx s (coreCtx s 0)).st = .running ∧ physIn s (coreCtx s 0) 1 = some 1 ∧ (getCore s 1).wait = .none := by decide
/-- an FP32 addition carries the residue; its mismatch takes back the register and faults the core with ARITH. -/
theorem test_residue : (getFace (after (.operationComplete 0 6 false) (after (.vadd 0 vf) sVec)) 0).fault = 6 ∧
    getV (getCore (after (.operationComplete 0 6 false) (after (.vadd 0 vf) sVec)) 0) 3 0 = 0 := by decide

/-! ### The loader (02 R71-R78) -/

/-- The loader in `t`, after SYNC, on a locked Halyard; the commit count is 100. -/
def sLoad (t : LState) : State :=
  { State.reset with
    pwr := { State.reset.pwr with stage := .ready }
    syn := { State.reset.syn with st := .locked }
    hst := { State.reset.hst with st := t, commitCount := 100 } }

theorem test_begin : (after .begin (sLoad .committed)).hst.st = .staging := by decide +kernel
theorem test_validate : (after .validate (sLoad .staging)).hst.st = .validating := by decide +kernel
/-- no magic number: 02 R72. -/
theorem test_validation_bad_magic : ((after .validationComplete (sLoad .validating)).hst.st, (after .validationComplete (sLoad .validating)).hst.err) =
  (.refused, 1) := by decide +kernel
theorem test_arm_full : (after .arm (sLoad .valid)).hst.st = .armed := by decide +kernel
theorem test_arm_late : (after .arm { sLoad .valid with halyard := 100 }).hst.err = 0x0B := by decide +kernel
theorem test_arm_unlocked : (after .arm { sLoad .valid with syn := State.reset.syn }).hst.err = 0x0A := by decide +kernel
theorem test_cancel : (after .cancel (sLoad .arming)).hst.st = .valid := by decide +kernel
theorem test_cancel_late : (after .cancel (sLoad .installing)).hst.err = 0x0D := by decide +kernel
theorem test_shadow : (after .shadowCopyDone (sLoad .arming)).hst.st = .armed := by decide +kernel
theorem test_commit_installs : ((after .commitCount (sLoad .armed)).hst.st, (after .commitCount (sLoad .armed)).halyard) = (.installing, 100) := by decide +kernel
theorem test_commit_not_drained : (after .commitCount { sLoad .armed with ctxs := [(3, { st := .running })] }).hst.err = 0x0C := by decide +kernel
theorem test_install : ((after .installComplete { sLoad .installing with cores := [(0, core0)] }).hst.st,
  (after .installComplete { sLoad .installing with cores := [(0, core0)] }).cores) = (.committed, []) := by decide +kernel

theorem wit_LoaderCommands : loaderTakes (sLoad .valid) = true ∧ locked (sLoad .valid) = true ∧ (sLoad .valid).halyard < 100 ∧
    locked { sLoad .valid with syn := State.reset.syn } = false ∧ loaderTakes { sLoad .valid with syn := State.reset.syn } = true ∧
    loaderTakes { sLoad .armed with halyard := 100 } = true := by decide +kernel
theorem wit_LoaderCommands_needSync : Instr.arm ∈ [Instr.begin, .validate, .arm, .cancel, .send, .bcastArm, .abandon] ∧
    State.reset.pwr.stage ≠ .sync ∧ State.reset.pwr.stage ≠ .ready ∧
    ({ State.reset.syn with dipSt := .dipped }).dipSt = .dipped := by decide +kernel
theorem mapsOk_reset : MapsOk State.reset := by
  unfold MapsOk MemOk
  decide +kernel
theorem wit_LoaderCompletions : frozen (sLoad .armed) = false ∧ NoHeldLines (sLoad .armed) ∧ MapsOk (sLoad .armed) ∧
    (sLoad .armed).hst.stagedKind = false ∧ (sLoad .armed).halyard < (sLoad .armed).hst.commitCount.toNat ∧
    anyResident (sLoad .armed) = false := by
  unfold MapsOk MemOk NoHeldLines
  decide +kernel
theorem wit_InstallReplacesEverything : frozen (sLoad .installing) = false ∧ NoHeldLines (sLoad .installing) ∧
    (sLoad .installing).hst.st = .installing ∧ (sLoad .installing).syn.armPending = none := by
  unfold NoHeldLines
  decide +kernel

/-! ### Ticks and slots (03 R86-R95, 16 R557) -/

/-- A period of 4 µs, the next boundary at 4,000; context 0 latency-critical and running a step of two ticks. -/
def sTick : State :=
  { dev0 with
    tab := { dev0.tab with
      mode := { dev0.tab.mode with tickUs := 4 }
      ctxs := [⟨0, true, 0, 1, 0, 1⟩]
      steps := [⟨2, 0, 1⟩]
      slots := [⟨0, 7, 1, 0, 10, 100⟩] }
    ctxs := [(0, { st := .running, lc := true, stepOn := true, bind := [(0, 0), (1, 1)] })]
    tick := { period := 4, last := 0, next := 4000, level := 0, slots := [] } }
def sSlot (t : SlotSt) : State := { sTick with tick := { sTick.tick with slots := [⟨0, 0, t, 10, false⟩] } }

/-- L = 1: P = ⌈4 × 9 / 8⌉ = 5; the next boundary is the first multiple of 5,000 at or after 8,000. -/
theorem test_tick_period : let t := after .tickBoundary { sTick with pwr := { sTick.pwr with drvInForce := 1 } }
    (t.tick.last, t.tick.period, t.tick.next) = (4000, 5, 10000) := by decide +kernel
theorem test_overrun : (getCtx (after .tickBoundary (sSlot .pending)) 0).st = .teardown := by decide +kernel
theorem test_slot_issue : let t := after (.slotIssue 0 0) (setCore (sSlot .pending) 0 { core0 with b0 := [(0, 1)] })
    ((getFace t 0).st, (getFace t 0).slot, t.halyard) = (.running, 7, 10) ∧
      ((getCore t 0).s, (getCore t 0).c, (getCore t 0).b0) = ([], [(1, 3)], [(0, 1)]) := by decide +kernel
theorem test_slot_waits : (getCtx (after (.slotIssue 0 0) (setFace (sSlot .pending) 1 { st := .running })) 0).slotWaits = 1 := by decide +kernel
theorem test_slot_retire : (after (.slotRetire 0 0) (sSlot .issued)).tick.slots.map (·.st) = [.retired] := by decide +kernel

theorem wit_TickBoundaryAdvances : frozen sTick = false ∧ NoHeldLines sTick ∧ sTick.tick.period ≠ 0 ∧ sTick.halyard < sTick.tick.next ∧
    sTick.tick.next < 2 ^ 64 := by
  unfold NoHeldLines
  decide +kernel
theorem wit_TickBoundaryAdvances_overrun : MapsOk (sSlot .pending) ∧ (⟨0, 0, .pending, 10, false⟩ : SlotI) ∈ (sSlot .pending).tick.slots ∧
    (getCtx (sSlot .pending) 0).lc = true ∧ (getCtx (sSlot .pending) 0).st = .running := by
  unfold MapsOk MemOk
  decide +kernel
theorem wit_SlotIssueRuns : let s := { sSlot .pending with halyard := 10 }
    frozen s = false ∧ NoHeldLines s ∧ findSlot s 0 0 = some ⟨0, 0, .pending, 10, false⟩ ∧ (getCtx s 0).st = .running ∧
    10 < s.tick.next ∧ (getCtx s 0).settling = false ∧ slotIdle s ⟨0, 0, .pending, 10, false⟩ = true ∧ 10 ≤ s.halyard ∧
    (∀ p ∈ s.tab.programs, p.1 = 0 → p.2 ≠ []) ∧ (∃ p ∈ s.tab.programs, p.1 = 0) := by
  unfold NoHeldLines
  decide +kernel
theorem wit_SlotIssueRuns_waits : slotIdle (setFace (sSlot .pending) 1 { st := .running }) ⟨0, 0, .pending, 10, false⟩ = false := by decide +kernel
theorem wit_SlotIssueRuns_retires : findSlot (sSlot .issued) 0 0 = some ⟨0, 0, .issued, 10, false⟩ ∧
    slotIdle (sSlot .issued) ⟨0, 0, .issued, 10, false⟩ = true ∧ (getCtx (sSlot .issued) 0).lc = true := by decide +kernel

/-! ### Contexts (03 R93-R110) -/

/-- Context 0 in `t`, best-effort with gang 1 and two slots to its step, an image committed, on a locked Halyard; a launch at 5. -/
def sCtx (t : CState) : State :=
  { sLoad .committed with
    tab := { dev0.tab with
      ctxs := [⟨0, false, 0, 1, 0, 1⟩]
      steps := [⟨1, 0, 2⟩]
      slots := [⟨0, 7, 1, 0, 0, 0⟩, ⟨0, 8, 1, 0, 0, 0⟩] }
    ctab := { State.reset.ctab with launchCount := 5 }
    ctxs := [(0, { st := t, bind := [(0, 0), (1, 1)] })] }
def sDecl : State := { sCtx .declared with ctxs := [(0, { st := .declared })] }

theorem test_launch : let t := after (.launch 0) sDecl
    ((getCtx t 0).st, (getCtx t 0).bind, (getFace t 1).owner, t.ctab.err, t.pwr.govQueue) =
      (.armed, [(0, 0), (1, 1)], some 0, 0, [(0, 0), (1, 0)]) := by decide +kernel
theorem test_launch_late : (after (.launch 0) { sDecl with halyard := 5 }).ctab.err = 4 := by decide +kernel
theorem test_save : (getCtx (after (.save 0) (sCtx .running)) 0).st = .saving := by decide +kernel
theorem test_restore_state : (after (.restore 0) (sCtx .running)).ctab.err = 1 := by decide +kernel
theorem test_stop : (getCtx (after (.stop 0) { sCtx .running with ctxs := [(0, { st := .running, stepOn := true })] }) 0).st = .ending := by
  decide +kernel
theorem test_kill : ((getCtx (after (.kill 0) (sCtx .running)) 0).st, (getCtx (after (.kill 0) (sCtx .running)) 0).cause) = (.teardown, 4) := by
  decide +kernel
theorem test_kill_armed : (getCtx (after (.kill 0) (sCtx .armed)) 0).st = .declared := by decide +kernel
theorem test_release : (getCtx (after (.release 0) (sCtx .gone)) 0).st = .declared := by decide +kernel
/-- The context armed at a boundary at 200, its cores awake. -/
def sFirst : State :=
  { sCtx .armed with
    halyard := 200
    tick := { period := 4, last := 200, next := 4000, level := 0, slots := [] }
    pwr := { (sCtx .armed).pwr with awake := [0, 1] } }
theorem test_first_step : ((getCtx (after (.firstStep 0) sFirst) 0).st, (after (.firstStep 0) sFirst).tick.slots) =
  (.running, [⟨0, 0, .pending, 200, false⟩]) := by decide +kernel
def sGone : State := setFace (setFace (sCtx .teardown) 0 { st := .stopped, owner := some 0 }) 1 { st := .stopped, owner := some 0 }
theorem test_teardown_complete : let t := after (.teardownComplete 0) (setCore sGone 0 core0)
    ((getCtx t 0).st, getCore t 0, (getFace t 0).owner) = (.gone, {}, none) := by decide +kernel
def sSaving : State :=
  setCore (setFace (setFace (sCtx .saving) 0 { st := .saving, owner := some 0 }) 1 { st := .saving, owner := some 0 }) 0 core0
theorem test_save_complete : let t := after (.saveComplete 0) sSaving
    ((getCtx t 0).st, t.saved.map (fun v => (v.logical, v.core)), getCore t 0) = (.saved, [(0, core0), (1, {})], {}) := by decide +kernel
/-- One saved core, logical core 0, that goes back to core 2. -/
def sRest : State :=
  { sCtx .restoring with
    tab := { (sCtx .restoring).tab with members := [⟨1, 1, 0, 0⟩] }
    ctxs := [(0, { st := .restoring, bind := [(0, 2)] })]
    saved := [{ ctx := 0, logical := 0, core := core0, wasRunning := true, slot := 7 }]
    pwr := { (sCtx .restoring).pwr with awake := [2] } }
theorem test_restore_complete : let t := after (.restoreComplete 0) sRest
    ((getCtx t 0).st, (getFace t 2).st, (getFace t 2).slot, (getCore t 2).s, t.saved) = (.running, .running, 7, core0.s, []) := by decide +kernel

theorem wit_LaunchChecksAndArms : frozen sDecl = false ∧ ctxRec sDecl 0 = some ⟨0, false, 0, 1, 0, 1⟩ ∧ (getCtx sDecl 0).st = .declared ∧
    sDecl.hst.st = .committed ∧ locked sDecl = true ∧ sDecl.halyard < sDecl.ctab.launchCount.toNat ∧
    (coresFor sDecl ⟨0, false, 0, 1, 0, 1⟩).toOption = some [(0, 0), (1, 1)] := by decide +kernel
theorem wit_ContextCommands : frozen (sCtx .saved) = false ∧ NoHeldLines (sCtx .saved) ∧ (getCtx (sCtx .saved) 0).st = .saved ∧
    ctxRec (sCtx .saved) 0 = some ⟨0, false, 0, 1, 0, 1⟩ ∧
    (coresFor (sCtx .saved) ⟨0, false, 0, 1, 0, 1⟩).toOption.isSome = true ∧ (getCtx (sCtx .running) 0).lc = false := by
  unfold NoHeldLines
  decide +kernel
theorem wit_ContextsStartAndEnd : frozen sFirst = false ∧ NoHeldLines sFirst ∧ MapsOk sFirst ∧ (getCtx sFirst 0).st = .armed ∧
    sFirst.tick.period ≠ 0 ∧ sFirst.halyard = sFirst.tick.last ∧ firstAt sFirst 0 ≤ sFirst.tick.last ∧ allAwake sFirst 0 = true ∧
    sFirst.tab.mode.predictor = false ∧ 0 < (stepRec sFirst 0).slotCount := by
  unfold MapsOk MemOk NoHeldLines
  decide +kernel
theorem wit_ContextsStartAndEnd_ends :
    (MapsOk sSaving ∧ ∀ u ∈ ctxUnits sSaving 0, u < 552 → (getFace sSaving u).st = .saving ∨ (getFace sSaving u).st = .stopped) ∧
    (MapsOk sGone ∧ allStopped sGone 0 = true ∧ hasRequests sGone 0 = false) ∧
    (MapsOk sRest ∧ allAwake sRest 0 = true ∧ sRest.chk = [] ∧ (∀ v ∈ sRest.saved, v.core.ops = [] ∧ v.core.wait = .none ∧ v.core.ended = false) ∧
      ∀ u ∈ ctxUnits sRest 0, u < 512 ∨ 552 ≤ u) := by
  unfold MapsOk MemOk
  decide +kernel

/-! ### Stops, blocked contexts and regulators (01 R34, 03 R114-R120) -/

def sStop (src : BitVec 3) : State := setFace (setCore dev0 0 { core0 with ops := [op0 .movL] }) 0
  { st := .running, owner := some 0, stopIn := true, stopSrc := src }
theorem test_unit_saving : (getFace (after (.unitStop (.core 0)) (sStop 4)) 0).st = .saving := by decide +kernel
theorem test_unit_teardown : ((getFace (after (.unitStop (.core 0)) (sStop 1)) 0).st, (getCore (after (.unitStop (.core 0)) (sStop 1)) 0).ops) =
  (.stopped, []) := by decide +kernel
/-- Context 0 waits on a muster with both cores; context 1 is SAVED. -/
def sBlock : State :=
  { setFace (setFace (setCore (setCore (sCtx .running) 0 { core0 with wait := .muster 1 }) 1 { core0 with wait := .count 1 9 false }) 0
      { st := .waiting, owner := some 0 }) 1 { st := .waiting, owner := some 0 } with
    ctxs := [(0, { st := .running, bind := [(0, 0), (1, 1)], blocked := true }), (1, { st := .saved })] }
theorem test_all_blocked : ((after .allBlocked sBlock).ctab.allBlocked, (after .allBlocked sBlock).halyard) = (true, 20000) := by decide +kernel
/-- A bucket with a level of 100 bytes and a head transfer of 100. -/
def sReg : State :=
  setBucket { State.reset with tab := { State.reset.tab with regs := [⟨0, 1, 1000, 4096⟩] } } 0 1
    { on := true, rate := 1000, burst := 4096, milli := 100000, queue := [⟨100, none, 0, []⟩] }
theorem test_regulator_pass : let b := getBucket (after (.regulatorPass 0 1) sReg) 0 1
    (b.queue, b.milli, b.bytes) = ([], 0, 100) := by decide +kernel
theorem wit_UnitsStopAndBlock : frozen (sStop 4) = false ∧ (getFace (sStop 4) (unitCode (.core 0))).stopIn = true ∧
    unitCode (.core 0) < 512 ∧ allBlockedNow sBlock = true ∧ sBlock.ctab.posted = false := by decide +kernel
theorem wit_UnitsStopAndBlock_regulator : frozen sReg = false ∧ MapsOk sReg ∧ (getBucket sReg 0 1).on = true ∧
    (getBucket sReg 0 1).queue = [⟨100, none, 0, []⟩] ∧ 1000 * 100 ≤ (getBucket sReg 0 1).milli ∧
    (getBucket sReg 0 1).milli ≤ 1000 * depth (getBucket sReg 0 1) := by
  unfold MapsOk MemOk
  decide +kernel

/-! ### Tiers and pools (09 R311-R338) -/

/-- Context 0 declared, with a home window for its settle lists at Bench 1 offset 0x4000_0000. -/
def sSettle : State :=
  { dev0 with
    ctxs := [(0, { st := .declared })]
    tir := { dev0.tir with homes := [⟨0, 0xFFFF, 0, 4096, 0, 0x4000_0000⟩] } }
theorem test_settle : ((getCtx (after (.settle 0) sSettle) 0).settling, (after (.settle 0) sSettle).tir.err) = (true, 0) := by decide +kernel
theorem test_settle_no_list : (after (.settle 0) { sSettle with tir := dev0.tir }).tir.err = 2 := by decide +kernel
/-- an empty list: nothing to wait for. -/
theorem test_settle_complete : let t := after (.settleComplete 0) (after (.settle 0) sSettle)
    ((getCtx t 0).settling, t.tir.done) = (false, true) := by decide +kernel
def unitM : TUnit := ⟨0, 0, 1, 4096, 4096, .b1 0x8000, [], 0, some (.b2 0 0)⟩
def sMig : State := { dev0 with tir := { dev0.tir with units := [unitM] } }
theorem test_migration_switch : (after (.migrationSwitch 0) sMig).tir.units.map (fun u => (u.back, u.mig)) = [(.b2 0 0, none)] := by
  decide +kernel
theorem wit_SettlesAndMigrations : frozen sSettle = false ∧ NoHeldLines sSettle ∧ (getCtx sSettle 0).st = .declared ∧
    (settleList sSettle 0).isSome = true ∧ (getCtx sSettle 0).settling = false ∧
    (settleRun (after (.settle 0) sSettle) 0).1 = true ∧ (getCtx (after (.settle 0) sSettle) 0).settleByCmd = true := by
  unfold NoHeldLines
  decide +kernel
theorem wit_SettlesAndMigrations_switch : frozen sMig = false ∧ NoHeldLines sMig ∧
    sMig.tir.units.find? (fun w => w.ctx.val = 0 && w.mig.isSome) = some unitM ∧ xfersOf sMig 0 1 = [] ∧ unitM.written = [] ∧
    (∃ e ∈ xfersOf { sMig with tir := { sMig.tir with xfers := [⟨0, 0, 1, true, false, 0, [], some false⟩] } } 0 1, e.res = some false) := by
  unfold NoHeldLines
  decide +kernel

/-- Pool 1: four buffers of 1 KiB in Bench 0 of gang 1, one used and returned. -/
def pool1 : Pool := { declared := true, base := 0x1_0000, sizeLog2 := 10, count := 4, gang := 1, fresh := 1, ret := [], refs := [(0, 1)] }
def sPool : State := { dev0 with bpm := { dev0.bpm with pools := [(1, pool1)] } }
theorem test_alloc : let t := after (.alloc 1 2) sPool
    (t.bpm.outcome, t.bpm.index, mget 0 (getPool t 1).refs 1, poolFree (getPool t 1)) = (1, 1, 2, 2) := by decide +kernel
theorem test_alloc_no_pool : (after (.alloc 2 1) sPool).bpm.outcome = 3 := by decide +kernel
theorem test_bpm_release : poolFree (getPool (after (.bpmRelease 1 0) sPool) 1) = 4 := by decide +kernel
theorem test_bpm_reset : poolFree (getPool (after (.bpmReset 1) sPool) 1) = 4 := by decide +kernel
/-- Frame 4,096 of context 0 missed by core 0; its quota has one frame. -/
def sStage : State :=
  { dev0 with
    tab := { dev0.tab with regions := [⟨0, 1, 0, 4096, 4096, 0⟩], quotas := [⟨0, 64, 64, 0⟩] }
    tir := { dev0.tir with misses := [⟨0, 0, 4096⟩] } }
theorem test_stage : (after .stage sStage).tir.staged.map (fun e => (e.core, e.ofs, e.slot)) = [(0, 4096, 0)] := by decide +kernel
theorem wit_PoolsAndStaging : frozen sPool = false ∧ sPool.drg.need = [] ∧ (getPool sPool 1).declared = true ∧
    (getPool sPool 2).declared = false ∧ 0 < poolFree (getPool sPool 1) ∧ (getPool sPool 1).waiters = [] ∧
    poolFree { pool1 with fresh := 4 } = 0 := by decide +kernel
theorem wit_PoolsAndStaging_stage : NoHeldLines sStage ∧ sStage.tir.hints = [] ∧ sStage.tir.misses = [⟨0, 0, 4096⟩] ∧
    (getCtx sStage 0).settling = false ∧ frameB2 sStage 0 4096 = none ∧ mayStage sStage 0 0 = true ∧ stagedAt sStage 0 0 4096 = none ∧
    0 < (quotaOf sStage 0).b0 / 4 ∧ sStage.tir.staged = [] ∧ xfersOf sStage 0 2 = [] := by
  unfold NoHeldLines
  decide +kernel

/-- MOV.T from a frame staged in core 0. -/
def sTierMov : State := withStage (setFace (setCore sStage 0 { core0 with a := [(1, 4096), (2, 128)] }) 0 { st := .running, owner := some 0 })
where withStage (s : State) : State := { s with tir := { s.tir with staged := [⟨0, 0, 4096, 0, 0, none⟩], misses := [] } }
theorem wit_MovWithinPackage_tier : sTierMov.drg.need = [] ∧ movLen (getCore sTierMov 0) mv = .ok 64 ∧
    (∀ e ∈ pieces 4096 4096 64, (regionAt sTierMov 0 e.1).isSome = true ∧ (stagedAt sTierMov 0 0 e.1).isSome = true) ∧
    Admitted sTierMov 0 7 (stagedRanges sTierMov 0 0 4096 64) [(128, 64)] :=
  ⟨by decide +kernel, rfl, by decide +kernel,
    straight_of sTierMov 0 (by decide +kernel) (by decide +kernel) (by decide +kernel), by decide +kernel, by decide +kernel⟩

/-! ### The Riddle (07) -/

/-- Configuration 5: four experts, two choices. -/
def rcfg : RiddleCfg := ⟨5, 4, 2, 0, false, false, 0, 0, 16, 0⟩
def rf : RouteF := ⟨5, 0, 0, 1, 0, 3, 1, 0, 8⟩
/-- Engine 0 runs program 2 of gang 2; the block of core 0 at 64 has one token, SEQ `seq`, scores 1, 2, 0, 0. -/
def sRdl (seq : Byte) : State :=
  let s := { sPool with
    tab := { sPool.tab with
      programs := [(2, List.replicate 6 0)]
      members := [⟨1, 1, 0, 0⟩, ⟨2, 2, 0, 0⟩]
      parts := [⟨0, 1, 2⟩]
      riddle := [rcfg]
      placement := [⟨5, 0, [⟨0, 1⟩]⟩, ⟨5, 1, [⟨0, 1⟩]⟩] } }
  let s := setCore s 0 { core0 with b0 := [(64, 1), (68, seq), (72, 9), (130, 0x80), (131, 0x3F), (135, 0x40)] }
  setRiddle (setFace s 512 { st := .running, owner := some 0 }) 0 { prog := 2, gang := 2, ended := false }
def sScored : State := after (.scoreBlock 0 true) (after (.route 0 rf) (sRdl 3))
def sBuilt : State := after (.capacityExchange 0) sScored

theorem test_route_takes : let t := after (.route 0 rf) (sRdl 3)
    ((getRiddle t 0).phase, (getRiddle t 0).op.map (fun o => (o.tokens, o.tokenBase, o.keff))) = (.load, some (1, 9, 2)) := by decide +kernel
theorem test_route_waits : (getFace (after (.route 0 rf) (sRdl 4)) 512).st = .waiting := by decide +kernel
theorem test_route_source : (getFace (after (.route 0 { rf with srcCore := 9 }) (sRdl 3)) 512).fault = 9 := by decide +kernel
theorem test_lrtab_rank : (getFace (after (.lrtab 0 ⟨3, 0, 0⟩) (sRdl 3)) 512).fault = 1 := by decide +kernel
theorem test_riddle_end : (getFace (after (.riddleEnd 0) (sRdl 3)) 512).st = .idle := by decide +kernel
/-- expert 1 comes first, then expert 0. -/
theorem test_score_choices : (getRiddle sScored 0).op.map (fun o => o.choices.map (fun c => (c.1, c.2.1, c.2.2.1))) =
  some [(0, 0, 1), (0, 1, 0)] := by decide +kernel
theorem test_score_residue : (getFace (after (.scoreBlock 0 false) (after (.route 0 rf) (sRdl 3))) 512).fault = 6 := by decide +kernel
theorem test_exchange_builds : (getRiddle sBuilt 0).op.map (fun o => o.list.map (fun l => (l.live, l.spoil, l.buf))) = some (some (2, 0, 1)) := by
  decide +kernel
theorem test_handover : let t := after (.handover 0) sBuilt
    ((getTrw t 0).queue.length, (getRiddle t 0).pc, t.rdl.routes) = (1, 2, 1) := by decide +kernel

theorem wit_RiddleCommands : rdlIssues (sRdl 3) 0 = true ∧ (getRiddle (sRdl 3) 0).pc.toNat + 2 < rdlWords (sRdl 3) (getRiddle (sRdl 3) 0) ∧
    (sRdl 3).tab.riddle.find? (fun c => c.cfg = 5) = some rcfg ∧ routeFault (sRdl 3) 0 0 rf (some rcfg) = none ∧
    natAt (b0Read (sRdl 3) 0 0 64 16) 4 4 = 3 ∧ routeFault (sRdl 3) 0 0 { rf with cfg := 6 } none = some 1 := by decide +kernel
theorem wit_RiddleWork : frozen (after (.route 0 rf) (sRdl 3)) = false ∧ NoHeldLines (after (.route 0 rf) (sRdl 3)) ∧
    (getRiddle (after (.route 0 rf) (sRdl 3)) 0).op.isSome = true ∧ (getFace (after (.route 0 rf) (sRdl 3)) (rdlUnit 0)).st = .running ∧
    (getRiddle (after (.route 0 rf) (sRdl 3)) 0).phase = .load := by
  unfold NoHeldLines
  decide +kernel
theorem wit_RiddleWork_exchange : NoHeldLines sScored ∧ (getRiddle sScored 0).phase = .exchange ∧ rdlGroup sScored 0 = [0] ∧
    (getPool sScored 1).declared = true ∧ (getPool sScored 1).bench1 = false ∧ (getPool sScored 1).waiters = [] ∧
    0 < poolFree (getPool sScored 1) ∧ 0 < queueFree sScored 0 := by
  unfold NoHeldLines
  decide +kernel
theorem wit_RiddleWork_handover : NoHeldLines sBuilt ∧ sBuilt.chk = [] ∧ rdlGroup sBuilt 0 = [0] ∧ listBuilt sBuilt 0 = true ∧
    (getRiddle sBuilt 0).op.map (fun o => (o.reserved, o.list.isSome)) = some (true, true) ∧
    (getFace sBuilt (rdlUnit 0)).stopIn = false ∧ (getRiddle sBuilt 0).pc.toNat + 2 < rdlWords sBuilt (getRiddle sBuilt 0) ∧
    (getCtx sBuilt 0).st = .running := by
  unfold NoHeldLines
  decide +kernel
def sFull : State := after (.capacityExchange 0) (setPool sScored 1 { pool1 with fresh := 4 })
theorem wit_RiddleWork_served : (getPool sFull 1).waiters = [(.riddle 0, 1)] ∧
    0 < poolFree (getPool (after (.bpmRelease 1 0) sFull) 1) ∧ (getPool (after (.bpmRelease 1 0) sFull) 1).waiters = [(.riddle 0, 1)] ∧
    (getPool (after (.allocationServed 1) (after (.bpmRelease 1 0) sFull)) 1).waiters = [] := by decide +kernel

/-! ### The Tramway (08) -/

/-- Engine 0 of the die of core 0 runs program 3 for context 0; its queue holds the list of the routed token; pool 1 has 16 buffers. -/
def sTrw : State :=
  let s := after (.handover 0) sBuilt
  let s := { s with
    tab := { s.tab with
      programs := [(2, List.replicate 6 0), (3, List.replicate 12 0)]
      members := [⟨1, 1, 0, 0⟩, ⟨2, 2, 0, 0⟩, ⟨2, 3, 0, 0⟩]
      groups := [⟨1, 1, 1, 1, 0⟩] }
    hst := { s.hst with activeId := 1 } }
  let s := setPool s 1 { getPool s 1 with count := 16 }
  setTrw (setFace s 544 { st := .running, owner := some 0 }) 0 { getTrw s 0 with prog := 3, gang := 2, ended := false }
def dispF : DispatchF := ⟨5, 3, 1, 1, 1, 2, 0, 0, 0x400, 0x100, 0, false, 1, false⟩
def combF : CombineF := ⟨5, 3, 1, 1, 1, 2, 2, false, 0, 0x800, 0x100, 0xC00, 2, false⟩
def xchgF : XchgF := ⟨0, 1, 0x100, 0x200, 3, false, 1, 1, 0, 0, 9⟩
def sDisp : State := after (.dispatch 0 dispF) sTrw
def sTaken : State := after (.intake 0) sDisp

theorem test_dispatch : ((getTrw sDisp 0).opStarted, (getTrw sDisp 0).tabs.map (fun x => (x.expert, x.gang, x.j))) =
  (1, [(0, 1, 0), (1, 1, 1)]) := by decide +kernel
theorem test_dispatch_unknown_cfg : (getFace (after (.dispatch 0 { dispF with cfg := 6 }) sTrw) 544).fault = 1 := by decide +kernel
theorem test_intake : ((getTrw sTaken 0).queue, (getTrw sTaken 0).recs.length, mget 0 (getTrw sTaken 0).epoch 0) = ([], 1, 1) := by
  decide +kernel
/-- both targets are of this node: two descriptors, and one part for each expert. -/
theorem test_census : let w := getTrw (after (.census 0) sTaken) 0
    w.census = [(0, 5, 3, 0)] := by decide +kernel
theorem test_combine_nothing : let w := getTrw (after (.combine 0 combF) sTrw) 0
    (w.op.isSome, w.opDone, w.pc) = (false, 1, 3) := by decide +kernel
theorem test_xchg_kind : (getFace (after (.xchg 0 { xchgF with xkind := 2 }) sTrw) 544).fault = 1 := by decide +kernel
theorem test_tramway_end : (getFace (after (.tramwayEnd 0) sTrw) 544).st = .idle := by decide +kernel
theorem test_abort_unknown : (getTrw (after (.abort 0 0 7) sTrw) 0).abortRes = 3 := by decide +kernel
theorem test_abort_dispatch : let w := getTrw (after (.abort 0 0 1) sDisp) 0
    (w.abortRes, w.op.map (·.aborted)) = (2, some true) := by decide +kernel

theorem wit_TramwayCommands : trwIssues sTrw 0 = true ∧ NoHeldLines sTrw ∧ dispFault sTrw 0 dispF = none ∧ (getTrw sTrw 0).held = [] ∧
    (getTrw sTrw 0).census = [] ∧ combFault sTrw 0 combF = none ∧ (getTrw sTrw 0).out = [] ∧ (getTrw sTrw 0).recs = [] ∧
    (getTrw sTrw 0).tabs = [] ∧ (getTrw sTrw 0).pc.toNat + 3 < trwWords sTrw (getTrw sTrw 0) ∧ xchgFault sTrw 0 xchgF = none ∧
    groupGang sTrw 1 = some 1 ∧ xchgMine sTrw 0 0 (gangCores sTrw 1) = [(0, 0)] := by
  unfold NoHeldLines
  decide +kernel
/-- the record of the DISPATCH, whose tables have gone. -/
def sComb : State := setTrw sTaken 0 { getTrw sTaken 0 with op := none, tabs := [] }
theorem wit_TramwayCommands_combine : trwIssues sComb 0 = true ∧ NoHeldLines sComb ∧ combFault sComb 0 combF = none ∧
    (getTrw sComb 0).recs.length = 1 ∧ (recsFor sComb 0 0 5 3 (getCtx sComb 0).stepsDone) = (getTrw sComb 0).recs ∧
    (∀ r ∈ (getTrw sComb 0).recs, 0 < r.list.live ∧ r.answers = []) ∧ (getPool sComb 1).declared = true ∧ (getPool sComb 1).waiters = [] ∧
    bufNeed sComb 1 (areaSize sComb combF 2) ≤ poolFree (getPool sComb 1) := by
  unfold NoHeldLines
  decide +kernel
theorem wit_TramwayWork : NoHeldLines sDisp ∧ (getTrw sDisp 0).op.isSome = true ∧
    (getTrw sDisp 0).op.map (fun o => (o.todo, o.aborted, censusDone (getTrw sDisp 0) o dispF, (intakeList (getTrw sDisp 0) o dispF).isSome, o.seq)) =
      some ([], false, false, true, 1) ∧
    (getFace sDisp 544).st = .running ∧ (getPool sDisp 1).declared = true ∧ (getPool sDisp 1).waiters = [] ∧ 0 < poolFree (getPool sDisp 1) ∧
    mget 0 (getTrw sDisp 0).hist 1 = 1 ∧ (getTrw sDisp 0).out = [] ∧ (getTrw sDisp 0).wants = [] ∧ (getTrw sDisp 0).parked = [] := by
  unfold NoHeldLines
  decide +kernel
/-- a stop has reached the engine, which sends nothing. -/
def sStopT : State := setFace sTaken 544 { getFace sTaken 544 with stopIn := true }
theorem wit_TramwayWork_census : (getTrw sStopT 0).op.map (fun o => ((nodeRecs sStopT o dispF).length, o.aborted,
      ((((nodeRecs sStopT o dispF).filter (fun e => e.1 = 0)).map (fun e => e.2)).flatMap
        (partsOf ((nodeRecs sStopT o dispF).map (·.2)))).length)) = some (1, false, 2) ∧
    (getTrw sStopT 0).held = [] ∧
    ∀ i : Fin 8, i ≠ 0 → (getTrw sStopT i.val).op = none ∧ (getTrw sStopT i.val).held = [] := by decide +kernel

/-! Packets of the Tramway. -/

/-- A one-flit packet of the Tramway for context 0 of this node. -/
def trwPkt (flits : Nat) (pay : List Byte) : Packet :=
  withCrc { pkt0 with vc := 2, op := 8, w3 := BitVec.ofNat 64 (2 ^ 32 * flits), payload := pay }
/-- expert 0, gang 1, one row (08 R268). -/
def descPkt : Packet := trwPkt 1 (blockDesc 5 3 0 1 0 1 ++ List.replicate 32 0)
def sDesc : State := after (.blockDescriptor descPkt) sDisp
/-- a part of one row of expert 0 with its tag, its body 64 bytes (08 R269). -/
def rowPkt : Packet := withCrc { trwPkt 3 (bytesOf 8 (5 + 2 ^ 16 * 3 + 2 ^ 48) ++ bytesOf 8 0 ++ bytesOf 2 0 ++ bytesOf 2 1 ++ bytesOf 4 1 ++
  bytesOf 4 64 ++ List.replicate 36 0 ++ bytesOf 8 77 ++ List.replicate 56 0 ++ List.replicate 64 5) with psn := 1 }

theorem test_block_descriptor : (getTrw sDesc 0).tabs.map (fun x => (x.expert, x.srcs)) = [(0, [(0, some 1)]), (1, [(0, none)])] := by
  decide +kernel
theorem test_rows : ((getTrw (after (.rows rowPkt) sDesc) 0).tabs.map (fun x => x.rows.map (fun r => (r.row, r.node, r.tag)))) =
  [[(0, 0, 77)], []] := by decide +kernel
theorem test_rows_wait : ((after (.rows rowPkt) sDisp).tramways, (after (.rows rowPkt) sDisp).fab.inject) = (sDisp.tramways, sDisp.fab.inject) := by
  decide +kernel
theorem test_cancelled : ((getTrw (after (.cancelled rowPkt) sDesc) 0).tabs.map (fun x => x.rows.map (fun r => r.cancelled))) = [[true], []] := by
  decide +kernel
theorem test_result_no_first : ((after (.result (withCrc { rowPkt with w3 := 2 ^ 32 * 3 + 1 }) true) sDisp).fab.inject.map (fun e => e.2.status)) =
  [4] := by decide +kernel
theorem test_segment_gone : (after (.segment descPkt) { sDisp with ctxs := [(0, { st := .gone })] }).fab.inject.map (fun e => e.2.status) = [1] := by
  decide +kernel

theorem wit_TramwayPackets : frozen sDisp = false ∧ NoHeldLines sDisp ∧ descPkt.long = true ∧ descPkt.op = 8 ∧
    descPkt.dest.toNat = node sDisp ∧ (takeDelivery sDisp descPkt).isSome = true ∧ badOp descPkt = false ∧
    ((takeDelivery sDisp descPkt).map (fun u => (freshOf u descPkt, noImage u, (getCtx u 0).st, (descsIn descPkt).length,
      (descsIn descPkt).map (fun d => (descTab u 0 d).isSome)))) = some (.fresh, false, .running, 1, [true]) := by
  unfold NoHeldLines
  decide +kernel

/-! ### HBM (10) -/

/-- Stack 1 in `t`, the device powered. -/
def sHbm (t : HState) : State := { State.reset with hbms := [(1, { st := t })] }
def rq : Requester := ⟨0, 0⟩

theorem test_narrow_write : (mget 0 (after (.narrowPath 1 64 3 (List.replicate 32 9) [] rq) (sHbm .service)).bench1 (key 1 65),
  mget 0 (after (.narrowPath 1 64 3 (List.replicate 32 9) [] rq) (sHbm .service)).bench1 (key 1 66)) = (9, 0) := by decide +kernel
theorem test_narrow_dropped : mget 0 (getFace (after (.narrowPath 1 64 3 [] [] rq) (sHbm .failed)) 553).cnt 15 = 1 := by decide +kernel
theorem test_long_burst : (after (.longBurst 1 2048 true [1, 2] [] rq) (sHbm .service)).bench1 = [(key 1 2048, 1), (key 1 2049, 2)] := by
  decide +kernel
theorem test_train : (getHbm (after (.hbmTrain 1 true []) (sHbm .training)) 1).st = .service := by decide +kernel
theorem test_train_id : (getFace (after (.hbmTrain 1 false []) (sHbm .training)) 553).fault = 0x0A := by decide +kernel
theorem test_test_enter : (getHbm (after (.testEnter 1) (sHbm .service)) 1).st = .test := by decide +kernel
theorem test_test_exit : (getHbm (after (.testExit 1) (sHbm .test)) 1).st = .service := by decide +kernel
theorem test_retrain : (getHbm (after (.retrain 1) (sHbm .service)) 1).st = .retrain := by decide +kernel
theorem test_retrain_done : (getHbm (after (.hbmCommandDone 1 true []) (after (.retrain 1) (sHbm .service))) 1).st = .service := by decide +kernel
theorem test_sppr_state : (getHbm (after (.sppr 1) (sHbm .service)) 1).err = 1 := by decide +kernel
theorem test_hppr_sid : (getHbm (after (.hppr 1) { State.reset with hbms := [(1, { st := .test, sid := 3 })] }) 1).err = 4 := by decide +kernel
theorem test_clear_marks : (getHbm (after (.clearMarks 1) { State.reset with hbms := [(1, { st := .service, marked := [(4, 1)] })] }) 1).marked =
  [] := by decide +kernel
theorem test_temperature : (getHbm (after (.temperatureRead 1 70) (sHbm .service)) 1).temp = 70 := by decide +kernel
theorem test_refresh : mget 0 (getFace (after (.refresh 1) (sHbm .service)) 553).cnt 12 = 1 := by decide +kernel
theorem test_rfm : mget 0 (getFace (after (.rfm 1) (sHbm .service)) 553).cnt 13 = 1 := by decide +kernel
theorem test_mark_interval : (getHbm (after (.markInterval 1) { State.reset with hbms := [(1, { st := .service, corr := [(3, 1)] })] }) 1).corr = [] := by
  decide +kernel
theorem test_test_burst_state : (getHbm (after (.testBurst 1) (sHbm .service)) 1).err = 1 := by decide +kernel
theorem test_test_burst_write : (after (.testBurstComplete 1 []) (after (.testBurst 1)
    { State.reset with hbms := [(1, { st := .test, burstWrite := true, burstAddr := 4096, burstBuf := [(2, 7)] })] })).bench1 =
  [(key 1 4098, 7)] := by decide +kernel
theorem test_1500_shift : (getHbm (after (.hbm1500Shift 1) (sHbm .test)) 1).shiftGo = true := by decide +kernel
theorem test_shift_complete : (getHbm (after (.shiftComplete 1) (after (.hbm1500Shift 1) (sHbm .test))) 1).shifts = 1 := by decide +kernel

theorem wit_HbmAccesses : hbmOn (sHbm .service) = true ∧ frozen (sHbm .service) = false ∧ NoHeldLines (sHbm .service) ∧
    (getHbm (sHbm .service) 1).st = .service ∧ (trainBase - 2048) / 2048 * 2048 < trainBase ∧ (trainBase - 32) / 32 * 32 < trainBase ∧
    (getHbm (sHbm .service) 1).marked = [] ∧ (sHbm .service).chk = [] := by
  unfold NoHeldLines
  decide +kernel
theorem wit_HbmCommands : hbmOn (sHbm .test) = true ∧ hbmBusy (sHbm .service) = false ∧
    hbmBusy { sHbm .service with ctxs := [(0, { st := .running })] } = true ∧ (getFace (sHbm .service) 553).st ≠ .faulted ∧
    (getHbm (after (.retrain 1) (sHbm .service)) 1).jobs = [(3, 0)] ∧ firstFail [] [] = none ∧
    (sHbm .test).halyard % 1000000 = 0 ∧ hbmAwake (getHbm (sHbm .test) 1) = true := by decide +kernel
theorem wit_HbmCommands_training : (getHbm (sHbm .training) 1).st = .training ∧ firstFail (getHbm (sHbm .training) 1).hardRepaired [] = none ∧
    (firstFail (getHbm (sHbm .training) 1).hardRepaired [⟨0, 1, false⟩, ⟨0, 2, false⟩, ⟨0, 3, false⟩]).isSome = true := by decide +kernel

/-! ### The Yard (11) and the adits (12) -/

/-- Node 0 with chassis-role adit 9 up towards node 5, an image committed and a route to nodes 1 to 9 over adit 9. -/
def sNet : State :=
  { State.reset with
    hst := { State.reset.hst with activeId := 1 }
    pwr := { State.reset.pwr with stage := .ready }
    tab := { State.reset.tab with adits := [⟨0, 9, true, 0, 5⟩], routes := [⟨0, 1, 9, role 9, 0x200⟩] }
    adits := [(9, { st := .up, partnerReady := true, partnerNode := 5, partnerNodeValid := true })] }
/-- A control packet for node 5. -/
def ctl : Packet := withCrc { pkt0 with dest := 5, long := false, op := 1 }
def sInj (p : Packet) : State := { sNet with fab := { sNet.fab with inject := [(0, p)] } }

theorem test_accept_route : (after (.packetAccept 0 ctl) (sInj ctl)).yard.out.map (fun e => (e.port, e.inPort)) = [(17, 0)] := by decide +kernel
theorem test_accept_no_route : (after (.packetAccept 0 { ctl with dest := 20 }) (sInj { ctl with dest := 20 })).fab.noRoute = 1 := by decide +kernel
theorem test_transmit : (getAdit (after (.transmit 9 0) (after (.packetAccept 0 ctl) (sInj ctl))) 9).tx.map (·.dest) = [5] := by decide +kernel
theorem test_admit : (after (.packetAdmit 0 0) { sNet with yard := { sNet.yard with stage := [(0, ctl)] } }).yard.out.map (·.port) = [17] := by
  decide +kernel
def grp : CmbGroup := ⟨0, 0, 5, [ctl], some ctl, 10⟩
theorem test_group_expiry : (after .groupEntryExpiry { sNet with yard := { sNet.yard with groups := [grp] } }).yard.groups = [] := by decide +kernel
def frame0 : Frame :=
  ⟨0, 5, 9, true, false, true, false, 0, List.replicate 6 0, List.replicate 6 0, [⟨0, pktHeader ctl 0 ctl.crc.toNat ++ List.replicate 32 0⟩], false, 0⟩
theorem test_link_frame : ((getAdit (after (.linkFrame 9 frame0) sNet) 9).rx.map (·.dest), (getAdit (after (.linkFrame 9 frame0) sNet) 9).framesRx) =
  ([5], 1) := by decide +kernel
theorem test_link_frame_discarded : (getAdit (after (.linkFrame 9 { frame0 with uncorr := true }) sNet) 9).fecUncorr = 1 := by decide +kernel
theorem test_training : (getAdit (after (.trainingAttempt 9) { sNet with adits := [(9, { st := .down })], halyard := 1000000 }) 9).st = .training := by
  decide +kernel
def partner9 : Partner := ⟨5, 9, true, true, false, 7⟩
theorem test_link_up : (getAdit (after (.linkUp 9 partner9) { sNet with adits := [(9, { st := .training })] }) 9).st = .up := by decide +kernel
theorem test_miswired : (getAdit (after (.linkUp 9 { partner9 with node := 6 }) { sNet with adits := [(9, { st := .training })] }) 9).st =
  (if role 9 = 3 then .miswired else .up) := by decide +kernel
theorem test_link_down : ((getAdit (after (.linkDown 9 true) sNet) 9).st, (getAdit (after (.linkDown 9 true) sNet) 9).downCause) = (.down, 2) := by
  decide +kernel

/-- A 64-byte load of line 0 of node 5. -/
def ld : Packet := withCrc { pkt0 with dest := 5, vc := 1, op := 2, w3 := 2 ^ 52 }
theorem wit_PacketsAreAccepted : frozen (sInj ctl) = false ∧ NoHeldLines (sInj ctl) ∧ (sInj ctl).tab.mode.bunting = false ∧
    stageRoom (sInj ctl) 0 0 = true ∧ ctl.stomp = false ∧ (sInj ctl).yard.groups = [] ∧ mergeable ctl = false ∧
    routeOf (sInj ctl) 0 ctl = .adit 9 ∧ outPortOf (sInj ctl) 0 ctl = some 17 ∧ routeOf (sInj ctl) 0 { ctl with dest := 20 } = .drop 0x11 ∧
    mergeable ld = true ∧ samePlace ld { ld with psn := 9 } = true := by
  unfold NoHeldLines
  decide +kernel
/-- a packet for this node enters a die output. -/
theorem wit_PacketsAreAccepted_here : let p := { ctl with dest := 0 }
    outPortOf (sInj p) 0 p = some (herePort (sInj p) p) ∧ herePort (sInj p) p < 8 ∧
    occ (sInj p) (herePort (sInj p) p) 0 + pktLen p ≤ partSize (herePort (sInj p) p) 0 ∧ (sInj p).yard.conns = [] := by decide +kernel
theorem wit_PacketsMoveOn : let s := after (.packetAccept 0 ctl) (sInj ctl)
    frozen s = false ∧ NoHeldLines s ∧ aditUp s 9 = true ∧ aditUp s 8 = false ∧
    (s.yard.out.find? (fun e => e.port = 8 + 9 && e.pkt.vc.toNat = 0)).map (fun e => (creditFor s 9 e.pkt, e.pkt.bad)) = some (true, false) ∧
    grp.expiry ≤ 10 := by
  unfold NoHeldLines
  decide +kernel
theorem wit_LinksOfAnAdit : mainUp sNet = true ∧ MapsOk sNet ∧ (getAdit sNet 9).st = .up ∧ (getAdit sNet 8).st ≠ .up ∧ frame0.uncorr = false ∧
    frame0.goingDown = false ∧ (getAdit sNet 9).lossPending = false ∧ frozen sNet = false ∧ sNet.pwr.stage = .ready ∧
    partnerOk sNet 9 partner9 = true ∧ partnerOk sNet 9 { partner9 with adit := 24 } = false := by
  unfold MapsOk MemOk
  decide +kernel

/-! ### End-to-end protocol and home units (12) -/

/-- Core 0 of context 0 waits for two answers of a MOV.HW (operation 4) to node 5; the request has PSN 7. -/
def stReq : Packet := withCrc { pkt0 with dest := 5, vc := 1, op := 1, psn := 7, payload := List.replicate 64 1 }
def ent : SendEnt := { pkt := stReq, owner := .movHW 0 4, due := 100, resends := 0, waitAns := false }
def sReq : State :=
  let s := setFace (setCore { sNet with tab := { sNet.tab with members := dev0.tab.members }, ctxs := dev0.ctxs } 0
    { core0 with ops := [{ op0 .movHW with id := 4, q := 7, pieces := 2 }], nextOp := 5 }) 0 { st := .running, owner := some 0 }
  { s with fab := { s.fab with table := [ent] } }
def ackOf (status : Byte) : Packet := withCrc { pkt0 with src := 5, long := false, op := 1, psn := 7, status := status }

theorem test_ack_ok : let t := after (.ack (ackOf 0)) sReq
    ((getCore t 0).ops.map (·.pieces), t.fab.table, t.fab.acks) = ([1], [], 1) := by decide +kernel
theorem test_ack_wait : (after (.ack (ackOf 4)) sReq).fab.table.map (fun e => (e.waitAns, e.due)) = [(true, 16 * 16)] := by decide +kernel
theorem test_ack_range : (getFace (after (.ack (ackOf 3)) sReq) 0).fault = 8 := by decide +kernel
theorem test_ack_late : (after (.ack (withCrc { ackOf 0 with psn := 8 })) sReq).fab.lateAcks = 1 := by decide +kernel
def noticeP : Packet := withCrc { ackOf 0x10 with op := 2 }
theorem test_notice : (getFace (after (.notice noticeP) sReq) 0).fault = 8 := by decide +kernel
theorem test_timeout_resends : let t := after (.e2eTimeout 5 7) { sReq with halyard := 100 }
    (t.fab.resends, t.fab.inject.length, t.fab.table.map (·.resends)) = (1, 1, [1]) := by decide +kernel
theorem test_wait_retry : (after (.waitRetry 5 7) { sReq with fab := { sReq.fab with table := [{ ent with waitAns := true, due := 0 }] } }).fab.waits = 1 := by
  decide +kernel
/-- A load of core 0 answered: 64 bytes at 128. -/
def respP : Packet := withCrc { pkt0 with src := 5, vc := 5, op := 4, psn := 7, payload := List.replicate 64 8 }
def sLd : State :=
  let s := setCore sReq 0 { core0 with ops := [{ op0 .movHR with id := 4, q := 7, pieces := 2 }] }
  { s with fab := { s.fab with table := [{ ent with pkt := { stReq with op := 2 }, owner := .movHR 0 4 128 }] } }
theorem test_load_resp : readBytes (getCore (after (.loadResp respP) sLd) 0).b0 127 66 = 0 :: List.replicate 64 8 ++ [0] := by decide +kernel
def pen : Held := { pkt := { stReq with pennant := true }, owner := .movHW 0 4, part := none, port := 0 }
theorem test_pennant : (after (.pennantRelease 5) { sNet with fab := { sNet.fab with held := [pen] } }).fab.table.map (·.owner) = [.movHW 0 4] := by
  decide +kernel

theorem wit_AnswersComplete : frozen sReq = false ∧ NoHeldLines sReq ∧ (ackOf 0).dest.toNat = node sReq ∧
    ((takeDelivery sReq (ackOf 0)).map (fun u => (u.fab.held, matchEnt u (ackOf 0), (getCtx u 0).st, (getCore u 0).ops.map (fun o => (o.id, o.pieces))))) =
      some ([], some ent, .running, [(4, 2)]) ∧
    ((takeDelivery sLd respP).map (fun u => ((matchEnt u respP).map (·.owner), (getCtx u 0).lc))) = some (some (.movHR 0 4 128), false) ∧
    (takeDelivery sReq noticeP).isSome = true := by
  unfold NoHeldLines
  decide +kernel
theorem wit_RequestsAreSentAgain : let s := { sReq with halyard := 100 }
    frozen s = false ∧ NoHeldLines s ∧ findEnt s 5 7 = some ent ∧ ent.waitAns = false ∧ ent.due ≠ 0 ∧ ent.due ≤ s.halyard ∧ findEnt s 5 8 = none ∧
    sendAllowed { sNet with fab := { sNet.fab with held := [pen] } } pen = true ∧
    pennantFree { sNet with fab := { sNet.fab with held := [pen] } } pen = true := by
  unfold NoHeldLines
  decide +kernel

/-- A home window of context 0 at fabric offset 0, and line `0` of it in a home unit. -/
def sHome : State :=
  { sNet with
    ctxs := [(0, { st := .running })]
    hbms := (List.range 32).map (fun n => (n, { st := .service }))
    tir := { sNet.tir with homes := [⟨0, 0, 0, 4096, 0, homeBase⟩] } }
def toHome (op : BitVec 5) (w3 : W64) (pay : List Byte) : Packet := withCrc { pkt0 with src := 5, vc := 1, op := op, w3 := w3, payload := pay }
theorem test_store : peekHome (after (.store (toHome 1 64 (List.replicate 64 3))) sHome) (homeBase + 64) 2 = [3, 3] := by decide +kernel
theorem test_store_range : (after (.store (toHome 1 32 (List.replicate 64 3))) sHome).fab.inject.map (fun e => e.2.status) = [3] := by decide +kernel
theorem test_load_answers : (after (.load (toHome 2 (2 ^ 52) [])) sHome).fab.inject.map (fun e => (e.2.op, e.2.payload)) = [(4, List.replicate 64 0)] := by
  decide +kernel
/-- fetch-and-add of 5 at offset 8. -/
def addP : Packet := withCrc { toHome 3 8 [] with w4 := 5 }
theorem test_atomic : (peekHome (after (.atomic addP) sHome) (homeBase + 8) 1, (after (.atomic addP) sHome).fab.inject.map (fun e => e.2.w4)) =
  ([5], [0]) := by decide +kernel
def sLine : State := { sHome with lines := [⟨homeUnit homeBase, homeBase / 64, List.replicate 64 6, 0⟩], ns := 1000 }
theorem test_writeback : (after (.lineWriteback ⟨homeUnit homeBase, by decide +kernel⟩) sLine).lines = [] ∧
    readBytes (after (.lineWriteback ⟨homeUnit homeBase, by decide +kernel⟩) sLine).bench1 (interleave homeBase) 1 = [6] := by decide +kernel

theorem wit_HomeRequests : frozen sHome = false ∧ NoHeldLines sHome ∧ sHome.chk = [] ∧ (∀ n ∈ List.range 32, (getHbm sHome n).marked = []) ∧
    addP.long = true ∧ addP.dest.toNat = node sHome ∧ badOp addP = false ∧
    ((takeDelivery sHome addP).map (fun u => (freshOf u addP, (memTarget (openSession u addP) addP).toOption,
      settleHolds (openSession u addP) 8 8))) = some (.fresh, some (homeBase + 8), false) ∧
    ((takeDelivery sHome (toHome 1 64 (List.replicate 64 3))).map (fun u => (doorbell u (toHome 1 64 (List.replicate 64 3))).isNone)) = some true := by
  unfold NoHeldLines
  decide +kernel
theorem wit_RequestsAreSentAgain_line : sLine.lines.length = 1 ∧ ceilDiv (5 * (0 + 256)) 8 ≤ sLine.ns ∧ 16 * frameSize ≤ 64 * (homeBase / 64) ∧
    64 * (homeBase / 64) < hostWindow ∧ served sLine (homeBase / 64 / 64 % 32) = true := by decide +kernel

/-! ### Collectives (13) -/

/-- Group 0 over core 0 of node 0 (rank 0) and core 0 of node 5 (rank 1). -/
def sCol : State :=
  { sNet with
    tab := { sNet.tab with members := [⟨1, 1, 0, 0⟩, ⟨1, 1, 0, 5⟩], groups := [⟨0, 1, 1, 4, 0⟩] }
    ctxs := [(0, { st := .running, bind := [(0, 0)] })] }
/-- An all-reduce (kind 0) or a broadcast from rank 1 (kind 3) of 64 bytes. -/
def cdesc (kind : Nat) : CDesc :=
  { group := 0, kind := kind, rop := 0, fmt := 1, var_ := false, empty := false, sparse := false, zcomp := false, cnt := 2, stagePool := 0,
    cseq := 3, core := 0, srcAddr := 0, dstAddr := 16, statusAddr := 32, len := 64, arg := 1, granules := 0, ctx := 0, step := 0 }
def cmem (kind : Nat) : CMem := ⟨0, cdesc kind, false, 0, [], [], false⟩
def cop (kind : Nat) : COp := { group := 0, cseq := 3, ctx := 0, mems := [cmem kind], verdict := if kind = 3 then none else some false }
def sOp (o : COp) : State := { sCol with colls := [(0, { ops := [o] })] }
/-- A body of one row of 64 bytes `x`, its bytes as they are (12 R420). -/
def body (x : Byte) : List Byte := [1, 0, 0, 0, 1, 0, 0, 0] ++ List.replicate 64 x ++ List.replicate 56 0
/-- A packet of the operation from node 5. -/
def collP (phase chunk level lo : Nat) (mis : Bool) (pay : List Byte) : Packet :=
  withCrc { pkt0 with src := 5, vc := 2, op := 9, payload := pay, w4 := BitVec.ofNat 64 (collW4 0 3 phase chunk),
                      w5 := BitVec.ofNat 64 (collW5 0 mis false level lo) }

theorem test_collective_start : ((getColl (after (.collectiveStart 0 0) { sCol with colls := [(0, { queue := [cdesc 0] })] }) 0).ops.map
  (fun o => (o.cseq, o.mems.map (·.rank)))) = [(3, [0])] := by decide +kernel
theorem test_header_kept : (getColl (after (.header (collP 0 0 0 1 false [])) sCol) 0).early.map (fun e => (e.2.1, e.2.2.lo)) = [(3, 1)] := by
  decide +kernel
theorem test_verdict_mismatch : ((getColl (after (.verdict (collP 1 0 0 0 true [])) (sOp { cop 0 with verdict := none })) 0).ops.length,
  (getCGroup (after (.verdict (collP 1 0 0 0 true [])) (sOp { cop 0 with verdict := none })) 0).lastStatus) = (0, 1) := by
  decide +kernel
theorem test_credit : ((getColl (after (.credit (collP 6 1 0 1 false [])) (sOp { cop 3 with verdict := none })) 0).ops.map (·.credit)) =
  [[(5, 1, 0, 1)]] := by decide +kernel
theorem test_partial : (getColl (after (.partialVal (collP 2 0 0 1 false (body 0)) true) (sOp { cop 0 with verdict := none })) 0).chunksRecv =
  1 := by decide +kernel
theorem test_failed : ((getColl (after (.failed (collP 5 1 1 0 false [])) (sOp { cop 0 with verdict := none })) 0).ops.map
  (fun o => o.mems.map (·.failed))) = [[[1]]] := by decide +kernel
theorem test_result : let t := after (.collectiveResult (collP 3 1 1 0 false (body 5))) (sOp { cop 0 with verdict := none })
    ((getColl t 0).ops.map (fun o => o.mems.map (·.done)),
     readBytes (getCore t 0).b0 (1024 + 31) 3) = ([[[1]]], [0, 5, 5]) := by decide +kernel
theorem test_data : readBytes (getCore (after (.data (collP 4 0 0 1 false (body 6))) (sOp (cop 3))) 0).b0 1023 3 = [0, 6, 6] := by
  decide +kernel

theorem wit_CollectivesStart : let s := { sCol with colls := [(0, { queue := [cdesc 0] })] }
    frozen s = false ∧ NoHeldLines s ∧ nextCseq (getColl s 0) 0 = some 3 ∧ nextCseq (getColl s 1) 0 = none ∧
    (cLocal s 0).filter (fun m => dieOf s 0 m.2 = 0) = [(0, 0)] ∧ collSends s 0 = true ∧
    hdrStep (after (.collectiveStart 0 0) s) 0 0 3 = none ∧ (takeDelivery s (collP 0 0 0 1 false [])).isSome = true := by
  unfold NoHeldLines
  decide +kernel
theorem wit_CollectivesStart_packets : let s := sOp { cop 3 with verdict := none }
    (takeDelivery s (collP 1 0 0 0 true [])).map (fun u => (noImage (openSession u (collP 1 0 0 0 true [])), (getCtx u 0).st,
      (nodeCops u 0 3).map (·.1))) = some (false, .running, [0]) ∧ (findCop s 0 0 3).isSome = true ∧
    (∃ k ∈ expects { cop 3 with verdict := none } (cGeo s { cop 3 with verdict := none }) (cmem 3), k ∉ (cmem 3).done ∧ k ∉ (cmem 3).failed) := by
  decide +kernel
theorem wit_CollectiveValues : let s := sOp (cop 0)
    let p := collP 3 1 1 0 false (body 5)
    let q := collP 2 0 0 1 false (body 5)
    frozen s = false ∧ NoHeldLines s ∧ msgFlits p ≤ flits p ∧ partOfs p = 0 ∧ s.fab.msgs = [] ∧
    (takeDelivery s p).isSome = true ∧ (takeDelivery s q).isSome = true ∧ nodeCops s 0 3 = [(0, cop 0)] ∧
    (parentCop s (collFld q)).map (fun e => (e.1, e.2.1)) = some (0, cop 0) ∧ parentCop s (collFld (collP 2 1 0 1 false [])) = none ∧
    (collFld p).level = cDepth (cMembers s 0).length ∧ (collFld q).level ≠ cDepth (cMembers s 0).length ∧
    (expects (cop 0) (cGeo s (cop 0)) (cmem 0)).contains 1 = true ∧
    (expects (cop 3) (cGeo s (cop 3)) (cmem 3)).contains (1 * 2 ^ 32 + 0) = true := by
  unfold NoHeldLines
  decide +kernel

/-! ### The Halyard, the Dip, counters and samples (14) -/

def sSyn (y : Syn) : State := { sNet with syn := y }
/-- LOCKED with one child 70 of a broadcast of image 9, the loader VALID. -/
def child70 : BChild := ⟨70, 0, none, 7, none⟩
def sBc : State :=
  { sNet with
    syn := { sNet.syn with st := .locked, chHi := 1, bst := .sending, isOrigin := true, sentId := 9, children := [child70] }
    hst := { sNet.hst with st := .valid } }

theorem test_root : (after (.parentAdit true 0 false) State.reset).syn.st = .locked := by decide +kernel
theorem test_parent : (after (.parentAdit false 9 true) (sSyn { st := .free })).syn.st = .free := by decide +kernel
theorem test_holdover_expiry : (after .holdoverExpiry (sSyn { st := .holdover })).syn.st = .free := by decide +kernel
theorem test_slew : (after (.holdoverSlew true) (sSyn { st := .holdover })).syn.slews = 0 := by decide +kernel
theorem test_slew_advance : (after (.holdoverSlew true) { sSyn { st := .holdover, recent := [(10000000, 1)] } with ns := 10000000, halyard := 50 }).halyard =
  52 := by decide +kernel
theorem test_dip_req : (after (.dipReq true) sNet).syn.dipSrc = 2 := by decide +kernel
theorem test_firmware_dip : (after .firmwareDipRequest sNet).syn.dipSrc = 5 := by decide +kernel
theorem test_dip_at : (after .synDipAt (sSyn { atArmed := true, dipAt := 40 })).halyard = 40 := by decide +kernel
theorem test_dip_cut : (after .dipCut (sSyn { dipSt := .pending, dipCutNs := 26 })).ns = 26 := by decide +kernel
def sCnt : State := setFace sNet 0 { cnt := [(0, 7), (1, 8)] }
theorem test_cnt_reset : (getFace (after (.dbgCntReset (2 ^ 33)) sCnt) 0).cnt = [(0, 7)] := by decide +kernel
theorem test_sample_fire : (getSet (after (.sampleFire 1) { sNet with dbg := { sNet.dbg with sets := [(1, { en := true })] }, halyard := 1500 }) 1).lastFire =
  2001 := by decide +kernel
def sStrobe : State :=
  { sCnt with
    hbms := (List.range 32).map (fun n => (n, { st := .service }))
    dbg := { sCnt.dbg with
      samp := { base := 0x600000000, size := 16 }
      sets := [(1, { en := true, tkind := 1, mask := 2, strobeAt := 1 })] } }
theorem test_strobe : ((after (.strobe 1) sStrobe).dbg.samp.wr,
  readBytes (after (.strobe 1) sStrobe).bench1 (interleave 0x600000000 + 8) 8) = (1, 8 :: List.replicate 7 0) := by decide +kernel

theorem wit_HalyardStates : let s := sSyn { st := .holdover, recent := [(10000000, 1)] }
    mainUp s = true ∧ MapsOk s ∧ 0 < holdRate s ∧ s.syn.st = .holdover ∧ s.halyard ≤ s.syn.holdAt + 1000000 ∧
    holdRate (sSyn { st := .holdover, recent := [(10000000, -1)] }) < 0 ∧
    (getAdit { sNet with adits := [(9, { st := .up, delayValid := true, partnerTime := true })] } 9).delayValid = true := by
  unfold MapsOk MemOk
  decide +kernel
theorem wit_HalyardStates_slew : let s := { sSyn { st := .holdover, recent := [(10000000, 1)] } with ns := 10000000 }
    s.syn.lastSlew + 10000000 / (holdRate s).natAbs ≤ s.ns + 1 ∧ 0 < holdRate s := by decide +kernel
theorem wit_DipCuts : mainUp sNet = true ∧ sNet.syn.dipSt = .running ∧ sNet.syn.atArmed = false ∧
    (sSyn { dipSt := .pending }).syn.dipCutNs ≤ (sSyn { dipSt := .pending }).ns ∧ coreEnabled sNet 0 = true := by decide +kernel
theorem wit_CountersAndSamples : mainUp sStrobe = true ∧ frozen sStrobe = false ∧ NoHeldLines sStrobe ∧
    (List.range 32).filter (fun n => (getSet sStrobe 1).mask.getLsbD n) = [1] ∧ (getSet sStrobe 1).strobeAt = 1 ∧
    (getSet sStrobe 1).tkind = 1 ∧ (getSet sStrobe 1).tindex.toNat = 0 ∧ ringOn sStrobe.dbg.samp = true ∧
    (sStrobe.dbg.samp.wr - sStrobe.dbg.samp.rd).toNat ≠ ringSlots sStrobe.dbg.samp 32 ∧
    sStrobe.dbg.samp.base.toNat % 32 = 0 ∧ 16 * frameSize ≤ sStrobe.dbg.samp.base.toNat ∧
    served sStrobe (sStrobe.dbg.samp.base.toNat / 4096 % 32) = true := by
  unfold NoHeldLines
  decide +kernel

/-! ### The broadcast (14) -/

theorem test_send_bad_state : (after .send (sSyn { st := .locked })).syn.berr = 1 := by decide +kernel
theorem test_bcast_arm_incomplete : (after .bcastArm (sSyn { st := .locked })).syn.berr = 2 := by decide +kernel
theorem test_bcast_arm : (after .bcastArm { sBc with syn := { sBc.syn with bst := .doneOk, sentId := 0, bcastCommit := 77 } }).hst.commitCount = 77 := by
  decide +kernel
theorem test_abandon : (after .abandon sBc).syn.bst = .idle := by decide +kernel
def imgP (w5 : W64) (pay : List Byte) : Packet := withCrc { pkt0 with src := 70, vc := 3, op := 10, w3 := 2 ^ 32, w4 := 9, w5 := w5, payload := pay }
theorem test_image_data : ((after (.imageData (imgP (64 * 2 ^ 32) (List.replicate 64 3))) sNet).hst.stageLen,
  (after (.imageData (imgP (64 * 2 ^ 32) (List.replicate 64 3))) sNet).hst.st) = (64, .validating) := by decide +kernel
theorem test_report : (after (.report (imgP 1 (5 :: List.replicate 63 0))) sBc).syn.okCount = 6 := by decide +kernel
theorem test_report_timeout : ((after (.reportTimeout 70) sBc).syn.bst, (after (.reportTimeout 70) sBc).syn.firstFail) = (.doneFail, 70) := by
  decide +kernel
def armP : Packet := imgP 2 (bytesOf 8 0 ++ bytesOf 8 500 ++ List.replicate 48 0)
def sArm : State := { sBc with syn := { sBc.syn with children := [], isOrigin := false } }
theorem test_image_arm : ((after (.imageArm armP) sArm).hst.commitCount, (after (.imageArm armP) sArm).hst.st) = (500, .armed) := by decide +kernel

theorem wit_BroadcastCommands : loaderTakes sBc = true ∧ loaderTakes State.reset = false ∧ NoHeldLines sBc ∧ CleanHbm sBc ∧ sBc.hst.st = .valid ∧
    locked sBc = true ∧ locked sNet = false ∧ sBc.halyard < 500 ∧ stagedId sBc = 0 := by
  refine ⟨by decide +kernel, by decide +kernel, ?_, ⟨by decide +kernel, fun _ => rfl⟩, by decide +kernel, by decide +kernel,
    by decide +kernel, by decide +kernel, by decide +kernel⟩
  unfold NoHeldLines
  decide +kernel
theorem wit_BroadcastPackets : frozen sBc = false ∧ NoHeldLines sBc ∧
    ((takeDelivery sBc (imgP 1 [])).map (fun u => (badOp (imgP 1 []), freshOf u (imgP 1 [])))) = some (false, .fresh) ∧
    (takeDelivery sArm armP).map (fun u => (freshOf u armP, locked u, stagedId u)) = some (.fresh, true, 0) ∧
    stageBusy sNet = false ∧ loaderUp sNet = true ∧ loaderUp State.reset = false ∧ stageBusy { sNet with hst := { sNet.hst with st := .armed } } = true ∧
    child70.unacked = 0 ∧ sBc.syn.copiesAt + sBc.syn.timeoutUs.toNat * bcastStages sBc * 1000 < 2 ^ 64 := by
  unfold NoHeldLines
  decide +kernel

/-! ### Dragiper Link and the host window (15) -/

def x0 : BitVec 56 := 0x600000000
def sDrg : State := { sHome with drg := { sHome.drg with st := .up } }
/-- The answers sent: opcode, tag, status and data. -/
def said (s : State) : List (Byte × BitVec 12 × Byte × List Byte) := s.drg.tx.map (fun m => (m.opcode, m.tag, m.status, m.data))
def noFlit : List Byte := List.replicate 256 1
/-- A flit of number 0 with a credit of 3 for class 1 and its CRC. -/
def flitW0 : List Byte := bytesOf 8 (2 ^ 26 + 3 * 2 ^ 29) ++ List.replicate 240 0
def goodFlit : List Byte := flitW0 ++ bytesOf 8 (crc64 flitW0).toNat

theorem test_nak : (after (.nak 0xFFF) { sDrg with drg := { sDrg.drg with unacked := [(0, 0)], txSeq := 1 } }).drg.replays = 1 := by decide +kernel
theorem test_flit_bad : ((after (.dragiperFlit noFlit) sDrg).drg.crcErrors, (after (.dragiperFlit noFlit) sDrg).drg.nakDue) = (1, true) := by
  decide +kernel
theorem test_flit_good : ((after (.dragiperFlit goodFlit) sDrg).drg.rxSeq, mget 0 (after (.dragiperFlit goodFlit) sDrg).drg.credit 1) = (0, 3) := by
  decide +kernel
theorem test_host_down : let t := after .hostDown sDrg
    (t.drg.st, t.halyard, t.drg.downs) = (.down, 2000, 1) := by decide +kernel
theorem test_host_retrain : (after .hostRetrain sNet).drg.st = .training := by decide +kernel
theorem test_host_link_up : (after .hostLinkUp (after .hostRetrain sNet)).drg.st = .up := by decide +kernel
theorem test_cw_rd : said (after (.cwRd 7 0) sDrg) = [(0x41, 7, 0, bytesOf 16 (regValue sDrg 0))] := by decide +kernel
theorem test_cw_rd_range : said (after (.cwRd 7 4) sDrg) = [(0x41, 7, 2, List.replicate 16 0)] := by decide +kernel
theorem test_cw_wr : (said (after (.cwWr 7 0x10020 5) sDrg), regValue (after (.cwWr 7 0x10020 5) sDrg) 0x10020) = ([(0x40, 7, 0, [])], 5) := by
  decide +kernel
theorem test_rd_shared : ((after (.hwRdS 7 x0) sDrg).drg.filter, said (after (.hwRdS 7 x0) sDrg)) =
  ([(x0.toNat / 64, false)], [(0x41, 7, 0, List.replicate 64 0)]) := by decide +kernel
theorem test_rd_modify : (after (.hwRdM 7 x0) sDrg).drg.filter = [(x0.toNat / 64, true)] := by decide +kernel
theorem test_rd_nc : (after (.hwRdNc 7 x0 0) sDrg).drg.filter = [] := by decide +kernel
theorem test_rd_range : said (after (.hwRdNc 7 (x0 + 8) 0) sDrg) = [(0x41, 7, 2, List.replicate 64 0)] := by decide +kernel
theorem test_wr : readBytes (after (.hwWr 7 x0 0 (List.replicate 64 9)) sDrg).bench1 (interleave x0.toNat + 63) 2 = [9, 0] := by decide +kernel
theorem test_wr_part : readBytes (after (.hwWrPart 7 x0 2 (List.replicate 32 9)) sDrg).bench1 (interleave x0.toNat) 3 = [0, 9, 0] := by decide +kernel
/-- Sixteen lines of one set of the filter are held. -/
def sFilt : State :=
  { sDrg with drg := { sDrg.drg with filter := (List.range 16).map (fun i => (x0.toNat / 64 + 131072 * (i + 1), false)) } }
theorem test_evict : (after (.hwRdS 7 x0) sFilt).drg.snoops.map (fun o => (o.2.1, o.2.2)) = [(x0.toNat / 64 + 131072, true)] := by decide +kernel
def sLineHeld : State := { sDrg with drg := { sDrg.drg with filter := [(x0.toNat / 64, true)], snoops := [(5, x0.toNat / 64, true)] } }
theorem test_evict_m : readBytes (after (.hwEvictM 7 x0 (List.replicate 64 4)) { sLineHeld with drg := { sLineHeld.drg with snoops := [] } }).bench1
  (interleave x0.toNat) 1 = [4] := by decide +kernel
theorem test_evict_s : (after (.hwEvictS 7 x0) { sLineHeld with drg := { sLineHeld.drg with snoops := [] } }).drg.filter = [] := by decide +kernel
theorem test_snp_i : (after (.snpRspI 5) sLineHeld).drg.filter = [] := by decide +kernel
theorem test_snp_s : (after (.snpRspS 5) { sLineHeld with drg := { sLineHeld.drg with snoops := [(5, x0.toNat / 64, false)] } }).drg.filter =
  [(x0.toNat / 64, false)] := by decide +kernel
theorem test_snp_d : readBytes (after (.snpRspD 5 (List.replicate 64 8)) sLineHeld).bench1 (interleave x0.toNat) 1 = [8] := by decide +kernel
theorem test_held : (after (.hwRdS 7 x0) sLineHeld).drg.held.map (·.opcode) = [0x10] := by decide +kernel
def ev0 : EvRec := ⟨3, 4, none, 9, 0, 0⟩
def sEvt : State := { sDrg with evt := { sDrg.evt with size := 12, queue := [ev0] } }
theorem test_event_drain : ((after .eventDrain sEvt).evt.wr, (said (after .eventDrain sEvt)).map (·.1)) = (1, [0x32]) := by decide +kernel
theorem test_irq : (said (after .irqHoldoff { sEvt with evt := { sEvt.evt with irqEn := true, irqDue := true, irqNext := 9 } })).length = 1 := by
  decide +kernel
theorem test_cmp : (after (.cmp 0 0) (after .eventDrain sEvt)).drg.reqs = [] := by decide +kernel
def xf0 : Xfer := ⟨4, 0, 1, false, true, 0, [], none⟩
def sXf : State := { sDrg with drg := { sDrg.drg with reqs := [(3, .tier 4)] }, tir := { sDrg.tir with xfers := [xf0] } }
theorem test_rsp_data : (after (.rspData 3 0 [1, 2]) sXf).tir.xfers.map (fun e => (e.res, e.data)) = [(some true, [1, 2])] := by decide +kernel
theorem test_node : ((after (.node 12) sNet).dev.node, (after (.node 12) { sNet with hst := { sNet.hst with st := .valid } }).dev.node) = (12, 0) := by
  decide +kernel

theorem wit_DragiperLink : sDrg.drg.st = .up ∧ sNet.drg.st ≠ .up ∧ sDrg.drg.unacked = [] ∧ sDrg.drg.reqs = [] ∧ pastBoot sNet = true ∧
    pastBoot State.reset = false ∧ natAt goodFlit 248 8 = (crc64 (padTo 248 (goodFlit.take 248))).toNat ∧
    natAt noFlit 248 8 ≠ (crc64 (padTo 248 (noFlit.take 248))).toNat ∧ bitAt (natAt goodFlit 0 8) 24 = false ∧
    BitVec.ofNat 12 (natAt goodFlit 0 8) = sDrg.drg.rxSeq + 1 ∧
    (drgAcked { sDrg.drg with unacked := [(0, 0)] } 0xFFF).unacked = [(0, 0)] ∧
    (drgAcked { sDrg.drg with unacked := [(0, 15)] } 0xFFF).unacked = [(0, 15)] := by decide +kernel
theorem wit_HostWindow : linkIsUp sDrg = true ∧ sDrg.drg.need = [] ∧ windowAt sDrg x0.toNat = none ∧ 16 * frameSize ≤ x0.toNat ∧
    x0.toNat + 64 ≤ hostWindow ∧ served sDrg (x0.toNat / 4096 % 32) = true ∧ stageBusy sDrg = false ∧ x0.toNat % 64 = 0 ∧
    mustHold sDrg ⟨0x10, 7, x0, 0, 0, []⟩ = false ∧ mustHold sLineHeld ⟨0x10, 7, x0, 0, 0, []⟩ = true ∧ needsEvict sDrg (x0.toNat / 64) = false ∧
    needsEvict sFilt (x0.toNat / 64) = true ∧ sFilt.drg.snoops = [] ∧ (setEntries sFilt (x0.toNat / 64)).length = 16 ∧
    snoopOut sDrg (x0.toNat / 64) = false ∧ sLineHeld.drg.snoops = [(5, x0.toNat / 64, true)] ∧ sLineHeld.drg.held = [] := by decide +kernel
theorem wit_HostWindow_clean : CleanHbm sDrg ∧ CleanHbm sFilt ∧ CleanHbm sLineHeld := by
  have h : ∀ n, (getHbm sDrg n).marked = [] :=
    fun n => mget_all ({} : Hbm) (fun x => x.marked = []) rfl sDrg.hbms (by decide +kernel) n
  exact ⟨⟨rfl, h⟩, ⟨rfl, h⟩, ⟨rfl, h⟩⟩
theorem wit_HostRegistersAndEvents : linkIsUp sEvt = true ∧ cwOk 0 = true ∧ cwOk 4 = false ∧ mainUp sEvt = true ∧ sEvt.evt.lostSince = 0 ∧
    (sEvt.evt.wr - sEvt.evt.rd).toNat < evtSlots sEvt ∧ sEvt.evt.irqEn = false ∧ (after .eventDrain sEvt).drg.reqs = [(0, .event 9)] ∧
    frozen sXf = false ∧ sXf.drg.reqs = [(3, .tier 4)] ∧ xf0.id = 4 ∧ sNet.hst.st = .empty := by decide +kernel

/-! ### The Burgee port (15) -/

def sB : State := State.reset
def sDa : State := { sB with aon := { sB.aon with i3cDa := 9 } }

theorem test_entdaa : ((after (.entdaa 9) sB).aon.i3cDa, (after (.entdaa 9) sB).aon.answer.length) = (9, 8) := by decide +kernel
theorem test_entdaa_once : (after (.entdaa 8) sDa).aon.i3cDa = 9 := by decide +kernel
theorem test_rstdaa : (after .rstdaa sDa).aon.i3cDa = 0 := by decide +kernel
theorem test_setnewda : (after (.setnewda 11) sDa).aon.i3cDa = 11 := by decide +kernel
theorem test_getpid : (after .getpid sDa).aon.answer.length = 6 := by decide +kernel
theorem test_getbcr : (after .getbcr sDa).aon.answer.length = 1 := by decide +kernel
theorem test_getdcr : (after .getdcr sDa).aon.answer.length = 1 := by decide +kernel
theorem test_getstatus : (after .getstatus sDa).aon.answer.length = 2 := by decide +kernel
theorem test_getmxds : (after .getmxds sDa).aon.answer.length = 2 := by decide +kernel
theorem test_disec : (after (.disec 1) sDa).aon.i3cEvents = 8 := by decide +kernel
theorem test_enec : (after (.enec 1) (after (.disec 9) sDa)).aon.i3cEvents = 1 := by decide +kernel
theorem test_set_eid : (after (.setEndpointId 0 33) sDa).aon.eid = 33 := by decide +kernel
theorem test_set_eid_bad : (after (.setEndpointId 0 0xFF) sDa).aon.answer = [0, 0, 1, 2] := by decide +kernel
theorem test_get_eid : (after .getEndpointId sDa).aon.answer = [0, 0, 2, 0, 0, 0, 0] := by decide +kernel
theorem test_uuid : (after .getEndpointUuid sDa).aon.ibi = true := by decide +kernel
theorem test_version : (after (.getMctpVersionSupport 5) sDa).aon.answer = [0, 0, 4, 0x80] := by decide +kernel
theorem test_types : (after .getMessageTypeSupport sDa).aon.answer = [0, 0, 5, 0, 1, 0x7F] := by decide +kernel
theorem test_vendor : (after (.getVendorDefinedMessageSupport 1) sDa).aon.answer = [0, 0, 6, 2] := by decide +kernel
/-- The status byte of a Hjelnor answer. -/
def hjStatus (s : State) : Byte := s.aon.answer.getD 8 0xEE
def read1 (o n : Nat) : List Byte := bytesOf 4 o ++ bytesOf 1 n
theorem test_reg_read : (after (.regRead 3 (read1 0x10020 1)) sDa).aon.answer = [0x7F, 0, 0, 0, 0, 1, 1, 0x83, 0] ++ List.replicate 8 0 := by
  decide +kernel
theorem test_reg_read_reach : hjStatus (after (.regRead 3 (read1 0x80000 1)) sDa) = 3 := by decide +kernel
theorem test_reg_write : regValue (after (.regWrite 3 (bytesOf 4 0x10020 ++ bytesOf 8 77)) sDa) 0x10020 = 77 := by decide +kernel
theorem test_reg_write_length : hjStatus (after (.regWrite 3 []) sDa) = 2 := by decide +kernel
theorem test_identity : hjStatus (after (.getIdentity 3 []) sDa) = 0 := by decide +kernel
theorem test_measurements_none : hjStatus (after (.getMeasurements 3 (List.replicate 33 1)) sDa) = 5 := by decide +kernel
theorem test_keys : (after (.getKeys 3 []) sDa).aon.answer.length = 9 + 4 + 8 * 16 := by decide +kernel
/-- ENROLL_KEY of the first operator key, which needs no signature; and of a key with none that verifies. -/
def enrollB (role : Byte) : List Byte := [role, 0] ++ bytesOf 4 0 ++ List.replicate 57 5 ++ List.replicate 114 0
theorem test_enroll : (mget [] (after (.enrollKey 3 (enrollB 1)) sDa).aon.keys 0, (after (.enrollKey 3 (enrollB 1)) sDa).aon.keySeq) =
  (List.replicate 57 5, 1) := by decide +kernel
theorem test_enroll_unsigned : hjStatus (after (.enrollKey 3 (enrollB 2)) sDa) = 6 := by decide +kernel
theorem test_revoke_seq : hjStatus (after (.revokeKey 3 ([1, 0] ++ bytesOf 4 9 ++ List.replicate 114 0)) sDa) = 7 := by decide +kernel
theorem test_measured : (getMeas (after (.measurementRecomputed 2) (after (.enrollKey 3 (enrollB 1)) sDa)) 2).pending = false := by decide +kernel

theorem wit_BurgeeBusAndControl : sDa.pins.vaon = true ∧ sDa.aon.i3cDa ≠ 0 ∧ sB.aon.i3cDa = 0 ∧
    (after .vaonLoss sB).pins.vaon = false := by decide +kernel
theorem wit_BurgeeMessages : let off := after .vaonUp (after .vaonLoss sB)
    sDa.pins.vaon = true ∧ (read1 0x10020 1).length = 5 ∧ burgeeReach 0x10020 = true ∧ unpowered sDa 0x10020 = false ∧ burgeeReach 0x80000 = false ∧
    off.pins.vaon = true ∧ unpowered off 0x10020 = true ∧ (getMeas sDa 0).value = [] ∧
    (getMeas { sDa with aon := { sDa.aon with meas := [(0, { value := [1] })] } } 0).value ≠ [] ∧
    (getMeas (after (.enrollKey 3 (enrollB 1)) sDa) 2).pending = true ∧ (getMeas sDa 2).pending = false := by decide +kernel

/-- RFC 8032, 7.4, the first vector of Ed448: key and signature of the empty message. -/
def rfcKey : List Byte := bytesOf 57 0x806125e8afbe1afad16c0fe5f13d78d61b06c7469b7624f1ed7867e9805da70e8a1f0ea7852434a11d6ad46a61ec87e72cfd61b4599b44d75f
def rfcSig : List Byte := bytesOf 114 0x26652eff0858d9718c2663735af04911b6dbf4a013a13085dacdc7c59ab92d8504410bc08d5d925b342d1c5d6c003ef69d8ab1d428200dff8039fd1ba2d09bc528787dd4dd227afdf28182624f033f232b1f591ad423d84f07d2343e844a50fb2dae76f9880d3c021f2557e4bbf6373a53
theorem test_ed448 : ed448Verify rfcKey [] rfcSig = true := by decide +kernel
/-- SHAKE256 of the empty message, FIPS 202. -/
theorem test_shake : shake256 [] 4 = [0x46, 0xB9, 0xDD, 0x2B] := by decide +kernel

/-- The key that signs: of the RFC's first vector, enrolled as operator key 0. -/
def sKey : State := { sDa with aon := { sDa.aon with keys := [(0, rfcKey)] } }
def revokeBody : List Byte := [1, 0] ++ bytesOf 4 0
def revokeSig : List Byte := bytesOf 114 0x3409f51a7c90e41f8b84b8976c85b7c153b87644a6e45c5d1f8ef9c56467dfa06a7554b047bb092565c292d7391f1d4f541aa8716242cd270012608da9d1a34a68ce933137ab3d715ed9261b1f6aec86a72c9aabd767f56b7f27664cfd64a25ab232103856c783a49706e6825b1d4cc824
theorem test_revoke : (after (.revokeKey 3 (revokeBody ++ revokeSig)) sKey).aon.keys = [] := by decide +kernel
theorem wit_KeysAreEnrolledAndRevoked : sKey.pins.vaon = true ∧ (revokeBody ++ revokeSig).length = 120 ∧ (enrollB 1).length = 177 ∧
    keySigned sKey revokeBody revokeSig = true ∧ keySigned sDa (enrollB 2) [] = false ∧ operatorKeys sDa = [] ∧
    natOf ((enrollB 1).drop 63) = 0 ∧ natAt (enrollB 1) 2 4 = sDa.aon.keySeq.toNat ∧ natAt (enrollB 1) 0 1 = 1 := by decide +kernel

/-! ### Power and resets (16) -/

/-- A firmware image of version 9 without a body, signed by the RFC's key, and a device that fuses that key. -/
def fwHead : List Byte := padTo 128 ([0x48, 0x4A, 0x46, 0x57, 2, 0, 0, 0, 0, 0, 0, 0, 9, 0, 0, 0] ++ rfcKey)
def fwImg : List Byte := fwHead ++ bytesOf 114 0x10faa62290db16a7fa0d9dae026d10e40ec7ab6758d702693ec6a2cae11cd568be5f66aecfe0f9e9404615fca43e697507aa1dcd11da8e0280097b5e6176c2d6cdae39913c5951c0db5f3d268bb4a4021724f66de4c3b5561c4d3ef7e508303df3796d59de8191c2ba71e9865475f7962e
def sBoot : State :=
  { State.reset with
    fuses := { State.reset.fuses with fwKeys := [(keyId rfcKey, false)] }
    pwr := { State.reset.pwr with stage := .boot } }
def sOn : State := { sNet with bench1 := [(7, 1)], aon := { sNet.aon with keySeq := 3 } }

theorem test_vaon_loss : ((after .vaonLoss sOn).bench1, (after .vaonLoss sOn).aon.keySeq) = ([], 0) := by decide +kernel
theorem test_vaon_up : (after .vaonUp (after .vaonLoss sOn)).aon.hotJoin = true := by decide +kernel
theorem test_pgood : ((after .pgoodIn sOn).pwr.stage, (after .pgoodIn sOn).bench1, (after .pgoodIn sOn).aon.resetCause) = (.off, [(7, 1)], 1) := by
  decide +kernel
theorem test_reset_assert : ((after .resetNAssert sOn).aon.resetCause, (after .resetNAssert sOn).aon.keySeq) = (2, 3) := by decide +kernel
theorem test_reset_release : (after .resetNRelease (after .resetNAssert sOn)).pwr.stage = .fuse := by decide +kernel
theorem test_fuse : ((after .fuse State.reset).pwr.stage, (after .fuse State.reset).pins.pgoodOut) = (.boot, true) := by decide +kernel
theorem test_fw_check : fwCheck sBoot fwImg = .running := by decide +kernel
theorem test_boot_version : (bootOk sBoot fwImg).dev.fwVersion = 9 := by decide +kernel
theorem test_boot_none : ((after (.boot [] []) sBoot).pwr.failStage, (after (.boot [] []) sBoot).dev.fw) = (2, .noImage) := by decide +kernel
theorem test_adit_train : (getAdit (after .aditTrain { sNet with pwr := { sNet.pwr with stage := .aditTrain } }) 4).st = .training := by decide +kernel
theorem test_trip : ((after (.thermalTrip 2 255) sOn).pins.thermtripN, (after (.thermalTrip 2 255) sOn).pwr.stage) = (false, .fuse) := by decide +kernel
theorem test_no_trip : mget 0 (after (.thermalTrip 2 40) sOn).pwr.tjDie 2 = 40 := by decide +kernel
theorem test_reset_compute : ((after .pwrResetCompute sCol).ctxs, (after .pwrResetCompute sCol).adits.length, (after .pwrResetCompute sCol).ns) =
  ([], 1, 1000) := by decide +kernel
theorem test_reset_fabric : ((after .pwrResetFabric sCol).ctxs, (after .pwrResetFabric sCol).adits) = ([], []) := by decide +kernel
theorem test_reset_hbm : (getHbm (after .pwrResetHbm sCol) 3).st = .training := by decide +kernel
theorem test_reset_host : ((after .pwrResetHost { sCol with drg := sDrg.drg }).drg.st, (after .pwrResetHost sCol).ctxs) = (.down, sCol.ctxs) := by
  decide +kernel
theorem test_reset_main : ((after .pwrResetMain sOn).aon.resetCause, (after .pwrResetMain sOn).pwr.stage) = (3, .fuse) := by decide +kernel
theorem test_auto_level : ((after (.autoLevel true 10 20) sNet).pwr.autoLevel, (after (.autoLevel true 10 20) sNet).halyard) = (1, 1000000) := by
  decide +kernel
theorem test_drv_level : ((after (.drvLevel 9 false) sNet).pwr.drvInForce, (after (.drvLevel 3 true) sNet).pwr.drvHeld) = (8, some 3) := by decide +kernel
theorem test_thr_at : (after .pwrThrAt (after (.drvLevel 3 true) sNet)).pwr.drvInForce = 3 := by decide +kernel
def sGov : State := { sNet with pwr := { sNet.pwr with govQueue := [(6, 0)] } }
theorem test_wave : (after .governorWave sGov).pwr.waking = [(6, 5000)] := by decide +kernel
theorem test_awake : ((after (.coreAwake 6) (after .governorWave sGov)).pwr.awake, (after (.coreAwake 6) (after .governorWave sGov)).halyard) = ([6], 5000) := by
  decide +kernel
theorem test_register_write : regValue (after (.registerWrite true 0x10020 9) sNet) 0x10020 = 9 := by decide +kernel
theorem test_register_reserved : regValue (after (.registerWrite true 0x40000 (BitVec.allOnes 64)) sNet) 0x40000 = 2 ^ 53 - 1 := by decide +kernel
theorem test_register_read_only : regValue (after (.registerWrite true 0 9) sNet) 0 = regValue sNet 0 := by decide +kernel

theorem wit_PowerPinsAndStages : sOn.pins.vaon = true ∧ sOn.pins.pgoodIn = true ∧ sOn.pins.resetN = true ∧ railsUp sOn = true ∧
    (after .resetNAssert sOn).pins.resetN = false ∧ railsUp (after .resetNAssert sOn) = false ∧ (after .vaonLoss sOn).pins.vaon = false ∧
    State.reset.pwr.stage = .fuse ∧ fwCheck sBoot [] ≠ .running ∧
    (after .pgoodIn sOn).pins.pgoodIn = false ∧ sOn.fuses.tjTrip.toNat ≤ (255 : Byte).toNat := by decide +kernel
theorem wit_ResetDomains : sCol.lines = [] ∧ sCol.drg.reqs = [] ∧ sCol.tab.mode.bunting = false ∧ railsUp sCol = true ∧
    sCol.pins.vaon = true ∧ sCol.pwr.resetAt = none ∧ ({ sCol with ns := 1000, pwr := { sCol.pwr with resetAt := some (1000, 1) } } : State).ns = 1000 := by
  decide +kernel
theorem wit_ThrottleAndGovernor : mainUp sGov = true ∧ sGov.halyard + 1000000 < 2 ^ 64 ∧ sNet.pwr.drvHeld = none ∧ sGov.pwr.govQueue ≠ [] ∧
    sGov.pwr.govNext < 2 ^ 64 ∧ (after .governorWave sGov).pwr.waking.find? (fun e => e.1 = 6) = some (6, 5000) := by decide +kernel
theorem wit_RegisterWritesReadBack : linkIsUp sDrg = true ∧ sNet.pins.vaon = true ∧ burgeeReach 0x10020 = true ∧ unpowered sNet 0x10020 = false := by
  decide +kernel
theorem wit_StepKeepsMaps : MapsOk State.reset ∧ step State.reset = .next (elapse 1 State.reset) := by
  unfold MapsOk MemOk
  exact ⟨by decide +kernel, rfl⟩

/-! ### Ill-formed commands -/

theorem test_wf_packet : pkt0.wf = true ∧ ({ pkt0 with payload := [1] } : Packet).wf = false ∧
    ({ pkt0 with payload := List.replicate 2112 0 } : Packet).wf = false ∧
    ({ pkt0 with long := false, payload := List.replicate 64 0 } : Packet).wf = false := by decide +kernel
theorem test_wf_frame : (⟨0, List.replicate 63 0⟩ : Slot).wf = false ∧ frame0.wf = false ∧ ({ frame0 with uncorr := true } : Frame).wf = true ∧
    ({ frame0 with slots := List.replicate 38 ⟨0, List.replicate 64 0⟩ } : Frame).wf = true ∧
    ({ frame0 with slots := List.replicate 38 ⟨0, []⟩ } : Frame).wf = false ∧
    ({ frame0 with slots := List.replicate 38 ⟨0, List.replicate 64 0⟩, sent := [] } : Frame).wf = false ∧
    ({ frame0 with slots := List.replicate 38 ⟨0, List.replicate 64 0⟩, freed := [] } : Frame).wf = false := by decide +kernel
theorem test_wf_memory : narrowWf 64 0 [] = true ∧ narrowWf 65 0 [] = false ∧ narrowWf 64 1 [] = false ∧ burstWf 2048 false [] = true ∧
    burstWf 64 false [] = false ∧ burstWf 2048 true [] = false := by decide +kernel
theorem test_wf_host : (Instr.hwWr 0 0 1 (List.replicate 128 0)).wf = true ∧ (Instr.hwWr 0 0 1 (List.replicate 64 0)).wf = false ∧
    (Instr.hwWrPart 0 0 0 []).wf = false ∧ (Instr.hwEvictM 0 0 []).wf = false ∧ (Instr.snpRspD 0 []).wf = false ∧
    (Instr.dragiperFlit []).wf = false ∧ (Instr.registerWrite false 4 0).wf = false := by decide +kernel
theorem test_wf_body : bodyWf (List.replicate 1016 0) = true ∧ bodyWf (List.replicate 1017 0) = false ∧
    (Instr.regRead 0 (List.replicate 1017 0)).wf = false ∧ (Instr.ack { pkt0 with payload := [1] }).wf = false := by decide +kernel

end Sys2Proof.Tests
end

namespace Sys2Proof.Machine

/-! ### Registers of a core (04 R125) -/

theorem getS_zero (c : Core) : getS c 0 = 0 := rfl
theorem getM_zero (c : Core) : getM c 0 = BitVec.allOnes 64 := rfl
theorem setS_zero (c : Core) (v : W64) : setS c 0 v = c := rfl
theorem setM_zero (c : Core) (v : W64) : setM c 0 v = c := rfl

theorem getS_setS (c : Core) (i j : BitVec 5) (v : W64) :
    getS (setS c i v) j = if j = i ∧ i ≠ 0 then v else getS c j := by
  by_cases hi : i = 0
  · subst hi
    rw [setS_zero, if_neg fun h => h.2 rfl]
  by_cases hj : j = 0
  · subst hj
    rw [getS_zero, getS_zero, if_neg fun h => hi h.1.symm]
  · simp only [getS, setS, hi, hj, if_false, mget_mput, BitVec.toNat_inj, ne_eq, not_false_eq_true, and_true]

theorem getM_setM (c : Core) (i j : BitVec 3) (v : W64) :
    getM (setM c i v) j = if j = i ∧ i ≠ 0 then v else getM c j := by
  by_cases hi : i = 0
  · subst hi
    rw [setM_zero, if_neg fun h => h.2 rfl]
  by_cases hj : j = 0
  · subst hj
    rw [getM_zero, getM_zero, if_neg fun h => hi h.1.symm]
  · simp only [getM, setM, hi, hj, if_false, mget_mput, BitVec.toNat_inj, ne_eq, not_false_eq_true, and_true]

theorem getA_setA (c : Core) (i j : BitVec 4) (v : W64) : getA (setA c i v) j = if j = i then v else getA c j := by
  simp [getA, setA, mget_mput, BitVec.toNat_inj]

theorem getC_setC (c : Core) (i j : Nat) (v : W32) : getC (setC c i v) j = if j = i then v else getC c j :=
  mget_mput 0 c.c i v j

/-- The 64 lanes of a register lie apart from those of every other. -/
theorem laneKey_inj (i j : BitVec 5) (x y : Fin 64) :
    64 * j.toNat + y.val = 64 * i.toNat + x.val ↔ j = i ∧ y = x := by
  rw [← BitVec.toNat_inj, Fin.ext_iff]
  omega

theorem getV_setV (c : Core) (i j : BitVec 5) (x y : Fin 64) (e : Nat) :
    getV (setV c i x.val e) j y.val = if j = i ∧ y = x then e % 2 ^ 64 else getV c j y.val := by
  simp only [getV, setV, mget_mput, laneKey_inj]
  split
  · exact BitVec.toNat_ofNat e 64
  · rfl

/-- Settles O2: each file is a sparse map read after a write, and the two constant registers never reach their map. -/
theorem constantRegisters : Obligations.ConstantRegisters := by
  unfold Obligations.ConstantRegisters
  intro c i j m n a b x y e f v w
  exact ⟨getS_zero c, getM_zero c, setS_zero c v, setM_zero c v, getS_setS c i j v, getM_setM c m n v, getA_setA c a b v,
    getV_setV c i j x y e, getC_setC c e f w⟩

/-! ### The gang tree reads only the tables, the fuses, the node and the bindings -/

theorem dedup_nodup (l : List Nat) : (dedup l).Nodup := by
  suffices h : ∀ acc : List Nat, acc.Nodup →
      (l.foldl (fun acc x => if acc.contains x then acc else acc ++ [x]) acc).Nodup from h [] List.nodup_nil
  induction l with
  | nil => exact fun acc h => h
  | cons x l ih =>
    intro acc h
    simp only [List.foldl_cons]
    split
    · exact ih acc h
    · next hx =>
      exact ih _ (by simpa [List.nodup_append, h] using fun a ha => fun e : a = x => hx (by simpa [← e] using ha))

theorem unitsOf_nodup (s : State) (c g : Nat) : (unitsOf s c g).Nodup := dedup_nodup _

theorem walkG_congr {s t : State} (h : t.tab = s.tab) (fuel g : Nat) : walkG fuel t g = walkG fuel s g := by
  induction fuel generalizing g with
  | zero => rfl
  | succ fuel ih => simp only [walkG, members, h, ih]

theorem unitsOf_congr {s t : State} (htab : t.tab = s.tab) (hdev : t.dev = s.dev) (hfuses : t.fuses = s.fuses)
    (hctxs : t.ctxs = s.ctxs) (c g : Nat) : unitsOf t c g = unitsOf s c g := by
  have hcore : coreEnabled t = coreEnabled s := by
    funext k
    unfold coreEnabled
    rw [hfuses]
  have hphys : physIn t = physIn s := by
    funext c n
    unfold physIn physR31 enabledCores getCtx
    rw [hctxs, hcore]
  have hunit : unitOf t c = unitOf s c := by
    funext m
    unfold unitOf node
    rw [hdev, hphys]
  simp only [unitsOf, leaves, treeFuel, htab, walkG_congr htab, hunit]

/-! ### RUN_SLOT (04 R124): what it changes -/

/-- `t` is `s` with its units changed: their faces and counters, those of the gangs, and the state of cores and engines. -/
def UnitsOnly (s t : State) : Prop :=
  t = { s with dbg := t.dbg, faces := t.faces, gangs := t.gangs, cores := t.cores, riddles := t.riddles, tramways := t.tramways }

theorem UnitsOnly.refl (s : State) : UnitsOnly s s := rfl

theorem UnitsOnly.trans {s t u : State} (h₁ : UnitsOnly s t) (h₂ : UnitsOnly t u) : UnitsOnly s u := by
  unfold UnitsOnly at *
  rw [h₂, h₁]

theorem UnitsOnly.tick {s t : State} (h : UnitsOnly s t) : t.tick = s.tick := by rw [h]
theorem UnitsOnly.tab {s t : State} (h : UnitsOnly s t) : t.tab = s.tab := by rw [h]
theorem UnitsOnly.drg {s t : State} (h : UnitsOnly s t) : t.drg = s.drg := by rw [h]

/-- A command to a gang is written on the faces of its gangs and nowhere else. -/
theorem gangCmd_eq (s : State) (g : Nat) (cmd : FaceCmd) : gangCmd s g cmd = { s with gangs := (gangCmd s g cmd).gangs } := by
  unfold gangCmd
  generalize gangsIn s g = l
  induction l generalizing s with
  | nil => rfl
  | cons h l ih => exact ih _

theorem acceptCmd_eq (s : State) (u op c : Nat) (slot : BitVec 16) (arg : Nat) : acceptCmd s u op c slot arg =
    { s with dbg := (acceptCmd s u op c slot arg).dbg, faces := (acceptCmd s u op c slot arg).faces } := by
  unfold acceptCmd bump resetCounters
  dsimp only
  split <;> split <;> rfl

theorem getFace_bump_other (s : State) (u i n : Nat) {j : Nat} (h : j ≠ u) : getFace (bump s u i n) j = getFace s j := by
  unfold bump
  split
  · rfl
  · exact (getFace_setFace s u _ j).trans (if_neg h)

theorem getFace_bump_cmd (s : State) (u i n j : Nat) : (getFace (bump s u i n) j).cmd = (getFace s j).cmd := by
  unfold bump
  split
  · rfl
  · rw [getFace_setFace]
    split
    · next h => rw [h]
    · rfl

theorem getFace_resetCounters_other (s : State) (u : Nat) (mask : W32) {j : Nat} (h : j ≠ u) :
    getFace (resetCounters s u mask) j = getFace s j := by
  unfold resetCounters
  split
  · rfl
  · exact (getFace_setFace s u _ j).trans (if_neg h)

theorem getFace_acceptCmd_other (s : State) (u op c : Nat) (slot : BitVec 16) (arg : Nat) {j : Nat} (h : j ≠ u) :
    getFace (acceptCmd s u op c slot arg) j = getFace s j := by
  simp only [acceptCmd, getFace_bump_other _ _ _ _ h, getFace_setFace, if_neg h, getFace_resetCounters_other _ _ _ h]

theorem getFace_acceptCmd_cmd (s : State) (u op c : Nat) (slot : BitVec 16) (arg : Nat) :
    (getFace (acceptCmd s u op c slot arg) u).cmd =
      { opcode := BitVec.ofNat 8 op, ctx := BitVec.ofNat 4 c, slot := slot, arg := BitVec.ofNat 32 arg } := by
  simp only [acceptCmd, getFace_bump_cmd, getFace_setFace_same]

/-! ### The start of one unit -/

/-- A core at the start of a slot's program: its counts and Bench 0 are the ones it had. -/
def coreStart (r : SlotRec) (c : Core) : Core :=
  { c with pc := 0, prog := r.program, gang := r.gang, ended := false, s := [], a := [], v := [], m := [], loops := [],
           wait := .none, stall := 0 }

/-- A Riddle engine at the start of a slot's program. -/
def riddleStart (r : SlotRec) (q : Riddle) : Riddle :=
  { q with prog := r.program, gang := r.gang, ended := false, pc := 0, phase := .idle, lr := none, lane := [], op := none }

/-- A Tramway engine at the start of a slot's program. -/
def trwStart (r : SlotRec) (w : Tramway) : Tramway :=
  { w with prog := r.program, gang := r.gang, ended := false, pc := 0, phase := .idle, op := none }

/-- A unit accepts RUN_SLOT and becomes RUNNING for the context. -/
def runFace (c : Nat) (r : SlotRec) (s : State) (u : Nat) : State :=
  let t := acceptCmd s u 1 c r.slot 0
  setFace t u { getFace t u with st := .running, owner := some (ctxFin c), slot := r.slot }

theorem runFace_eq (c : Nat) (r : SlotRec) (s : State) (u : Nat) :
    runFace c r s u = { s with dbg := (runFace c r s u).dbg, faces := (runFace c r s u).faces } := by
  unfold runFace
  dsimp only
  rw [acceptCmd_eq]
  rfl

@[simp] theorem runFace_tab (c : Nat) (r : SlotRec) (s : State) (u : Nat) : (runFace c r s u).tab = s.tab := by rw [runFace_eq]
@[simp] theorem getCore_runFace (c : Nat) (r : SlotRec) (s : State) (u j : Nat) : getCore (runFace c r s u) j = getCore s j := by
  rw [runFace_eq]; rfl
@[simp] theorem getRiddle_runFace (c : Nat) (r : SlotRec) (s : State) (u j : Nat) :
    getRiddle (runFace c r s u) j = getRiddle s j := by rw [runFace_eq]; rfl
@[simp] theorem getTrw_runFace (c : Nat) (r : SlotRec) (s : State) (u j : Nat) : getTrw (runFace c r s u) j = getTrw s j := by
  rw [runFace_eq]; rfl

theorem getFace_runFace_other (c : Nat) (r : SlotRec) (s : State) (u : Nat) {j : Nat} (h : j ≠ u) :
    getFace (runFace c r s u) j = getFace s j :=
  ((getFace_setFace _ u _ j).trans (if_neg h)).trans (getFace_acceptCmd_other s u 1 c r.slot 0 h)

/-- The program of a slot has an instruction to start at. -/
def HasProgram (s : State) (r : SlotRec) : Prop := programOf s r.program ≠ []

theorem HasProgram.of_tab {s t : State} {r : SlotRec} (h : HasProgram s r) (ht : t.tab = s.tab) : HasProgram t r := by
  unfold HasProgram programOf at *
  rwa [ht]

theorem progLen_eq (s : State) (c : Core) : progLen s c = (programOf s c.prog).length := by
  unfold progLen programOf
  cases s.tab.programs.find? (fun p => p.1 = c.prog) <;> rfl

theorem rdlWords_eq (s : State) (q : Riddle) : rdlWords s q = min 256 (programOf s q.prog).length := by
  unfold rdlWords programOf
  cases s.tab.programs.find? (fun p => p.1 = q.prog) <;> rfl

theorem trwWords_eq (s : State) (w : Tramway) : trwWords s w = min 256 (programOf s w.prog).length := by
  unfold trwWords programOf
  cases s.tab.programs.find? (fun p => p.1 = w.prog) <;> rfl

section
variable {s : State} {r : SlotRec}

theorem HasProgram.length_pos (h : HasProgram s r) : 0 < (programOf s r.program).length := List.length_pos_iff.mpr h

theorem runCore_of_hasProgram (h : HasProgram s r) (k : Nat) :
    runCore s k r.program r.gang = setCore s k (coreStart r (getCore s k)) := by
  have hlen : progLen (setCore s k (coreStart r (getCore s k))) (coreStart r (getCore s k)) ≠ 0 := by
    rw [progLen_eq]
    exact (h.of_tab (t := setCore s k _) rfl).length_pos.ne'
  exact if_neg hlen

theorem riddleRun_of_hasProgram (h : HasProgram s r) (e : Nat) :
    riddleRun s e r.program r.gang = setRiddle s e (riddleStart r (getRiddle s e)) := by
  have hlen : rdlWords (setRiddle s e (riddleStart r (getRiddle s e))) (riddleStart r (getRiddle s e)) ≠ 0 := by
    have := (h.of_tab (t := setRiddle s e (riddleStart r (getRiddle s e))) rfl).length_pos
    rw [rdlWords_eq]
    simp only [riddleStart] at this ⊢
    omega
  exact if_neg hlen

theorem trwRun_of_hasProgram (h : HasProgram s r) (w : Nat) :
    trwRun s w r.program r.gang = setTrw s w (trwStart r (getTrw s w)) := by
  have hlen : trwWords (setTrw s w (trwStart r (getTrw s w))) (getTrw (setTrw s w (trwStart r (getTrw s w))) w) ≠ 0 := by
    have := (h.of_tab (t := setTrw s w (trwStart r (getTrw s w))) rfl).length_pos
    rw [trwWords_eq, getTrw_setTrw_same]
    simp only [trwStart] at this ⊢
    omega
  exact if_neg hlen

/-- What RUN_SLOT does to a unit whose program has an instruction, by the kind of the unit. -/
theorem runUnit_cases (h : HasProgram s r) (c u : Nat) :
    (u < 512 ∧ runUnit c r s u = setCore (runFace c r s u) u (coreStart r (getCore s u))) ∨
    (512 ≤ u ∧ u < 544 ∧ runUnit c r s u = setRiddle (runFace c r s u) (u - 512) (riddleStart r (getRiddle s (u - 512)))) ∨
    (544 ≤ u ∧ u < 552 ∧ runUnit c r s u = setTrw (runFace c r s u) (u - 544) (trwStart r (getTrw s (u - 544)))) ∨
    (552 ≤ u ∧ runUnit c r s u = acceptCmd s u 1 c r.slot 0) := by
  have hrun : HasProgram (runFace c r s u) r := h.of_tab (runFace_tab c r s u)
  by_cases h552 : 552 ≤ u
  · exact .inr (.inr (.inr ⟨h552, if_pos h552⟩))
  have hunit : runUnit c r s u =
      if u < 512 then runCore (runFace c r s u) u r.program r.gang
      else if u < 544 then riddleRun (runFace c r s u) (u - 512) r.program r.gang
      else trwRun (runFace c r s u) (u - 544) r.program r.gang := if_neg h552
  by_cases h512 : u < 512
  · refine .inl ⟨h512, ?_⟩
    rw [hunit, if_pos h512, runCore_of_hasProgram hrun, getCore_runFace]
  by_cases h544 : u < 544
  · refine .inr (.inl ⟨by omega, h544, ?_⟩)
    rw [hunit, if_neg h512, if_pos h544, riddleRun_of_hasProgram hrun, getRiddle_runFace]
  · refine .inr (.inr (.inl ⟨by omega, by omega, ?_⟩))
    rw [hunit, if_neg h512, if_neg h544, trwRun_of_hasProgram hrun, getTrw_runFace]

theorem runUnit_unitsOnly (h : HasProgram s r) (c u : Nat) : UnitsOnly s (runUnit c r s u) := by
  obtain ⟨-, e⟩ | ⟨-, -, e⟩ | ⟨-, -, e⟩ | ⟨-, e⟩ := runUnit_cases h c u
  · rw [e, runFace_eq]; rfl
  · rw [e, runFace_eq]; rfl
  · rw [e, runFace_eq]; rfl
  · rw [e, acceptCmd_eq]; rfl

theorem getFace_runUnit_other (h : HasProgram s r) (c : Nat) {u j : Nat} (hj : u ≠ j) :
    getFace (runUnit c r s u) j = getFace s j := by
  obtain ⟨-, e⟩ | ⟨-, -, e⟩ | ⟨-, -, e⟩ | ⟨-, e⟩ := runUnit_cases h c u
  · rw [e]; exact getFace_runFace_other c r s u hj.symm
  · rw [e]; exact getFace_runFace_other c r s u hj.symm
  · rw [e]; exact getFace_runFace_other c r s u hj.symm
  · rw [e]; exact getFace_acceptCmd_other s u 1 c r.slot 0 hj.symm

theorem getCore_runUnit_other (h : HasProgram s r) (c : Nat) {u j : Nat} (hj : u ≠ j) :
    getCore (runUnit c r s u) j = getCore s j := by
  obtain ⟨-, e⟩ | ⟨-, -, e⟩ | ⟨-, -, e⟩ | ⟨-, e⟩ := runUnit_cases h c u
  · rw [e, getCore_setCore, if_neg hj.symm, getCore_runFace]
  · rw [e, getCore_setRiddle, getCore_runFace]
  · rw [e, getCore_setTrw, getCore_runFace]
  · rw [e, acceptCmd_eq]; rfl

theorem getRiddle_runUnit_other (h : HasProgram s r) (c : Nat) {u j : Nat} (hj : u ≠ 512 + j) :
    getRiddle (runUnit c r s u) j = getRiddle s j := by
  obtain ⟨-, e⟩ | ⟨hu, -, e⟩ | ⟨-, -, e⟩ | ⟨-, e⟩ := runUnit_cases h c u
  · rw [e, getRiddle_setCore, getRiddle_runFace]
  · rw [e, getRiddle_setRiddle, if_neg (by omega), getRiddle_runFace]
  · rw [e, getRiddle_setTrw, getRiddle_runFace]
  · rw [e, acceptCmd_eq]; rfl

theorem getTrw_runUnit_other (h : HasProgram s r) (c : Nat) {u j : Nat} (hj : u ≠ 544 + j) :
    getTrw (runUnit c r s u) j = getTrw s j := by
  obtain ⟨-, e⟩ | ⟨-, -, e⟩ | ⟨hu, -, e⟩ | ⟨-, e⟩ := runUnit_cases h c u
  · rw [e, getTrw_setCore, getTrw_runFace]
  · rw [e, getTrw_setRiddle, getTrw_runFace]
  · rw [e, getTrw_setTrw, if_neg (by omega), getTrw_runFace]
  · rw [e, acceptCmd_eq]; rfl

/-- The face of a unit that runs slot `r` of context `c`. -/
def FaceRuns (c : Nat) (r : SlotRec) (f : Face) : Prop :=
  f.st = .running ∧ f.owner = some (ctxFin c) ∧ f.slot = r.slot ∧
    f.cmd = { opcode := 1, ctx := BitVec.ofNat 4 c, slot := r.slot, arg := 0 }

theorem getFace_runFace_runs (c : Nat) (r : SlotRec) (s : State) (u : Nat) : FaceRuns c r (getFace (runFace c r s u) u) := by
  have hface : getFace (runFace c r s u) u =
      { getFace (acceptCmd s u 1 c r.slot 0) u with st := .running, owner := some (ctxFin c), slot := r.slot } :=
    getFace_setFace_same _ _ _
  rw [hface]
  exact ⟨rfl, rfl, rfl, getFace_acceptCmd_cmd s u 1 c r.slot 0⟩

theorem getFace_runUnit_runs (h : HasProgram s r) (c : Nat) {u : Nat} (hu : u < 552) :
    FaceRuns c r (getFace (runUnit c r s u) u) := by
  obtain ⟨-, e⟩ | ⟨-, -, e⟩ | ⟨-, -, e⟩ | ⟨h552, -⟩ := runUnit_cases h c u
  · rw [e]; exact getFace_runFace_runs c r s u
  · rw [e]; exact getFace_runFace_runs c r s u
  · rw [e]; exact getFace_runFace_runs c r s u
  · omega

theorem getCore_runUnit (h : HasProgram s r) (c : Nat) {u : Nat} (hu : u < 512) :
    getCore (runUnit c r s u) u = coreStart r (getCore s u) := by
  obtain ⟨-, e⟩ | ⟨_, -⟩ | ⟨_, -⟩ | ⟨_, -⟩ := runUnit_cases h c u
  · rw [e, getCore_setCore_same]
  all_goals omega

theorem getRiddle_runUnit (h : HasProgram s r) (c : Nat) {e : Nat} (he : e < 32) :
    getRiddle (runUnit c r s (512 + e)) e = riddleStart r (getRiddle s e) := by
  obtain ⟨_, -⟩ | ⟨-, -, eq⟩ | ⟨_, -⟩ | ⟨_, -⟩ := runUnit_cases h c (512 + e)
  case inr.inl => rw [eq, Nat.add_sub_cancel_left, getRiddle_setRiddle_same]
  all_goals omega

theorem getTrw_runUnit (h : HasProgram s r) (c : Nat) {w : Nat} (hw : w < 8) :
    getTrw (runUnit c r s (544 + w)) w = trwStart r (getTrw s w) := by
  obtain ⟨_, -⟩ | ⟨_, _, -⟩ | ⟨-, -, eq⟩ | ⟨_, -⟩ := runUnit_cases h c (544 + w)
  case inr.inr.inl => rw [eq, Nat.add_sub_cancel_left, getTrw_setTrw_same]
  all_goals omega

end

/-! ### The start of the units of a gang -/

section
variable {r : SlotRec} (c : Nat)

theorem runUnits_unitsOnly (l : List Nat) {s : State} (h : HasProgram s r) : UnitsOnly s (l.foldl (runUnit c r) s) := by
  induction l generalizing s with
  | nil => exact .refl s
  | cons u l ih =>
    have hu := runUnit_unitsOnly h c u
    exact hu.trans (ih (h.of_tab hu.tab))

variable {β : Type} {R : State → β} {j : Nat}
  (hother : ∀ {s : State}, HasProgram s r → ∀ {u : Nat}, u ≠ j → R (runUnit c r s u) = R s)
include hother

/-- What the start of no unit but `j` changes stays as it was when `j` is not among the units. -/
theorem runUnits_keep {l : List Nat} (hj : j ∉ l) {s : State} (h : HasProgram s r) : R (l.foldl (runUnit c r) s) = R s := by
  induction l generalizing s with
  | nil => rfl
  | cons u l ih =>
    rw [List.mem_cons, not_or] at hj
    rw [List.foldl_cons, ih hj.2 (h.of_tab (runUnit_unitsOnly h c u).tab), hother h (Ne.symm hj.1)]

/-- What only the start of unit `j` changes is, after the start of units among which `j` is once, as that start leaves it. -/
theorem runUnits_reads {Q : β → β → Prop} (hself : ∀ {s : State}, HasProgram s r → Q (R s) (R (runUnit c r s j)))
    {l : List Nat} (hl : l.Nodup) (hj : j ∈ l) {s : State} (h : HasProgram s r) : Q (R s) (R (l.foldl (runUnit c r) s)) := by
  induction l generalizing s with
  | nil => exact absurd hj List.not_mem_nil
  | cons u l ih =>
    obtain ⟨hu, hl⟩ := List.nodup_cons.mp hl
    have hnext : HasProgram (runUnit c r s u) r := h.of_tab (runUnit_unitsOnly h c u).tab
    rw [List.foldl_cons]
    by_cases huj : u = j
    · subst huj
      rw [runUnits_keep c hother hu hnext]
      exact hself h
    · have hrest := ih hl ((List.mem_cons.mp hj).resolve_left (Ne.symm huj)) hnext
      rwa [hother h huj] at hrest

end

/-! ### RUN_SLOT to a gang -/

theorem gangCmd_tab (s : State) (g : Nat) (cmd : FaceCmd) : (gangCmd s g cmd).tab = s.tab := by rw [gangCmd_eq]

theorem runSlot_eq (s : State) (c : Nat) (r : SlotRec) : runSlot s c r = (unitsOf s c r.gang).foldl (runUnit c r)
    (gangCmd s r.gang { opcode := 1, ctx := BitVec.ofNat 4 c, slot := r.slot, arg := 0 }) := by
  unfold runSlot
  dsimp only
  rw [unitsOf_congr (s := s)] <;> rw [gangCmd_eq]

section
variable {s : State} {r : SlotRec} (h : HasProgram s r) (c : Nat)
include h

theorem runSlot_unitsOnly : UnitsOnly s (runSlot s c r) := by
  rw [runSlot_eq]
  refine UnitsOnly.trans ?_ (runUnits_unitsOnly c _ (h.of_tab (gangCmd_tab s _ _)))
  rw [gangCmd_eq]
  rfl

/-- What only the start of unit `j` of the gang changes is, after RUN_SLOT to the gang, as that start leaves it. -/
theorem runSlot_reads {β : Type} {R : State → β} {j : Nat} {Q : β → β → Prop}
    (hgangs : ∀ s g, R { s with gangs := g } = R s)
    (hother : ∀ {s : State}, HasProgram s r → ∀ {u : Nat}, u ≠ j → R (runUnit c r s u) = R s)
    (hself : ∀ {s : State}, HasProgram s r → Q (R s) (R (runUnit c r s j)))
    (hj : j ∈ unitsOf s c r.gang) : Q (R s) (R (runSlot s c r)) := by
  have hread := runUnits_reads c hother hself (unitsOf_nodup s c r.gang) hj
    (h.of_tab (gangCmd_tab s r.gang { opcode := 1, ctx := BitVec.ofNat 4 c, slot := r.slot, arg := 0 }))
  rwa [← runSlot_eq, gangCmd_eq, hgangs] at hread

theorem getFace_runSlot {u : Nat} (hu : u < 552) (hj : u ∈ unitsOf s c r.gang) :
    FaceRuns c r (getFace (runSlot s c r) u) :=
  runSlot_reads (R := (getFace · u)) (Q := fun _ f => FaceRuns c r f) h c (fun _ _ => rfl)
    (fun h _ hu => getFace_runUnit_other h c hu) (fun h => getFace_runUnit_runs h c hu) hj

theorem getCore_runSlot {k : Nat} (hk : k < 512) (hj : k ∈ unitsOf s c r.gang) :
    getCore (runSlot s c r) k = coreStart r (getCore s k) :=
  runSlot_reads (R := (getCore · k)) (Q := fun a b => b = coreStart r a) h c (fun _ _ => rfl)
    (fun h _ hu => getCore_runUnit_other h c hu) (fun h => getCore_runUnit h c hk) hj

theorem getRiddle_runSlot {e : Nat} (he : e < 32) (hj : 512 + e ∈ unitsOf s c r.gang) :
    getRiddle (runSlot s c r) e = riddleStart r (getRiddle s e) :=
  runSlot_reads (R := (getRiddle · e)) (Q := fun a b => b = riddleStart r a) h c (fun _ _ => rfl)
    (fun h _ hu => getRiddle_runUnit_other h c hu) (fun h => getRiddle_runUnit h c he) hj

theorem getTrw_runSlot {w : Nat} (hw : w < 8) (hj : 544 + w ∈ unitsOf s c r.gang) :
    getTrw (runSlot s c r) w = trwStart r (getTrw s w) :=
  runSlot_reads (R := (getTrw · w)) (Q := fun a b => b = trwStart r a) h c (fun _ _ => rfl)
    (fun h _ hu => getTrw_runUnit_other h c hu) (fun h => getTrw_runUnit h c hw) hj

end

/-! ### SLOT_ISSUE and SLOT_RETIRE (03 R88, R89, R95) -/

theorem findSlot_mem {s : State} {c i : Nat} {x : SlotI} (h : findSlot s c i = some x) : x ∈ s.tick.slots :=
  List.mem_of_find?_eq_some h

theorem mem_setSlot {s : State} {x : SlotI} (y : SlotI) (h : x ∈ s.tick.slots) : y ∈ (setSlot s x y).tick.slots :=
  List.mem_map.mpr ⟨x, h, if_pos rfl⟩

theorem mem_setSlot_other {s : State} {x z : SlotI} (y : SlotI) (h : z ∈ s.tick.slots) (hz : z ≠ x) :
    z ∈ (setSlot s x y).tick.slots :=
  List.mem_map.mpr ⟨z, h, if_neg hz⟩

theorem advanceTo_past {s : State} {t : Nat} (h : t ≤ s.halyard) : advanceTo s t = s := if_neg (Nat.not_lt.mpr h)

/-- A program listed for a number, and none listed for it empty: the program of that number has an instruction. -/
theorem hasProgram_of_mem {s : State} {r : SlotRec} (hne : ∀ p ∈ s.tab.programs, p.1 = r.program → p.2 ≠ [])
    (hex : ∃ p ∈ s.tab.programs, p.1 = r.program) : HasProgram s r := by
  obtain ⟨p, hp, hpr⟩ := hex
  unfold HasProgram programOf
  cases hf : s.tab.programs.find? (fun p => p.1 = r.program) with
  | none => simpa [hpr] using List.find?_eq_none.mp hf p hp
  | some q => exact hne q (List.mem_of_find?_eq_some hf) (by simpa using List.find?_some hf)

/-- SLOT_ISSUE of a pending slot whose count has come, in a context that runs and has settled. -/
theorem slotIssue_due {s : State} {c i : Nat} {x : SlotI} (hx : findSlot s c i = some x) (hst : x.st = .pending)
    (hrun : (getCtx s c).st = .running ∨ (getCtx s c).st = .ending) (hlc : (getCtx s c).lc = true → x.due < s.tick.next)
    (hset : (getCtx s c).settling = false) (hdue : x.due ≤ s.halyard) :
    slotIssue s c i = if slotIdle s x then runSlot (setSlot s x { x with st := .issued }) c (slotRec s x)
      else if x.waited then s
      else setCtx (setSlot s x { x with waited := true }) c
        { getCtx s c with slotWaits := inc32 (getCtx s c).slotWaits 1 } := by
  have hgo : ¬ (x.st ≠ .pending ∨ ¬ ((getCtx s c).st = .running ∨ (getCtx s c).st = .ending) ∨
      ((getCtx s c).lc = true ∧ s.tick.next ≤ x.due)) := by
    rintro (h | h | ⟨h, hle⟩)
    · exact h hst
    · exact h hrun
    · exact absurd (hlc h) (Nat.not_lt.mpr hle)
  unfold slotIssue
  simp only [hx, if_neg hgo, advanceTo_past hdue, hset, Bool.false_and, Bool.false_eq_true, if_false]
  cases slotIdle s x <;> rfl

/-- Best-effort context `c` leaves slot `x` and comes to the next index of its step. -/
def leaveSlot (s : State) (c : Nat) (x : SlotI) : State :=
  setCtx { s with tick := { s.tick with slots := s.tick.slots.erase x } } c
    { getCtx s c with slotIndex := (getCtx s c).slotIndex + 1 }

/-- The step of a context depends on its count of steps done, not on the slot it has come to. -/
theorem stepRec_leaveSlot (s : State) (c : Nat) (x : SlotI) : stepRec (leaveSlot s c x) c = stepRec s c := by
  have hdone : (getCtx (leaveSlot s c x) c).stepsDone = (getCtx s c).stepsDone := by
    rw [leaveSlot, getCtx_setCtx_same]
  have htab : (leaveSlot s c x).tab = s.tab := rfl
  simp only [stepRec, stepIdx, ctxRec, htab, hdone]

theorem ctxFin_val (c : Fin 16) : ctxFin c.val = c := Fin.ofNat_val_eq_self c

theorem addBestSlot_leaveSlot {s : State} {c : Fin 16} (x : SlotI)
    (h : (getCtx s c.val).slotIndex + 1 < (stepRec s c.val).slotCount) :
    addBestSlot (leaveSlot s c.val x) c.val = addSlots (leaveSlot s c.val x)
      [{ ctx := c, idx := (stepRec s c.val).slotFirst + ((getCtx s c.val).slotIndex + 1), st := .pending, due := s.halyard,
         waited := false }] := by
  have hindex : (getCtx (leaveSlot s c.val x) c.val).slotIndex = (getCtx s c.val).slotIndex + 1 := by
    rw [leaveSlot, getCtx_setCtx_same]
  have hclock : (leaveSlot s c.val x).halyard = s.halyard := rfl
  unfold addBestSlot
  simp only [stepRec_leaveSlot, hindex, if_pos h, ctxFin_val, hclock]

/-- SLOT_RETIRE of an issued slot whose gang is IDLE again, in a context that runs. -/
theorem slotRetire_idle {s : State} {c i : Nat} {x : SlotI} (hx : findSlot s c i = some x) (hst : x.st = .issued)
    (hidle : slotIdle s x = true) (hrun : (getCtx s c).st = .running) :
    slotRetire s c i =
      if (getCtx s c).lc then setSlot s x { x with st := .retired }
      else if (getCtx s c).slotIndex + 1 < (stepRec s c).slotCount then addBestSlot (leaveSlot s c x) c
      else stepEnd (leaveSlot s c x) c := by
  have hgo : ¬ (x.st ≠ .issued ∨ slotIdle s x = false ∨ ¬ ((getCtx s c).st = .running ∨ (getCtx s c).st = .ending)) := by
    simp [hst, hidle, hrun]
  rw [← stepRec_leaveSlot s c x]
  unfold slotRetire
  simp only [hx, if_neg hgo]
  rfl

theorem exec_slotIssue_of {s t : State} {c : Fin 16} {i : Nat} (hf : frozen s = false) (ht : slotIssue s c.val i = t)
    (hneed : t.drg.need = []) : exec (.slotIssue c i) s = .next t := by
  have hexec : exec (.slotIssue c i) s = .next (if frozen s then s else guarded s (slotIssue s c.val i)) := rfl
  rw [hexec, hf, ht, guarded_of s t hneed]
  rfl

theorem exec_slotRetire_of {s t : State} {c : Fin 16} {i : Nat} (hf : frozen s = false) (ht : slotRetire s c.val i = t)
    (hneed : t.drg.need = []) : exec (.slotRetire c i) s = .next t := by
  have hexec : exec (.slotRetire c i) s = .next (if frozen s then s else guarded s (slotRetire s c.val i)) := rfl
  rw [hexec, hf, ht, guarded_of s t hneed]
  rfl

/-- Settles O21: RUN_SLOT starts each unit of the gang once, so what a start leaves of its unit is what the issue leaves of it. -/
theorem slotIssueRuns : Obligations.SlotIssueRuns := by
  unfold Obligations.SlotIssueRuns
  refine ⟨?issues, ?waits, ?retires⟩
  case issues =>
    rintro s c i x hf ⟨-, hneed⟩ hx hst hrun hlc hset hidle hdue hne hex r
    let s₁ := setSlot s x { x with st := .issued }
    have hprog : HasProgram s₁ r := (hasProgram_of_mem hne hex).of_tab (t := s₁) rfl
    have hunits : unitsOf s₁ c.val r.gang = unitsOf s c.val r.gang := unitsOf_congr (s := s) (t := s₁) rfl rfl rfl rfl _ _
    have honly : UnitsOnly s₁ (runSlot s₁ c.val r) := runSlot_unitsOnly hprog c.val
    have hissue : slotIssue s c.val i = runSlot s₁ c.val r :=
      (slotIssue_due hx hst hrun hlc hset hdue).trans (if_pos hidle)
    refine ⟨runSlot s₁ c.val r, exec_slotIssue_of hf hissue (by rw [honly.drg]; exact hneed), ?_, ?_, ?_, ?_, ?_, ?_⟩
    · intro y hy hyx
      rw [honly.tick]
      exact mem_setSlot_other _ hy hyx
    · rw [honly.tick]
      exact mem_setSlot _ (findSlot_mem hx)
    · intro u hu h552
      obtain ⟨hst, howner, hslot, hcmd⟩ := getFace_runSlot hprog c.val h552 (hunits ▸ hu)
      exact ⟨hst, by rw [howner, ctxFin_val], hslot, hcmd⟩
    · intro u hu h512
      exact getCore_runSlot hprog c.val h512 (hunits ▸ hu)
    · intro e he
      rw [getRiddle_runSlot hprog c.val e.isLt (hunits ▸ he)]
      exact ⟨rfl, rfl, rfl, rfl⟩
    · intro w hw
      rw [getTrw_runSlot hprog c.val w.isLt (hunits ▸ hw)]
      exact ⟨rfl, rfl, rfl⟩
  case waits =>
    rintro s c i x hf ⟨-, hneed⟩ hx hst hrun hlc hset hidle hdue
    have hissue := (slotIssue_due hx hst hrun hlc hset hdue).trans (if_neg (by simp [hidle]))
    constructor
    · intro hw
      exact exec_slotIssue_of hf (hissue.trans (if_pos hw)) hneed
    · intro hw
      refine ⟨_, exec_slotIssue_of hf (hissue.trans (if_neg (by simp [hw]))) hneed, ?_, ?_, rfl, ?_⟩
      · exact mem_setSlot { x with waited := true } (findSlot_mem hx)
      · rw [getCtx_setCtx_same]
      · exact List.length_map _
  case retires =>
    rintro s c i x hf ⟨-, hneed⟩ hx hst hidle hrun y r
    have hretire := slotRetire_idle hx hst hidle hrun
    constructor
    · intro hlc
      exact exec_slotRetire_of hf (hretire.trans (if_pos hlc)) hneed
    · intro hlc hmore
      have hnot : ¬ (getCtx s c.val).lc = true := Bool.eq_false_iff.mp hlc
      have hnext := (hretire.trans (if_neg hnot)).trans ((if_pos hmore).trans (addBestSlot_leaveSlot x hmore))
      exact exec_slotRetire_of hf hnext hneed

end Sys2Proof.Machine

namespace Sys2Proof.Machine

/-! ### Number formats (05 R167-R183) -/

theorem bitAt_toNat {v i : Nat} (h : v < 2 ^ (i + 1)) : b2n (bitAt v i) * 2 ^ i + v % 2 ^ i = v := by
  have hq : v / 2 ^ i < 2 := by
    rw [Nat.div_lt_iff_lt_mul (Nat.two_pow_pos i)]
    rw [pow_succ] at h
    omega
  have hb : b2n (bitAt v i) = v / 2 ^ i := by
    unfold bitAt b2n
    interval_cases v / 2 ^ i <;> rfl
  rw [hb]
  exact Nat.div_add_mod' v (2 ^ i)

/-- A magnitude that lies on the format's grid in the subnormal range is its own code. -/
theorem magCode_subnormal (f : FFmt) {c : Nat} (h : c < 2 ^ f.fb) :
    magCode f none c (1 - (f.bias : Int) - f.fb) = c := by
  unfold magCode
  by_cases hc : c = 0
  · simp [hc]
  · have hlog : Nat.log2 c < f.fb := (Nat.log2_lt hc).mpr h
    have hq : max (1 - (f.bias : Int) - f.fb + (Nat.log2 c : Nat) - f.fb) (1 - (f.bias : Int) - f.fb)
        = 1 - (f.bias : Int) - f.fb := by omega
    simp [hc, hq]

/-- A magnitude with the leading bit at `fb` and exponent field `e` is encoded by that field and its other bits. -/
theorem magCode_normal (f : FFmt) {e k : Nat} (he : 1 ≤ e) (hk : k < 2 ^ f.fb) :
    magCode f none (2 ^ f.fb + k) ((e : Int) - f.bias - f.fb) = e * 2 ^ f.fb + k := by
  have hpos := Nat.two_pow_pos f.fb
  have hm : 2 ^ f.fb + k ≠ 0 := by omega
  have hlog : Nat.log2 (2 ^ f.fb + k) = f.fb := by
    rw [Nat.log2_eq_iff hm, pow_succ]
    omega
  have hq : max ((e : Int) - f.bias - f.fb + (f.fb : Nat) - f.fb) (1 - (f.bias : Int) - f.fb)
      = (e : Int) - f.bias - f.fb := by omega
  have hbase : ((e : Int) - f.bias - f.fb - (1 - (f.bias : Int) - f.fb)).toNat = e - 1 := by omega
  obtain ⟨n, rfl⟩ : ∃ n, e = n + 1 := ⟨e - 1, by omega⟩
  unfold magCode
  simp only [hm, hlog, hq, hbase, if_false, le_refl, if_true, sub_self, Int.toNat_zero, pow_zero, mul_one,
    Nat.add_sub_cancel]
  ring

/-- The magnitude code of the value that a code of a finite magnitude denotes. -/
theorem magCode_fdec (f : FFmt) (c : Nat) :
    magCode f none (if c / 2 ^ f.fb = 0 then c else 2 ^ f.fb + c % 2 ^ f.fb)
      ((max (c / 2 ^ f.fb) 1 : Nat) - (f.bias : Int) - (f.fb : Int)) = c := by
  have hpos := Nat.two_pow_pos f.fb
  by_cases he : c / 2 ^ f.fb = 0
  · rw [if_pos he, he]
    exact magCode_subnormal f ((Nat.div_eq_zero_iff_lt hpos).mp he)
  · have h1 : 1 ≤ c / 2 ^ f.fb := Nat.one_le_iff_ne_zero.mpr he
    rw [if_neg he, max_eq_left h1]
    exact (magCode_normal f h1 (Nat.mod_lt c hpos)).trans (Nat.div_add_mod' c _)

theorem fenc_fdec (f : FFmt) {v : Nat} (hv : v < 2 ^ (f.eb + f.fb + 1)) (hc : v % 2 ^ (f.eb + f.fb) ≤ f.maxc) :
    fenc f none (fdec f v) = v := by
  unfold fdec fenc
  simp only [hc, if_true, magCode_fdec]
  exact bitAt_toNat hv

/-- A `w`-bit number is the two's complement of its signed reading, which the range of `w` bits holds. -/
theorem satInt_sext {w v : Nat} (hw : w ≠ 0) (hv : v < 2 ^ w) : satInt w (sext w v) = v := by
  obtain ⟨n, rfl⟩ : ∃ n, w = n + 1 := ⟨w - 1, by omega⟩
  have hmod : v % 2 ^ (n + 1) = v := Nat.mod_eq_of_lt hv
  have hpow : 2 ^ (n + 1) = 2 * 2 ^ n := by ring
  have hpos := Nat.two_pow_pos n
  unfold satInt sext wrap
  simp only [hmod, Nat.add_sub_cancel]
  have hcast : ((2 : Int) ^ (n + 1)) = ((2 ^ (n + 1) : Nat) : Int) := by push_cast; rfl
  rw [hcast, hpow]
  rw [hpow] at hv
  generalize 2 ^ n = p at *
  split
  · have : max (-(p : Int)) (min (v : Int) ((p : Int) - 1)) = v := by omega
    rw [this, Int.emod_eq_of_lt (by omega) (by push_cast; omega)]
    rfl
  · have : max (-(p : Int)) (min ((v : Int) - ((2 * p : Nat) : Int)) ((p : Int) - 1)) = v - ((2 * p : Nat) : Int) := by
      push_cast; omega
    rw [this, Int.sub_emod_right, Int.emod_eq_of_lt (by omega) (by push_cast; omega)]
    rfl

theorem finInt_natAbs (i : Int) : finInt (decide (i < 0)) i.natAbs 0 = i := by
  have hr : roundInt i.natAbs 0 = i.natAbs := by simp [roundInt]
  unfold finInt
  rw [hr]
  by_cases h : i < 0
  · simp only [h, decide_true, if_true]; omega
  · simp only [h, decide_false, Bool.false_eq_true, if_false]; omega

/-- The integer formats are no floating-point formats and not E8M0. -/
theorem ffmt_of_intW {m : Nat} (h : intW m ≠ 0) : ffmt m = none ∧ m ≠ 9 := by
  have hm : m = 10 ∨ m = 11 ∨ m = 12 ∨ m = 13 := by
    unfold intW at h
    split at h <;> simp_all
  rcases hm with rfl | rfl | rfl | rfl <;> decide

/-- Settles O14: the value of an encoding lies on its format's grid, so the conversion has nothing to round or saturate. -/
theorem formatsRoundTrip : Obligations.FormatsRoundTrip := by
  unfold Obligations.FormatsRoundTrip
  constructor
  · intro m f v hf hv hc
    simp only [enc, dec, hf]
    exact fenc_fdec f hv hc
  · intro m v hm hv
    obtain ⟨hf, h9⟩ := ffmt_of_intW hm
    simp only [enc, dec, hf, h9, if_false, finInt_natAbs]
    exact satInt_sext hm hv

end Sys2Proof.Machine

namespace Sys2Proof.Machine

/-! ### Scalar arithmetic (04 R137) -/

/-- An instruction that computes one scalar register from the core's own registers. -/
theorem issue_writeS {s : State} {k : Nat} (h : Straight s k) (sd : BitVec 5) (v : Core → W64) :
    issue s k (fun c => writeS s k c sd (v c)) = setCore s k (stepped (setS (getCore s k) sd (v (getCore s k)))) := by
  rw [issue_of _ _ _ h.1]
  exact writeS_straight s k h sd _

theorem alu_straight {s : State} {k : Nat} (h : Straight s k) (op : W64 → W64 → W64) (sd sa sb : BitVec 5) (imm : BitVec 32) :
    alu op k sd sa sb imm s =
      setCore s k (stepped (setS (getCore s k) sd (op (getS (getCore s k) sa) (getS (getCore s k) sb + imm.signExtend 64)))) :=
  issue_writeS h sd _

theorem concat_low (imm : BitVec 32) (x : W64) :
    (imm ++ x.setWidth 32 : W64) = BitVec.ofNat 64 (imm.toNat * 2 ^ 32 + x.toNat % 2 ^ 32) := by
  apply BitVec.eq_of_toNat_eq
  have hlo : x.toNat % 2 ^ 32 < 2 ^ 32 := Nat.mod_lt _ (by norm_num)
  have himm := imm.isLt
  rw [BitVec.toNat_append, BitVec.toNat_ofNat, BitVec.toNat_setWidth, Nat.mod_eq_of_lt (a := imm.toNat * 2 ^ 32 + x.toNat % 2 ^ 32) (by omega),
    ← Nat.shiftLeft_add_eq_or_of_lt hlo, Nat.shiftLeft_eq]

theorem shiftLeft_mod64 (x : W64) (n : Nat) : x <<< n = BitVec.ofNat 64 (x.toNat * 2 ^ n) := by
  apply BitVec.eq_of_toNat_eq
  rw [BitVec.toNat_shiftLeft, BitVec.toNat_ofNat, Nat.shiftLeft_eq]

theorem ushiftRight_div (x : W64) (n : Nat) : x >>> n = BitVec.ofNat 64 (x.toNat / 2 ^ n) := by
  apply BitVec.eq_of_toNat_eq
  rw [BitVec.toNat_ushiftRight, BitVec.toNat_ofNat, Nat.shiftRight_eq_div_pow,
    Nat.mod_eq_of_lt (lt_of_le_of_lt (Nat.div_le_self _ _) x.isLt)]

theorem sshiftRight_div (x : W64) (n : Nat) : x.sshiftRight n = BitVec.ofInt 64 (x.toInt / (2 ^ n : Nat)) := by
  apply BitVec.eq_of_toInt_eq
  rw [BitVec.toInt_sshiftRight, Int.shiftRight_eq_div_pow, BitVec.toInt_ofInt]
  have hb : (x.toInt / ((2 ^ n : Nat) : Int)).bmod (2 ^ 64) = x.toInt / ((2 ^ n : Nat) : Int) := by
    have h := BitVec.toInt_sshiftRight (x := x) (n := n)
    rw [Int.shiftRight_eq_div_pow] at h
    rw [← h]
    exact BitVec.toInt_bmod_cancel _
  rw [hb]

theorem slt_ite {α : Type} (x y : W64) (a b : α) : (if x.slt y then a else b) = if x.toInt < y.toInt then a else b := by
  simp [BitVec.slt]

/-- The lesser of two words as signed numbers, and the greater. -/
theorem signed_min (x y : W64) : (if x.slt y then x else y) = if x.toInt ≤ y.toInt then x else y := by
  rw [slt_ite]
  rcases lt_trichotomy x.toInt y.toInt with h | h | h
  · rw [if_pos h, if_pos h.le]
  · rw [if_neg h.not_lt, if_pos h.le, BitVec.eq_of_toInt_eq h]
  · rw [if_neg h.not_gt, if_neg h.not_ge]

theorem signed_max (x y : W64) : (if x.slt y then y else x) = if x.toInt ≤ y.toInt then y else x := by
  rw [slt_ite]
  rcases lt_trichotomy x.toInt y.toInt with h | h | h
  · rw [if_pos h, if_pos h.le]
  · rw [if_neg h.not_lt, if_pos h.le, BitVec.eq_of_toInt_eq h]
  · rw [if_neg h.not_gt, if_neg h.not_ge]

/-- Settles O3: each instruction writes one register with `alu` or `writeS` and moves on; what is left is the arithmetic of words. -/
theorem scalarArithmetic : Obligations.ScalarArithmetic := by
  intro s k sd sa sb imm h c x y put
  have alu_next : ∀ (op : W64 → W64 → W64) (v : W64), op x y = v →
      (.next (alu op k.val sd sa sb imm s) : Host.Outcome State Fault Refusal) = put v := by
    intro op v hv
    rw [alu_straight h, ← hv]
  refine ⟨?_, ?_, alu_next _ _ rfl, alu_next _ _ rfl, alu_next _ _ rfl, alu_next _ _ rfl, alu_next _ _ rfl, alu_next _ _ rfl,
    alu_next _ _ (shiftLeft_mod64 x _), alu_next _ _ (ushiftRight_div x _), alu_next _ _ (sshiftRight_div x _),
    alu_next _ _ (signed_min x y), alu_next _ _ (signed_max x y)⟩
  · exact congrArg _ (issue_writeS h sd _)
  · refine (congrArg _ (issue_writeS h sd _)).trans ?_
    rw [concat_low]

end Sys2Proof.Machine

namespace Sys2Proof.Machine

/-! ### The step, and the machine after reset -/

/-- Settles O1: `step` is defined so, and every arm of `exec` is a next state. -/
theorem stepRunsFront : Obligations.StepRunsFront := by
  refine ⟨fun s c rest => ⟨rfl, rfl⟩, fun i s => ?_⟩
  cases i <;> exact ⟨_, rfl⟩

/-- Settles O59: each part of the reset state, read off its definition. -/
theorem resetState : Obligations.ResetState :=
  ⟨⟨rfl, rfl, rfl, rfl, fun _ => rfl, fun _ => rfl, fun _ => rfl, rfl, rfl, rfl, rfl, rfl, rfl, rfl, rfl⟩,
    ⟨⟨rfl, rfl⟩, rfl, rfl, rfl, rfl, rfl, rfl, rfl, rfl, rfl, rfl, rfl, rfl⟩⟩

/-! ### Address registers and system values (04 R137) -/

/-- An instruction that changes the registers of its core and nothing of its place in the program. -/
theorem issue_setCore {s : State} {k : Nat} (h : Straight s k) (d : Core → Core) (hp : (d (getCore s k)).pc = (getCore s k).pc)
    (hg : (d (getCore s k)).prog = (getCore s k).prog) (hl : (d (getCore s k)).loops = (getCore s k).loops)
    (he : (d (getCore s k)).ended = (getCore s k).ended) :
    issue s k (fun c => next (setCore s k (d c)) k) = setCore s k (stepped (d (getCore s k))) := by
  rw [issue_of _ _ _ h.1]
  exact next_straight s k _ h hp hg hl he

/-- RDSYS of a value that is defined. -/
theorem exec_rdsys_of {s : State} {k : Fin 512} (h : Straight s k.val) (sd : BitVec 5) {imm : BitVec 32} {v : Nat}
    (hv : sysValue s k.val (getCore s k.val) (imm.toNat % 16) = some v) :
    exec (.rdsys k sd imm) s = .next (setCore s k.val (stepped (setS (getCore s k.val) sd (BitVec.ofNat 64 v)))) := by
  change Host.Outcome.next (issue s k.val (fun c => match sysValue s k.val c (imm.toNat % 16) with
    | some v => writeS s k.val c sd (BitVec.ofNat 64 v)
    | none => unitFault s k.val fIllegal)) = _
  rw [issue_of _ _ _ h.1, hv]
  exact congrArg _ (writeS_straight s k.val h sd _)

theorem exec_rdsys_reserved {s : State} {k : Fin 512} (h : canIssue s k.val = true) (sd : BitVec 5) {imm : BitVec 32}
    (hv : sysValue s k.val (getCore s k.val) (imm.toNat % 16) = none) :
    exec (.rdsys k sd imm) s = .next (unitFault s k.val fIllegal) := by
  change Host.Outcome.next (issue s k.val (fun c => match sysValue s k.val c (imm.toNat % 16) with
    | some v => writeS s k.val c sd (BitVec.ofNat 64 v)
    | none => unitFault s k.val fIllegal)) = _
  rw [issue_of _ _ _ h, hv]

theorem sysValue_reserved (s : State) (k : Nat) (c : Core) {v : Nat} (h : 8 ≤ v) : sysValue s k c v = none := by
  obtain ⟨n, rfl⟩ := Nat.exists_eq_add_of_le' h
  rfl

/-- Settles O4: each instruction writes one register and moves on; `sysValue` has eight cases. -/
theorem addressAndSystemRegisters : Obligations.AddressAndSystemRegisters := by
  intro s k sd sa ad imm h c x put sys
  have rd : ∀ n v, sysValue s k.val c n = some v → imm.toNat % 16 = n → exec (.rdsys k sd imm) s = sys v :=
    fun n v hv hn => exec_rdsys_of h sd (hn ▸ hv)
  refine ⟨?_, ?_, ?_, ?_, rd 0 _ rfl, rd 1 _ rfl, rd 2 _ rfl, rd 3 _ rfl, rd 4 _ rfl, rd 5 _ rfl, rd 6 _ rfl, rd 7 _ rfl,
    fun h8 => exec_rdsys_reserved h.1 sd (sysValue_reserved s k.val c h8)⟩
  · exact congrArg _ ((issue_of _ _ _ h.1).trans (next_self s k.val h))
  · exact congrArg _ (issue_setCore h (fun c => setA c ad (getS c sa + sx32 imm)) rfl rfl rfl rfl)
  · refine (congrArg _ (issue_setCore h (fun c => setA c ad (getA c ad + getS c sa + sx32 imm)) rfl rfl rfl rfl)).trans ?_
    rw [add_assoc]
    rfl
  · exact congrArg _ (issue_writeS h sd _)

/-! ### SLD and SST (04 R137) -/

section
variable {s : State} {k a : Nat} (h : canIssue s k = true) (rd : Bool) (f : Core → State)
include h

theorem seqAccess_align (ha : a % 8 ≠ 0) : seqAccess s k a rd f = unitFault s k fAlign := by
  simp [seqAccess, issue_of _ _ _ h, ha]

theorem seqAccess_bounds (ha : a % 8 = 0) (hb : b0End < a + 8) : seqAccess s k a rd f = unitFault s k fBounds := by
  simp [seqAccess, issue_of _ _ _ h, ha, hb]

theorem seqAccess_held (ha : a % 8 = 0) (hb : a + 8 ≤ b0End)
    (hh : admits (getCore s k) (if rd then [(a, 8)] else []) (if rd then [] else [(a, 8)]) = false) :
    seqAccess s k a rd f = setCore s k { getCore s k with stall := 2 } := by
  simp [seqAccess, issue_of _ _ _ h, ha, Nat.not_lt.mpr hb, hh, stallCore]

theorem seqAccess_admitted (ha : a % 8 = 0) (hb : a + 8 ≤ b0End)
    (hh : admits (getCore s k) (if rd then [(a, 8)] else []) (if rd then [] else [(a, 8)]) = true) :
    seqAccess s k a rd f = f (getCore s k) := by
  simp [seqAccess, issue_of _ _ _ h, ha, Nat.not_lt.mpr hb, hh]

end

theorem bytesOf_length (n v : Nat) : (bytesOf n v).length = n := by
  induction n generalizing v with
  | zero => rfl
  | succ n ih => simp [bytesOf, ih]

theorem natOf_bytesOf (n v : Nat) : natOf (bytesOf n v) = v % 256 ^ n := by
  induction n generalizing v with
  | zero => simp [bytesOf, natOf, Nat.mod_one]
  | succ n ih =>
    rw [bytesOf, natOf, ih, BitVec.toNat_ofNat, Nat.pow_succ' (m := 256) (n := n)]
    exact Nat.mod_mul.symm

/-- What is read of the bytes just written. -/
theorem readBytes_writeBytes (m : Mem) (a : Nat) (bs : List Byte) : readBytes (writeBytes m a bs) a bs.length = bs := by
  refine List.ext_getElem (by simp [readBytes]) (fun i h1 h2 => ?_)
  have hi : a ≤ a + i ∧ a + i < a + bs.length := by omega
  have hget := mget_writeBytes m a bs (a + i)
  rw [if_pos hi, Nat.add_sub_cancel_left, List.getD_eq_getElem _ _ h2] at hget
  simpa [readBytes] using hget

theorem readNat_writeBytes (m : Mem) (a n v : Nat) : readNat (writeBytes m a (bytesOf n v)) a n = v % 256 ^ n := by
  have h := readBytes_writeBytes m a (bytesOf n v)
  rw [bytesOf_length] at h
  rw [readNat, h, natOf_bytesOf]

/-- Settles O5: the four outcomes of a sequencer access, and the memory after eight bytes are written. -/
theorem sequencerLoadStore : Obligations.SequencerLoadStore := by
  intro s k sd sa ad imm h c a
  refine ⟨fun ha => ⟨?_, ?_⟩, fun ha hb => ⟨?_, ?_⟩, fun ha hb hr => ?_, fun ha hb hw => ?_, fun ha hb hr => ?_, fun ha hb hw => ?_⟩
  · exact congrArg _ (seqAccess_align h.1 true _ ha)
  · exact congrArg _ (seqAccess_align h.1 false _ ha)
  · exact congrArg _ (seqAccess_bounds h.1 true _ ha hb)
  · exact congrArg _ (seqAccess_bounds h.1 false _ ha hb)
  · exact congrArg _ ((seqAccess_admitted h.1 true _ ha hb hr).trans (writeS_straight s k.val h sd _))
  · refine ⟨writeBytes c.b0 a (bytesOf 8 (getS c sa).toNat), ?_, ?_, fun b hout => ?_⟩
    · exact congrArg _ ((seqAccess_admitted h.1 false _ ha hb hw).trans (next_straight s k.val
        { c with b0 := writeBytes c.b0 a (bytesOf 8 (getS c sa).toNat) } h rfl rfl rfl rfl))
    · rw [readNat_writeBytes, Nat.mod_eq_of_lt (show (getS c sa).toNat < 256 ^ 8 from (getS c sa).isLt), BitVec.ofNat_toNat, BitVec.setWidth_eq]
    · exact mget_writeBytes_out _ _ _ _ (by rw [bytesOf_length]; exact hout)
  · exact congrArg _ (seqAccess_held h.1 true _ ha hb hr)
  · exact congrArg _ (seqAccess_held h.1 false _ ha hb hw)

end Sys2Proof.Machine

namespace Sys2Proof.Machine

/-! ### Folds -/

/-- What each step of a fold keeps, the fold keeps. -/
theorem foldl_keep {α β γ : Type} (g : α → γ) {f : α → β → α} (hf : ∀ a b, g (f a b) = g a) (l : List β) (a : α) :
    g (l.foldl f a) = g a := by
  induction l generalizing a with
  | nil => rfl
  | cons b l ih => exact (ih _).trans (hf a b)

/-- A fold stays in a reflexive and transitive relation to its start when each step does. -/
theorem foldl_rel {α β : Type} {R : α → α → Prop} (hr : ∀ a, R a a) (ht : ∀ {a b c}, R a b → R b c → R a c) {f : α → β → α}
    (hf : ∀ a b, R a (f a b)) (l : List β) (a : α) : R a (l.foldl f a) := by
  induction l generalizing a with
  | nil => exact hr a
  | cons b l ih => exact ht (hf a b) (ih _)

/-! ### The passing of time changes no core and no table of the program -/

/-- `t` is `s` but for the Yard and the rows of its collective units. -/
def YardOnly (s t : State) : Prop := t = { s with yard := t.yard, cgroups := t.cgroups }

theorem YardOnly.trans {s t u : State} (h₁ : YardOnly s t) (h₂ : YardOnly t u) : YardOnly s u := by
  unfold YardOnly at *
  rw [h₂, h₁]

theorem setPort_yardOnly (s : State) (q : Nat) (y : YPort) : YardOnly s (setPort s q y) := rfl
theorem setCGroup_yardOnly (s : State) (g : Nat) (c : CGroup) : YardOnly s (setCGroup s g c) := rfl

theorem yardTime_yardOnly (s : State) (yc : Nat) : YardOnly s (yardTime s yc) := by
  unfold yardTime
  split
  · rfl
  · refine foldl_rel (R := YardOnly) (fun _ => rfl) YardOnly.trans (fun s e => ?_) _ s
    split
    · rfl
    next o _ =>
      extract_lets full y₁ s₁ y₂ s₂
      have h₁ : YardOnly s s₁ := by
        unfold s₁
        split
        · exact setPort_yardOnly ..
        · rfl
      have h₂ : YardOnly s s₂ := h₁.trans (setPort_yardOnly ..)
      clear_value s₂
      split
      · split
        · exact h₂.trans (setCGroup_yardOnly ..)
        · exact h₂
      · exact h₂

/-- What the passing of time changes. -/
theorem elapse_eq (n : Nat) (s : State) : elapse n s =
    { s with ns := s.ns + n, halyard := (s.halyard + n) % 2 ^ 64, faces := (elapse n s).faces, buckets := (elapse n s).buckets,
             ctxs := (elapse n s).ctxs, tir := (elapse n s).tir, ctab := (elapse n s).ctab, bpm := (elapse n s).bpm,
             adits := (elapse n s).adits, colls := (elapse n s).colls, fab := (elapse n s).fab, yard := (elapse n s).yard,
             cgroups := (elapse n s).cgroups } := by
  unfold elapse
  split
  · rfl
  · dsimp only
    have hy := yardTime_yardOnly s (yardCyc (s.ns + n) - yardCyc s.ns)
    generalize yardTime s (yardCyc (s.ns + n) - yardCyc s.ns) = t at hy ⊢
    unfold YardOnly at hy
    rw [hy]

@[simp] theorem elapse_halyard (n : Nat) (s : State) : (elapse n s).halyard = (s.halyard + n) % 2 ^ 64 := by rw [elapse_eq]
@[simp] theorem elapse_cores (n : Nat) (s : State) : (elapse n s).cores = s.cores := by rw [elapse_eq]
@[simp] theorem elapse_tab (n : Nat) (s : State) : (elapse n s).tab = s.tab := by rw [elapse_eq]
@[simp] theorem getCore_elapse (n : Nat) (s : State) (k : Nat) : getCore (elapse n s) k = getCore s k := by simp [getCore]

/-! ### A core that runs on changes no gang -/

@[simp] theorem trigger_gangs (s : State) (bit : Nat) : (trigger s bit).gangs = s.gangs := by
  unfold trigger requestDip
  split <;> (try split) <;> rfl

@[simp] theorem bump_gangs (s : State) (u i n : Nat) : (bump s u i n).gangs = s.gangs := by
  unfold bump
  split <;> rfl

@[simp] theorem stopGang_gangs (s : State) (c src : Nat) : (stopGang s c src).gangs = s.gangs :=
  foldl_keep State.gangs (f := fun s u => stopUnit s src u) (fun _ _ => bump_gangs ..) _ _

@[simp] theorem purgeQueues_gangs (s : State) (c : Nat) : (purgeQueues s c).gangs = s.gangs := rfl

@[simp] theorem teardown_gangs (s : State) (c cause : Nat) (uf : Option UnitFault) : (teardown s c cause uf).gangs = s.gangs := by
  unfold teardown
  dsimp only
  split
  · rw [purgeQueues_gangs, stopGang_gangs, setCtx_gangs]
  · rfl

@[simp] theorem unitFault_gangs (s : State) (u code : Nat) : (unitFault s u code).gangs = s.gangs := by
  unfold unitFault
  dsimp only
  split
  · exact (teardown_gangs ..).trans (trigger_gangs ..)
  · exact trigger_gangs ..

@[simp] theorem next_gangs (s : State) (k : Nat) : (next s k).gangs = s.gangs := by
  unfold next advance
  dsimp only
  split
  · exact unitFault_gangs ..
  · rfl

@[simp] theorem resume_gangs (s : State) (k : Nat) : (resume s k).gangs = s.gangs := next_gangs ..

/-! ### Musters (14 R476) -/

theorem mem_dedup {l : List Nat} {x : Nat} (h : x ∈ l) : x ∈ dedup l := by
  suffices hs : ∀ acc : List Nat, x ∈ acc ∨ x ∈ l →
      x ∈ l.foldl (fun acc x => if acc.contains x then acc else acc ++ [x]) acc from hs [] (Or.inr h)
  clear h
  induction l with
  | nil => exact fun acc hx => hx.elim id (fun hx => absurd hx (List.not_mem_nil))
  | cons y l ih =>
    intro acc hx
    simp only [List.foldl_cons]
    refine ih _ ?_
    rcases hx with hx | hx
    · exact Or.inl (by split <;> simp [hx])
    · rcases List.mem_cons.mp hx with rfl | hx
      · exact Or.inl (by split <;> simp_all)
      · exact Or.inr hx

theorem walkGangs_congr {s t : State} (h : t.tab = s.tab) (fuel g : Nat) : walkGangs fuel t g = walkGangs fuel s g := by
  induction fuel generalizing g with
  | zero => rfl
  | succ fuel ih => simp only [walkGangs, members, h, ih]

theorem gangsIn_congr {s t : State} (h : t.tab = s.tab) (g : Nat) : gangsIn t g = gangsIn s g := by
  simp only [gangsIn, treeFuel, h, walkGangs_congr h]

theorem gangsIn_self (s : State) (g : Nat) : g ∈ gangsIn s g := mem_dedup (List.mem_cons_self ..)

/-- The muster generation of one gang goes up. -/
def genUp (s : State) (g : Nat) : State := setGangFace s g { getGangFace s g with gen := (getGangFace s g).gen + 1 }

theorem getGangFace_genUp (s : State) (g h : Nat) : getGangFace (genUp s g) h =
    if h = g then { getGangFace s g with gen := (getGangFace s g).gen + 1 } else getGangFace s h := mget_mput ..

theorem getGangFace_genUps {l : List Nat} (hl : l.Nodup) (s : State) (h : Nat) : getGangFace (l.foldl genUp s) h =
    if h ∈ l then { getGangFace s h with gen := (getGangFace s h).gen + 1 } else getGangFace s h := by
  induction l generalizing s with
  | nil => rfl
  | cons g l ih =>
    obtain ⟨hg, hl⟩ := List.nodup_cons.mp hl
    rw [List.foldl_cons, ih hl, getGangFace_genUp]
    by_cases he : h = g
    · subst he
      simp [hg]
    · simp [he]

theorem getGangFace_musterDone (s : State) (c g h : Nat) : getGangFace (musterDone s c g) h =
    if h ∈ gangsIn s g then { getGangFace s h with gen := (getGangFace s h).gen + 1 } else getGangFace s h := by
  have hus : (musterDone s c g).gangs = ((gangsIn s g).foldl genUp s).gangs :=
    foldl_keep State.gangs (fun s u => (resume_gangs ..).trans (setFace_gangs ..)) _ _
  refine Eq.trans ?_ (getGangFace_genUps (l := gangsIn s g) (dedup_nodup _) s h)
  exact congrArg (fun m => mget {} m h) hus

/-- Core `k` waits in the muster of gang `g`, arrived. -/
def arrive (s : State) (k g : Nat) : State :=
  setFace (startWait s k (.muster g)) k { getFace (startWait s k (.muster g)) k with arrived := true }

theorem arrive_eq (s : State) (k g : Nat) : arrive s k g = setFace (setCore (setFace s k { getFace s k with st := .waiting }) k
    { getCore s k with wait := .muster g, stall := 0 }) k { getFace s k with st := .waiting, arrived := true } := by
  simp [arrive, startWait]

theorem tryMuster_done {s : State} {c g : Nat} (h : gangArrived (treeFuel s) s c g g = true) : tryMuster s c g = musterDone s c g :=
  if_pos h

theorem tryMuster_wait {s : State} {c g : Nat} (h : gangArrived (treeFuel s) s c g g = false) : tryMuster s c g = s :=
  if_neg (Bool.eq_false_iff.mp h)

theorem exec_muster_of {s : State} {k : Fin 512} {gang : BitVec 12} (h : canIssue s k.val = true)
    (hm : k.val ∈ unitsOf s (coreCtx s k.val) gang.toNat) :
    exec (.muster k gang) s = .next (tryMuster (arrive s k.val gang.toNat) (coreCtx s k.val) gang.toNat) := by
  refine congrArg _ ((issue_of _ _ _ h).trans (if_pos ?_))
  simpa using hm

theorem exec_muster_fault {s : State} {k : Fin 512} {gang : BitVec 12} (h : canIssue s k.val = true)
    (hm : k.val ∉ unitsOf s (coreCtx s k.val) gang.toNat) : exec (.muster k gang) s = .next (unitFault s k.val fMuster) := by
  refine congrArg _ ((issue_of _ _ _ h).trans (if_neg ?_))
  simpa using hm

/-! ### WAITC and TAKEC -/

theorem waitCount_on {s : State} {k : Nat} (h : Straight s k) {sv : BitVec 5} {cnt : BitVec 4} (take : Bool)
    (hv : ((getS (getCore s k) sv).setWidth 32).toNat ≤ (getC (getCore s k) cnt.toNat).toNat) : waitCount k sv cnt take s =
      next (if take then setCore s k (setC (getCore s k) cnt.toNat
        (getC (getCore s k) cnt.toNat - (getS (getCore s k) sv).setWidth 32)) else s) k :=
  (issue_of _ _ _ h.1).trans (if_pos hv)

theorem waitCount_wait {s : State} {k : Nat} (h : Straight s k) {sv : BitVec 5} {cnt : BitVec 4} (take : Bool)
    (hv : (getC (getCore s k) cnt.toNat).toNat < ((getS (getCore s k) sv).setWidth 32).toNat) :
    waitCount k sv cnt take s = startWait s k (.count cnt ((getS (getCore s k) sv).setWidth 32) take) :=
  (issue_of _ _ _ h.1).trans (if_neg (Nat.not_le.mpr hv))

theorem queuesEmpty_iff (c : Core) (q : BitVec 8) : queuesEmpty c q = true ↔ ∀ o ∈ c.ops, q.getLsbD o.q = false := by
  simp [queuesEmpty]

/-- Settles O7: what each wait looks at, `musterDone` on the gangs, and a resumed core after the clock has moved. -/
theorem waitsOfACore : Obligations.WaitsOfACore := by
  refine ⟨?_, ?_, ?_⟩
  · intro s k imm sv cnt q h c f v n on wait
    refine ⟨fun ht => ?_, fun ht => ?_, fun hv => ⟨?_, ?_⟩, fun hv => ⟨?_, ?_⟩, fun hq => ?_, fun ⟨o, ho, hq⟩ => ?_⟩
    · exact congrArg _ ((issue_of _ _ _ h.1).trans ((if_pos ht).trans (next_self s k.val h)))
    · exact congrArg _ ((issue_of _ _ _ h.1).trans (if_neg (Nat.not_le.mpr ht)))
    · exact congrArg _ ((waitCount_on h false hv).trans (next_self s k.val h))
    · exact congrArg _ ((waitCount_on h true hv).trans (next_straight s k.val (setC c cnt.toNat (n - v)) h rfl rfl rfl rfl))
    · exact congrArg _ (waitCount_wait h false hv)
    · exact congrArg _ (waitCount_wait h true hv)
    · exact congrArg _ ((issue_of _ _ _ h.1).trans ((if_pos ((queuesEmpty_iff c q).mpr hq)).trans (next_self s k.val h)))
    · refine congrArg _ ((issue_of _ _ _ h.1).trans (if_neg fun he => ?_))
      exact absurd ((queuesEmpty_iff c q).mp he o ho) (by simp [hq])
  · intro s k gang h c g f w
    have hw : arrive s k.val g = w := arrive_eq s k.val g
    have hfuel : treeFuel w = treeFuel s := rfl
    have hgangs : ∀ j, getGangFace w j = getGangFace s j := fun _ => rfl
    have hin : gangsIn w g = gangsIn s g := gangsIn_congr (show w.tab = s.tab from rfl) g
    clear_value w
    refine ⟨exec_muster_fault h, fun hm ha => ?_, fun hm ha => ?_⟩
    · rw [exec_muster_of h hm, hw, tryMuster_wait (hfuel.symm ▸ ha)]
    · refine ⟨_, exec_muster_of h hm, ?_⟩
      rw [hw, tryMuster_done (hfuel.symm ▸ ha)]
      refine ⟨?_, fun j hj => ?_⟩
      · rw [getGangFace_musterDone, if_pos (gangsIn_self w g), hgangs]
      · rw [getGangFace_musterDone, hin, if_neg hj, hgangs]
  · intro s k n hf hw hst he hlt hn hpc hl u
    have hu : u.halyard = n := by
      rw [elapse_halyard]
      omega
    refine ⟨hu, ?_⟩
    have hadv : advanceTo s n = u := if_pos hlt
    have hx : exec (.waittickTarget k) s = .next (resume u k.val) := by
      rw [← hadv]
      simp [exec, execWaittickTarget, hf, hw, hst]
    have hk : getCore u k.val = getCore s k.val := getCore_elapse ..
    have hlen : progLen u (getCore s k.val) = progLen s (getCore s k.val) := by simp [progLen, u]
    rw [hx]
    refine congrArg _ ((next_setCore _ k.val _ ?_ ?_ ?_).trans ?_)
    · rw [getCore_setFace, hk]
      exact he
    · rw [getCore_setFace, hk]
      exact hlen ▸ hpc
    · rw [getCore_setFace, hk]
      exact hl
    · rw [getCore_setFace, hk]

end Sys2Proof.Machine

namespace Sys2Proof.Machine

/-! ### Requests that a core sends (12 R413, R417) -/

theorem foldl_count {α β : Type} (g : α → Nat) {f : α → β → α} (hf : ∀ a b, g (f a b) = g a + 1) (l : List β) (a : α) :
    g (l.foldl f a) = g a + l.length := by
  induction l generalizing a with
  | nil => rfl
  | cons b l ih =>
    rw [List.foldl_cons, ih, hf, List.length_cons]
    omega

/-- `t` is `s` but for the request's tables and the regulators. -/
def SendOnly (s t : State) : Prop := t = { s with fab := t.fab, buckets := t.buckets }

theorem SendOnly.trans {s t u : State} (h₁ : SendOnly s t) (h₂ : SendOnly t u) : SendOnly s u := by
  unfold SendOnly at *
  rw [h₂, h₁]

theorem SendOnly.cores {s t : State} (h : SendOnly s t) : t.cores = s.cores := by rw [h]
theorem SendOnly.tab {s t : State} (h : SendOnly s t) : t.tab = s.tab := by rw [h]

/-- The requests that wait for an answer or for their entry. -/
def pendingReqs (s : State) : Nat := s.fab.table.length + s.fab.held.length

theorem inject_sendOnly (s : State) (port : Nat) (p : Packet) : SendOnly s (inject s port p) := rfl
theorem setBucket_sendOnly (s : State) (p l : Nat) (b : Bucket) : SendOnly s (setBucket s p l b) := rfl

/-- What the regulators leave: the send table, the held requests, and all but the tables of requests. -/
def PassOnly (s t : State) : Prop :=
  SendOnly s t ∧ t.fab.table = s.fab.table ∧ t.fab.held = s.fab.held ∧ t.fab.nextOrd = s.fab.nextOrd ∧
    t.fab.fpAtomics = s.fab.fpAtomics

theorem PassOnly.trans {s t u : State} (h₁ : PassOnly s t) (h₂ : PassOnly t u) : PassOnly s u := by
  obtain ⟨a, b, c, d, e⟩ := h₁
  obtain ⟨a', b', c', d', e'⟩ := h₂
  exact ⟨a.trans a', b'.trans b, c'.trans c, d'.trans d, e'.trans e⟩

theorem inject_passOnly (s : State) (port : Nat) (p : Packet) : PassOnly s (inject s port p) := ⟨rfl, rfl, rfl, rfl, rfl⟩
theorem setBucket_passOnly (s : State) (p l : Nat) (b : Bucket) : PassOnly s (setBucket s p l b) := ⟨rfl, rfl, rfl, rfl, rfl⟩

theorem passBuckets_passOnly (part charge port : Nat) (p : Packet) (l : List Nat) (s : State) :
    PassOnly s (passBuckets s part charge port p l) := by
  induction l generalizing s with
  | nil => exact inject_passOnly s port p
  | cons i l ih =>
    unfold passBuckets
    extract_lets b
    split
    · exact ih s
    · split
      · exact (setBucket_passOnly s part i _).trans (ih _)
      · exact setBucket_passOnly s part i _

/-- A request that enters the send table. -/
theorem enterTable_sends (s : State) (x : Held) : SendOnly s (enterTable s x) ∧ pendingReqs (enterTable s x) = pendingReqs s + 1 ∧
    (enterTable s x).fab.nextOrd = s.fab.nextOrd ∧ (enterTable s x).fab.fpAtomics = s.fab.fpAtomics := by
  unfold enterTable
  extract_lets d _ p _ t
  have hlen : t.fab.table.length = s.fab.table.length + 1 := by simp [t]
  have ht : SendOnly s t := rfl
  have key : ∀ u, PassOnly t u → SendOnly s u ∧ pendingReqs u = pendingReqs s + 1 ∧ u.fab.nextOrd = s.fab.nextOrd ∧
      u.fab.fpAtomics = s.fab.fpAtomics := by
    rintro u ⟨hu, htab, hheld, hord, hfp⟩
    refine ⟨ht.trans hu, ?_, hord, hfp⟩
    simp only [pendingReqs, htab, hheld, hlen]
    exact Nat.add_right_comm ..
  split
  · exact key _ (passBuckets_passOnly ..)
  · exact key _ (inject_passOnly ..)

/-- A request is numbered, and sent or held. -/
theorem sendRequest_sends (s : State) (x : Held) : SendOnly s (sendRequest s x) ∧
    pendingReqs (sendRequest s x) = pendingReqs s + 1 ∧ (sendRequest s x).fab.nextOrd = s.fab.nextOrd + 1 ∧
    (sendRequest s x).fab.fpAtomics = s.fab.fpAtomics := by
  unfold sendRequest
  extract_lets y _ t
  have ht : SendOnly s t := rfl
  split
  · obtain ⟨h1, h2, h3, h4⟩ := enterTable_sends t y
    exact ⟨ht.trans h1, h2, h3, h4⟩
  · refine ⟨rfl, ?_, rfl, rfl⟩
    simp only [pendingReqs, t, List.length_append, List.length_singleton]
    rfl

/-- A fold of requests. -/
theorem foldl_sends {β : Type} {f : State → β → State} (hf : ∀ s b, ∃ x, f s b = sendRequest s x) (l : List β) (s : State) :
    SendOnly s (l.foldl f s) ∧ pendingReqs (l.foldl f s) = pendingReqs s + l.length ∧
    (l.foldl f s).fab.nextOrd = s.fab.nextOrd + l.length := by
  refine ⟨foldl_rel (R := SendOnly) (fun _ => rfl) SendOnly.trans (fun s b => ?_) l s, foldl_count pendingReqs (fun s b => ?_) l s,
    foldl_count (fun s => s.fab.nextOrd) (fun s b => ?_) l s⟩ <;> obtain ⟨x, hx⟩ := hf s b <;> rw [hx]
  · exact (sendRequest_sends s x).1
  · exact (sendRequest_sends s x).2.1
  · exact (sendRequest_sends s x).2.2.1

theorem getCore_congr {s t : State} (h : t.cores = s.cores) (k : Nat) : getCore t k = getCore s k := by
  unfold getCore
  rw [h]

/-! ### Operations whose issue changes more than their core -/

/-- An admitted operation whose issue leaves the cores and the tables of the image alone. -/
theorem issueOp_eq {s : State} {k q : Nat} {rd wr : List (Nat × Nat)} (h : Admitted s k q rd wr) (mk : State → Core → Op × State)
    (hc : (mk s (getCore s k)).2.cores = s.cores) (ht : (mk s (getCore s k)).2.tab = s.tab) : issueOp s k q rd wr mk =
      setCore (mk s (getCore s k)).2 k (withOp (getCore s k) q rd wr (mk s (getCore s k)).1) := by
  obtain ⟨⟨h1, h2, h3⟩, hq, ha⟩ := h
  have hk : getCore (mk s (getCore s k)).2 k = getCore s k := getCore_congr hc k
  unfold issueOp
  simp only [hq, ha, Bool.not_true, Bool.false_eq_true, if_false]
  generalize mk s (getCore s k) = r at hc ht hk
  rw [hk]
  refine next_setCore r.2 k _ (canIssue_ended s k h1) ?_ h3
  simpa [progLen, ht] using h2

/-- A MOV whose length, alignment and bounds are in order. -/
theorem movChecked_of {s : State} {k : Nat} {f : MovF} {al bs : Core → List Nat} {g : Core → Nat → State} {n : Nat}
    (hi : canIssue s k = true) (hn : movLen (getCore s k) f = .ok n) (ha : ∀ a ∈ al (getCore s k), a % 64 = 0)
    (hb : ∀ a ∈ bs (getCore s k), a + n ≤ b0End) : movChecked s k f al bs g = g (getCore s k) n := by
  have h1 : (al (getCore s k)).any (fun a => a % 64 ≠ 0) = false := by simpa using ha
  have h2 : (bs (getCore s k)).any (fun a => beyond a n) = false := by simpa [beyond] using hb
  unfold movChecked
  rw [issue_of _ _ _ hi, hn]
  simp only [h1, h2, Bool.false_eq_true, if_false]

/-- What a state is after an operation whose issue sends requests. -/
theorem setCore_sendOnly {s t : State} (h : SendOnly s t) (k : Nat) (c : Core) :
    setCore t k c = { s with cores := (setCore t k c).cores, fab := (setCore t k c).fab, buckets := (setCore t k c).buckets } ∧
    ∀ j, j ≠ k → getCore (setCore t k c) j = getCore s j := by
  have hc : ∀ j, getCore t j = getCore s j := getCore_congr h.cores
  refine ⟨?_, fun j hj => ?_⟩
  · unfold SendOnly at h
    simp only [setCore]
    rw [h]
  · rw [getCore_setCore, if_neg hj, hc]

/-! ### The counter of nondeterminism -/

/-- `t` is `s` but for the event ring, the link that carries it and the alert. -/
def EventOnly (s t : State) : Prop := t = { s with drg := t.drg, evt := t.evt, aon := t.aon }

theorem EventOnly.trans {s t u : State} (h₁ : EventOnly s t) (h₂ : EventOnly t u) : EventOnly s u := by
  unfold EventOnly at *
  rw [h₂, h₁]

theorem drgRequest_eventOnly (s : State) (op addr mask : Nat) (data : List Byte) (o : CmReq) :
    EventOnly s (drgRequest s op addr mask data o) := rfl

theorem evtIrq_eventOnly (s : State) : EventOnly s (evtIrq s) := by
  unfold evtIrq
  split
  · split
    · exact (drgRequest_eventOnly s _ _ _ _ _).trans rfl
    · rfl
  · rfl

theorem post_eventOnly (s : State) (code : Nat) (ctx : Option (Fin 16)) (a0 a1 : Nat) : EventOnly s (post s code ctx a0 a1) := by
  have hw : ∀ u e, EventOnly u (evtWrite u e) := fun u e => (drgRequest_eventOnly u _ _ _ _ _).trans rfl
  unfold post
  extract_lets e
  split
  · exact EventOnly.trans (t := { s with evt := { s.evt with seq := inc32 s.evt.seq 1 } }) rfl ((hw _ e).trans (evtIrq_eventOnly _))
  · split
    · rfl
    · rfl

theorem ndcInc_eq (s : State) (c kind : Nat) : ndcInc s c kind =
    { s with ctxs := (ndcInc s c kind).ctxs, drg := (ndcInc s c kind).drg, evt := (ndcInc s c kind).evt,
             aon := (ndcInc s c kind).aon } := by
  have h := post_eventOnly (setCtx s c { getCtx s c with ndc := inc64 (getCtx s c).ndc 1 }) evNdcInc (some (ctxFin c))
    (inc64 (getCtx s c).ndc 1).toNat kind
  unfold EventOnly at h
  unfold ndcInc
  dsimp only
  rw [h]
  rfl

theorem getCtx_ndcInc (s : State) (c kind : Nat) : getCtx (ndcInc s c kind) c = { getCtx s c with ndc := (getCtx s c).ndc + 1 } := by
  have h := post_eventOnly (setCtx s c { getCtx s c with ndc := inc64 (getCtx s c).ndc 1 }) evNdcInc (some (ctxFin c))
    (inc64 (getCtx s c).ndc 1).toNat kind
  have hctx : (ndcInc s c kind).ctxs = (setCtx s c { getCtx s c with ndc := inc64 (getCtx s c).ndc 1 }).ctxs := by
    unfold ndcInc EventOnly at *
    rw [h]
  unfold getCtx
  rw [hctx]
  exact (mget_mput ..).trans (if_pos rfl)

/-! ### MOV.HR, MOV.HW and ATOM -/

theorem exec_atom_of {s : State} {k : Fin 512} {f : MovF} (hi : canIssue s k.val = true) (hop : f.atop.toNat ≤ 9)
    (ha : srcA (getCore s k.val) f % 8 = 0) : ∃ mk, exec (.atom k f) s = .next (issueOp s k.val 7 [] [] mk) ∧
      (mk s (getCore s k.val)).1 = { op0 (.atom f.sr) with bytes := 8, pieces := 1 } ∧
      ∃ x, (mk s (getCore s k.val)).2 = sendRequest (if 8 ≤ f.atop.toNat then
        ndcInc { s with fab := { s.fab with fpAtomics := inc64 s.fab.fpAtomics 1 } } (coreCtx s k.val) 1 else s) x := by
  refine ⟨_, congrArg Host.Outcome.next ((issue_of _ _ _ hi).trans ((if_neg (Nat.not_lt.mpr hop)).trans (if_neg (by simpa using ha)))), rfl, _, rfl⟩

/-- Settles O9: a range's pieces are requests of a fold, each numbered and pending; an atomic is one request. -/
theorem fabricMovesAndAtomics : Obligations.FabricMovesAndAtomics := by
  intro s k f n c x src dst pending only
  have honly : ∀ t d, SendOnly s t → only (setCore t k.val d) := fun t d ht => setCore_sendOnly ht k.val d
  refine ⟨?_, ?_, ?_, ?_⟩
  · intro hn ha hb hadm m
    obtain ⟨h1, h2, h3⟩ := foldl_sends (f := fun s p => coreRequest s k.val (srcA c f) 2 (p.1 % 2 ^ 48 + 2 ^ 52 * ceilDiv p.2 64) 0 0 []
      false (.movHR (logicalFin s k.val) c.nextOp (dstA c f + (p.1 - fabOfs (srcA c f))))) (fun s p => ⟨_, rfl⟩)
      (pieces 2048 (fabOfs (srcA c f)) n) s
    refine ⟨_, congrArg Host.Outcome.next ((movChecked_of hadm.1.1 hn ((List.forall_mem_singleton (p := fun a => a % 64 = 0)).mpr ha)
      ((List.forall_mem_singleton (p := fun a => a + n ≤ b0End)).mpr hb)).trans
      (issueOp_eq hadm _ h1.cores h1.tab)), honly _ _ h1, h2, h3, getCore_setCore_same ..⟩
  · intro hn ha hb hadm m
    obtain ⟨h1, h2, h3⟩ := foldl_sends (f := fun s p => coreRequest s k.val (dstA c f) 1 (p.1 % 2 ^ 48) 0 0
        (padFlits (readBytes c.b0 (srcA c f + (p.1 - fabOfs (dstA c f))) p.2)) f.flag (.movHW (logicalFin s k.val) c.nextOp))
      (fun s p => ⟨_, rfl⟩) (pieces 2048 (fabOfs (dstA c f)) n) s
    refine ⟨_, congrArg Host.Outcome.next ((movChecked_of hadm.1.1 hn ((List.forall_mem_singleton (p := fun a => a % 64 = 0)).mpr ha)
      ((List.forall_mem_singleton (p := fun a => a + n ≤ b0End)).mpr hb)).trans
      (issueOp_eq hadm _ h1.cores h1.tab)), honly _ _ h1, h2, h3, getCore_setCore_same ..⟩
  · intro hop ha hadm
    obtain ⟨mk, he, ho, r, hs⟩ := exec_atom_of hadm.1.1 (by omega) ha
    rw [if_neg (by omega)] at hs
    obtain ⟨h1, h2, -, -⟩ := sendRequest_sends s r
    rw [← hs] at h1 h2
    refine ⟨_, he.trans (congrArg _ (issueOp_eq hadm mk h1.cores h1.tab)), honly _ _ h1, h2, ?_⟩
    rw [getCore_setCore_same, ho]
  · intro hop ha hadm
    obtain ⟨mk, he, ho, r, hs⟩ := exec_atom_of hadm.1.1 (by omega) ha
    rw [if_pos (by omega)] at hs
    have hu := ndcInc_eq { s with fab := { s.fab with fpAtomics := inc64 s.fab.fpAtomics 1 } } x 1
    have hctx := getCtx_ndcInc { s with fab := { s.fab with fpAtomics := inc64 s.fab.fpAtomics 1 } } x 1
    generalize ndcInc { s with fab := { s.fab with fpAtomics := inc64 s.fab.fpAtomics 1 } } x 1 = u at hu hctx hs
    obtain ⟨h1, h2, -, h4⟩ := sendRequest_sends u r
    rw [← hs] at h1 h2 h4
    have hcores : (mk s (getCore s k.val)).2.cores = s.cores := h1.cores.trans (by rw [hu])
    have htab : (mk s (getCore s k.val)).2.tab = s.tab := h1.tab.trans (by rw [hu])
    refine ⟨_, he.trans (congrArg _ (issueOp_eq hadm mk hcores htab)), ?_, ?_, ?_, ?_, ?_⟩
    · refine h2.trans ?_
      rw [hu]
      rfl
    · refine h4.trans ?_
      rw [hu]
      rfl
    · have : getCtx (setCore (mk s (getCore s k.val)).2 k.val (withOp (getCore s k.val) 7 [] [] (mk s (getCore s k.val)).1)) x =
          getCtx u x := by
        unfold getCtx
        rw [setCore_ctxs, h1]
      rw [this, hctx]
      rfl
    · rw [getCore_setCore_same, ho]
    · unfold SendOnly at h1
      rw [h1, hu]
      rfl

end Sys2Proof.Machine

namespace Sys2Proof.Machine

/-! ### Vector instructions on registers (04 R145-R148) -/

theorem vecIssue_illegal {s : State} {k : Nat} {f : VecF} {ok : Nat → Bool} (h : canIssue s k = true) (hok : ok f.fmt.toNat = false)
    (wx : Bool) (dst : Nat) (ls : Core → List Nat) (g : Core → Nat → Option Nat) :
    vecIssue k f ok wx dst ls g s = unitFault s k fIllegal := by
  unfold vecIssue
  rw [issue_of _ _ _ h, hok]
  rfl

theorem fmtInt_iff (m : Nat) : fmtInt m = true ↔ intW m ≠ 0 := by simp [fmtInt]

/-- A floating-point format is no integer format and not E8M0. -/
theorem float_cases {m : Nat} (h : (ffmt m).isSome = true) : intW m = 0 ∧ m ≠ 9 ∧ m < 15 := by
  unfold ffmt at h
  split at h
  case h_11 => exact absurd h (by decide)
  all_goals exact ⟨rfl, by decide, by decide⟩

theorem intW_cases {m : Nat} (h : intW m ≠ 0) : ffmt m = none ∧ m ≠ 9 ∧ m < 15 := by
  unfold intW at h
  split at h
  case h_5 => exact absurd rfl h
  all_goals exact ⟨rfl, by decide, by decide⟩

/-- A format is a floating-point one, an integer one, E8M0 or none at all. -/
theorem fmtNoE8_of_float {m : Nat} (h : (ffmt m).isSome = true) : fmtNoE8 m = true := by
  obtain ⟨-, h9, h15⟩ := float_cases h
  simp [fmtNoE8, h9, h15]

theorem fmtNoE8_of_int {m : Nat} (h : intW m ≠ 0) : fmtNoE8 m = true := by
  obtain ⟨-, h9, h15⟩ := intW_cases h
  simp [fmtNoE8, h9, h15]

theorem fmtInt_of_float {m : Nat} (h : (ffmt m).isSome = true) : fmtInt m = false := by
  simp [fmtInt, (float_cases h).1]

theorem arith_float {m : Nat} (h : (ffmt m).isSome = true) (fl : FV → FV → FV) (it : Int → Int → Int) (a b : FV) :
    arith fl it m a b = some (enc m none (fl a b)) := by
  simp [arith, fmtInt_of_float h]

/-- An integer lane is read as a signed integer. -/
theorem dec_int {m : Nat} (h : intW m ≠ 0) (v : Nat) :
    dec m v = .fin (decide (sext (intW m) v < 0)) (sext (intW m) v).natAbs 0 := by
  obtain ⟨hf, h9, -⟩ := intW_cases h
  simp [dec, hf, h9]

theorem sign_natAbs (i : Int) : (if decide (i < 0) then -(i.natAbs : Int) else i.natAbs) = i := by
  by_cases h : i < 0
  · simp only [h, decide_true, if_true]
    omega
  · simp only [h, decide_false, Bool.false_eq_true, if_false]
    omega

theorem arith_int {m : Nat} (h : intW m ≠ 0) (fl : FV → FV → FV) (it : Int → Int → Int) (v w : Nat) :
    arith fl it m (dec m v) (dec m w) = some (satInt (intW m) (it (sext (intW m) v) (sext (intW m) w))) := by
  simp only [arith, (fmtInt_iff m).mpr h, if_true, dec_int h, sign_natAbs]

theorem mostNeg_float {m : Nat} (h : (ffmt m).isSome = true) (a : FV) : mostNeg m a = false := by
  simp [mostNeg, fmtInt_of_float h]

section
variable {s : State} {k : Fin 512} {f : VecF} (h : Admitted s k.val 6 [] [])
include h

theorem vec2_writes {ok : Nat → Bool} (hok : ok f.fmt.toNat = true) {wx : Bool} {op : Nat → FV → FV → Option Nat} {i : Instr}
    (hi : exec i s = .next (vec2 k f ok wx op s)) {res : Nat → Nat}
    (hg : ∀ j, op f.fmt.toNat (laneVal (getCore s k.val) f.va f.fmt.toNat j) (laneVal (getCore s k.val) f.vb f.fmt.toNat j) =
      some (res j)) : VecWrites s k.val f (activeLanes (getCore s k.val) f) i res :=
  vecIssue_writes k.val f ok wx _ (fun c => activeLanes c f) _ s i res hok h hi (activeLanes_nodup ..) (fun j _ => hg j)

theorem vec1_writes {ok : Nat → Bool} (hok : ok f.fmt.toNat = true) {op : Nat → FV → Option Nat} {i : Instr}
    (hi : exec i s = .next (vec1 k f ok op s)) {res : Nat → Nat}
    (hg : ∀ j ∈ activeLanes (getCore s k.val) f, op f.fmt.toNat (laneVal (getCore s k.val) f.va f.fmt.toNat j) = some (res j)) :
    VecWrites s k.val f (activeLanes (getCore s k.val) f) i res :=
  vecIssue_writes k.val f ok false _ (fun c => activeLanes c f) _ s i res hok h hi (activeLanes_nodup ..) hg

theorem vecBits_writes (hw : intW f.fmt.toNat ≠ 0) {op : Nat → Nat → Nat → Option Nat} {i : Instr}
    (hi : exec i s = .next (vecBits k f op s)) {res : Nat → Nat}
    (hg : ∀ j ∈ activeLanes (getCore s k.val) f, op (intW f.fmt.toNat) (laneOf (getCore s k.val) f.va f.fmt.toNat j)
      (laneOf (getCore s k.val) f.vb f.fmt.toNat j) = some (res j)) :
    VecWrites s k.val f (activeLanes (getCore s k.val) f) i res :=
  vecIssue_writes k.val f fmtInt false _ (fun c => activeLanes c f) _ s i res ((fmtInt_iff _).mpr hw) h hi (activeLanes_nodup ..) hg

end

/-- An admitted operation whose issue changes registers of its own core. -/
theorem issueOp_core {s : State} {k q : Nat} {rd wr : List (Nat × Nat)} (h : Admitted s k q rd wr) (o : Core → Op) (d : Core → Core)
    (hp : (d (getCore s k)).pc = (getCore s k).pc) (hg : (d (getCore s k)).prog = (getCore s k).prog)
    (hl : (d (getCore s k)).loops = (getCore s k).loops) (he : (d (getCore s k)).ended = (getCore s k).ended) :
    issueOp s k q rd wr (fun s c => (o c, setCore s k (d c))) =
      setCore s k (withOp (d (getCore s k)) q rd wr (o (getCore s k))) := by
  obtain ⟨⟨h1, h2, h3⟩, hq, ha⟩ := h
  have hend : (d (getCore s k)).ended = false := he.trans (canIssue_ended s k h1)
  unfold issueOp
  simp only [hq, ha, Bool.not_true, Bool.false_eq_true, if_false, getCore_setCore_same]
  rw [setCore_setCore _ _ _ _ (core_ne_blank _ hend)]
  refine next_setCore s k _ hend ?_ ?_
  · simpa [progLen, hp, hg] using h2
  · simpa [hl, hp] using h3

theorem exec_vgets_of {s : State} {k : Fin 512} {f : VecF} (h : Admitted s k.val 6 [] []) (hm : f.fmt.toNat < 15) :
    exec (.vgets k f) s = .next (setCore s k.val (withOp (setS (getCore s k.val) f.sreg
      (BitVec.ofNat 64 (laneOf (getCore s k.val) f.va f.fmt.toNat (f.imm.toNat % 64)))) 6 [] [] (op0 (.vec false)))) := by
  have hok : fmtAll f.fmt.toNat = true := by simp [fmtAll, hm]
  refine congrArg Host.Outcome.next ((issue_of _ _ _ h.1.1).trans ((if_neg (by simp [hok])).trans ?_))
  exact issueOp_core h (fun _ => op0 (.vec false)) (fun c => setS c f.sreg
    (BitVec.ofNat 64 (laneOf c f.va f.fmt.toNat (f.imm.toNat % 64)))) (by simp) (by simp) (by simp) (by simp)

/-- Settles O10: each instruction is `vecIssue` with its operation, whose result on a lane is stated for the format at hand. -/
theorem vectorArithmetic : Obligations.VectorArithmetic := by
  refine ⟨?_, ?_⟩
  · intro s k f h c m a b float int lanes sat
    refine ⟨fun hf => ?_, fun hi => ?_, fun hfi => ?_, fun h9 => ?_, fun hm hd => ?_⟩
    · have hok := fmtNoE8_of_float hf
      refine ⟨vec2_writes h hok rfl fun j => arith_float hf .., vec2_writes h hok rfl fun j => arith_float hf ..,
        vec2_writes h hok rfl fun j => arith_float hf .., ?_, vec1_writes h hok rfl fun j _ => ?_, vec1_writes h hok rfl fun j _ => ?_⟩
      · exact vecIssue_writes k.val f fmtFloat true _ (fun c => activeLanes c f) _ s _ _ hf h rfl (activeLanes_nodup ..) (fun j _ => rfl)
      · simp [mostNeg_float hf, m, a, c]
      · simp [mostNeg_float hf, m, a, c]
    · have hok := fmtNoE8_of_int hi
      refine ⟨vec2_writes h hok rfl fun j => arith_int hi .., vec2_writes h hok rfl fun j => arith_int hi ..,
        vec2_writes h hok rfl fun j => arith_int hi .., congrArg _ (vecIssue_illegal h.1.1 ?_ ..)⟩
      exact Option.isSome_eq_false_iff.mpr (Option.isNone_iff_eq_none.mpr (intW_cases hi).1)
    · have hok : fmtNoE8 m = true := hfi.elim fmtNoE8_of_float fmtNoE8_of_int
      exact ⟨vec2_writes h hok rfl fun j => rfl, vec2_writes h hok rfl fun j => rfl⟩
    · have hok : fmtNoE8 m = false := by simp [fmtNoE8, h9]
      exact ⟨congrArg _ (vecIssue_illegal h.1.1 hok ..), congrArg _ (vecIssue_illegal h.1.1 hok ..)⟩
    · refine vecIssue_writes k.val f (fun x => fmtAll x && fmtAll (cvtDst f)) false _ (fun c => activeLanes c f) _ s _ _ ?_ h rfl
        (activeLanes_nodup ..) (fun j _ => rfl)
      exact Bool.and_eq_true_iff.mpr ⟨decide_eq_true hm, decide_eq_true hd⟩
  · intro s k f h c m w x y lanes
    refine ⟨fun hw => ⟨vecBits_writes h hw rfl fun j _ => rfl, vecBits_writes h hw rfl fun j _ => rfl,
      vecBits_writes h hw rfl fun j _ => rfl, fun hy => ⟨vecBits_writes h hw rfl fun j hj => if_pos (hy j hj),
        vecBits_writes h hw rfl fun j hj => if_pos (hy j hj)⟩⟩, fun hm => ?_⟩
    have hok : fmtAll f.fmt.toNat = true := by simpa [fmtAll] using hm
    refine ⟨?_, ?_, ?_, exec_vgets_of h hm⟩
    · exact vecIssue_writes k.val f fmtAll false _ (fun c => activeLanes c f) _ s _ _ hok h rfl (activeLanes_nodup ..) (fun j _ => rfl)
    · exact vecIssue_writes k.val f fmtAll false _ (fun _ => List.range (lanesUsed f)) _ s _ _ hok h rfl List.nodup_range
        (fun j _ => congrArg some (apply_ite (fun r => laneOf c r m j) _ _ _))
    · exact vecIssue_writes k.val f fmtAll true _ (fun c => activeLanes c f) _ s _ _ hok h rfl (activeLanes_nodup ..) (fun j _ => rfl)

/-! ### Vector functions of FP32 -/

theorem flog_of {a : FV} (h : a.isZero = false) : flog a = some ((flog a).getD .nan) := by
  cases a with
  | fin s m e => simp_all [flog, FV.isZero]
  | _ => rfl

theorem frcp_of {a : FV} (h : a.isZero = false) : frcp a = some (fdiv (.fin false 1 0) a) := by
  cases a with
  | fin s m e => cases m with
    | zero => exact absurd h (by simp [FV.isZero])
    | succ m => rfl
  | _ => rfl

theorem frsqrt_of {a : FV} (h : a.isZero = false) : frsqrt a = some ((frsqrt a).getD .nan) := by
  cases a with
  | fin s m e =>
    have hm : m ≠ 0 := by simpa [FV.isZero] using h
    cases s <;> simp [frsqrt, hm]
  | _ => rfl

/-- A vector instruction runs whatever it writes. -/
theorem vecIssue_runs {s : State} {k : Nat} {f : VecF} (h : Admitted s k 6 [] []) {ok : Nat → Bool} (hok : ok f.fmt.toNat = true)
    {wx : Bool} {dst : Nat} {g : Core → Nat → Option Nat} {i : Instr}
    (hi : exec i s = .next (vecIssue k f ok wx dst (fun c => activeLanes c f) g s)) :
    ∃ t, exec i s = .next t ∧ VecFrame s k f [] (activeLanes (getCore s k) f) t :=
  ⟨_, hi, vecIssue_admitted k f ok wx dst (fun c => activeLanes c f) g s hok h⟩

/-- Settles O11: the functions are `vec1` and `vec2` with FP32 alone, and a free lane is inside the frame. -/
theorem vectorFunctions : Obligations.VectorFunctions := by
  refine ⟨?_, ?_⟩
  · intro s k f h c a lanes faults
    refine ⟨fun h1 => ?_, fun h1 => ?_⟩
    · have hm : f.fmt.toNat = 1 := by rw [h1]; rfl
      have hok : fmtFP32 f.fmt.toNat = true := by simp [fmtFP32, hm]
      have hva : ∀ j, laneVal (getCore s k.val) f.va f.fmt.toNat j = a j := fun j => by rw [hm]
      have hvb : ∀ j, laneVal (getCore s k.val) f.vb f.fmt.toNat j = laneVal c f.vb 1 j := fun j => by rw [hm]
      refine ⟨vec1_writes h hok rfl fun j _ => by rw [hva], vec1_writes h hok rfl fun j _ => by rw [hva],
        vec1_writes h hok rfl fun j _ => by rw [hva], vec2_writes h hok rfl fun j => by rw [hva, hvb], fun hz => ?_⟩
      refine ⟨vec1_writes h hok rfl fun j hj => ?_, vec1_writes h hok rfl fun j hj => ?_, vec1_writes h hok rfl fun j hj => ?_⟩
      · rw [hva, flog_of (hz j hj)]; rfl
      · rw [hva, frcp_of (hz j hj)]; rfl
      · rw [hva, frsqrt_of (hz j hj)]; rfl
    · have hok : fmtFP32 f.fmt.toNat = false := by
        have hne : f.fmt.toNat ≠ 1 := fun e => h1 (BitVec.eq_of_toNat_eq e)
        simp [fmtFP32, hne]
      exact ⟨congrArg _ (vecIssue_illegal h.1.1 hok ..), congrArg _ (vecIssue_illegal h.1.1 hok ..),
        congrArg _ (vecIssue_illegal h.1.1 hok ..), congrArg _ (vecIssue_illegal h.1.1 hok ..),
        congrArg _ (vecIssue_illegal h.1.1 hok ..), congrArg _ (vecIssue_illegal h.1.1 hok ..),
        congrArg _ (vecIssue_illegal h.1.1 hok ..)⟩
  · intro s k f h runs
    refine ⟨fun h1 => ?_, fun hw => ?_⟩
    · have hok : fmtFP32 f.fmt.toNat = true := by simp [fmtFP32, h1]
      exact ⟨vecIssue_runs h hok rfl, vecIssue_runs h hok rfl, vecIssue_runs h hok rfl⟩
    · have hok : fmtNoE8 f.fmt.toNat = true := fmtNoE8_of_int hw
      have hint : fmtInt f.fmt.toNat = true := (fmtInt_iff _).mpr hw
      exact ⟨vecIssue_runs h hint rfl, vecIssue_runs h hint rfl, vecIssue_runs h hok rfl, vecIssue_runs h hok rfl⟩

end Sys2Proof.Machine

namespace Sys2Proof.Machine

/-! ### Reductions and compares (04 R146, R148) -/

theorem lane0_nodup (c : Core) (f : VecF) : (lane0 c f).Nodup := by
  unfold lane0
  split <;> simp

theorem fmt_eq_zero_iff (m : BitVec 4) : m = 0 ↔ m.toNat = 0 := by
  rw [← BitVec.toNat_inj]
  rfl

theorem reduceBy_of {op : FV → FV → FV} {c : Core} {f : VecF} (h : 2 ≤ (vaVals c f).length) :
    reduceBy op c f = enc f.fmt.toNat none ((vaVals c f).tail.foldl op ((vaVals c f).headD .nan)) := by
  unfold reduceBy
  generalize vaVals c f = l at h
  match l, h with
  | v :: w :: r, _ => rfl

/-- What VCMP makes of one bit of its destination mask. -/
def cmpBit (c : Core) (f : VecF) (m : W64) (i : Nat) : W64 :=
  if cmpHolds (f.vc.toNat % 8) (laneVal c f.va f.fmt.toNat i) (laneVal c f.vb f.fmt.toNat i) = some true
  then m ||| BitVec.ofNat 64 (2 ^ i) else m &&& ~~~ BitVec.ofNat 64 (2 ^ i)

theorem getLsbD_twoPow {i j : Nat} (hi : i < 64) : (BitVec.ofNat 64 (2 ^ j)).getLsbD i = decide (i = j) := by
  rw [BitVec.getLsbD_ofNat, Nat.testBit_two_pow]
  simp [hi, eq_comm]

theorem getLsbD_cmpBit (c : Core) (f : VecF) (m : W64) (j : Nat) {i : Nat} (hi : i < 64) : (cmpBit c f m j).getLsbD i =
    if i = j then decide (cmpHolds (f.vc.toNat % 8) (laneVal c f.va f.fmt.toNat i) (laneVal c f.vb f.fmt.toNat i) = some true)
    else m.getLsbD i := by
  unfold cmpBit
  by_cases he : i = j
  · subst he
    split
    next hc =>
      rw [BitVec.getLsbD_or, getLsbD_twoPow hi]
      simp [hc]
    next hc =>
      rw [BitVec.getLsbD_and, BitVec.getLsbD_not, getLsbD_twoPow hi]
      simp [hc]
  · rw [if_neg he]
    split
    · rw [BitVec.getLsbD_or, getLsbD_twoPow hi]
      simp [he]
    · rw [BitVec.getLsbD_and, BitVec.getLsbD_not, getLsbD_twoPow hi]
      simp [he, hi]

/-- The mask that VCMP leaves: bit `i` of the active lanes says whether the condition holds. -/
theorem getLsbD_cmpBits (c : Core) (f : VecF) {i : Nat} (hi : i < 64) {l : List Nat} (hn : l.Nodup) (m : W64) :
    (l.foldl (cmpBit c f) m).getLsbD i = if i ∈ l then
      decide (cmpHolds (f.vc.toNat % 8) (laneVal c f.va f.fmt.toNat i) (laneVal c f.vb f.fmt.toNat i) = some true)
      else m.getLsbD i := by
  induction l generalizing m with
  | nil => rfl
  | cons j l ih =>
    obtain ⟨hj, hl⟩ := List.nodup_cons.mp hn
    rw [List.foldl_cons, ih hl, getLsbD_cmpBit c f m j hi]
    by_cases he : i = j
    · subst he
      simp [hj]
    · simp [he]

theorem cmpHolds_isNone {n : Nat} (a b : FV) : (cmpHolds n a b).isNone = decide (6 ≤ n) := by
  unfold cmpHolds
  split <;> first | rfl | skip
  next h0 h1 h2 h3 h4 h5 =>
    have : 6 ≤ n := by
      by_contra hlt
      have : n < 6 := by omega
      interval_cases n <;> simp_all
    simp [this]

theorem exec_vcmp_illegal {s : State} {k : Fin 512} {f : VecF} (h : canIssue s k.val = true) (hc : 6 ≤ f.vc.toNat % 8) :
    exec (.vcmp k f) s = .next (unitFault s k.val fIllegal) := by
  refine congrArg Host.Outcome.next ((issue_of _ _ _ h).trans (if_pos ?_))
  simp [cmpHolds_isNone, hc]

theorem exec_vcmp_of {s : State} {k : Fin 512} {f : VecF} (h : Admitted s k.val 6 [] []) (hm : fmtNoE8 f.fmt.toNat = true)
    (hc : f.vc.toNat % 8 < 6) : exec (.vcmp k f) s = .next (setCore s k.val (withOp (setM (getCore s k.val) (f.vd.setWidth 3)
      ((activeLanes (getCore s k.val) f).foldl (cmpBit (getCore s k.val) f) (getM (getCore s k.val) (f.vd.setWidth 3)))) 6 [] []
      (op0 (.vec false)))) := by
  refine congrArg Host.Outcome.next ((issue_of _ _ _ h.1.1).trans ((if_neg ?_).trans ?_))
  · simp [cmpHolds_isNone, hm, Nat.not_le.mpr hc]
  · exact issueOp_core h (fun _ => op0 (.vec false)) (fun c => setM c (f.vd.setWidth 3)
      ((activeLanes c f).foldl (cmpBit c f) (getM c (f.vd.setWidth 3)))) (by simp) (by simp) (by simp) (by simp)

/-- Settles O12: the reductions are `vecIssue` on lane 0, and the mask of VCMP is folded bit by bit. -/
theorem reductionsAndCompares : Obligations.ReductionsAndCompares := by
  intro s k f h h9 h15 c m vs lane put
  have hok : fmtNoE8 f.fmt.toNat = true := by simp [fmtNoE8, h9, h15]
  have reduce : ∀ {op : FV → FV → FV} {i : Instr}, exec i s = .next (vecIssue k.val f fmtNoE8 false f.fmt.toNat (fun c => lane0 c f)
      (fun c _ => some (reduceBy op c f)) s) → 2 ≤ vs.length → put i (fun _ => enc m none (vs.tail.foldl op (vs.headD .nan))) :=
    fun hi h2 => vecIssue_writes k.val f fmtNoE8 false _ (fun c => lane0 c f) _ s _ _ hok h hi (lane0_nodup ..)
      (fun j _ => congrArg some (reduceBy_of h2))
  refine ⟨?_, fun h2 => ⟨reduce rfl h2, reduce rfl h2⟩, fun hc => ?_, exec_vcmp_illegal h.1.1⟩
  · refine vecIssue_writes k.val f fmtNoE8 true _ (fun c => lane0 c f) _ s _ _ hok h rfl (lane0_nodup ..) (fun j _ => ?_)
    simp only [fmt_eq_zero_iff]
    rfl
  · refine ⟨_, exec_vcmp_of h hok hc, rfl, fun j hj => ?_, ?_, fun r hr => ?_, fun i hi hd => ?_⟩
    · rw [getCore_setCore, if_neg hj]
    · rw [getCore_setCore_same]
      unfold setM
      split <;> rfl
    · rw [getCore_setCore_same]
      exact (getM_setM c _ r _).trans (if_neg fun e => hr e.1)
    · rw [getCore_setCore_same]
      have hget := getM_setM c (f.vd.setWidth 3) (f.vd.setWidth 3) ((activeLanes c f).foldl (cmpBit c f) (getM c (f.vd.setWidth 3)))
      rw [if_pos ⟨rfl, hd⟩] at hget
      exact (congrArg (fun v => v.getLsbD i) hget).trans (getLsbD_cmpBits c f hi (activeLanes_nodup ..) _)

/-! ### VLD and VST -/

/-- An admitted operation, whatever its issue does to the other registers of its core. -/
theorem issueOp_next {s : State} {k q : Nat} {rd wr : List (Nat × Nat)} (h : Admitted s k q rd wr) {mk : State → Core → Op × State}
    {o : Op} {w : State} (hmk : mk s (getCore s k) = (o, w)) (ht : w.tab = s.tab) (hp : (getCore w k).pc = (getCore s k).pc)
    (hg : (getCore w k).prog = (getCore s k).prog) (hl : (getCore w k).loops = (getCore s k).loops)
    (he : (getCore w k).ended = (getCore s k).ended) : issueOp s k q rd wr mk = setCore w k (withOp (getCore w k) q rd wr o) := by
  obtain ⟨⟨h1, h2, h3⟩, hq, ha⟩ := h
  unfold issueOp
  simp only [hq, ha, Bool.not_true, Bool.false_eq_true, if_false, hmk]
  refine next_setCore w k _ (he.trans (canIssue_ended s k h1)) ?_ ?_
  · simpa [progLen, hp, hg, ht] using h2
  · simpa [hl, hp] using h3

theorem exec_vld_of {s : State} {k : Fin 512} {f : VecF} (hm : f.fmt.toNat < 15) {n : Nat}
    (hn : n = elemBytes f.fmt.toNat (lanesUsed f)) (hb : vecAddr (getCore s k.val) f + n ≤ b0End)
    (h : Admitted s k.val 6 [(vecAddr (getCore s k.val) f, n)] []) : ∃ t, exec (.vld k f) s = .next t ∧
      VecFrame s k.val f [(vecAddr (getCore s k.val) f, n)] (activeLanes (getCore s k.val) f) t ∧
      ∀ i ∈ activeLanes (getCore s k.val) f, mget 0 (getCore t k.val).v (64 * f.vd.toNat + i) = BitVec.ofNat 64
        ((unpackElems f.fmt.toNat (lanesUsed f) (readBytes (getCore s k.val).b0 (vecAddr (getCore s k.val) f) n)).getD i 0) := by
  subst hn
  have hex : exec (.vld k f) s = .next _ := congrArg Host.Outcome.next ((issue_of _ _ _ h.1.1).trans
    ((if_neg (by simp [fmtAll, hm])).trans (if_neg (by simpa [beyond] using hb))))
  generalize hres : (fun i => some ((unpackElems f.fmt.toNat (lanesUsed f)
    (readBytes (getCore s k.val).b0 (vecAddr (getCore s k.val) f) (elemBytes f.fmt.toNat (lanesUsed f)))).getD i 0)) = g at hex
  have hlane := fun i hi => writeLanes_res k.val f.vd f.fmt.toNat g (activeLanes (getCore s k.val) f) s (activeLanes_nodup ..) i _ hi
    (congrFun hres.symm i)
  obtain ⟨hw, hother, hcore, hkeep⟩ := writeLanes_frame k.val f.vd f.fmt.toNat g (activeLanes (getCore s k.val) f) s
  refine ⟨_, hex.trans (congrArg _ (issueOp_next h (w := writeLanes s k.val f.vd f.fmt.toNat g (activeLanes (getCore s k.val) f))
    (o := vecOp (getCore s k.val) false f.vd (activeLanes (getCore s k.val) f)) (by rw [← hres]) ?_ ?_ ?_ ?_ ?_)), ⟨?_, ?_, ?_, ?_⟩, ?_⟩
  · rw [hw]
  · rw [hcore]
  · rw [hcore]
  · rw [hcore]
  · rw [hcore]
  · simp only [setCore]
    rw [hw]
  · intro j hj
    rw [getCore_setCore, if_neg hj, hother j hj]
  · refine ⟨false, (activeLanes (getCore s k.val) f).map (fun i => (64 * f.vd.toNat + i, BitVec.ofNat 64 (getV (getCore s k.val) f.vd i))), ?_⟩
    rw [getCore_setCore_same, hcore]
    rfl
  · intro j hj
    rw [getCore_setCore_same]
    exact hkeep j hj
  · intro i hi
    rw [getCore_setCore_same]
    exact hlane i hi

/-- Every byte of a run is one of the bytes listed. -/
theorem byteRuns_within {lo hi : Nat} {l : List (Nat × Byte)} (h : ∀ e ∈ l, lo ≤ e.1 ∧ e.1 < hi) :
    ∀ e ∈ byteRuns l, lo ≤ e.1 ∧ e.1 + e.2.length ≤ hi := by
  induction l with
  | nil => exact fun e he => absurd he List.not_mem_nil
  | cons x l ih =>
    obtain ⟨a, b⟩ := x
    have ha := h (a, b) (List.mem_cons_self ..)
    have ih := ih (fun e he => h e (List.mem_cons_of_mem _ he))
    unfold byteRuns
    split
    next y d t heq =>
      rw [heq] at ih
      have hy := ih (y, d) (List.mem_cons_self ..)
      have ht := fun e he => ih e (List.mem_cons_of_mem _ he)
      split
      next hya =>
        refine List.forall_mem_cons.mpr ⟨⟨ha.1, ?_⟩, ht⟩
        simp only [List.length_cons] at *
        omega
      next => exact List.forall_mem_cons.mpr ⟨⟨ha.1, ha.2⟩, List.forall_mem_cons.mpr ⟨hy, ht⟩⟩
    next => exact List.forall_mem_cons.mpr ⟨⟨ha.1, ha.2⟩, fun e he => absurd he List.not_mem_nil⟩

theorem indexed_lt {α : Type} {l : List α} {e : Nat × α} (h : e ∈ indexed l) : e.1 < l.length :=
  List.mem_range.mp (List.of_mem_zip h).1

theorem vstBytes_within (c : Core) (f : VecF) (a : Nat) :
    ∀ e ∈ vstBytes c f a, a ≤ e.1 ∧ e.1 + e.2.length ≤ a + elemBytes f.fmt.toNat (lanesUsed f) := by
  refine byteRuns_within fun e he => ?_
  obtain ⟨x, hx, hs⟩ := List.mem_filterMap.mp he
  have hlt := indexed_lt hx
  rw [bytesOf_length] at hlt
  split at hs
  · cases hs
    omega
  · cases hs

/-- Settles O13: the checks of the address, the lanes that `writeLanes` fills, and the runs of bytes inside the range. -/
theorem vectorLoadStore : Obligations.VectorLoadStore := by
  intro s k f h15 c m n a
  have hok : fmtAll f.fmt.toNat = true := by simp [fmtAll, h15]
  refine ⟨fun hi hb => ⟨?_, ?_⟩, fun h hb => exec_vld_of h15 rfl hb h, fun wr h hwr hb => ⟨?_, vstBytes_within c f a⟩⟩
  · refine congrArg Host.Outcome.next ((issue_of _ _ _ hi).trans ((if_neg (by simp [hok])).trans (if_pos ?_)))
    exact decide_eq_true hb
  · refine congrArg Host.Outcome.next ((issue_of _ _ _ hi).trans ((if_neg (by simp [hok])).trans (if_pos ?_)))
    exact decide_eq_true hb
  · subst hwr
    refine congrArg Host.Outcome.next ((issue_of _ _ _ h.1.1).trans ((if_neg (by simp [hok])).trans ((if_neg ?_).trans ?_)))
    · exact fun hbad => absurd (of_decide_eq_true hbad) (Nat.not_lt.mpr hb)
    · exact issueOp_admitted s k.val 6 [] _ (fun c => { op0 (.vec false) with out := vstBytes c f (vecAddr (getCore s k.val) f) }) h

end Sys2Proof.Machine

namespace Sys2Proof.Machine

/-! ### What faults and counters leave unchanged -/

@[simp] theorem bump_cores (s : State) (u i n : Nat) : (bump s u i n).cores = s.cores := by
  unfold bump
  split <;> rfl

@[simp] theorem bump_tab (s : State) (u i n : Nat) : (bump s u i n).tab = s.tab := by
  unfold bump
  split <;> rfl

@[simp] theorem bump_drg (s : State) (u i n : Nat) : (bump s u i n).drg = s.drg := by
  unfold bump
  split <;> rfl

@[simp] theorem getCore_bump (s : State) (u i n k : Nat) : getCore (bump s u i n) k = getCore s k := getCore_congr (bump_cores ..) k

@[simp] theorem trigger_drg (s : State) (bit : Nat) : (trigger s bit).drg = s.drg := by
  unfold trigger requestDip
  split <;> (try split) <;> rfl

@[simp] theorem stopGang_drg (s : State) (c src : Nat) : (stopGang s c src).drg = s.drg :=
  foldl_keep State.drg (f := fun s u => stopUnit s src u) (fun _ _ => bump_drg ..) _ _

@[simp] theorem purgeQueues_drg (s : State) (c : Nat) : (purgeQueues s c).drg = s.drg := rfl

@[simp] theorem teardown_drg (s : State) (c cause : Nat) (uf : Option UnitFault) : (teardown s c cause uf).drg = s.drg := by
  unfold teardown
  dsimp only
  split
  · rw [purgeQueues_drg, stopGang_drg, setCtx_drg]
  · rfl

@[simp] theorem unitFault_drg (s : State) (u code : Nat) : (unitFault s u code).drg = s.drg := by
  unfold unitFault
  dsimp only
  split
  · exact (teardown_drg ..).trans (trigger_drg ..)
  · exact trigger_drg ..

/-- `next` where the program goes on and no loop body ends. -/
theorem next_plain {s : State} {k : Nat} (hp : (getCore s k).pc + 1 < progLen s (getCore s k))
    (hl : ∀ f r, (getCore s k).loops = f :: r → f.first + f.len ≠ (getCore s k).pc + 1) :
    next s k = setCore s k (stepped (getCore s k)) := by
  have hpop : popLoops ((getCore s k).pc + 1) (getCore s k).loops = ((getCore s k).pc + 1, (getCore s k).loops) :=
    popLoops_straight _ _ hl
  unfold next advance
  simp only [hpop, Nat.not_le.mpr hp, if_false, stepped]

/-! ### MATMUL (04 R149-R157) -/

theorem operandFault_align {rs : List (Nat × Nat)} (h : ∃ r ∈ rs, r.1 % 64 ≠ 0) : operandFault rs = some fAlign :=
  if_pos (List.any_eq_true.mpr (h.imp fun _ hr => ⟨hr.1, decide_eq_true hr.2⟩))

theorem productOk_not_illegal {f : ArrF} (hflow : f.flow ≠ 3)
    (hok : productOk f.fmtA.toNat f.fmtB.toNat f.outFmt.toNat (kOf f.kField) f.mxA f.mxB f.sr f.outMx = true) :
    ¬ (decide (f.flow = 3) || !productOk f.fmtA.toNat f.fmtB.toNat f.outFmt.toNat (kOf f.kField) f.mxA f.mxB f.sr f.outMx) = true := by
  rw [decide_eq_false hflow, hok]
  decide

theorem guarded_unitFault {s : State} (hn : s.drg.need = []) (u e : Nat) : guarded s (unitFault s u e) = unitFault s u e :=
  guarded_of _ _ (by rw [unitFault_drg]; exact hn)

section
variable {s : State} {k : Fin 512} {f : ArrF} (hi : canIssue s k.val = true) (hn : s.drg.need = [])
include hi hn


theorem exec_matmul_illegal (hbad : f.flow = 3 ∨ productOk f.fmtA.toNat f.fmtB.toNat f.outFmt.toNat (kOf f.kField) f.mxA f.mxB f.sr
    f.outMx = false) : exec (.matmul k f) s = .next (unitFault s k.val fIllegal) := by
  refine congrArg Host.Outcome.next ((congrArg _ ((issue_of _ _ _ hi).trans (if_pos ?_))).trans (guarded_unitFault hn _ _))
  simpa using hbad

variable (hflow : f.flow ≠ 3)
  (hok : productOk f.fmtA.toNat f.fmtB.toNat f.outFmt.toNat (kOf f.kField) f.mxA f.mxB f.sr f.outMx = true)
include hflow hok

theorem exec_matmul_rows (hm : 4096 < mOf (getCore s k.val) f.mSrc f.mField) :
    exec (.matmul k f) s = .next (unitFault s k.val fBounds) :=
  congrArg Host.Outcome.next ((congrArg _ ((issue_of _ _ _ hi).trans
    ((if_neg (productOk_not_illegal hflow hok)).trans (if_pos hm)))).trans (guarded_unitFault hn _ _))

/-- The ranges of MATMUL with B in Bench 0. -/
def matmulOps (c : Core) (f : ArrF) : List (Nat × Nat) :=
  acRanges c f.fmtA.toNat f.outFmt.toNat (mOf c f.mSrc f.mField) (kOf f.kField) f.mxA f.outMx f.aReg f.cReg ++
    bRanges c f.fmtB.toNat (kOf f.kField) f.mxB f.bReg

variable (hm : mOf (getCore s k.val) f.mSrc f.mField ≤ 4096) (hb : f.bTier = false)
include hm hb

theorem exec_matmul_operand {e : Nat} (he : operandFault (matmulOps (getCore s k.val) f) = some e) :
    exec (.matmul k f) s = .next (unitFault s k.val e) := by
  refine congrArg Host.Outcome.next ((congrArg _ ((issue_of _ _ _ hi).trans
    ((if_neg (productOk_not_illegal hflow hok)).trans ((if_neg (Nat.not_lt.mpr hm)).trans ?_)))).trans (guarded_unitFault hn _ _))
  unfold matmulOps at he
  simp only [hb, Bool.false_eq_true, if_false, he]

omit hn in
theorem exec_matmul_empty (he : operandFault (matmulOps (getCore s k.val) f) = none)
    (h0 : mOf (getCore s k.val) f.mSrc f.mField = 0) : exec (.matmul k f) s = .next (guarded s (emptyOp s k.val [5, 13])) := by
  refine congrArg Host.Outcome.next (congrArg _ ((issue_of _ _ _ hi).trans
    ((if_neg (productOk_not_illegal hflow hok)).trans ((if_neg (Nat.not_lt.mpr hm)).trans ?_))))
  unfold matmulOps at he
  simp only [hb, Bool.false_eq_true, if_false, he, Bool.false_and]
  exact if_pos h0

omit hn in
theorem exec_matmul_runs (he : operandFault (matmulOps (getCore s k.val) f) = none)
    (h0 : mOf (getCore s k.val) f.mSrc f.mField ≠ 0) : exec (.matmul k f) s = .next (guarded s (matmulRun s k.val f
      (mOf (getCore s k.val) f.mSrc f.mField) (kOf f.kField) (bRanges (getCore s k.val) f.fmtB.toNat (kOf f.kField) f.mxB f.bReg)
      (fun s c => (readBytes c.b0 (regA c f.bReg) (kOf f.kField * elemBytes f.fmtB.toNat 32),
        if f.mxB then readBytes c.b0 (regA1 c f.bReg) (kOf f.kField) else [], 0, s)))) := by
  refine congrArg Host.Outcome.next (congrArg _ ((issue_of _ _ _ hi).trans
    ((if_neg (productOk_not_illegal hflow hok)).trans ((if_neg (Nat.not_lt.mpr hm)).trans ?_))))
  unfold matmulOps at he
  simp only [hb, Bool.false_eq_true, if_false, he, Bool.false_and, h0, Bool.not_false, if_true]

end

theorem emptyOp_matmul {s : State} {k : Nat} (h : Straight s k) :
    emptyOp s k [5, 13] = setCore (bump (bump s k 5 1) k 13 1) k (stepped (getCore s k)) := by
  obtain ⟨-, hp, hl⟩ := h
  have hk : getCore (bump (bump s k 5 1) k 13 1) k = getCore s k := by simp
  have hlen : progLen (bump (bump s k 5 1) k 13 1) (getCore s k) = progLen s (getCore s k) := by simp [progLen]
  refine (next_plain (s := bump (bump s k 5 1) k 13 1) ?_ ?_).trans (by rw [hk])
  · rw [hk, hlen]
    exact hp
  · rw [hk]
    exact hl

/-! ### SPMM and PACK (06 R200-R212) -/

/-- The ranges that SPMM reads beside its tile. -/
def spmmRest (c : Core) (f : SprF) : List (Nat × Nat) :=
  spmmScales c f (mOf c f.mSrc f.mField) (kOf f.kField) ++ cRanges c f.outFmt.toNat (mOf c f.mSrc f.mField) f.outMx f.cReg ++
    bRanges c f.fmtB.toNat (kOf f.kField) f.mxB f.bReg

/-- The header of the tile at a[AREG]. -/
def tileHdr (c : Core) (f : SprF) : S8Hdr := parseS8 (readNat c.b0 (regA c f.aReg) 8)

theorem exec_spmm_of {s : State} {k : Fin 512} {f : SprF} (hm0 : mOf (getCore s k.val) f.mSrc f.mField ≠ 0)
    (hm : mOf (getCore s k.val) f.mSrc f.mField ≤ 4096) (hhdr : admits (getCore s k.val) [(regA (getCore s k.val) f.aReg, 8)] [] = true)
    (hok : productOk f.fmtA.toNat f.fmtB.toNat f.outFmt.toNat (kOf f.kField) f.mxA f.mxB f.sr f.outMx = true)
    (ht : (f.mxA && f.transpose && decide (mOf (getCore s k.val) f.mSrc f.mField % 32 ≠ 0)) = false)
    (hop : operandFault ((regA (getCore s k.val) f.aReg, 8) :: spmmRest (getCore s k.val) f) = none)
    (hfit : spmmHdrOk (tileHdr (getCore s k.val) f) f (if f.transpose then kOf f.kField else mOf (getCore s k.val) f.mSrc f.mField)
      (if f.transpose then mOf (getCore s k.val) f.mSrc f.mField else kOf f.kField) = true)
    (hb : regA (getCore s k.val) f.aReg + s8Len (tileHdr (getCore s k.val) f) ≤ b0End)
    (hbad : (tileRows (readBytes (getCore s k.val).b0 (regA (getCore s k.val) f.aReg) (s8Len (tileHdr (getCore s k.val) f)))
      (tileHdr (getCore s k.val) f)).2 = none)
    (h : Admitted s k.val (4 + f.engine.toNat)
      ((regA (getCore s k.val) f.aReg, s8Len (tileHdr (getCore s k.val) f)) :: spmmRest (getCore s k.val) f)
      (cRanges (getCore s k.val) f.outFmt.toNat (mOf (getCore s k.val) f.mSrc f.mField) f.outMx f.cReg)) :
    ∃ o, exec (.spmm k f) s = .next (setCore s k.val (withOp (getCore s k.val) (4 + f.engine.toNat)
      ((regA (getCore s k.val) f.aReg, s8Len (tileHdr (getCore s k.val) f)) :: spmmRest (getCore s k.val) f)
      (cRanges (getCore s k.val) f.outFmt.toNat (mOf (getCore s k.val) f.mSrc f.mField) f.outMx f.cReg) o)) ∧ o.kind = .spr ∧
      o.out.map (·.1) = (cRanges (getCore s k.val) f.outFmt.toNat (mOf (getCore s k.val) f.mSrc f.mField) f.outMx f.cReg).map (·.1) := by
  suffices hkey : ∃ o : Core → Op, exec (.spmm k f) s = .next (issueOp s k.val (4 + f.engine.toNat)
      ((regA (getCore s k.val) f.aReg, s8Len (tileHdr (getCore s k.val) f)) :: spmmRest (getCore s k.val) f)
      (cRanges (getCore s k.val) f.outFmt.toNat (mOf (getCore s k.val) f.mSrc f.mField) f.outMx f.cReg) (fun s c => (o c, s))) ∧
      (o (getCore s k.val)).kind = .spr ∧ (o (getCore s k.val)).out.map (·.1) =
        (cRanges (getCore s k.val) f.outFmt.toNat (mOf (getCore s k.val) f.mSrc f.mField) f.outMx f.cReg).map (·.1) by
    obtain ⟨o, he, hk, ho⟩ := hkey
    exact ⟨_, he.trans (congrArg _ (issueOp_admitted s k.val _ _ _ o h)), hk, ho⟩
  obtain ⟨hs, hq, ha⟩ := h
  unfold spmmRest tileHdr at *
  refine ⟨?o, congrArg Host.Outcome.next ((issue_of _ _ _ hs.1).trans ?eq), ?kind, ?out⟩
  case eq =>
    rw [if_neg (by rw [hok]; decide), if_neg (Nat.not_lt.mpr hm), if_neg (by rw [ht]; decide), if_neg hm0, hop]
    simp only [hm0, if_false, hhdr, Bool.not_true, Bool.false_eq_true]
    rw [apply_ite Prod.fst, apply_ite Prod.snd, if_neg (by rw [hfit]; decide), if_neg (Nat.not_lt.mpr hb), if_neg (by rw [hq]; decide),
      if_neg (by rw [ha]; decide)]
    simp only [hbad]
    rfl
  case kind => rfl
  case out =>
    unfold cRanges
    cases f.outMx <;> rfl

theorem exec_pack_of {s : State} {k : Fin 512} {f : SprF} {c : Core} (hc : getCore s k.val = c) {dense : Nat × Nat}
    {wr : List (Nat × Nat)} (hdense : dense = (regA c f.bReg, mOf c f.mSrc f.mField * kOf f.kField * elemBits f.fmtB.toNat / 8))
    (hwr : wr = (regA c f.cReg, roundUp (s8Dense f.outFmt.toNat (mOf c f.mSrc f.mField) (kOf f.kField)) 64) ::
      (if f.outMx then [(regA1 c f.cReg, mOf c f.mSrc f.mField * (kOf f.kField / 32))] else []))
    (hm0 : mOf c f.mSrc f.mField ≠ 0) (hm : mOf c f.mSrc f.mField ≤ 4096) (hhdr : admits c [(regA c f.aReg, 8)] [] = true)
    (hok : packOk f (kOf f.kField) = true) (hop : operandFault ((regA c f.aReg, 8) :: dense :: wr) = none)
    (hfit : maskHdrOk (tileHdr c f) f (mOf c f.mSrc f.mField) (kOf f.kField) = true)
    (hb : regA c f.aReg + s8Sparse (tileHdr c f) ≤ b0End)
    (hcols : (tileCols (readBytes c.b0 (regA c f.aReg) (s8Sparse (tileHdr c f))) (tileHdr c f)
      (List.range (tileHdr c f).rows) 0 []).2 = none)
    (h : Admitted s k.val (4 + f.engine.toNat) [(regA c f.aReg, s8Sparse (tileHdr c f)), dense] wr) :
    ∃ o, exec (.pack k f) s = .next (setCore s k.val (withOp c (4 + f.engine.toNat)
      [(regA c f.aReg, s8Sparse (tileHdr c f)), dense] wr o)) ∧ o.kind = .pack ∧ o.out.map (·.1) = wr.map (·.1) := by
  suffices hkey : ∃ o : Core → Op, exec (.pack k f) s = .next (issueOp s k.val (4 + f.engine.toNat)
      [(regA c f.aReg, s8Sparse (tileHdr c f)), dense] wr (fun s c => (o c, s))) ∧
      (o c).kind = .pack ∧ (o c).out.map (·.1) = wr.map (·.1) by
    obtain ⟨o, he, hk, ho⟩ := hkey
    refine ⟨_, he.trans (congrArg _ ((issueOp_admitted s k.val _ _ _ o h).trans ?_)), hk, ho⟩
    rw [hc]
  obtain ⟨hs, hq, ha⟩ := h
  have hwr' : ([(regA c f.cReg, if mOf c f.mSrc f.mField = 0 then 0
        else roundUp (s8Dense f.outFmt.toNat (mOf c f.mSrc f.mField) (kOf f.kField)) 64)] ++
      (if f.outMx then [(regA1 c f.cReg, mOf c f.mSrc f.mField * (kOf f.kField / 32))] else [])) = wr := by
    rw [if_neg hm0, hwr]
    rfl
  subst hc
  unfold tileHdr at *
  rw [hdense] at *
  generalize hx : tileCols _ _ _ _ _ = x at hcols
  obtain ⟨cols, bad⟩ := x
  simp only at hcols
  subst hcols
  refine ⟨?o, congrArg Host.Outcome.next ((issue_of _ _ _ hs.1).trans ?eq), ?kind, ?out⟩
  case eq =>
    dsimp only
    rw [hwr', if_neg (by rw [hok]; decide), if_neg (Nat.not_lt.mpr hm), if_neg hm0, hop]
    simp only [hm0, if_false, hhdr, Bool.not_true, Bool.false_eq_true]
    rw [if_neg (by rw [hfit]; decide), if_neg (Nat.not_lt.mpr hb), if_neg (by rw [hq]; decide), if_neg (by rw [ha]; decide), hx]
  case kind => rfl
  case out =>
    rw [hwr]
    cases f.outMx <;> rfl

/-- Settles O15: the checks of MATMUL in the order of `execMatmul`, and the operation that each of the three issues. -/
theorem arrayAndSparseIssue : Obligations.ArrayAndSparseIssue := by
  refine ⟨?_, ?_⟩
  · intro s k f hn hb c a b out kk m ok ops wr rd av bv p
    refine ⟨fun hi hbad => exec_matmul_illegal hi hn hbad, fun hi hf hok hm => exec_matmul_rows hi hn hf hok hm,
      fun hi hf hok hm hal => exec_matmul_operand hi hn hf hok hm hb (operandFault_align hal), fun hs hf hok hm hop => ?_,
      fun hf hok hm hm0 hop hadm => ?_⟩
    · refine (exec_matmul_empty hs.1 hf hok (hm.trans_le (Nat.zero_le _)) hb hop hm).trans (congrArg _ ?_)
      rw [emptyOp_matmul hs]
      exact guarded_of _ _ (by simp [hn])
    · refine (exec_matmul_runs hadm.1.1 hf hok hm hb hop hm0).trans (congrArg _ ?_)
      have hrun := issueOp_admitted s k.val f.array.toNat ops wr (fun c =>
        let rd := fun (r : Nat × Nat) => readBytes c.b0 r.1 r.2
        let p := product a out f.acc f.sr f.outMx (getS c 31).toNat
          (aRows a m kk f.mxA (rd (regA c f.aReg, m * elemBytes a kk)) (if f.mxA then rd (regA1 c f.aReg, m * (kk / 32)) else []))
          (bRows b kk f.mxB (rd (regA c f.bReg, kk * elemBytes b 32)) (if f.mxB then rd (regA1 c f.bReg, kk) else []))
          (rd (regA c f.cReg, m * elemBytes out 32)) (if f.outMx then rd (regA1 c f.cReg, m) else [])
        { op0 .arr with out := (regA c f.cReg, p.1.flatten) :: (if f.outMx then [(regA1 c f.cReg, p.2.1)] else []),
                        srConv := p.2.2 }) hadm
      exact (congrArg (guarded s) hrun).trans (guarded_of _ _ hn)
  · intro s k f c out kk m h wrC rdS dense wrP mask hm0 hm hhdr
    refine ⟨fun hok ht hop hfit hb hbad hadm => exec_spmm_of hm0 hm hhdr hok ht ?_ hfit hb hbad ?_,
      fun hok hop hfit hb hcols hadm => exec_pack_of rfl rfl rfl hm0 hm hhdr hok hop hfit hb hcols hadm⟩
    · exact hop
    · exact hadm

end Sys2Proof.Machine

namespace Sys2Proof.Machine

/-! ### OPERATION_COMPLETE (04 R129) -/

/-- `t` is `s` but for the faces of units. -/
def FacesOnly (s t : State) : Prop := t = { s with faces := t.faces }

theorem FacesOnly.trans {s t u : State} (h₁ : FacesOnly s t) (h₂ : FacesOnly t u) : FacesOnly s u := by
  unfold FacesOnly at *
  rw [h₂, h₁]

theorem bump_facesOnly (s : State) (u i n : Nat) : FacesOnly s (bump s u i n) := by
  unfold bump
  split <;> rfl

theorem countOp_facesOnly (s : State) (k : Nat) (o : Op) : FacesOnly s (countOp s k o) := by
  have h : FacesOnly s (if o.srConv = 0 then s else bump s k 14 o.srConv) := by
    split
    · rfl
    · exact bump_facesOnly ..
  unfold countOp
  extract_lets t
  change FacesOnly s t at h
  clear_value t
  split
  · exact h.trans (bump_facesOnly ..)
  · exact h
  · exact h
  · exact h
  · exact h.trans (bump_facesOnly ..)

theorem FacesOnly.getCore {s t : State} (h : FacesOnly s t) (k : Nat) : getCore t k = getCore s k := getCore_congr (by rw [h]) k

/-- A core that waits for nothing and has not ended goes on as it is. -/
theorem settle_awake {s : State} {k : Nat} (hw : (getCore s k).wait = .none) (he : (getCore s k).ended = false) :
    settleIdle (wakeFence s k) k = s := by
  have hf : wakeFence s k = s := by
    unfold wakeFence
    dsimp only
    rw [hw]
  rw [hf]
  unfold settleIdle
  simp [he]

/-- The bytes of an operation in Bench 0. -/
def outBytes (m : Mem) (l : List (Nat × List Byte)) : Mem := l.foldl (fun m e => writeBytes m e.1 e.2) m

theorem mget_outBytes_out {l : List (Nat × List Byte)} {a : Nat} (h : ∀ e ∈ l, a < e.1 ∨ e.1 + e.2.length ≤ a) (m : Mem) :
    mget 0 (outBytes m l) a = mget 0 m a := by
  unfold outBytes
  induction l generalizing m with
  | nil => rfl
  | cons e l ih =>
    rw [List.foldl_cons, ih (fun e he => h e (List.mem_cons_of_mem _ he)), mget_writeBytes_out _ _ _ _ (h e (List.mem_cons_self ..))]

theorem finishOp_local {s : State} {k : Nat} {o : Op} (hw : (getCore s k).wait = .none) (he : (getCore s k).ended = false)
    (hk : ∀ p f n, o.kind ≠ .movP p f n) : finishOp s k o =
      countOp (setCore s k { getCore s k with ops := (getCore s k).ops.erase o, b0 := outBytes (getCore s k).b0 o.out }) k o := by
  unfold finishOp
  extract_lets c s₁ d s₂
  have hs₂ : s₂ = setCore s k { c with ops := c.ops.erase o, b0 := outBytes c.b0 o.out } := by
    have hne : ({ c with ops := c.ops.erase o } : Core) ≠ {} := core_ne_blank _ he
    unfold s₂ d s₁
    split
    next hp => exact absurd hp (hk _ _ _)
    next =>
      rw [getCore_setCore_same, setCore_setCore _ _ _ _ hne]
      rfl
  rw [hs₂]
  have hcore := (countOp_facesOnly (setCore s k { c with ops := c.ops.erase o, b0 := outBytes c.b0 o.out }) k o).getCore k
  rw [getCore_setCore_same] at hcore
  exact settle_awake (by rw [hcore]; exact hw) (by rw [hcore]; exact he)

theorem exec_operationComplete_of {s : State} {k : Fin 512} {q : Fin 8} {ok : Bool} {o : Op} (hf : frozen s = false)
    (hr : (getFace s k.val).st = .running) (ho : (getCore s k.val).ops.find? (fun x => x.q = q.val) = some o) :
    exec (.operationComplete k q ok) s = .next (guarded s (if o.pieces ≠ 0 then s else match o.kind with
      | .vec true => if ok then finishOp s k.val o else failVec s k.val o
      | _ => finishOp s k.val o)) := by
  have hu : unitRuns s k.val = true := by simp [unitRuns, hr]
  refine congrArg Host.Outcome.next ((if_neg (by simp [hf])).trans (congrArg _ ?_))
  unfold operationComplete
  rw [hu, ho]
  rfl

/-- The bytes that reach a core, with the count they advance. -/
def depositCore (c : Core) (a : Nat) (d : List Byte) (cnt : Option Nat) : Core :=
  match cnt with
  | none => { c with b0 := writeBytes c.b0 a d }
  | some i => setC { c with b0 := writeBytes c.b0 a d } i (inc32 (getC c i) 1)

/-- `t` is `s` but for the cores and the faces of units. -/
def CoresFaces (s t : State) : Prop := t = { s with cores := t.cores, faces := t.faces }

theorem CoresFaces.trans {s t u : State} (h₁ : CoresFaces s t) (h₂ : CoresFaces t u) : CoresFaces s u := by
  unfold CoresFaces at *
  rw [h₂, h₁]

theorem FacesOnly.coresFaces {s t : State} (h : FacesOnly s t) : CoresFaces s t := by
  unfold FacesOnly at h
  unfold CoresFaces
  rw [h]

theorem setCore_coresFaces (s : State) (k : Nat) (c : Core) : CoresFaces s (setCore s k c) := rfl

/-- The count of a core that waits for nothing goes up. -/
theorem countUp_awake {s : State} {k : Nat} (hw : (getCore s k).wait = .none) (i : Nat) : CoresFaces s (countUp s k i) ∧
    (∀ j, getCore (countUp s k i) j = if j = k then setC (getCore s k) i (inc32 (getC (getCore s k) i) 1) else getCore s j) := by
  have hcore : ∀ j, getCore (bump (setCore s k (setC (getCore s k) i (inc32 (getC (getCore s k) i) 1))) k 15 1) j =
      if j = k then setC (getCore s k) i (inc32 (getC (getCore s k) i) 1) else getCore s j := fun j => by
    rw [getCore_bump, getCore_setCore]
  have hwake : countUp s k i = bump (setCore s k (setC (getCore s k) i (inc32 (getC (getCore s k) i) 1))) k 15 1 := by
    unfold countUp wakeCount
    dsimp only
    rw [hcore, if_pos rfl]
    simp only [setC, hw]
  rw [hwake]
  exact ⟨(setCore_coresFaces ..).trans (bump_facesOnly ..).coresFaces, hcore⟩

theorem deposit_running {s : State} {x n p : Nat} (hst : (getCtx s x).st = .running) (hp : physIn s x n = some p)
    (hw : (getCore s p).wait = .none) (a : Nat) (d : List Byte) (cnt : Option Nat) : CoresFaces s (deposit s x n a d cnt) ∧
    ∀ j, getCore (deposit s x n a d cnt) j = if j = p then depositCore (getCore s p) a d cnt else getCore s j := by
  have hb : b0Write s x n a d = setCore s p { getCore s p with b0 := writeBytes (getCore s p).b0 a d } := by
    simp [b0Write, hst, hp]
  have hphys : physIn (setCore s p { getCore s p with b0 := writeBytes (getCore s p).b0 a d }) x n = some p := hp
  unfold deposit
  dsimp only
  rw [hb]
  cases cnt with
  | none => exact ⟨rfl, fun j => getCore_setCore ..⟩
  | some i =>
    have hst' : (getCtx (setCore s p { getCore s p with b0 := writeBytes (getCore s p).b0 a d }) x).st = .running := hst
    have hw' : (getCore (setCore s p { getCore s p with b0 := writeBytes (getCore s p).b0 a d }) p).wait = .none := by
      rw [getCore_setCore_same]
      exact hw
    obtain ⟨h1, h2⟩ := countUp_awake hw' i
    simp only [hst', hphys, reduceCtorEq, or_self, if_false]
    refine ⟨(setCore_coresFaces ..).trans h1, fun j => ?_⟩
    rw [h2, getCore_setCore_same, getCore_setCore]
    by_cases hj : j = p
    · rw [if_pos hj, if_pos hj]
      rfl
    · rw [if_neg hj, if_neg hj, if_neg hj]

theorem finishOp_movP {s : State} {k p peer : Nat} {flag : Bool} {cnt : BitVec 4} {o : Op} {e : Nat × List Byte}
    (hw : (getCore s k).wait = .none) (he : (getCore s k).ended = false) (hk : o.kind = .movP peer flag cnt) (ho : o.out = [e])
    (hst : (getCtx s (coreCtx s k)).st = .running) (hp : physIn s (coreCtx s k) peer = some p) (hpk : p ≠ k)
    (hwp : (getCore s p).wait = .none) : CoresFaces s (finishOp s k o) ∧
      getCore (finishOp s k o) k = { getCore s k with ops := (getCore s k).ops.erase o } ∧
      getCore (finishOp s k o) p = depositCore (getCore s p) e.1 e.2 (if flag then some cnt.toNat else none) := by
  have hcore : getCore (setCore s k { getCore s k with ops := (getCore s k).ops.erase o }) p = getCore s p := by
    rw [getCore_setCore, if_neg hpk]
  obtain ⟨h1, h2⟩ := deposit_running (s := setCore s k { getCore s k with ops := (getCore s k).ops.erase o })
    (x := coreCtx s k) (n := peer) (p := p) hst hp (by rw [hcore]; exact hwp) e.1 e.2 (if flag then some cnt.toNat else none)
  rw [hcore] at h2
  have hfin : finishOp s k o = settleIdle (wakeFence (countOp (deposit (setCore s k { getCore s k with
      ops := (getCore s k).ops.erase o }) (coreCtx s k) peer e.1 e.2 (if flag then some cnt.toNat else none)) k o) k) k := by
    unfold finishOp
    rw [hk, ho]
    rfl
  generalize deposit _ _ _ _ _ _ = u at h1 h2 hfin
  have hc := (countOp_facesOnly u k o).getCore
  have hck : getCore (countOp u k o) k = { getCore s k with ops := (getCore s k).ops.erase o } := by
    rw [hc, h2, if_neg (Ne.symm hpk), getCore_setCore_same]
  rw [hfin, settle_awake (by rw [hck]; exact hw) (by rw [hck]; exact he)]
  refine ⟨((setCore_coresFaces ..).trans h1).trans (countOp_facesOnly ..).coresFaces, hck, ?_⟩
  rw [hc, h2, if_pos rfl]

theorem CoresFaces.drg {s t : State} (h : CoresFaces s t) : t.drg = s.drg := by rw [h]

/-- Settles O16: what `finishOp` leaves of its core, of the peer and of all else, by the kind of the operation. -/
theorem operationCompletes : Obligations.OperationCompletes := by
  intro s k q ok o hf hn hr hw he ho c
  have hex := exec_operationComplete_of (ok := ok) hf hr ho
  refine ⟨fun hp => ?_, fun hp hk hok => ?_, fun peer flag cnt p e hp hk hout hst hphys hpk hwp => ?_, fun hp hk hok => ?_⟩
  · rw [hex, if_pos hp, guarded_of _ _ hn]
  · have hfin : exec (.operationComplete k q ok) s = .next (guarded s (finishOp s k.val o)) := by
      rw [hex, if_neg (by simpa using hp)]
      split
      next hv =>
        have hok' : ok = true := hok.resolve_right (fun h => h hv)
        rw [hok']
        rfl
      next => rfl
    have hcf : CoresFaces s (finishOp s k.val o) := by
      rw [finishOp_local hw he hk]
      exact (setCore_coresFaces ..).trans (countOp_facesOnly ..).coresFaces
    have hcore : ∀ j, getCore (finishOp s k.val o) j =
        if j = k.val then { c with ops := c.ops.erase o, b0 := outBytes c.b0 o.out } else getCore s j := by
      intro j
      rw [finishOp_local hw he hk, (countOp_facesOnly ..).getCore, getCore_setCore]
    refine ⟨_, hfin.trans (congrArg _ (guarded_of _ _ (by rw [hcf.drg]; exact hn))), hcf, ?_, fun a ha => ?_, fun e hout => ?_, fun j hj => ?_⟩
    · rw [hcore, if_pos rfl]
    · rw [hcore, if_pos rfl]
      exact mget_outBytes_out ha c.b0
    · rw [hcore, if_pos rfl, hout]
      exact readBytes_writeBytes c.b0 e.1 e.2
    · rw [hcore, if_neg hj]
  · obtain ⟨hcf, hk', hp'⟩ := finishOp_movP hw he hk hout hst hphys hpk hwp
    refine ⟨_, ?_, hcf, hk', ?_, fun a ha => ?_, ?_⟩
    · rw [hex, if_neg (by simpa using hp), hk]
      exact congrArg _ (guarded_of _ _ (by rw [hcf.drg]; exact hn))
    all_goals rw [hp']
    · cases flag <;> exact readBytes_writeBytes ..
    · cases flag <;> exact mget_writeBytes_out _ _ _ _ ha
    · cases flag <;> rfl
  · rw [hex, if_neg (by simpa using hp), hk, hok]
    exact congrArg _ (guarded_of s (failVec s k.val o) (by simp [failVec, hn]))

end Sys2Proof.Machine


/-! ### The hoist loader -/

namespace Sys2Proof.Machine

open Sys2Proof

theorem exec_begin_of {s : State} (h : loaderTakes s = true) : exec .begin s = .next (loaderBegin s) :=
  congrArg Host.Outcome.next (if_pos h)

theorem exec_validate_of {s : State} (h : loaderTakes s = true) : exec .validate s = .next (loaderValidate s) :=
  congrArg Host.Outcome.next (if_pos h)

theorem exec_arm_of {s : State} (h : loaderTakes s = true) : exec .arm s = .next (loaderArm s) :=
  congrArg Host.Outcome.next (if_pos h)

theorem exec_cancel_of {s : State} (h : loaderTakes s = true) : exec .cancel s = .next (loaderCancel s) :=
  congrArg Host.Outcome.next (if_pos h)

theorem loaderTakes_false {s : State} (h : (s.pwr.stage ≠ .sync ∧ s.pwr.stage ≠ .ready) ∨ s.syn.dipSt = .dipped) :
    loaderTakes s = false := by
  obtain ⟨hs, hr⟩ | hd := h
  · simp [loaderTakes, loaderUp, hs, hr]
  · simp [loaderTakes, frozen, hd]

/-- Neither the loader nor the broadcast takes a command then. -/
theorem exec_loader_refused {s : State} (h : loaderTakes s = false) {i : Instr}
    (hi : i ∈ [Instr.begin, .validate, .arm, .cancel, .send, .bcastArm, .abandon]) : exec i s = .next s := by
  have hn : ¬ loaderTakes s = true := Bool.eq_false_iff.mp h
  simp only [List.mem_cons, List.not_mem_nil, or_false] at hi
  obtain rfl | rfl | rfl | rfl | rfl | rfl | rfl := hi <;> exact congrArg Host.Outcome.next (if_neg hn)

/-- An event leaves the loader as it is, and so all but its state, its error and the shadow. -/
theorem refuse_hst (s : State) (e : Nat) :
    (refuse s e).hst = { s.hst with st := .refused, err := BitVec.ofNat 8 e, shadow := none } := by
  unfold refuse imageEvent
  rw [post_eventOnly]
  rfl

theorem loaderArm_unlocked {s : State} (hv : s.hst.st = .valid) (hl : locked s = false) : loaderArm s = refuse s 0x0A := by
  simp [loaderArm, hv, hl]

theorem loaderArm_late {s : State} (hv : s.hst.st = .valid) (hl : locked s = true) (hc : s.hst.commitCount.toNat ≤ s.halyard) :
    loaderArm s = refuse s 0x0B := by
  simp [loaderArm, hv, hl, hc]

theorem loaderArm_taken {s : State} (hv : s.hst.st = .valid) (hl : locked s = true) (hc : s.halyard < s.hst.commitCount.toNat) :
    loaderArm s = setHst s (fun h => { h with st := if h.stagedKind then .arming else .armed }) := by
  simp [loaderArm, hv, hl, Nat.not_le.mpr hc]

theorem loaderCancel_back {s : State}
    (h : s.hst.st = .arming ∨ (s.hst.st = .armed ∧ (s.hst.stagedKind = true ∨ s.halyard < s.hst.commitCount.toNat))) :
    loaderCancel s = { s with syn := { s.syn with armPending := none },
                              hst := { s.hst with st := .valid, err := 0, shadow := none } } := by
  obtain h | ⟨h, hc⟩ := h
  · simp [loaderCancel, h, setHst]
  · simp [loaderCancel, h, hc, setHst]

/-- Settles O17: each command of the loader is one function of the loader's state, and each clause is one of its branches. -/
theorem loaderCommands : Obligations.LoaderCommands := by
  unfold Obligations.LoaderCommands
  refine ⟨fun s ht => ?_, fun s i hi h => exec_loader_refused (loaderTakes_false h) hi⟩
  dsimp only
  refine ⟨fun h => ?_, fun h => ?_, fun h => ?_, fun h => ?_, fun h => ?_, fun h hl hc => ?_, fun h hl => ?_,
    fun h hl hc => ?_, fun h => ?_, fun h => ?_, fun h => ?_⟩
  case refine_1 =>
    have hb : takesBegin s.hst.st = true := by
      simp only [List.mem_cons, List.not_mem_nil, or_false] at h
      rcases h with h | h | h | h | h <;> simp [takesBegin, h]
    rw [exec_begin_of ht, loaderBegin, if_pos hb]
    rfl
  case refine_2 =>
    have hb : takesBegin s.hst.st = false := by
      simp only [List.mem_cons, List.not_mem_nil, or_false] at h
      rcases h with h | h | h | h <;> simp [takesBegin, h]
    rw [exec_begin_of ht, loaderBegin, hb]
    rfl
  case refine_3 => rw [exec_validate_of ht, loaderValidate, if_pos h]; rfl
  case refine_4 => rw [exec_validate_of ht, loaderValidate, if_neg h]
  case refine_5 => rw [exec_arm_of ht, loaderArm, if_pos h]
  case refine_6 => rw [exec_arm_of ht, loaderArm_taken h hl hc]; rfl
  case refine_7 => exact ⟨_, exec_arm_of ht, by rw [loaderArm_unlocked h hl, refuse_hst]; rfl⟩
  case refine_8 => exact ⟨_, exec_arm_of ht, by rw [loaderArm_late h hl hc, refuse_hst]; rfl⟩
  case refine_9 => rw [exec_cancel_of ht, loaderCancel_back h]
  case refine_10 =>
    rw [exec_cancel_of ht]
    rcases h with h | h <;> simp [loaderCancel, h, setHst]
  case refine_11 =>
    simp only [List.mem_cons, List.not_mem_nil, or_false] at h
    rw [exec_cancel_of ht]
    rcases h with h | h | h | h | h <;> simp [loaderCancel, h]

end Sys2Proof.Machine


/-! ### LAUNCH -/

namespace Sys2Proof.Machine

open Sys2Proof

/-- Unit `u` given to context `c`. -/
def claim (c : Nat) (s : State) (u : Nat) : State := setFace s u { getFace s u with owner := some (ctxFin c) }

theorem owner_claim_same (c : Nat) (s : State) (u : Nat) : (getFace (claim c s u) u).owner = some (ctxFin c) := by
  simp [claim, getFace]

theorem owner_claim_keeps {c : Nat} {s : State} {u : Nat} (h : (getFace s u).owner = some (ctxFin c)) (v : Nat) :
    (getFace (claim c s v) u).owner = some (ctxFin c) := by
  by_cases hv : u = v
  · rw [hv, owner_claim_same]
  · rwa [claim, getFace, setFace_faces, mget_mput_other _ _ _ _ _ hv]

theorem owner_claims_keeps {c u : Nat} (l : List Nat) {s : State} (h : (getFace s u).owner = some (ctxFin c)) :
    (getFace (l.foldl (claim c) s) u).owner = some (ctxFin c) :=
  l.foldlRecOn (claim c) (motive := fun t => (getFace t u).owner = some (ctxFin c)) h (fun _ ht v _ => owner_claim_keeps ht v)

theorem owner_claims {c u : Nat} {l : List Nat} (hu : u ∈ l) (s : State) :
    (getFace (l.foldl (claim c) s) u).owner = some (ctxFin c) := by
  induction l generalizing s with
  | nil => simp at hu
  | cons v l ih =>
    obtain rfl | hu := List.mem_cons.mp hu
    · exact owner_claims_keeps l (owner_claim_same c s u)
    · exact ih hu _

theorem claims_facesOnly (c : Nat) (l : List Nat) (s : State) : FacesOnly s (l.foldl (claim c) s) :=
  foldl_rel (R := FacesOnly) (fun _ => rfl) FacesOnly.trans (fun a v => (rfl : FacesOnly a (claim c a v))) l s

theorem claimCores_eq (c : Nat) (b : List (Nat × Nat)) (s : State) :
    b.foldl (fun s e => claim c s e.2) s = (b.map (·.2)).foldl (claim c) s := List.foldl_map.symm

/-- The cores taken, and the engines of the context's gang that have no owner. -/
theorem takeCores_eq (s : State) (c : Nat) (b : List (Nat × Nat)) : ∃ l : List Nat, takeCores s c b =
    let t := l.foldl (claim c) (b.foldl (fun s e => claim c s e.2) (setCtx s c { getCtx s c with bind := b }));
    { t with pwr := { t.pwr with govQueue := t.pwr.govQueue ++ b.map (fun e => (e.2, t.halyard)) } } :=
  ⟨_, rfl⟩

/-- What taking cores changes: the binding, the owners, and the queue of the ramp governor. -/
theorem takeCores_only (s : State) (c : Nat) (b : List (Nat × Nat)) : takeCores s c b =
    { s with ctxs := mput {} s.ctxs c { getCtx s c with bind := b }
             faces := (takeCores s c b).faces
             pwr := { s.pwr with govQueue := s.pwr.govQueue ++ b.map (fun e => (e.2, s.halyard)) } } := by
  obtain ⟨l, ht⟩ := takeCores_eq s c b
  rw [ht, claimCores_eq]
  dsimp only
  rw [claims_facesOnly c l, claims_facesOnly c (b.map (·.2))]
  rfl

theorem owner_takeCores (s : State) (c : Nat) {b : List (Nat × Nat)} {e : Nat × Nat} (he : e ∈ b) :
    (getFace (takeCores s c b) e.2).owner = some (ctxFin c) := by
  obtain ⟨l, ht⟩ := takeCores_eq s c b
  rw [ht, claimCores_eq]
  exact owner_claims_keeps l (owner_claims (List.mem_map_of_mem he) _)

theorem getCtx_takeCores (s : State) (c : Nat) (b : List (Nat × Nat)) (d : Nat) :
    getCtx (takeCores s c b) d = if d = c then { getCtx s c with bind := b } else getCtx s d := by
  rw [takeCores_only]
  exact mget_mput _ _ _ _ _

theorem launch_away {s : State} {c : Nat} {r : CtxRec} (hr : ctxRec s c = some r) (hd : (getCtx s c).st = .declared) :
    launch s c =
      if s.hst.st ≠ .committed then cmdStatus s c 1 2
      else if !locked s then cmdStatus s c 1 3
      else if s.ctab.launchCount.toNat ≤ s.halyard then cmdStatus s c 1 4
      else match coresFor s r with
        | .error e => cmdStatus s c 1 e
        | .ok b => launchCtx (cmdStatus s c 1 0) c r b := by
  rw [launch, hr]
  exact if_neg (not_not.mpr hd)

theorem launch_state {s : State} {c : Nat} (h : ctxRec s c = none ∨ (getCtx s c).st ≠ .declared) :
    launch s c = cmdStatus s c 1 1 := by
  unfold launch
  cases hr : ctxRec s c with
  | none => rfl
  | some r => exact if_pos (h.resolve_left (by simp [hr]))

/-- The context as LAUNCH leaves it before it holds cores. -/
def launchedCtx (s : State) (c : Nat) (r : CtxRec) : Ctx :=
  { getCtx s c with
    st := .armed, stepsDone := 0, droppedIn := 0, lateStarts := 0, slotWaits := 0, cause := 0, causeUnit := none,
    ovrSlot := 0, ovrTick := 0, launchCount := s.ctab.launchCount.toNat, limit := s.ctab.stepLimit,
    step := BitVec.ofNat 16 r.stepFirst, tick := 0, slotIndex := 0, stepOn := false, ending := false, blocked := false }

/-- The state before the cores are taken: the launch registers zeroed, the digests dropped. -/
def launchZeroed (s : State) (c : Nat) (r : CtxRec) : State := digestClear (setCtx s c (launchedCtx s c r)) c

theorem launchCtx_eq (s : State) (c : Nat) (r : CtxRec) (b : List (Nat × Nat)) :
    launchCtx s c r b = takeCores (launchZeroed s c r) c b := rfl

theorem getCtx_launchZeroed_same (s : State) (c : Nat) (r : CtxRec) : getCtx (launchZeroed s c r) c =
    { launchedCtx s c r with ndc := 0, digTotal := 0, lateFolds := 0, digOverflow := 0, spoilTotal := 0, written := 0 } := by
  simp only [launchZeroed, digestClear, getCtx_setCtx_same]

theorem getCtx_launchZeroed_other (s : State) {c d : Nat} (r : CtxRec) (h : d ≠ c) :
    getCtx (launchZeroed s c r) d = getCtx s d := by
  simp only [launchZeroed, digestClear, setCtx, getCtx]
  rw [mget_mput_other _ _ _ _ _ h, mget_mput_other _ _ _ _ _ h]

theorem exec_launch_of {s : State} {c : Fin 16} (hf : frozen s = false) : exec (.launch c) s = .next (launch s c.val) :=
  congrArg Host.Outcome.next (if_neg (by simp [hf]))

/-- Settles O22: the checks are the branches of `launch`, and the launch itself zeroes the context and takes its cores. -/
theorem launchChecksAndArms : Obligations.LaunchChecksAndArms := by
  unfold Obligations.LaunchChecksAndArms
  intro s c hf
  dsimp only
  rw [exec_launch_of hf]
  refine ⟨fun h => congrArg _ (launch_state h), fun r hr hd => ?_⟩
  rw [launch_away hr hd]
  refine ⟨fun h => by rw [if_pos h], fun hc hl => by simp [hc, hl], fun hc hl hh => by simp [hc, hl, hh],
    fun hc hl hh => ⟨fun e he => by simp [hc, hl, Nat.not_le.mpr hh, he], fun b hb => ?_⟩⟩
  refine ⟨launchCtx (cmdStatus s c.val 1 0) c.val r b, by simp [hc, hl, Nat.not_le.mpr hh, hb], ?_⟩
  rw [launchCtx_eq]
  have hx := getCtx_takeCores (launchZeroed (cmdStatus s c.val 1 0) c.val r) c.val b
  refine ⟨by rw [takeCores_only]; rfl, ?_, ?_, ?_, ?_, ?_, ?_, fun e he => ?_, fun d hd => ?_, ?_⟩
  case refine_7 => rw [owner_takeCores _ _ he, ctxFin_val]
  case refine_8 => rw [hx, if_neg hd, getCtx_launchZeroed_other _ _ hd]; rfl
  case refine_9 => rw [takeCores_only]; rfl
  all_goals rw [hx, if_pos rfl, getCtx_launchZeroed_same]
  all_goals rfl

end Sys2Proof.Machine


/-! ### SAVE, RESTORE, STOP, KILL and RELEASE -/

namespace Sys2Proof.Machine

open Sys2Proof

/-- `t` keeps the contexts, the command status and Dragiper Link of `s`. -/
structure KeepsCtxs (s t : State) : Prop where
  ctx : ∀ c, getCtx t c = getCtx s c
  ctab : t.ctab = s.ctab
  drg : t.drg = s.drg

theorem KeepsCtxs.refl (s : State) : KeepsCtxs s s := ⟨fun _ => rfl, rfl, rfl⟩

theorem KeepsCtxs.trans {s t u : State} (h₁ : KeepsCtxs s t) (h₂ : KeepsCtxs t u) : KeepsCtxs s u :=
  ⟨fun c => (h₂.ctx c).trans (h₁.ctx c), h₂.ctab.trans h₁.ctab, h₂.drg.trans h₁.drg⟩

theorem KeepsCtxs.foldl {β : Type} {f : State → β → State} (hf : ∀ s b, KeepsCtxs s (f s b)) (l : List β) (s : State) :
    KeepsCtxs s (l.foldl f s) := foldl_rel (R := KeepsCtxs) .refl .trans hf l s

theorem FacesOnly.keepsCtxs {s t : State} (h : FacesOnly s t) : KeepsCtxs s t := by
  rw [h]
  exact ⟨fun _ => rfl, rfl, rfl⟩

theorem bump_keepsCtxs (s : State) (u i n : Nat) : KeepsCtxs s (bump s u i n) := (bump_facesOnly s u i n).keepsCtxs

theorem stopUnit_keepsCtxs (s : State) (src u : Nat) : KeepsCtxs s (stopUnit s src u) := by
  unfold stopUnit
  exact .trans (t := setFace s u _) ⟨fun _ => rfl, rfl, rfl⟩ (bump_keepsCtxs ..)

theorem stopGang_keepsCtxs (s : State) (c src : Nat) : KeepsCtxs s (stopGang s c src) :=
  KeepsCtxs.foldl (f := fun s u => stopUnit s src u) (fun s u => stopUnit_keepsCtxs s src u) _ s

theorem acceptCmd_keepsCtxs (s : State) (u op c : Nat) (slot : BitVec 16) (arg : Nat) :
    KeepsCtxs s (acceptCmd s u op c slot arg) := by
  rw [acceptCmd_eq]
  exact ⟨fun _ => rfl, rfl, rfl⟩

theorem gangCmd_keepsCtxs (s : State) (g : Nat) (cmd : FaceCmd) : KeepsCtxs s (gangCmd s g cmd) := by
  rw [gangCmd_eq]
  exact ⟨fun _ => rfl, rfl, rfl⟩

theorem giveSave_keepsCtxs (s : State) (c : Nat) : KeepsCtxs s (giveSave s c) := by
  refine .trans (KeepsCtxs.foldl (f := fun s u => giveCmd s 2 c c u) (fun s u => ?_) _ s) (gangCmd_keepsCtxs ..)
  unfold giveCmd
  dsimp only
  split
  · exact .refl _
  · exact acceptCmd_keepsCtxs ..

theorem giveRestore_keepsCtxs (s : State) (c : Nat) : KeepsCtxs s (giveRestore s c) :=
  .trans (KeepsCtxs.foldl (f := fun s u => restoreUnit s c u)
    (fun s u => .trans (acceptCmd_keepsCtxs s u 3 c 0 c) ⟨fun _ => rfl, rfl, rfl⟩) _ s) (gangCmd_keepsCtxs ..)

theorem chargeHbm_keepsCtxs (s : State) (ctx : Option Nat) (n : Nat) : KeepsCtxs s (chargeHbm s ctx n) := by
  unfold chargeHbm
  split
  · exact .refl _
  · dsimp only
    split <;> exact ⟨fun _ => rfl, rfl, rfl⟩

theorem countAccess_keepsCtxs (s : State) (x n : Nat) (wr : Bool) (ctx : Option Nat) :
    KeepsCtxs s (countAccess s x n wr ctx) := by
  refine KeepsCtxs.foldl (fun s b => ?_) _ s
  unfold countBlock
  split
  · exact .refl _
  · dsimp only
    split
    · exact .trans (bump_keepsCtxs ..) (chargeHbm_keepsCtxs ..)
    · split
      all_goals first | exact bump_keepsCtxs .. | exact .refl _

/-- With no line held by the companion, an access needs no snoop. -/
theorem snoopNeed_none {s : State} (h : s.drg.filter = []) (x n : Nat) (wr : Bool) : snoopNeed s x n wr = s := by
  unfold snoopNeed
  split
  · rfl
  · simp [h]

/-- A whole codeword is written without a read, so no error of the memory is met. -/
theorem writeCwAt_whole {x : Nat} {d : List Byte} {cw : Nat} (h : x ≤ cw ∧ cw + 32 ≤ x + d.length) (r : Req) (s : State) :
    KeepsCtxs s (writeCwAt x d r s cw) := by
  unfold writeCwAt
  split
  · exact .refl _
  · split
    · unfold cwModify
      rw [if_pos (List.all_eq_true.mpr fun i hi => by have := List.mem_range.mp hi; simp only [decide_eq_true_eq]; omega)]
      exact ⟨fun _ => rfl, rfl, rfl⟩
    · exact .refl _

theorem frameHeader_length (s : State) (c : Nat) : (frameHeader s c).length = 0x300 := by
  simp only [frameHeader, List.length_append, bytesOf_length, List.length_replicate, List.length_map, List.length_range]

/-- A write of whole codewords, no line held by the companion. -/
theorem b1Write_whole {s : State} (hn : s.drg.filter = []) {x : Nat} (hx : x % 32 = 0) {d : List Byte} (hd : d.length % 32 = 0)
    (r : Req) : KeepsCtxs s (b1Write s x d r) := by
  unfold b1Write
  rw [snoopNeed_none hn]
  refine .trans (countAccess_keepsCtxs s x d.length true r.ctx) ?_
  refine List.foldlRecOn _ _ (motive := KeepsCtxs _) (.refl _) fun t ht cw hcw => ht.trans (writeCwAt_whole ?_ r t)
  unfold cwsOf at hcw
  split at hcw
  · simp at hcw
  · obtain ⟨i, hi, rfl⟩ := List.mem_map.mp hcw
    have := List.mem_range.mp hi
    omega

theorem unstageCores_keepsCtxs (l : List (Nat × Nat)) (s : State) : KeepsCtxs s (l.foldl (fun s e => unstageCore s e.2) s) :=
  KeepsCtxs.foldl (f := fun (s : State) (e : Nat × Nat) => unstageCore s e.2) (fun _ _ => ⟨fun _ => rfl, rfl, rfl⟩) l s

/-- Giving back its cores leaves the context without any, and nothing else changes of the contexts. -/
theorem dropCores_ctxs (s : State) (c : Nat) : KeepsCtxs (setCtx s c { getCtx s c with bind := [] }) (dropCores s c) := by
  have hu := unstageCores_keepsCtxs (getCtx s c).bind s
  unfold dropCores releaseCores
  dsimp only
  rw [hu.ctx]
  have hz := hu.trans (KeepsCtxs.foldl (f := fun (s : State) (e : Nat × Nat) => zeroCore s e.2)
    (fun s e => ⟨fun _ => rfl, rfl, rfl⟩) (getCtx s c).bind _)
  refine ⟨fun d => ?_, hz.ctab, hz.drg⟩
  exact (getCtx_setCtx ..).trans ((congrArg (ite _ _) (hz.ctx d)).trans (getCtx_setCtx ..).symm)

theorem purgeQueues_keepsCtxs (s : State) (c : Nat) : KeepsCtxs s (purgeQueues s c) := ⟨fun _ => rfl, rfl, rfl⟩

/-- The context as a teardown leaves it. -/
def tornCtx (x : Ctx) (cause : Nat) (uf : Option UnitFault) : Ctx :=
  { x with st := .teardown, cause := BitVec.ofNat 8 cause, causeUnit := uf, blocked := false, settling := false, stepOn := false }

theorem teardown_ctxs {s : State} {c : Nat} (h : mayTear (getCtx s c).st = true) (cause : Nat) (uf : Option UnitFault) :
    KeepsCtxs (setCtx s c (tornCtx (getCtx s c) cause uf)) (teardown s c cause uf) := by
  unfold teardown
  dsimp only
  rw [if_pos h]
  have hp := (stopGang_keepsCtxs (setCtx s c (tornCtx (getCtx s c) cause uf)) c 1).trans (purgeQueues_keepsCtxs _ c)
  exact ⟨hp.ctx, hp.ctab, hp.drg⟩

/-- A command that is taken: no error, and of the contexts only its own changes, to `x`. -/
theorem taken_enters {s t : State} {c cmd : Nat} {x : Ctx} (h : KeepsCtxs (setCtx (cmdStatus s c cmd 0) c x) t) :
    t.ctab.err = 0 ∧ getCtx t c = x ∧ ∀ d, d ≠ c → getCtx t d = getCtx s d :=
  ⟨by rw [h.ctab]; rfl, by rw [h.ctx, getCtx_setCtx_same], fun d hd => by rw [h.ctx, getCtx_setCtx, if_neg hd]; rfl⟩

/-! #### What each command does -/

/-- The frame header is written whole, and the units are told to save and to stop. -/
theorem saveFrame_keepsCtxs {s : State} (hn : s.drg.filter = []) (c : Nat) : KeepsCtxs s
    (stopGang (giveSave (b1Write (frameZero s c) (frameBase + c * frameSize) (frameHeader s c) (ctReq c)) c) c 4) := by
  have hz : KeepsCtxs s (frameZero s c) := ⟨fun _ => rfl, rfl, rfl⟩
  have hx : (frameBase + c * frameSize) % 32 = 0 := by
    simp only [frameBase, frameSize]
    omega
  have hw := b1Write_whole (s := frameZero s c) hn hx (d := frameHeader s c) (by rw [frameHeader_length]) (ctReq c)
  exact ((hz.trans hw).trans (giveSave_keepsCtxs ..)).trans (stopGang_keepsCtxs ..)

/-- The context as SAVE leaves it, before its frame is written. -/
def saveStart (s : State) (c : Nat) : State :=
  setCtx (cmdStatus s c 2 0) c { getCtx s c with st := .saving, saveCount := s.halyard, blocked := false }

theorem save_eq {s : State} {c : Nat} (hst : (getCtx s c).st = .running) (hlc : (getCtx s c).lc = false) :
    save s c = stopGang (giveSave (b1Write (frameZero (saveStart s c) c) (frameBase + c * frameSize)
      (frameHeader (saveStart s c) c) (ctReq c)) c) c 4 :=
  (if_neg (not_not.mpr hst)).trans (if_neg (by rw [hlc]; exact Bool.false_ne_true))

theorem save_taken {s : State} {c : Nat} (hn : NoHeldLines s) (hst : (getCtx s c).st = .running) (hlc : (getCtx s c).lc = false) :
    KeepsCtxs (saveStart s c) (save s c) := by
  rw [save_eq hst hlc]
  exact saveFrame_keepsCtxs (s := saveStart s c) hn.1 c

theorem restore_taken {s : State} {c : Nat} {r : CtxRec} {b : List (Nat × Nat)} (hst : (getCtx s c).st = .saved)
    (hr : ctxRec s c = some r) (hb : coresFor s r = .ok b) :
    KeepsCtxs (setCtx (cmdStatus s c 3 0) c { getCtx s c with st := .restoring, bind := b }) (restore s c) := by
  unfold restore
  rw [hr]
  simp only [hst, ne_eq, not_true_eq_false, if_false, hb]
  refine .trans ⟨fun d => ?_, ?_, ?_⟩ (giveRestore_keepsCtxs ..)
  · rw [getCtx_takeCores, getCtx_setCtx_same, getCtx_setCtx, getCtx_setCtx]
    split <;> rfl
  · rw [takeCores_only]
    rfl
  · rw [takeCores_only]
    rfl

theorem stopCmd_stepOn {s : State} {c : Nat} (hst : (getCtx s c).st = .running) (hon : (getCtx s c).stepOn = true)
    (he : (getCtx s c).ending = false) :
    stopCmd s c = setCtx (cmdStatus s c 4 0) c { getCtx s c with st := .ending } := by
  unfold stopCmd
  simp only [hst, hon, he, ne_eq, not_true_eq_false, if_false, Bool.true_or, if_true, Bool.not_true, Bool.or_self]

theorem kill_armed {s : State} {c : Nat} (hst : (getCtx s c).st = .armed) :
    KeepsCtxs (setCtx (cmdStatus s c 5 0) c { getCtx s c with st := .declared, bind := [] }) (kill s c) := by
  have hd := dropCores_ctxs (cmdStatus s c 5 0) c
  have hx : getCtx (dropCores (cmdStatus s c 5 0) c) c = { getCtx s c with bind := [] } := by
    rw [hd.ctx, getCtx_setCtx_same]
    rfl
  unfold kill
  dsimp only
  rw [if_pos hst, hx]
  refine ⟨fun d => ?_, hd.ctab, hd.drg⟩
  rw [getCtx_setCtx, getCtx_setCtx, hd.ctx, getCtx_setCtx]
  split <;> rfl

theorem kill_torn {s : State} {c : Nat} (h : mayTear (getCtx s c).st = true) :
    KeepsCtxs (setCtx (cmdStatus s c 5 0) c (tornCtx (getCtx s c) 4 none)) (kill s c) := by
  have hst : (getCtx s c).st ≠ .armed := fun he => by simp [he, mayTear] at h
  unfold kill
  dsimp only
  rw [if_neg hst, if_pos h]
  exact teardown_ctxs (s := cmdStatus s c 5 0) h 4 none

/-! #### The commands as executed -/

theorem guarded_cmdStatus {s : State} (hn : NoHeldLines s) (c cmd err : Nat) :
    guarded s (cmdStatus s c cmd err) = cmdStatus s c cmd err := guarded_of s _ hn.2

theorem exec_save_of {s t : State} {c : Fin 16} (hf : frozen s = false) (hn : NoHeldLines s) (ht : save s c.val = t)
    (hd : t.drg = s.drg) : exec (.save c) s = .next t :=
  congrArg Host.Outcome.next ((if_neg (by simp [hf])).trans (by rw [ht]; exact guarded_of s t (by rw [hd]; exact hn.2)))

theorem exec_stop_of {s t : State} {c : Fin 16} (hf : frozen s = false) (hn : NoHeldLines s) (ht : stopCmd s c.val = t)
    (hd : t.drg = s.drg) : exec (.stop c) s = .next t :=
  congrArg Host.Outcome.next ((if_neg (by simp [hf])).trans (by rw [ht]; exact guarded_of s t (by rw [hd]; exact hn.2)))

theorem exec_restore_of {s : State} {c : Fin 16} (hf : frozen s = false) : exec (.restore c) s = .next (restore s c.val) :=
  congrArg Host.Outcome.next (if_neg (by simp [hf]))

theorem exec_kill_of {s : State} {c : Fin 16} (hf : frozen s = false) : exec (.kill c) s = .next (kill s c.val) :=
  congrArg Host.Outcome.next (if_neg (by simp [hf]))

theorem exec_release_of {s : State} {c : Fin 16} (hf : frozen s = false) : exec (.release c) s = .next (releaseCmd s c.val) :=
  congrArg Host.Outcome.next (if_neg (by simp [hf]))

theorem restore_away {s : State} {c : Nat} (h : (getCtx s c).st ≠ .saved ∨ ctxRec s c = none) :
    restore s c = cmdStatus s c 3 1 := by
  unfold restore
  cases hr : ctxRec s c with
  | none => rfl
  | some r => exact if_pos (h.resolve_right (by simp [hr]))

theorem kill_away {s : State} {c : Nat} (h : (getCtx s c).st ∈ [CState.absent, .declared, .done, .teardown, .gone]) :
    kill s c = cmdStatus s c 5 1 := by
  unfold kill
  simp only [List.mem_cons, List.not_mem_nil, or_false] at h
  rcases h with h | h | h | h | h <;> simp [h, mayTear]

theorem mayTear_of_mem {st : CState} (h : st ∈ [CState.running, .ending, .saving, .saved, .restoring]) : mayTear st = true := by
  simp only [List.mem_cons, List.not_mem_nil, or_false] at h
  rcases h with rfl | rfl | rfl | rfl | rfl <;> rfl

/-- Settles O23: the refusals are branches of the commands; what is taken changes of the contexts only the one named. -/
theorem contextCommands : Obligations.ContextCommands := by
  unfold Obligations.ContextCommands
  refine ⟨fun s c hf hn => ?_, fun s c hf hn => ?_⟩
  · dsimp only
    refine ⟨fun h => ⟨exec_save_of hf hn (if_pos h) rfl, exec_stop_of hf hn (if_pos h) rfl⟩, fun h hlc =>
      exec_save_of hf hn ((if_neg (not_not.mpr h)).trans (if_pos hlc)) rfl, fun h => ?_, fun h => ?_, fun h₁ h₂ => ?_⟩
    · rw [exec_restore_of hf, restore_away h]
    · rw [exec_kill_of hf, kill_away h]
    · rw [exec_release_of hf, releaseCmd, if_neg (not_or.mpr ⟨h₁, h₂⟩)]
  · dsimp only
    refine ⟨fun h hlc => ?_, fun r b h hr hb => ?_, fun h hon he => exec_stop_of hf hn (stopCmd_stepOn h hon he) rfl,
      fun h => ?_, fun h => ?_, fun h => ?_⟩
    · have hk := save_taken hn h hlc
      obtain ⟨he, hx, ho⟩ := taken_enters hk
      exact ⟨_, exec_save_of hf hn rfl hk.drg, he, by rw [hx], ho⟩
    · obtain ⟨he, hx, ho⟩ := taken_enters (restore_taken h hr hb)
      exact ⟨⟨_, exec_restore_of hf, he, by rw [hx], ho⟩, _, exec_restore_of hf, by rw [hx]⟩
    · obtain ⟨he, hx, ho⟩ := taken_enters (kill_armed h)
      exact ⟨_, exec_kill_of hf, he, by rw [hx], ho⟩
    · obtain ⟨he, hx, ho⟩ := taken_enters (kill_torn (mayTear_of_mem h))
      exact ⟨⟨_, exec_kill_of hf, he, by rw [hx]; rfl, ho⟩, _, exec_kill_of hf, by rw [hx]; rfl⟩
    · rw [exec_release_of hf, releaseCmd, if_pos h]

end Sys2Proof.Machine


/-! ### Accesses of Bench 1

What a read or a write of Bench 1 can touch beside its bytes: the counters and regulators of its path, what an error of the
memory leads to (an event, a teardown, a Dip), and the lines that the companion must give back first. With none held, it
asks for none. -/

namespace Sys2Proof.Machine

open Sys2Proof

/-- `t` holds the lines of `s` for the companion, and asks for no more unless the companion holds some. -/
structure HeldKept (s t : State) : Prop where
  filter : t.drg.filter = s.drg.filter
  need : s.drg.filter = [] → t.drg.need = s.drg.need

theorem HeldKept.refl (s : State) : HeldKept s s := ⟨rfl, fun _ => rfl⟩

theorem HeldKept.trans {s t u : State} (h₁ : HeldKept s t) (h₂ : HeldKept t u) : HeldKept s u :=
  ⟨h₂.filter.trans h₁.filter, fun h => (h₂.need (h₁.filter.trans h)).trans (h₁.need h)⟩

theorem HeldKept.of_drg {s t : State} (h : t.drg = s.drg) : HeldKept s t := ⟨by rw [h], fun _ => by rw [h]⟩

theorem HeldKept.noHeldLines {s t : State} (h : HeldKept s t) (hn : NoHeldLines s) : NoHeldLines t :=
  ⟨h.filter.trans hn.1, (h.need hn.1).trans hn.2⟩

theorem HeldKept.guarded {s t : State} (h : HeldKept s t) (hn : NoHeldLines s) : guarded s t = t :=
  guarded_of s t (h.noHeldLines hn).2

theorem drgRequest_held (s : State) (op addr mask : Nat) (data : List Byte) (o : CmReq) :
    HeldKept s (drgRequest s op addr mask data o) := by
  unfold drgRequest drgSend drgFill drgNumber
  exact ⟨rfl, fun _ => rfl⟩

theorem evtIrq_held (s : State) : HeldKept s (evtIrq s) := by
  unfold evtIrq
  split
  · split
    · exact (drgRequest_held s _ _ _ _ _).trans ⟨rfl, fun _ => rfl⟩
    · exact ⟨rfl, fun _ => rfl⟩
  · exact .refl _

theorem evtWrite_held (s : State) (e : EvRec) : HeldKept s (evtWrite s e) :=
  (drgRequest_held s _ _ _ _ _).trans ⟨rfl, fun _ => rfl⟩

theorem post_held (s : State) (code : Nat) (ctx : Option (Fin 16)) (a0 a1 : Nat) : HeldKept s (post s code ctx a0 a1) := by
  unfold post
  dsimp only
  split
  · refine HeldKept.trans (t := evtWrite { s with evt := { s.evt with seq := inc32 s.evt.seq 1 } } _) ?_ (evtIrq_held _)
    exact HeldKept.trans (t := { s with evt := { s.evt with seq := inc32 s.evt.seq 1 } }) ⟨rfl, fun _ => rfl⟩ (evtWrite_held _ _)
  · split <;> exact ⟨rfl, fun _ => rfl⟩

theorem snoopNeed_held (s : State) (x n : Nat) (wr : Bool) : HeldKept s (snoopNeed s x n wr) := by
  refine ⟨?_, fun h => by rw [snoopNeed_none h]⟩
  unfold snoopNeed
  split
  · rfl
  · dsimp only
    split <;> rfl

/-- `t` comes from `s` by accesses of Bench 1. -/
structure MemAccess (s t : State) : Prop where
  only : t = { s with
    aon := t.aon
    pwr := t.pwr
    syn := { s.syn with dipSt := t.syn.dipSt, dipSrc := t.syn.dipSrc, dipCutNs := t.syn.dipCutNs, dipIgnored := t.syn.dipIgnored }
    tick := t.tick
    ctxs := t.ctxs
    buckets := t.buckets
    faces := t.faces
    riddles := t.riddles
    tramways := t.tramways
    bpm := t.bpm
    bench1 := t.bench1
    chk := t.chk
    hbms := t.hbms
    fab := t.fab
    colls := t.colls
    drg := t.drg
    evt := t.evt }
  held : HeldKept s t

theorem MemAccess.refl (s : State) : MemAccess s s := ⟨rfl, .refl s⟩

theorem MemAccess.trans {s t u : State} (h₁ : MemAccess s t) (h₂ : MemAccess t u) : MemAccess s u := by
  refine ⟨?_, h₁.held.trans h₂.held⟩
  have h := h₁.only
  rw [h₂.only, h]

theorem MemAccess.foldl {β : Type} {f : State → β → State} (hf : ∀ s b, MemAccess s (f s b)) (l : List β) (s : State) :
    MemAccess s (l.foldl f s) := foldl_rel (R := MemAccess) .refl .trans hf l s

theorem MemAccess.ite {s t u : State} {p : Prop} [Decidable p] (ht : MemAccess s t) (hu : MemAccess s u) :
    MemAccess s (if p then t else u) := by
  split
  · exact ht
  · exact hu

theorem MemAccess.tir {s t : State} (h : MemAccess s t) : t.tir = s.tir := by rw [h.only]
theorem MemAccess.hst {s t : State} (h : MemAccess s t) : t.hst = s.hst := by rw [h.only]
theorem MemAccess.tab {s t : State} (h : MemAccess s t) : t.tab = s.tab := by rw [h.only]

theorem bump_memAccess (s : State) (u i n : Nat) : MemAccess s (bump s u i n) :=
  ⟨by rw [bump_facesOnly s u i n], .of_drg (bump_drg ..)⟩

theorem setFace_memAccess (s : State) (u : Nat) (f : Face) : MemAccess s (setFace s u f) := ⟨rfl, .of_drg rfl⟩
theorem setCtx_memAccess (s : State) (c : Nat) (x : Ctx) : MemAccess s (setCtx s c x) := ⟨rfl, .of_drg rfl⟩
theorem setHbm_memAccess (s : State) (n : Nat) (h : Hbm) : MemAccess s (setHbm s n h) := ⟨rfl, .of_drg rfl⟩
theorem setBucket_memAccess (s : State) (p l : Nat) (b : Bucket) : MemAccess s (setBucket s p l b) := ⟨rfl, .of_drg rfl⟩

theorem post_memAccess (s : State) (code : Nat) (ctx : Option (Fin 16)) (a0 a1 : Nat) : MemAccess s (post s code ctx a0 a1) :=
  ⟨by rw [post_eventOnly s code ctx a0 a1], post_held ..⟩

theorem requestDip_memAccess (s : State) (src : Nat) : MemAccess s (requestDip s src) := by
  unfold requestDip
  split <;> exact ⟨rfl, .of_drg rfl⟩

theorem trigger_memAccess (s : State) (bit : Nat) : MemAccess s (trigger s bit) := by
  unfold trigger
  split
  · exact requestDip_memAccess ..
  · exact .refl _

theorem stopUnit_memAccess (s : State) (src u : Nat) : MemAccess s (stopUnit s src u) :=
  (setFace_memAccess s u _).trans (bump_memAccess ..)

theorem stopGang_memAccess (s : State) (c src : Nat) : MemAccess s (stopGang s c src) :=
  MemAccess.foldl (f := fun s u => stopUnit s src u) (fun s u => stopUnit_memAccess s src u) _ s

theorem purgeQueues_memAccess (s : State) (c : Nat) : MemAccess s (purgeQueues s c) := ⟨rfl, .of_drg rfl⟩

theorem teardown_memAccess (s : State) (c cause : Nat) (uf : Option UnitFault) : MemAccess s (teardown s c cause uf) := by
  unfold teardown
  dsimp only
  split
  · exact (((setCtx_memAccess s c _).trans (stopGang_memAccess _ c 1)).trans (purgeQueues_memAccess _ c)).trans ⟨rfl, .of_drg rfl⟩
  · exact .refl _

theorem chargeHbm_memAccess (s : State) (ctx : Option Nat) (n : Nat) : MemAccess s (chargeHbm s ctx n) := by
  unfold chargeHbm
  split
  · exact .refl _
  · dsimp only
    split
    · exact setBucket_memAccess ..
    · exact .refl _

theorem countBlock_memAccess (x n : Nat) (wr : Bool) (ctx : Option Nat) (s : State) (b : Nat) :
    MemAccess s (countBlock x n wr ctx s b) := by
  unfold countBlock
  split
  · exact .refl _
  · dsimp only
    split
    · exact (bump_memAccess ..).trans (chargeHbm_memAccess ..)
    · split
      all_goals first | exact bump_memAccess .. | exact .refl _

theorem countAccess_memAccess (s : State) (x n : Nat) (wr : Bool) (ctx : Option Nat) :
    MemAccess s (countAccess s x n wr ctx) := MemAccess.foldl (countBlock_memAccess x n wr ctx) _ s

theorem snoopNeed_memAccess (s : State) (x n : Nat) (wr : Bool) : MemAccess s (snoopNeed s x n wr) := by
  refine ⟨?_, snoopNeed_held ..⟩
  unfold snoopNeed
  split
  · rfl
  · dsimp only
    split <;> rfl

theorem laneCorrected_memAccess (n pc : Nat) (s : State) (lane : Nat) : MemAccess s (laneCorrected n pc s lane) := by
  unfold laneCorrected
  dsimp only
  split
  · split
    · exact (setHbm_memAccess ..).trans (post_memAccess ..)
    · exact (setHbm_memAccess ..).trans (bump_memAccess ..)
  · exact setHbm_memAccess ..

theorem uncorrectable_memAccess (s : State) (n loc : Nat) (r : Req) : MemAccess s (uncorrectable s n loc r) := by
  have e : uncorrectable = uncorrectable := rfl
  conv at e => rhs; delta uncorrectable
  rw [e]
  clear e
  -- The kernel must not evaluate the owner of a key (it counts to 2^48 one by one): any function stands for `ownerOfKey`.
  generalize ownerOfKey = ownerOf
  revert ownerOf
  refine id fun ownerOf => ?_
  beta_reduce
  extract_lets pc s₁ h₁ s₂ own last h₂ s₃
  have hs₂ : MemAccess s s₂ := (bump_memAccess s (552 + n) 10 1).trans (setHbm_memAccess ..)
  clear_value s₂ own
  have hs₃ : MemAccess s₂ s₃ := .ite (((setHbm_memAccess ..).trans (post_memAccess ..)).trans (trigger_memAccess ..))
    (bump_memAccess ..)
  clear_value s₃
  cases own with
  | none => exact hs₂.trans hs₃
  | some c => exact (hs₂.trans hs₃).trans (teardown_memAccess ..)

theorem cwRead_memAccess (s : State) (n loc : Nat) (errs : List (Nat × Byte)) (r : Req) :
    MemAccess s (cwRead s n loc errs r).2.2 := by
  unfold cwRead
  dsimp only
  split
  · exact .refl _
  · exact ((bump_memAccess ..).trans (setHbm_memAccess ..)).trans (MemAccess.foldl (laneCorrected_memAccess n _) _ _)
  · exact uncorrectable_memAccess ..

theorem readCwAt_memAccess (r : Req) (a : List Byte × State) (x : Nat) : MemAccess a.2 (readCwAt r a x).2 := by
  unfold readCwAt
  split
  · exact .refl _
  · split
    · exact cwRead_memAccess ..
    · exact .refl _

theorem readCws_memAccess (r : Req) (l : List Nat) (a : List Byte × State) : MemAccess a.2 (l.foldl (readCwAt r) a).2 := by
  induction l generalizing a with
  | nil => exact .refl _
  | cons x l ih => exact (readCwAt_memAccess r a x).trans (ih _)

theorem cwWrite_memAccess (s : State) (n loc : Nat) (d : List Byte) : MemAccess s (cwWrite s n loc d) := ⟨rfl, .of_drg rfl⟩

theorem cwModify_memAccess (s : State) (n loc : Nat) (d : List Byte) (mask : Nat → Bool) (errs : List (Nat × Byte)) (r : Req) :
    MemAccess s (cwModify s n loc d mask errs r) := by
  unfold cwModify
  split
  · exact cwWrite_memAccess ..
  · have hb := (bump_memAccess s (552 + n) 8 1).trans (cwRead_memAccess _ n loc errs r)
    dsimp only
    split
    all_goals
      rename_i h
      rw [h] at hb
    · exact hb.trans (cwWrite_memAccess ..)
    · exact hb

theorem writeCwAt_memAccess (x : Nat) (d : List Byte) (r : Req) (s : State) (cw : Nat) :
    MemAccess s (writeCwAt x d r s cw) := by
  unfold writeCwAt
  split
  · exact .refl _
  · split
    · exact cwModify_memAccess ..
    · exact .refl _

theorem b1Get_memAccess (s : State) (x n : Nat) (r : Req) : MemAccess s (b1Get s x n r).2 :=
  (countAccess_memAccess s x n false r.ctx).trans (readCws_memAccess r (cwsOf x n) ([], _))

theorem b1Read_memAccess (s : State) (x n : Nat) (r : Req) : MemAccess s (b1Read s x n r).2 :=
  (snoopNeed_memAccess s x n false).trans (b1Get_memAccess _ x n r)

theorem b1Put_memAccess (s : State) (x : Nat) (d : List Byte) (r : Req) : MemAccess s (b1Put s x d r) :=
  (countAccess_memAccess s x d.length true r.ctx).trans (MemAccess.foldl (writeCwAt_memAccess x d r) _ _)

theorem b1Write_memAccess (s : State) (x : Nat) (d : List Byte) (r : Req) : MemAccess s (b1Write s x d r) :=
  (snoopNeed_memAccess s x d.length true).trans (b1Put_memAccess _ x d r)

theorem b1Zero_memAccess (s : State) (x n : Nat) : MemAccess s (b1Zero s x n) := ⟨rfl, .of_drg rfl⟩

end Sys2Proof.Machine


/-! ### SETTLE, SETTLE_COMPLETE and MIGRATION_SWITCH -/

namespace Sys2Proof.Machine

open Sys2Proof

/-! #### What a settle does asks for no line of the companion -/

theorem HeldKept.foldl {β : Type} {f : State → β → State} (hf : ∀ s b, HeldKept s (f s b)) (l : List β) (s : State) :
    HeldKept s (l.foldl f s) := foldl_rel (R := HeldKept) .refl .trans hf l s

theorem putLine_held (s : State) (l : Nat) (d : List Byte) : HeldKept s (putLine s l d) := by
  have hdrop : ∀ (u : State) (m : List HLine), HeldKept u (match m with | e :: _ => dropLine u e | [] => u) := by
    intro u m
    cases m with
    | nil => exact .refl _
    | cons e m =>
      exact HeldKept.trans (t := { u with lines := u.lines.erase e }) (.of_drg rfl) (b1Put_memAccess ..).held
  unfold putLine
  dsimp only
  refine HeldKept.trans (t := { s with lines := s.lines.filter (fun e => e.line ≠ l) }) (.of_drg rfl) ?_
  split
  · exact .of_drg rfl
  · exact (hdrop _ _).trans (.of_drg rfl)

theorem homeGet_held (s : State) (x n : Nat) : HeldKept s (homeGet s x n).2 := by
  unfold homeGet
  split
  · exact .refl _
  · dsimp only
    refine HeldKept.trans ?_ (HeldKept.foldl (f := fun s (e : Nat × List Byte) => putLine s e.1 e.2)
      (fun s e => putLine_held s e.1 e.2) _ _)
    split
    · exact .refl _
    · exact (b1Get_memAccess ..).held

theorem HeldKept.foldl_snd {α β : Type} {f : α × State → β → α × State} (hf : ∀ a b, HeldKept a.2 (f a b).2) (l : List β)
    (a : α × State) : HeldKept a.2 (l.foldl f a).2 := by
  induction l generalizing a with
  | nil => exact .refl _
  | cons b l ih => exact (hf a b).trans (ih _)

theorem homeRead_held (s : State) (x n : Nat) : HeldKept s (homeRead s x n).2 := by
  unfold homeRead
  split
  · exact .refl _
  · dsimp only
    refine (snoopNeed_held s x n false).trans (HeldKept.foldl_snd (fun a e => ?_) _ ([], snoopNeed s x n false))
    exact homeGet_held a.2 e.1 (e.2 - e.1)

theorem touchFrame_held (s : State) (x : Nat) : HeldKept s (touchFrame s x) := by
  unfold touchFrame
  generalize List.replicate 4096 (0 : Byte) = z
  split
  · exact .refl _
  · exact (b1Put_memAccess s _ z _).held.trans (.of_drg rfl)

theorem homePutLine_held (s : State) (l o : Nat) (d : List Byte) : HeldKept s (homePutLine s l o d) := by
  unfold homePutLine
  split
  · exact putLine_held ..
  · exact (homeGet_held ..).trans (putLine_held ..)

theorem homePut_held (s : State) (x : Nat) (d : List Byte) : HeldKept s (homePut s x d) :=
  HeldKept.foldl (fun s l => (touchFrame_held s (64 * l)).trans (homePutLine_held ..)) _ s

theorem homeWrite_held (s : State) (x : Nat) (d : List Byte) : HeldKept s (homeWrite s x d) :=
  (snoopNeed_held ..).trans (homePut_held ..)

theorem writeUnit_held (s : State) (u : TUnit) (t : Nat) (d : List Byte) : HeldKept s (writeUnit s u t d) := by
  unfold writeUnit
  extract_lets fr s₁ s₂
  have h₁ : HeldKept s s₁ := HeldKept.foldl (fun s j => by
    dsimp only
    split
    · exact (b1Zero_memAccess ..).held
    · exact .of_drg rfl) fr s
  have h₂ : HeldKept s₁ s₂ := .of_drg rfl
  split
  · exact (h₁.trans h₂).trans (b1Write_memAccess ..).held
  · exact (h₁.trans h₂).trans (.of_drg rfl)

theorem tierWrite_held (s : State) (c t : Nat) (d : List Byte) : HeldKept s (tierWrite s c t d) := by
  unfold tierWrite
  dsimp only
  refine HeldKept.trans ?_ (HeldKept.foldl (fun s e => writeUnit_held s _ _ _) _ _)
  split <;> exact .of_drg rfl

theorem applyDesc_held (c : Nat) (s : State) (e : SDesc × Option (List Byte)) : HeldKept s (applyDesc c s e) := by
  unfold applyDesc
  split
  · exact .of_drg rfl
  · extract_lets x s₁ s₂ y
    have h₁ : HeldKept s s₁ := by
      unfold s₁
      split
      · split
        · exact (homeRead_held ..).trans (.of_drg rfl)
        · exact .refl _
      · exact .refl _
    have h₂ : HeldKept s₁ s₂ := HeldKept.trans (t := unstageRange s₁ c e.1.dst e.1.len) (.of_drg rfl) (tierWrite_held ..)
    exact (h₁.trans h₂).trans (.of_drg rfl)

theorem setTirCtx_held (s : State) (c : Nat) (x : TirCtx) : HeldKept s (setTirCtx s c x) := .of_drg rfl

theorem takeHomeRead_held (s : State) (x n m : Nat) : HeldKept s (takeHome (homeRead s x n).2 m) :=
  (homeRead_held ..).trans (.of_drg rfl)

theorem settleRun_held {s t : State} {c : Nat} (h : settleRun s c = (true, t)) : HeldKept s t := by
  unfold settleRun at h
  split at h
  · cases h
    exact .refl _
  · split at h
    split at h
    · cases h
    · cases h
    · cases h
      refine ((HeldKept.trans ?_ (HeldKept.foldl (applyDesc_held c) _ _)).trans (setTirCtx_held ..)).trans
        ((homeWrite_held ..).trans (.of_drg rfl))
      split
      · exact takeHomeRead_held ..
      · exact (takeHomeRead_held ..).trans (takeHomeRead_held ..)

/-! #### SETTLE and SETTLE_COMPLETE -/

theorem exec_settle_of {s : State} {c : Fin 16} (hf : frozen s = false) : exec (.settle c) s = .next (settleCmd s c.val) :=
  congrArg Host.Outcome.next (if_neg (by simp [hf]))

/-- The error of a SETTLE. -/
def settleErr (s : State) (c : Nat) : Nat :=
  if !((getCtx s c).st = .declared || (getCtx s c).st = .done || (getCtx s c).st = .saved) then 1
  else if (settleList s c).isNone then 2 else if (getCtx s c).settling then 3 else 0

theorem settleCmd_refused {s : State} {c e : Nat} (h : settleErr s c = e) (he : e ≠ 0) :
    settleCmd s c = { s with tir := { s.tir with err := BitVec.ofNat 8 e, cmdCtx := BitVec.ofNat 4 c } } := by
  unfold settleCmd
  change (if settleErr s c = 0 then _ else _) = _
  rw [if_neg (by rw [h]; exact he)]
  change ({ s with tir := { s.tir with err := BitVec.ofNat 8 (settleErr s c), cmdCtx := BitVec.ofNat 4 c } } : State) = _
  rw [h]

theorem settleCmd_taken {s : State} {c : Nat} (h : settleErr s c = 0) : settleCmd s c =
    setCtx { s with tir := { s.tir with err := 0, cmdCtx := BitVec.ofNat 4 c, done := false } } c
      { getCtx s c with settling := true, settleByCmd := true } := by
  unfold settleCmd
  change (if settleErr s c = 0 then _ else _) = _
  rw [if_pos h]
  change setCtx { s with tir := { s.tir with err := BitVec.ofNat 8 (settleErr s c), cmdCtx := _, done := false } } _ _ = _
  rw [h]
  rfl

theorem exec_settleComplete_of {s t : State} {c : Fin 16} (hf : frozen s = false) (hn : NoHeldLines s)
    (h : settleComplete s c.val = t) (ht : HeldKept s t) : exec (.settleComplete c) s = .next t :=
  congrArg Host.Outcome.next ((if_neg (by simp [hf])).trans (by rw [h]; exact ht.guarded hn))

theorem settleComplete_cmd {s t : State} {c : Nat} (hx : (getCtx s c).settling = true) (hc : (getCtx s c).settleByCmd = true)
    (h : settleRun s c = (true, t)) : settleComplete s c =
      let u := setCtx t c { getCtx t c with settling := false, settleByCmd := false };
      { u with tir := { u.tir with done := true } } := by
  unfold settleComplete
  simp only [hx, h, hc, Bool.not_true, Bool.false_eq_true, if_false, if_true]

/-! #### MIGRATION_SWITCH -/

theorem exec_migrationSwitch_of {s t : State} {c : Fin 16} (hf : frozen s = false) (hn : NoHeldLines s)
    (h : migrationSwitch s c.val = t) (ht : HeldKept s t) : exec (.migrationSwitch c) s = .next t :=
  congrArg Host.Outcome.next ((if_neg (by simp [hf])).trans (by rw [h]; exact ht.guarded hn))

/-- `t` has the units of `s`, and asks for no line of the companion. -/
def UnitsKept (s t : State) : Prop := HeldKept s t ∧ t.tir.units = s.tir.units

theorem UnitsKept.trans {s t u : State} (h₁ : UnitsKept s t) (h₂ : UnitsKept t u) : UnitsKept s u :=
  ⟨h₁.1.trans h₂.1, h₂.2.trans h₁.2⟩

theorem MemAccess.unitsKept {s t : State} (h : MemAccess s t) : UnitsKept s t := ⟨h.held, by rw [h.tir]⟩

theorem copyUnit_unitsKept (s : State) (c : Nat) (u : TUnit) (b : Backing) : UnitsKept s (copyUnit s c u b) := by
  refine foldl_rel (R := UnitsKept) (fun _ => ⟨.refl _, rfl⟩) .trans (fun s p => ?_) (writtenParts u) s
  have hr : ∀ x, UnitsKept s (b1Read s x p.2 (tirReq c)).2 := fun x => (b1Read_memAccess ..).unitsKept
  cases u.back with
  | b1 x =>
    cases b with
    | b1 y => exact (hr _).trans (b1Write_memAccess ..).unitsKept
    | b2 i o => exact (hr _).trans ⟨.of_drg rfl, rfl⟩
  | b2 j q =>
    cases b with
    | b1 y => exact (b1Write_memAccess ..).unitsKept
    | b2 i o => exact ⟨.of_drg rfl, rfl⟩

/-- The unit put at its place among the others. -/
theorem mem_setUnit {s : State} {u : TUnit} (v : TUnit) (h : u ∈ s.tir.units) : v ∈ (setUnit s u v).tir.units :=
  List.mem_map.mpr ⟨u, h, if_pos ⟨rfl, rfl⟩⟩

/-- The migrating unit that a context has first. -/
def migrating (s : State) (c : Nat) : Option TUnit := s.tir.units.find? (fun w => w.ctx.val = c && w.mig.isSome)

section
variable {s : State} {c : Nat} {u : TUnit} {b : Backing} (hu : migrating s c = some u) (hm : u.mig = some b)
include hu hm

theorem migrationSwitch_done (hres : ∀ e ∈ xfersOf s c 1, e.res = some true) (hx : xfersOf s c 1 ≠ [] ∨ u.written = []) :
    ∃ y, migrationSwitch s c =
      setTirCtx (setUnit (copyUnit (endXfers s c 1) c u b) u { u with mig := none, back := b }) c y := by
  have hsend : ∀ b2 : Bool, ¬ (xfersOf s c 1 = [] ∧ b2 = true ∧ u.written ≠ []) := fun _ h => hx.elim (· h.1) (h.2.2 ·)
  have hwait : ¬ (xfersOf s c 1).any (fun x => x.res = none) = true := by
    simpa [List.any_eq_true] using fun e he => by simp [hres e he]
  have hfail : ¬ (xfersOf s c 1).any (fun x => x.res = some false) = true := by
    simpa [List.any_eq_true] using fun e he => by simp [hres e he]
  unfold migrationSwitch
  rw [show s.tir.units.find? (fun u => u.ctx.val = c && u.mig.isSome) = some u from hu]
  dsimp only
  rw [hm]
  dsimp only
  rw [if_neg (hsend _), if_neg hwait, if_neg hfail]
  cases b with
  | b1 o => exact ⟨_, rfl⟩
  | b2 i o => exact ⟨_, rfl⟩

theorem migrationSwitch_failed (hres : ∀ e ∈ xfersOf s c 1, e.res ≠ none) (hf : ∃ e ∈ xfersOf s c 1, e.res = some false) :
    ∃ y, migrationSwitch s c = setTirCtx (setUnit (endXfers s c 1) u { u with mig := none }) c y := by
  obtain ⟨e, he, hef⟩ := hf
  have hsend : ∀ b2 : Bool, ¬ (xfersOf s c 1 = [] ∧ b2 = true ∧ u.written ≠ []) := fun _ h => by simp [h.1] at he
  have hwait : ¬ (xfersOf s c 1).any (fun x => x.res = none) = true := by
    simpa [List.any_eq_true] using hres
  have hfail : (xfersOf s c 1).any (fun x => x.res = some false) = true :=
    List.any_eq_true.mpr ⟨e, he, by simp [hef]⟩
  unfold migrationSwitch
  rw [show s.tir.units.find? (fun u => u.ctx.val = c && u.mig.isSome) = some u from hu]
  dsimp only
  rw [hm]
  dsimp only
  rw [if_neg (hsend _), if_neg hwait, if_pos hfail]
  exact ⟨_, rfl⟩
end

/-- Settles O26: SETTLE by its error; the end of a settle and of a migration by what they leave of the tier. -/
theorem settlesAndMigrations : Obligations.SettlesAndMigrations := by
  unfold Obligations.SettlesAndMigrations
  intro s c hf hn
  dsimp only
  rw [exec_settle_of hf]
  have hrun : ∀ h : (getCtx s c.val).st = .declared ∨ (getCtx s c.val).st = .done ∨ (getCtx s c.val).st = .saved,
      settleErr s c.val = if (settleList s c.val).isNone then 2 else if (getCtx s c.val).settling then 3 else 0 := by
    intro h
    rcases h with h | h | h <;> simp [settleErr, h]
  refine ⟨fun h => ?_, fun h hl => ?_, fun h hl hs => ?_, fun h hl hs => ?_, fun hs => ?_, fun t hs hc ht => ?_,
    fun u b hu hm hres hx => ?_, fun u hu hres hfail => ?_⟩
  · refine congrArg _ (settleCmd_refused (e := 1) ?_ (by decide))
    simp only [not_or] at h
    simp [settleErr, h]
  · exact congrArg _ (settleCmd_refused (by rw [hrun h, hl]; rfl) (by decide))
  · exact congrArg _ (settleCmd_refused (e := 3) (by rw [hrun h, hs]; simp [Option.isNone_iff_eq_none, Option.isSome_iff_ne_none.mp hl]) (by decide))
  · exact congrArg _ (settleCmd_taken (by rw [hrun h, hs]; simp [Option.isNone_iff_eq_none, Option.isSome_iff_ne_none.mp hl]))
  · exact exec_settleComplete_of hf hn (if_pos (by simp [hs])) (.refl s)
  · refine ⟨_, exec_settleComplete_of hf hn (settleComplete_cmd hs hc ht) ((settleRun_held ht).trans (.of_drg rfl)), ?_, rfl⟩
    exact congrArg Ctx.settling (getCtx_setCtx_same ..)
  · obtain ⟨y, hy⟩ := migrationSwitch_done hu hm hres hx
    have hk : UnitsKept s (copyUnit (endXfers s c.val 1) c.val u b) :=
      UnitsKept.trans (t := endXfers s c.val 1) ⟨.of_drg rfl, rfl⟩ (copyUnit_unitsKept ..)
    refine ⟨_, exec_migrationSwitch_of hf hn hy (hk.1.trans (.of_drg rfl)), mem_setUnit _ ?_⟩
    rw [hk.2]
    exact List.mem_of_find?_eq_some hu
  · obtain ⟨b, hm⟩ : ∃ b, u.mig = some b := Option.isSome_iff_exists.mp (by
      have := List.find?_some hu
      simp only [Bool.and_eq_true] at this
      exact this.2)
    obtain ⟨y, hy⟩ := migrationSwitch_failed hu hm hres hfail
    exact ⟨_, exec_migrationSwitch_of hf hn hy (.of_drg rfl), mem_setUnit (s := endXfers s c.val 1) _ (List.mem_of_find?_eq_some hu), rfl⟩

end Sys2Proof.Machine


/-! ### The ends of the loader's work -/

namespace Sys2Proof.Machine

open Sys2Proof

theorem setHst_held (s : State) (f : Loader → Loader) : HeldKept s (setHst s f) := .of_drg rfl

theorem stagedImage_memAccess (s : State) : MemAccess s (stagedImage s).2 := b1Read_memAccess ..

/-- `t` is `s` but for the synchronisation block and what a request sent touches. -/
def BcastOnly (s t : State) : Prop := t = { s with syn := t.syn, fab := t.fab, buckets := t.buckets }

theorem BcastOnly.trans {s t u : State} (h₁ : BcastOnly s t) (h₂ : BcastOnly t u) : BcastOnly s u := by
  unfold BcastOnly at *
  rw [h₂, h₁]

theorem setSyn_bcastOnly (s : State) (f : Syn → Syn) : BcastOnly s (setSyn s f) := rfl

theorem SendOnly.bcastOnly {s t : State} (h : SendOnly s t) : BcastOnly s t := by
  rw [h]
  rfl

theorem bcastProgress_bcastOnly (s : State) : BcastOnly s (bcastProgress s) := by
  unfold bcastProgress
  split
  · rfl
  · split
    · split
      · rfl
      · exact setSyn_bcastOnly ..
    · split
      · rfl
      · split
        · rfl
        · exact (setSyn_bcastOnly ..).trans (sendRequest_sends ..).1.bcastOnly

theorem bcastValidated_bcastOnly (s : State) (ok : Bool) (err : Byte) : BcastOnly s (bcastValidated s ok err) := by
  unfold bcastValidated
  split
  · exact (setSyn_bcastOnly ..).trans (bcastProgress_bcastOnly _)
  · rfl

theorem BcastOnly.hst {s t : State} (h : BcastOnly s t) : t.hst = s.hst := by rw [h]
theorem BcastOnly.tab {s t : State} (h : BcastOnly s t) : t.tab = s.tab := by rw [h]
theorem BcastOnly.held {s t : State} (h : BcastOnly s t) : HeldKept s t := .of_drg (by rw [h])

theorem EventOnly.hst {s t : State} (h : EventOnly s t) : t.hst = s.hst := by rw [h]
theorem EventOnly.tab {s t : State} (h : EventOnly s t) : t.tab = s.tab := by rw [h]
theorem EventOnly.ctxs {s t : State} (h : EventOnly s t) : t.ctxs = s.ctxs := by rw [h]

theorem imageEvent_eventOnly (s : State) (id : Nat) (kind : Bool) (err : Nat) (ok : Bool) :
    EventOnly s (imageEvent s id kind err ok) := post_eventOnly ..

theorem imageEvent_held (s : State) (id : Nat) (kind : Bool) (err : Nat) (ok : Bool) : HeldKept s (imageEvent s id kind err ok) :=
  post_held ..

theorem refuse_tab (s : State) (e : Nat) : (refuse s e).tab = s.tab := by
  unfold refuse
  exact (imageEvent_eventOnly ..).tab

theorem refuse_halyard (s : State) (e : Nat) : (refuse s e).halyard = s.halyard := by
  unfold refuse
  rw [imageEvent_eventOnly]
  rfl

theorem refuse_held (s : State) (e : Nat) : HeldKept s (refuse s e) := by
  unfold refuse
  extract_lets u
  have hu : HeldKept s { u with syn := { u.syn with armPending := none } } := .of_drg rfl
  exact hu.trans (imageEvent_held ..)

/-! #### VALIDATION_COMPLETE and SHADOW_COPY_DONE -/

/-- The staged image taken as the loader's, before its verdict. -/
def checkedImage (s : State) : State :=
  setHst (stagedImage s).2 (fun h => { h with stagedKind := bitAt (natAt (stagedImage s).1 6 1) 0, image := (stagedImage s).1 })

theorem checkedImage_held (s : State) : HeldKept s (checkedImage s) := (stagedImage_memAccess s).held.trans (.of_drg rfl)

theorem validationComplete_valid {s : State} (hst : s.hst.st = .validating)
    (he : imageErr (stagedImage s).2 (stagedImage s).1 = 0) :
    validationComplete s = bcastValidated (setHst (checkedImage s) (fun h => { h with st := .valid, err := 0 })) true 0 :=
  (if_neg (not_not.mpr hst)).trans (if_pos he)

theorem validationComplete_refused {s : State} {e : Nat} (hst : s.hst.st = .validating)
    (he : imageErr (stagedImage s).2 (stagedImage s).1 = e) (h0 : e ≠ 0) :
    validationComplete s = bcastValidated (refuse (checkedImage s) e) false (BitVec.ofNat 8 e) := by
  subst he
  exact (if_neg (not_not.mpr hst)).trans (if_neg h0)

theorem exec_validationComplete_of {s t : State} (hf : frozen s = false) (hn : NoHeldLines s) (h : validationComplete s = t)
    (ht : HeldKept s t) : exec .validationComplete s = .next t :=
  congrArg Host.Outcome.next ((if_neg (by simp [hf])).trans (by rw [h]; exact ht.guarded hn))

theorem node_congr {s t : State} (h : t.dev = s.dev) : node t = node s := by
  unfold node
  rw [h]

theorem MemAccess.node {s t : State} (h : MemAccess s t) : node t = node s := node_congr (by rw [h.only])

theorem shadowCopyDone_eq {s : State} (hst : s.hst.st = .arming) : shadowCopyDone s =
    setHst (stagedImage s).2 (fun h => { h with st := .armed, shadow := some (parseReload (node (stagedImage s).2) h.image) }) :=
  if_pos hst

theorem exec_shadowCopyDone_of {s t : State} (hf : frozen s = false) (hn : NoHeldLines s) (h : shadowCopyDone s = t)
    (ht : HeldKept s t) : exec .shadowCopyDone s = .next t :=
  congrArg Host.Outcome.next ((if_neg (by simp [hf])).trans (by rw [h]; exact ht.guarded hn))

/-! #### COMMIT_COUNT -/

/-- A part of the values that a map's change keeps reads as before. -/
theorem mget_mmap_keep {α γ : Type} {d : α} [DecidableEq α] (g : α → γ) {f : Nat → α → α} (hg : ∀ k v, g (f k v) = g v)
    (m : SMap α) {lo : Nat} (hm : mwfFrom d lo m = true) (j : Nat) : g (mget d (mmap d f m) j) = g (mget d m j) := by
  induction m generalizing lo with
  | nil => rfl
  | cons e r ih =>
    obtain ⟨i, w⟩ := e
    simp only [mwfFrom, Bool.and_eq_true, decide_eq_true_eq] at hm
    have hr := ih hm.2
    unfold mmap at hr ⊢
    by_cases h : f i w = d
    · simp only [List.filterMap_cons, h, if_true, mget_cons, hr]
      split
      · next hj => rw [← hj, mget_below d r (i + 1) i hm.2 (Nat.lt_succ_self i), ← h, hg]
      · rfl
    · simp only [List.filterMap_cons, h, if_false, mget_cons]
      split
      · exact hg i w
      · exact hr

theorem elapse_ctxs (n : Nat) (s : State) : ∃ f : Nat → Ctx → Ctx, (∀ k x, (f k x).st = x.st) ∧
    ((elapse n s).ctxs = s.ctxs ∨ (elapse n s).ctxs = mmap {} f s.ctxs) := by
  refine ⟨fun c x => { x with blocked := ctxBlocked s c }, fun _ _ => rfl, ?_⟩
  unfold elapse
  split
  · exact .inl rfl
  · exact .inr rfl

theorem getCtx_elapse_st {s : State} (hm : MapsOk s) (n c : Nat) : (getCtx (elapse n s) c).st = (getCtx s c).st := by
  obtain ⟨_, hctxs, _⟩ := hm
  obtain ⟨f, hf, h | h⟩ := elapse_ctxs n s
  · rw [getCtx, h, getCtx]
  · rw [getCtx, h]
    exact mget_mmap_keep Ctx.st hf s.ctxs hctxs c

theorem anyResident_elapse {s : State} (hm : MapsOk s) (n : Nat) : anyResident (elapse n s) = anyResident s := by
  unfold anyResident
  exact congrArg (List.any _) (funext fun c => by rw [resident, getCtx_elapse_st hm, resident])

theorem advanceTo_future {s : State} {t : Nat} (h : s.halyard < t) : advanceTo s t = elapse (t - s.halyard) s := if_pos h

theorem elapse_hst (n : Nat) (s : State) : (elapse n s).hst = s.hst := by rw [elapse_eq]

theorem exec_commitCount_of {s : State} (hf : frozen s = false) : exec .commitCount s = .next (commitCount s) :=
  congrArg Host.Outcome.next (if_neg (by simp [hf]))

section
variable {s : State} (h : s.halyard < s.hst.commitCount.toNat)
include h

theorem commitCount_late (hst : s.hst.st = .arming) :
    commitCount s = refuse (elapse (s.hst.commitCount.toNat - s.halyard) s) 0x0B := by
  unfold commitCount
  simp only [hst, advanceTo_future h]

theorem commitCount_full (hm : MapsOk s) (hst : s.hst.st = .armed) (hk : s.hst.stagedKind = false) : commitCount s =
    let t := elapse (s.hst.commitCount.toNat - s.halyard) s;
    if anyResident s then refuse t 0x0C
    else setHst t (fun h => { h with st := .installing, committedAt := BitVec.toNat h.commitCount }) := by
  unfold commitCount
  simp only [hst, advanceTo_future h, elapse_hst, hk, anyResident_elapse hm, Bool.false_eq_true, if_false]

theorem halyard_reached : (elapse (s.hst.commitCount.toNat - s.halyard) s).halyard = s.hst.commitCount.toNat := by
  have := s.hst.commitCount.isLt
  rw [elapse_halyard, Nat.add_sub_cancel' h.le, Nat.mod_eq_of_lt this]
end

/-- Settles O18: each end of the loader's work by the branch it takes; a staged image is read by accesses of Bench 1, which
change neither the loader nor the tables. -/
theorem loaderCompletions : Obligations.LoaderCompletions := by
  unfold Obligations.LoaderCompletions
  intro s hf hn hmaps
  have hm := stagedImage_memAccess s
  refine ⟨fun hst => ?_, fun hst => ?_, fun hst hk hc => ?_, fun hst hc => ?_⟩
  · by_cases he : imageErr (stagedImage s).2 (stagedImage s).1 = 0
    · have hb := bcastValidated_bcastOnly (setHst (checkedImage s) (fun h => { h with st := .valid, err := 0 })) true 0
      refine ⟨_, exec_validationComplete_of hf hn (validationComplete_valid hst he)
        (((checkedImage_held s).trans (setHst_held ..)).trans hb.held), ?_, ?_, ?_, ?_⟩
      · rw [hb.hst, if_pos he]
        rfl
      · rw [hb.hst, he]
        rfl
      · rw [hb.hst]
        rfl
      · exact hb.tab.trans hm.tab
    · have hb := bcastValidated_bcastOnly (refuse (checkedImage s) (imageErr (stagedImage s).2 (stagedImage s).1)) false
        (BitVec.ofNat 8 (imageErr (stagedImage s).2 (stagedImage s).1))
      refine ⟨_, exec_validationComplete_of hf hn (validationComplete_refused hst rfl he)
        (((checkedImage_held s).trans (refuse_held ..)).trans hb.held), ?_, ?_, ?_, ?_⟩
      · rw [hb.hst, refuse_hst, if_neg he]
      · rw [hb.hst, refuse_hst]
      · rw [hb.hst, refuse_hst]
        rfl
      · exact (hb.tab.trans (refuse_tab ..)).trans hm.tab
  · refine ⟨_, exec_shadowCopyDone_of hf hn (shadowCopyDone_eq hst) (hm.held.trans (.of_drg rfl)), hm.tab, ?_⟩
    rw [hm.node]
    simp only [setHst, hm.hst]
  · rw [exec_commitCount_of hf, commitCount_full hc hmaps hst hk]
    refine ⟨_, rfl, ?_⟩
    dsimp only
    split
    · exact ⟨(refuse_halyard ..).trans (halyard_reached hc), (refuse_tab ..).trans (elapse_tab ..), by rw [refuse_hst],
        fun _ => by rw [refuse_hst]; rfl⟩
    · rename_i hr
      exact ⟨halyard_reached hc, elapse_tab .., rfl, fun h => absurd h hr⟩
  · rw [exec_commitCount_of hf, commitCount_late hc hst]
    exact ⟨_, rfl, by rw [refuse_hst, elapse_hst]; rfl⟩

end Sys2Proof.Machine


/-! ### INSTALL_COMPLETE -/

namespace Sys2Proof.Machine

open Sys2Proof

/-- One context as a full commit leaves it: declared where the image has its record. -/
def commitCtx (s : State) (c : Nat) : State :=
  let x := getCtx s c
  let s := match ctxRec s c with
    | some r => setCtx s c { x with st := .declared, lc := r.lc, part := BitVec.ofNat 4 r.part, blocked := false, bind := [],
                                    stepOn := false, ending := false, settling := false, settleByCmd := false }
    | none => setCtx s c { x with st := .absent, lc := false, part := 0, blocked := false, bind := [], stepOn := false,
                                  ending := false, settling := false, settleByCmd := false }
  frameZero (digestClear s c) c

theorem commitCtxs_eq (s : State) : commitCtxs s = { (List.range 16).foldl commitCtx s with saved := [] } := rfl

/-- `t` is `s` but for the contexts, their digests and the bytes of Bench 1. -/
def CtxsOnly (s t : State) : Prop := t = { s with ctxs := t.ctxs, dbg := t.dbg, bench1 := t.bench1, chk := t.chk }

theorem CtxsOnly.trans {s t u : State} (h₁ : CtxsOnly s t) (h₂ : CtxsOnly t u) : CtxsOnly s u := by
  unfold CtxsOnly at *
  rw [h₂, h₁]

theorem commitCtx_ctxsOnly (s : State) (c : Nat) : CtxsOnly s (commitCtx s c) := by
  unfold commitCtx
  dsimp only
  split <;> rfl

theorem commitCtxsFold_ctxsOnly (l : List Nat) (s : State) : CtxsOnly s (l.foldl commitCtx s) :=
  foldl_rel (R := CtxsOnly) (fun _ => rfl) .trans commitCtx_ctxsOnly l s

/-- The state of a context after a full commit of the tables in force. -/
def committedSt (s : State) (c : Nat) : CState := if (ctxRec s c).isSome then .declared else .absent

theorem getCtx_commitCtx (s : State) (c j : Nat) :
    (getCtx (commitCtx s c) j).st = if j = c then committedSt s c else (getCtx s j).st := by
  have hz : ∀ (u : State) (x : Ctx), (getCtx (frameZero (digestClear (setCtx u c x) c) c) j).st =
      if j = c then x.st else (getCtx u j).st := by
    intro u x
    change (mget {} (mput {} (mput {} u.ctxs c x) c _) j).st = _
    rw [mget_mput, mget_mput]
    split
    · exact (congrArg Ctx.st (getCtx_setCtx_same (s := u) c x) : (getCtx (setCtx u c x) c).st = x.st)
    · rfl
  unfold commitCtx committedSt
  cases hr : ctxRec s c with
  | none => exact hz ..
  | some r => exact hz ..

theorem CtxsOnly.committedSt {s t : State} (h : CtxsOnly s t) (c : Nat) : committedSt t c = committedSt s c := by
  unfold Machine.committedSt ctxRec
  rw [h]

theorem getCtx_commitCtxsFold (l : List Nat) (s : State) (j : Nat) :
    (getCtx (l.foldl commitCtx s) j).st = if j ∈ l then committedSt s j else (getCtx s j).st := by
  induction l generalizing s with
  | nil => rfl
  | cons c l ih =>
    rw [List.foldl_cons, ih, (commitCtx_ctxsOnly s c).committedSt, getCtx_commitCtx]
    by_cases hl : j ∈ l
    · simp [hl]
    · by_cases hc : j = c
      · simp [hc]
      · simp [hl, hc]

/-! #### What the later parts of a commit keep -/

/-- `t` keeps of `s` what a commit has set by the time the tables of the units follow. -/
structure CommitKeeps (s t : State) : Prop where
  hst : t.hst = s.hst
  tab : t.tab = s.tab
  cores : t.cores = s.cores
  saved : t.saved = s.saved
  ctxs : t.ctxs = s.ctxs
  syn : t.syn = s.syn
  held : HeldKept s t

theorem CommitKeeps.trans {s t u : State} (h₁ : CommitKeeps s t) (h₂ : CommitKeeps t u) : CommitKeeps s u :=
  ⟨h₂.hst.trans h₁.hst, h₂.tab.trans h₁.tab, h₂.cores.trans h₁.cores, h₂.saved.trans h₁.saved, h₂.ctxs.trans h₁.ctxs,
    h₂.syn.trans h₁.syn, h₁.held.trans h₂.held⟩

theorem CommitKeeps.refl (s : State) : CommitKeeps s s := ⟨rfl, rfl, rfl, rfl, rfl, rfl, .refl s⟩

theorem SendOnly.commitKeeps {s t : State} (h : SendOnly s t) : CommitKeeps s t := by
  rw [h]
  exact ⟨rfl, rfl, rfl, rfl, rfl, rfl, .of_drg rfl⟩

theorem tirCommit_keeps (s : State) : CommitKeeps s (tirCommit s) := ⟨rfl, rfl, rfl, rfl, rfl, rfl, .of_drg rfl⟩

theorem commitRiddle_keeps (s : State) : CommitKeeps s (commitRiddle s) := ⟨rfl, rfl, rfl, rfl, rfl, rfl, .of_drg rfl⟩

theorem reloadBucket_sendOnly (s : State) (p l : Nat) : SendOnly s (reloadBucket s p l) := by
  unfold reloadBucket
  dsimp only
  split
  · exact setBucket_sendOnly ..
  · refine (setBucket_sendOnly s p l _).trans (foldl_rel (R := SendOnly) (fun _ => rfl) .trans (fun s t => ?_) _ _)
    split
    · exact (passBuckets_passOnly ..).1
    · rfl

theorem reloadBuckets_sendOnly (s : State) : SendOnly s (reloadBuckets s) :=
  foldl_rel (R := SendOnly) (fun _ => rfl) .trans (fun s i => reloadBucket_sendOnly s (i / 5) (i % 5)) _ s

theorem fillBuckets_keeps (s : State) : CommitKeeps s (fillBuckets s) := by
  refine CommitKeeps.trans ?_ (reloadBuckets_sendOnly _).commitKeeps
  exact ⟨rfl, rfl, rfl, rfl, rfl, rfl, .of_drg rfl⟩

theorem commitFabric_keeps (s : State) : CommitKeeps s (commitFabric s) := ⟨rfl, rfl, rfl, rfl, rfl, rfl, .of_drg rfl⟩

theorem commitTicks_keeps (s : State) : CommitKeeps s (commitTicks s) ∧ (commitTicks s).fab = s.fab := by
  unfold commitTicks
  dsimp only
  split <;> exact ⟨⟨rfl, rfl, rfl, rfl, rfl, rfl, .of_drg rfl⟩, rfl⟩

theorem agreedLaunch_none {s : State} (h : s.syn.armPending = none) (id : Nat) : agreedLaunch s id = s := by
  unfold agreedLaunch
  rw [h]

/-! #### The parts put together -/

/-- The cores and engines freed and the new tables in force: the state that the units' own tables start from. -/
def commitBase (s : State) : State := commitEngines (commitCtxs { releaseAll s with tab := parseFull (node (releaseAll s)) s.hst.image })

/-- The units' own tables after it. -/
def commitUnits (s : State) : State := commitTicks (commitFabric (fillBuckets (commitRiddle (tirCommit s))))

/-- The loader and the image's measurement at the end. -/
def commitLoader (s : State) (img : List Byte) : State :=
  measSet (measStart (setHst s (fun h => { h with
    st := .committed, activeId := BitVec.ofNat 64 (imgHdr img).id, activeLevel := 1, reloadId := 0 })) 4 (shake256 img 64)) 5
    (List.replicate 64 0)

theorem installComplete_eq {s : State} (hst : s.hst.st = .installing) : installComplete s =
    let img := (stagedImage s).2.hst.image
    let t := commitLoader (commitUnits (commitBase (stagedImage s).2)) img
    agreedLaunch (imageEvent t (imgHdr img).id false t.hst.err.toNat true) (imgHdr img).id := by
  unfold installComplete
  rw [if_neg (not_not.mpr hst)]
  generalize stagedImage s = p
  obtain ⟨d, u⟩ := p
  dsimp only [commitLoader, commitUnits, commitBase]

theorem releaseAll_facesOnly (s : State) : FacesOnly s (releaseAll s) := by
  refine foldl_rel (R := FacesOnly) (fun _ => rfl) .trans (fun s u => ?_) _ s
  unfold idleAtCommit
  dsimp only
  split <;> rfl

section
variable {s : State}

theorem commitEngines_keeps (s : State) : (commitEngines s).hst = s.hst ∧ (commitEngines s).syn = s.syn ∧
    (commitEngines s).tab = s.tab ∧ (commitEngines s).cores = [] ∧ (commitEngines s).saved = s.saved ∧
    (commitEngines s).drg = s.drg ∧ (commitEngines s).ctxs = s.ctxs := ⟨rfl, rfl, rfl, rfl, rfl, rfl, rfl⟩

theorem commitCtxs_keeps (s : State) : (commitCtxs s).hst = s.hst ∧ (commitCtxs s).syn = s.syn ∧
    (commitCtxs s).tab = s.tab ∧ (commitCtxs s).saved = [] ∧ (commitCtxs s).drg = s.drg ∧
    ∀ c < 16, (getCtx (commitCtxs s) c).st = committedSt s c := by
  have hc := commitCtxsFold_ctxsOnly (List.range 16) s
  have hx := getCtx_commitCtxsFold (List.range 16) s
  rw [commitCtxs_eq]
  generalize (List.range 16).foldl commitCtx s = u at hc hx ⊢
  refine ⟨by rw [hc], by rw [hc], by rw [hc], rfl, by rw [hc], fun c h => ?_⟩
  exact (hx c).trans (if_pos (List.mem_range.mpr h))

theorem commitBase_keeps (s : State) : (commitBase s).hst = s.hst ∧ (commitBase s).syn = s.syn ∧
    (commitBase s).tab = parseFull (node s) s.hst.image ∧ (commitBase s).cores = [] ∧ (commitBase s).saved = [] ∧
    (commitBase s).drg = s.drg ∧ ∀ c < 16, (getCtx (commitBase s) c).st =
      if (parseFull (node s) s.hst.image).ctxs.any (fun r => r.ctx = c) then .declared else .absent := by
  have hr := releaseAll_facesOnly s
  unfold commitBase
  generalize releaseAll s = u at hr ⊢
  rw [node_congr (s := s) (t := u) (by rw [hr])]
  obtain ⟨h₁, h₂, h₃, h₄, h₅, h₆⟩ := commitCtxs_keeps { u with tab := parseFull (node s) s.hst.image }
  obtain ⟨e₁, e₂, e₃, e₄, e₅, e₆, e₇⟩ := commitEngines_keeps (commitCtxs { u with tab := parseFull (node s) s.hst.image })
  have hh : u.hst = s.hst := by rw [hr]
  have hs : u.syn = s.syn := by rw [hr]
  have hd : u.drg = s.drg := by rw [hr]
  refine ⟨e₁.trans (h₁.trans hh), e₂.trans (h₂.trans hs), e₃.trans h₃, e₄, e₅.trans h₄, e₆.trans (h₅.trans hd), fun c hc => ?_⟩
  have h := h₆ c hc
  rw [committedSt, ctxRec, List.isSome_find?] at h
  rw [← h, getCtx, e₇, getCtx]

theorem commitUnits_keeps (s : State) : CommitKeeps s (commitUnits s) :=
  ((((tirCommit_keeps s).trans (commitRiddle_keeps _)).trans (fillBuckets_keeps _)).trans (commitFabric_keeps _)).trans
    (commitTicks_keeps _).1

theorem commitUnits_fab (s : State) : (commitUnits s).fab.table = [] ∧ (commitUnits s).fab.held = [] ∧
    (commitUnits s).fab.session = BitVec.ofNat 64 s.hst.committedAt := by
  have hk := ((tirCommit_keeps s).trans (commitRiddle_keeps _)).trans (fillBuckets_keeps _)
  unfold commitUnits
  rw [(commitTicks_keeps _).2, commitFabric, hk.hst]
  exact ⟨rfl, rfl, rfl⟩

theorem exec_installComplete_of {t : State} (hf : frozen s = false) (hn : NoHeldLines s) (h : installComplete s = t)
    (ht : HeldKept s t) : exec .installComplete s = .next t :=
  congrArg Host.Outcome.next ((if_neg (by simp [hf])).trans (by rw [h]; exact ht.guarded hn))
end

theorem commitLoader_keeps (s : State) (img : List Byte) : (commitLoader s img).hst = { s.hst with
      st := .committed, activeId := BitVec.ofNat 64 (imgHdr img).id, activeLevel := 1, reloadId := 0 } ∧
    ∃ a, commitLoader s img = { s with hst := (commitLoader s img).hst, aon := a } := by
  unfold commitLoader
  generalize List.replicate 64 (0 : Byte) = z
  generalize shake256 img 64 = v
  exact ⟨rfl, _, rfl⟩

/-- Settles O19: the tables, the cores and the contexts are set before the units' own tables, which keep them. -/
theorem installReplacesEverything : Obligations.InstallReplacesEverything := by
  unfold Obligations.InstallReplacesEverything
  intro s hf hn hst harm
  have hm := stagedImage_memAccess s
  have hs := installComplete_eq hst
  dsimp only at hs ⊢
  rw [hm.hst] at hs
  generalize stagedImage s = p at hm hs
  obtain ⟨hhst, hsyn, htab, hcores, hsaved, hdrg, hctx⟩ := commitBase_keeps p.2
  rw [hm.node, hm.hst] at htab hctx
  have hsyn' : p.2.syn.armPending = s.syn.armPending := by rw [hm.only]
  generalize commitBase p.2 = b at *
  have hk := commitUnits_keeps b
  obtain ⟨htbl, hhd, hses⟩ := commitUnits_fab b
  generalize commitUnits b = u at *
  obtain ⟨hl, a, hl'⟩ := commitLoader_keeps u s.hst.image
  generalize commitLoader u s.hst.image = v at *
  have hev := imageEvent_eventOnly v (imgHdr s.hst.image).id false v.hst.err.toNat true
  have hevh := imageEvent_held v (imgHdr s.hst.image).id false v.hst.err.toNat true
  generalize imageEvent v (imgHdr s.hst.image).id false v.hst.err.toNat true = t at *
  have harm' : t.syn.armPending = none := by rw [hev, hl', hk.syn, hsyn, hsyn', harm]
  rw [agreedLaunch_none harm'] at hs
  have hheld : HeldKept s t :=
    (hm.held.trans (.of_drg hdrg)).trans ((hk.held.trans (.of_drg (by rw [hl']))).trans hevh)
  refine ⟨t, exec_installComplete_of hf hn hs hheld, ?_, ?_, ?_, ?_, ?_, ?_, ?_, fun c => ?_⟩
  · rw [hev, hl, hk.hst, hhst, hm.hst]
  · rw [hev, hl', hk.tab, htab]
  · rw [hev, hl', hk.cores, hcores]
  · rw [hev, hl', hk.saved, hsaved]
  · rw [hev, hl', htbl]
  · rw [hev, hl', hhd]
  · rw [hev, hl', hses, hhst, hm.hst]
  · refine Eq.trans ?_ (hctx c.val c.isLt)
    rw [hev, hl']
    exact congrArg (fun m : SMap Ctx => (mget {} m c.val).st) hk.ctxs

end Sys2Proof.Machine


/-! ### The Dip -/

namespace Sys2Proof.Machine

open Sys2Proof

/-- A map built in order over distinct keys reads, at a key of the order, as what was built for it. -/
theorem mget_filterMap {α : Type} (d : α) {g : Nat → Option (Nat × α)} (hg : ∀ u e, g u = some e → e.1 = u) {l : List Nat}
    (hl : l.Nodup) (u : Nat) : mget d (l.filterMap g) u = if u ∈ l then ((g u).map (·.2)).getD d else d := by
  induction l with
  | nil => rfl
  | cons v l ih =>
    obtain ⟨hv, hl⟩ := List.nodup_cons.mp hl
    have ih := ih hl
    by_cases hu : u = v
    · subst hu
      rw [if_neg hv] at ih
      cases h : g u with
      | none => simp [h, ih]
      | some e =>
        obtain ⟨i, w⟩ := e
        obtain rfl : i = u := hg u _ h
        simp [h, mget_cons]
    · cases h : g v with
      | none => simp [h, ih, hu]
      | some e =>
        obtain ⟨i, w⟩ := e
        obtain rfl : i = v := hg v _ h
        simp [h, mget_cons, ih, hu, Ne.symm hu]

/-- The face that the Dip's stop writes for a unit. -/
def dipEntry (s : State) (u : Nat) : Option (Nat × Face) :=
  if unitPresent s u then some (u, dipFace u (getFace s u)) else if getFace s u = {} then none else some (u, getFace s u)

theorem dipEntry_key (s : State) (u : Nat) (e : Nat × Face) (h : dipEntry s u = some e) : e.1 = u := by
  unfold dipEntry at h
  split at h
  · cases h
    rfl
  · split at h
    · cases h
    · cases h
      rfl

theorem getFace_dipStop (s : State) {u : Nat} (hu : u < 584) (hp : unitPresent s u = true) :
    getFace (dipStop s) u = dipFace u (getFace s u) := by
  have hmem : u ∈ List.range 584 := List.mem_range.mpr hu
  have hnd : (List.range 584).Nodup := List.nodup_range
  unfold dipStop
  generalize List.range 584 = l at hmem hnd ⊢
  have h := mget_filterMap {} (dipEntry_key s) hnd u
  rw [if_pos hmem, dipEntry, if_pos hp] at h
  exact h

theorem dipStop_facesOnly (s : State) : FacesOnly s (dipStop s) := by
  unfold dipStop
  generalize List.range 584 = l
  rfl

theorem advanceNs_past {s : State} {t : Nat} (h : t ≤ s.ns) : advanceNs s t = s := if_neg (Nat.not_lt.mpr h)

theorem elapse_syn (n : Nat) (s : State) : (elapse n s).syn = s.syn := by rw [elapse_eq]

theorem advanceTo_syn (s : State) (t : Nat) : (advanceTo s t).syn = s.syn := by
  unfold advanceTo
  split
  · exact elapse_syn ..
  · rfl

theorem advanceTo_halyard {s : State} {t : Nat} (h : s.halyard ≤ t) (ht : t < 2 ^ 64) : (advanceTo s t).halyard = t := by
  unfold advanceTo
  split
  · rw [elapse_halyard]
    omega
  · omega

theorem synDipAt_running {s : State} (ha : s.syn.atArmed = true) (hd : s.syn.dipSt = .running) : synDipAt s =
    setSyn (setSyn (advanceTo s s.syn.dipAt.toNat) (fun y => { y with atArmed := false }))
      (fun y => { y with dipSt := .pending, dipSrc := 3, dipCutNs := (advanceTo s s.syn.dipAt.toNat).ns }) := by
  unfold synDipAt
  rw [if_pos ha]
  have hs := advanceTo_syn s s.syn.dipAt.toNat
  exact if_pos ((congrArg Syn.dipSt hs).trans hd)

theorem synDipAt_busy {s : State} (ha : s.syn.atArmed = true) (hd : s.syn.dipSt ≠ .running) : synDipAt s =
    setSyn (setSyn (advanceTo s s.syn.dipAt.toNat) (fun y => { y with atArmed := false }))
      (fun y => { y with dipIgnored := inc32 y.dipIgnored 1 }) := by
  unfold synDipAt
  rw [if_pos ha]
  have hs := advanceTo_syn s s.syn.dipAt.toNat
  exact if_neg (fun h => hd ((congrArg Syn.dipSt hs).symm.trans h))

/-- The block frozen at the cut, its units stopped already. -/
def frozenAt (s : State) (h : Nat) : State :=
  let t := setSyn s (fun y => { y with dipSt := .dipped, dipCount := BitVec.ofNat 64 h })
  { t with adits := mmap {} (fun _ a => { a with capture := [], afterCut := [] }) t.adits }

theorem dipCut_now {s : State} (hd : s.syn.dipSt = .pending) (hn : s.syn.dipCutNs ≤ s.ns) :
    dipCut s = post (frozenAt (dipStop s) s.halyard) evDip none (dipStop s).syn.dipSrc.toNat (dipStop s).halyard := by
  unfold dipCut
  rw [if_pos hd]
  dsimp only
  rw [advanceNs_past hn]
  generalize dipStop s = d
  rfl

theorem exec_synDipAt_of {s : State} (h : mainUp s = true) : exec .synDipAt s = .next (synDipAt s) :=
  congrArg Host.Outcome.next (if_pos h)

theorem exec_dipCut_of {s : State} (h : mainUp s = true) : exec .dipCut s = .next (dipCut s) :=
  congrArg Host.Outcome.next (if_pos h)

/-- Settles O45: a request by its two branches; the cut writes every face that is present, and the event changes none. -/
theorem dipCuts : Obligations.DipCuts := by
  unfold Obligations.DipCuts
  intro s b hm
  dsimp only
  refine ⟨congrArg _ (if_pos hm), congrArg _ (if_pos hm), fun ha => ?_, fun ha hc => ?_, fun hd => ?_, fun hd hn _ => ?_⟩
  · rw [exec_synDipAt_of hm, synDipAt, ha]
    rfl
  · rw [exec_synDipAt_of hm]
    have hh := advanceTo_halyard hc s.syn.dipAt.isLt
    have hs := advanceTo_syn s s.syn.dipAt.toNat
    by_cases hd : s.syn.dipSt = .running
    · rw [synDipAt_running ha hd]
      exact ⟨_, rfl, hh, rfl, fun _ => ⟨rfl, rfl, rfl⟩, fun h => absurd hd h⟩
    · rw [synDipAt_busy ha hd]
      exact ⟨_, rfl, hh, rfl, fun h => absurd h hd, fun _ => ⟨(congrArg Syn.dipSt hs :), (congrArg (fun y => inc32 y.dipIgnored 1) hs :)⟩⟩
  · rw [exec_dipCut_of hm, dipCut, if_neg hd]
  · rw [exec_dipCut_of hm, dipCut_now hd hn]
    have hns : (dipStop s).ns = s.ns := by rw [dipStop_facesOnly s]
    have hf : ∀ u, u < 584 → (u < 512 → coreEnabled s u = true) → getFace (dipStop s) u = dipFace u (getFace s u) := by
      intro u hu hp
      refine getFace_dipStop s hu ?_
      by_cases h : 512 ≤ u
      · simp [unitPresent, h]
      · simp [unitPresent, hp (Nat.lt_of_not_le h)]
    refine ⟨_, rfl, ?_⟩
    rw [post_eventOnly]
    generalize dipStop s = d at hns hf ⊢
    refine ⟨rfl, rfl, hns, fun u hu hp => ?_⟩
    change (getFace d u).stopIn = true ∧ (getFace d u).stopSrc = 2 ∧ (getFace d u).st = _ ∧ mget 0 (getFace d u).cnt 3 = _
    rw [hf u hu hp]
    exact ⟨rfl, rfl, rfl, mget_mput_same ..⟩

end Sys2Proof.Machine


/-! ### The Halyard -/

namespace Sys2Proof.Machine

open Sys2Proof

/-- The synchronisation block as the Halyard moves to state `h`. -/
def halSyn (s : State) (h : HalState) : Syn :=
  { s.syn with
    st := h
    lockLosses := if s.syn.st = .locked then inc32 s.syn.lockLosses 1 else s.syn.lockLosses
    everLocked := s.syn.everLocked || h = .locked
    holdAt := if h = .holdover then s.halyard else s.syn.holdAt
    frames := if h = .acquiring then 0 else s.syn.frames }

theorem stageReady_pwrOnly (s : State) : stageReady s = { s with pwr := { s.pwr with stage :=
    (if s.pwr.stage = Stage.sync ∧ locked s = true then Stage.ready else s.pwr.stage) } } := by
  unfold stageReady
  by_cases h : s.pwr.stage = .sync ∧ locked s = true
  · simp [h]
  · rw [if_neg (by simpa using h), if_neg h]

theorem refuse_eq (s : State) (e : Nat) : ∃ t, refuse s e = t ∧
    t = { s with syn := { s.syn with armPending := none }
                 hst := { s.hst with st := .refused, err := BitVec.ofNat 8 e, shadow := none }
                 drg := t.drg, evt := t.evt, aon := t.aon } := by
  refine ⟨_, rfl, ?_⟩
  unfold refuse
  rw [imageEvent_eventOnly]
  rfl

/-- A state before a lost lock is looked at: the Halyard's own part of a move. -/
theorem halSet_moves {s : State} {h : HalState} (hne : s.syn.st ≠ h) : ∃ u, u = { s with
      syn := halSyn s h
      pwr := { s.pwr with stage := u.pwr.stage }
      drg := u.drg
      evt := u.evt
      aon := u.aon } ∧ halSet s h = (if locked u then u else loaderUnlock u) ∧
    (s.pwr.stage = .sync → locked u = true → u.pwr.stage = .ready) := by
  refine ⟨stageReady (post (setSyn s (fun _ => halSyn s h)) evHalyard none (halNum h) 0), ?_, if_neg hne, ?_⟩
  · rw [stageReady_pwrOnly, post_eventOnly]
    rfl
  · rw [stageReady_pwrOnly]
    intro hs hl
    have hp : (post (setSyn s (fun _ => halSyn s h)) evHalyard none (halNum h) 0).pwr.stage = .sync := by
      rw [post_eventOnly]
      exact hs
    exact if_pos ⟨hp, hl⟩

/-- A lost lock that meets an armed commit whose count has not come. -/
def lostLock (s : State) : Prop :=
  (s.hst.st = .arming ∨ s.hst.st = .armed) ∧ s.halyard < s.hst.commitCount.toNat

theorem loaderUnlock_lost {s : State} (h : lostLock s) : loaderUnlock s = refuse s 0x0A :=
  if_pos (by simpa [lostLock] using h)

theorem loaderUnlock_kept {s : State} (h : ¬ lostLock s) : loaderUnlock s = s :=
  if_neg (by simpa [lostLock] using h)

theorem loaderUnlock_syn (s : State) : ∃ a, (loaderUnlock s).syn = { s.syn with armPending := a } := by
  by_cases h : lostLock s
  · obtain ⟨t, ht, hs⟩ := refuse_eq s 0x0A
    rw [loaderUnlock_lost h, ht, hs]
    exact ⟨_, rfl⟩
  · rw [loaderUnlock_kept h]
    exact ⟨_, rfl⟩

theorem halSet_syn {s : State} {h : HalState} (hne : s.syn.st ≠ h) : ∃ a, (halSet s h).syn = { halSyn s h with armPending := a } := by
  obtain ⟨u, hu, he, _⟩ := halSet_moves hne
  have hs : u.syn = halSyn s h := by rw [hu]
  rw [he]
  split
  · exact ⟨_, by rw [hs]⟩
  · obtain ⟨a, ha⟩ := loaderUnlock_syn u
    exact ⟨a, by rw [ha, hs]⟩

theorem halSet_st (s : State) (h : HalState) : (halSet s h).syn.st = h := by
  by_cases hne : s.syn.st = h
  · rw [halSet, if_pos hne, hne]
  · obtain ⟨a, ha⟩ := halSet_syn hne
    rw [ha]
    rfl

theorem halSet_parent (s : State) (h : HalState) : (halSet s h).syn.root = s.syn.root ∧
    (halSet s h).syn.parentAdit = s.syn.parentAdit ∧ (halSet s h).syn.parentEn = s.syn.parentEn := by
  by_cases hne : s.syn.st = h
  · rw [halSet, if_pos hne]
    exact ⟨rfl, rfl, rfl⟩
  · obtain ⟨a, ha⟩ := halSet_syn hne
    rw [ha]
    exact ⟨rfl, rfl, rfl⟩

theorem halCheck_root {s : State} (h : s.syn.root = true) : halCheck s = s := if_pos h

/-- The check of the parent changes nothing, or moves the Halyard. -/
theorem halCheck_cases (s : State) : halCheck s = s ∨ ∃ h, halCheck s = halSet s h := by
  unfold halCheck
  split
  · exact .inl rfl
  · split <;> split
    · exact .inr ⟨_, rfl⟩
    · exact .inl rfl
    · exact .inl rfl
    · exact .inr ⟨_, rfl⟩
    · exact .inl rfl
    · exact .inr ⟨_, rfl⟩
    · exact .inr ⟨_, rfl⟩
    · exact .inl rfl

theorem halCheck_parent (s : State) : (halCheck s).syn.root = s.syn.root ∧
    (halCheck s).syn.parentAdit = s.syn.parentAdit ∧ (halCheck s).syn.parentEn = s.syn.parentEn := by
  obtain h | ⟨st, h⟩ := halCheck_cases s
  · rw [h]
    exact ⟨rfl, rfl, rfl⟩
  · rw [h]
    exact halSet_parent s st

/-- What the parent makes of a state that does not hold the lock. -/
theorem halCheck_st {s : State} (hr : s.syn.root = false) (hl : s.syn.st ≠ .locked) : (halCheck s).syn.st =
    if parentUp s then .acquiring else if s.syn.st = .acquiring then .free else s.syn.st := by
  unfold halCheck
  rw [if_neg (by simp [hr])]
  cases hst : s.syn.st with
  | locked => exact absurd hst hl
  | free => by_cases hp : parentUp s = true <;> simp [hp, hst, halSet_st]
  | acquiring => by_cases hp : parentUp s = true <;> simp [hp, hst, halSet_st]
  | holdover => by_cases hp : parentUp s = true <;> simp [hp, hst, halSet_st]

/-! #### The commands -/

theorem exec_parentAdit_of {s : State} (h : mainUp s = true) (root en : Bool) (a : BitVec 5) :
    exec (.parentAdit root a en) s = .next (parentWrite s root a en) := congrArg Host.Outcome.next (if_pos h)

theorem exec_holdoverExpiry_of {s : State} (h : mainUp s = true) : exec .holdoverExpiry s = .next (holdoverExpiry s) :=
  congrArg Host.Outcome.next (if_pos h)

theorem exec_holdoverSlew_of {s : State} (h : mainUp s = true) (adv : Bool) :
    exec (.holdoverSlew adv) s = .next (holdoverSlew s adv) := congrArg Host.Outcome.next (if_pos h)

/-- The registers of the root and the parent as written. -/
def withParent (s : State) (root : Bool) (a : BitVec 5) (en : Bool) : State :=
  setSyn s (fun y => { y with root := root, parentAdit := a, parentEn := en })

theorem parentUp_iff (s : State) : parentUp s = true ↔ s.syn.parentEn = true ∧ s.syn.parentAdit.toNat < 24 ∧
    (getAdit s s.syn.parentAdit.toNat).st = .up ∧ (getAdit s s.syn.parentAdit.toNat).delayValid = true ∧
      (getAdit s s.syn.parentAdit.toNat).partnerTime = true := by
  simp [parentUp, and_assoc]

theorem parentUp_withParent (s : State) (root en : Bool) (a : BitVec 5) : parentUp (withParent s root a en) = true ↔
    en = true ∧ a.toNat < 24 ∧ (getAdit s a.toNat).st = .up ∧ (getAdit s a.toNat).delayValid = true ∧
      (getAdit s a.toNat).partnerTime = true := parentUp_iff (withParent s root a en)

theorem parentWrite_parent (s : State) (root en : Bool) (a : BitVec 5) : (parentWrite s root a en).syn.root = root ∧
    (parentWrite s root a en).syn.parentAdit = a ∧ (parentWrite s root a en).syn.parentEn = en := by
  have hs : ∀ h, (halSet (withParent s root a en) h).syn.root = root ∧ (halSet (withParent s root a en) h).syn.parentAdit = a ∧
      (halSet (withParent s root a en) h).syn.parentEn = en := halSet_parent _
  have hc : (halCheck (withParent s root a en)).syn.root = root ∧ (halCheck (withParent s root a en)).syn.parentAdit = a ∧
      (halCheck (withParent s root a en)).syn.parentEn = en := halCheck_parent _
  unfold parentWrite
  dsimp only
  split
  · split
    · exact hs _
    · exact hc
  · exact hc
  · split
    · exact ⟨rfl, rfl, rfl⟩
    · split <;> exact hs _
  · exact hc

section
variable {s : State} {root en : Bool} {a : BitVec 5}

theorem parentWrite_free (h : s.syn.st = .free) :
    parentWrite s root a en = if root then halSet (withParent s root a en) .locked else halCheck (withParent s root a en) := by
  unfold parentWrite
  dsimp only
  rw [h]
  rfl

theorem parentWrite_acquiring (h : s.syn.st = .acquiring) : parentWrite s root a en = halCheck (withParent s root a en) := by
  unfold parentWrite
  dsimp only
  rw [h]
  rfl

theorem parentWrite_holdover (h : s.syn.st = .holdover) : parentWrite s root a en = halCheck (withParent s root a en) := by
  unfold parentWrite
  dsimp only
  rw [h]
  rfl

theorem parentWrite_locked (h : s.syn.st = .locked) : parentWrite s root a en =
    if root then withParent s root a en
    else if s.syn.root then halSet (withParent s root a en) .holdover else halSet (withParent s root a en) .acquiring := by
  unfold parentWrite
  dsimp only
  rw [h]
  rfl
end

theorem loaderUnlock_halyard (s : State) : (loaderUnlock s).halyard = s.halyard := by
  unfold loaderUnlock
  split
  · exact refuse_halyard ..
  · rfl

theorem halSet_halyard (s : State) (h : HalState) : (halSet s h).halyard = s.halyard := by
  by_cases hne : s.syn.st = h
  · rw [halSet, if_pos hne]
  · obtain ⟨u, hu, he, _⟩ := halSet_moves hne
    have hh : u.halyard = s.halyard := by rw [hu]
    rw [he]
    split
    · exact hh
    · exact (loaderUnlock_halyard u).trans hh

/-- The loader that waits for no commit keeps its state. -/
theorem halSet_hst {s : State} (hn : s.hst.st ≠ .arming ∧ s.hst.st ≠ .armed) (h : HalState) : (halSet s h).hst = s.hst := by
  by_cases hne : s.syn.st = h
  · rw [halSet, if_pos hne]
  · obtain ⟨u, hu, he, _⟩ := halSet_moves hne
    have hh : u.hst = s.hst := by rw [hu]
    rw [he]
    split
    · exact hh
    · rw [loaderUnlock_kept (fun hl => hl.1.elim (by rw [hh]; exact hn.1) (by rw [hh]; exact hn.2)), hh]

theorem halCheck_halyard (s : State) : (halCheck s).halyard = s.halyard := by
  obtain h | ⟨st, h⟩ := halCheck_cases s
  · rw [h]
  · rw [h, halSet_halyard]

theorem halCheck_hst {s : State} (hn : s.hst.st ≠ .arming ∧ s.hst.st ≠ .armed) : (halCheck s).hst = s.hst := by
  obtain h | ⟨st, h⟩ := halCheck_cases s
  · rw [h]
  · rw [h, halSet_hst hn]

/-- HOLDOVER ends in FREE: the lock is lost, and with it an armed commit whose count has not come. -/
theorem halSet_free_hst {s : State} (hst : s.syn.st = .holdover) (ha : s.hst.st = .armed)
    (hc : s.halyard < s.hst.commitCount.toNat) :
    (halSet s .free).hst = { s.hst with st := .refused, err := 0x0A, shadow := none } := by
  obtain ⟨u, hu, he, _⟩ := halSet_moves (s := s) (h := .free) (by rw [hst]; decide)
  have hl : locked u = false := by
    have hsyn : u.syn.st = .free := by rw [hu]; rfl
    simp [locked, hsyn]
  have hh : u.hst = s.hst := by rw [hu]
  have hy : u.halyard = s.halyard := by rw [hu]
  rw [he, if_neg (by simp [hl]), loaderUnlock_lost ⟨.inr (by rw [hh, ha]), by rw [hh, hy]; exact hc⟩, refuse_hst, hh]
  rfl

theorem holdoverExpiry_eq {s : State} (h : s.syn.st = .holdover) : holdoverExpiry s =
    let t := halSet (advanceTo s (s.syn.holdAt + 1000000)) .free
    if t.syn.root then halSet t .locked else halCheck t := if_pos h

/-- A slew whose time has come moves the clock by one ns and the count by two or not at all. -/
theorem holdoverSlew_now {s : State} {adv : Bool} (hst : s.syn.st = .holdover)
    (hr : (0 < holdRate s ∧ adv = true) ∨ (holdRate s < 0 ∧ adv = false))
    (hn : s.syn.lastSlew + 10000000 / (holdRate s).natAbs ≤ s.ns + 1) : holdoverSlew s adv = slew s adv := by
  unfold holdoverSlew
  rw [if_pos ⟨hst, hr⟩, advanceNs_past (by omega)]

theorem elapse_ns (n : Nat) (s : State) : (elapse n s).ns = s.ns + n := by rw [elapse_eq]

theorem slew_clock {s : State} (h : s.halyard + 2 < 2 ^ 64) (adv : Bool) : (slew s adv).ns = s.ns + 1 ∧
    (slew s adv).halyard = (if adv then s.halyard + 2 else s.halyard) ∧ (slew s adv).syn.slews = inc64 s.syn.slews 1 ∧
    (slew s adv).syn.lastSlew = (slew s adv).ns := by
  have hs := elapse_syn 1 s
  have hh := elapse_halyard 1 s
  have hns := elapse_ns 1 s
  unfold slew
  dsimp only
  generalize elapse 1 s = t at hs hh hns ⊢
  refine ⟨hns, ?_, ?_, rfl⟩
  · cases adv
    · simp only [setSyn, hh, Bool.false_eq_true, if_false]
      omega
    · simp only [setSyn, hh, if_true]
      omega
  · simp only [setSyn, hs]

/-- The end of HOLDOVER, at `c`. -/
theorem freed_of_holdover {s : State} {c : Nat} (h : s.syn.st = .holdover) (hle : s.halyard ≤ c) (hlt : c < 2 ^ 64) :
    let u := halSet (advanceTo s c) .free
    let t := if u.syn.root then halSet u .locked else halCheck u
    t.halyard = c ∧ (s.syn.root = true → t.syn.st = .locked) ∧
      (s.syn.root = false → s.syn.parentEn = false → t.syn.st = .free) ∧
      (s.hst.st = .armed → c < s.hst.commitCount.toNat → t.hst.st = .refused ∧ t.hst.err = 0x0A) := by
  have hs := advanceTo_syn s c
  have hh := advanceTo_halyard hle hlt
  have hhst : (advanceTo s c).hst = s.hst := by
    unfold advanceTo
    split
    · exact elapse_hst ..
    · rfl
  dsimp only
  generalize advanceTo s c = t at hs hh hhst ⊢
  have hst : t.syn.st = .holdover := by rw [hs, h]
  obtain ⟨hroot, _, hen⟩ := halSet_parent t .free
  have hfree := halSet_st t .free
  have hy := halSet_halyard t .free
  have hlost : s.hst.st = .armed → c < s.hst.commitCount.toNat →
      (halSet t .free).hst.st = .refused ∧ (halSet t .free).hst.err = 0x0A := fun ha hc => by
    rw [halSet_free_hst hst (by rw [hhst, ha]) (by rw [hhst, hh]; exact hc)]
    exact ⟨rfl, rfl⟩
  generalize halSet t .free = u at hroot hen hfree hy hlost ⊢
  rw [hs] at hroot hen
  refine ⟨?_, fun hr => ?_, fun hr hp => ?_, fun ha hc => ?_⟩
  · split
    · rw [halSet_halyard, hy, hh]
    · rw [halCheck_halyard, hy, hh]
  · rw [hroot, hr]
    exact halSet_st ..
  · rw [hroot, hr]
    refine (halCheck_st (by rw [hroot, hr]) (by rw [hfree]; decide)).trans ?_
    rw [if_neg (fun hup => by rw [parentUp_iff, hen, hp] at hup; exact absurd hup.1 (by decide)), hfree]
    rfl
  · obtain ⟨h₁, h₂⟩ := hlost ha hc
    have hn : u.hst.st ≠ .arming ∧ u.hst.st ≠ .armed := by rw [h₁]; exact ⟨by decide, by decide⟩
    split
    · rw [halSet_hst hn]
      exact ⟨h₁, h₂⟩
    · rw [halCheck_hst hn]
      exact ⟨h₁, h₂⟩

theorem holdoverExpiry_ends {s : State} {c : Nat} (h : s.syn.st = .holdover) (hc : s.syn.holdAt + 1000000 = c)
    (hle : s.halyard ≤ c) (hlt : c < 2 ^ 64) : (holdoverExpiry s).halyard = c ∧
      (s.syn.root = true → (holdoverExpiry s).syn.st = .locked) ∧
      (s.syn.root = false → s.syn.parentEn = false → (holdoverExpiry s).syn.st = .free) ∧
      (s.hst.st = .armed → c < s.hst.commitCount.toNat →
        (holdoverExpiry s).hst.st = .refused ∧ (holdoverExpiry s).hst.err = 0x0A) := by
  rw [holdoverExpiry_eq h, hc]
  exact freed_of_holdover h hle hlt

/-- Settles O44: a move of the Halyard sets the block's state and, where the lock is lost, refuses an armed commit. -/
theorem halyardStates : Obligations.HalyardStates := by
  unfold Obligations.HalyardStates
  intro s root en adv a hm _
  dsimp only
  refine ⟨?_, fun h => ?_, fun h hle hlt => ?_, fun h hr hlt hn => ?_⟩
  · obtain ⟨h₁, h₂, h₃⟩ := parentWrite_parent s root en a
    refine ⟨_, exec_parentAdit_of hm root en a, h₁, h₂, h₃, fun h hr => ?_, fun h hr => ?_, fun h hr => ?_, fun h hr => ?_,
      fun h hr' hr => ?_, fun h hr' hr => ?_, fun h hr => ?_⟩
    · have hne : (withParent s root a en).syn.st ≠ .locked := by rw [withParent, setSyn, h]; decide
      rw [parentWrite_free h, if_pos hr]
      obtain ⟨u, hu, he, hs⟩ := halSet_moves hne
      have hl : locked u = true := by
        have hsyn : u.syn.st = .locked := by rw [hu]; rfl
        simp [locked, hsyn]
      rw [he, if_pos hl]
      exact ⟨by rw [hu]; rfl, by rw [hu]; simp [halSyn], fun h => hs h hl⟩
    · rw [parentWrite_free h, hr, if_neg (by decide), halCheck_st rfl (by rw [withParent, setSyn, h]; decide)]
      simp only [parentUp_withParent]
      congr 1
      simp [withParent, setSyn, h]
    · subst hr
      rw [parentWrite_acquiring h, halCheck_st rfl (by rw [withParent, setSyn, h]; decide)]
      simp only [parentUp_withParent]
      congr 1
      simp [withParent, setSyn, h]
    · rw [parentWrite_locked h, if_pos hr]
      exact h
    · have hne : (withParent s root a en).syn.st ≠ .acquiring := by rw [withParent, setSyn, h]; decide
      rw [parentWrite_locked h, hr, hr', if_neg (by decide), if_neg (by decide)]
      rw [hr] at hne
      obtain ⟨x, hx⟩ := halSet_syn hne
      rw [hx]
      exact ⟨rfl, if_pos h, rfl⟩
    · have hne : (withParent s root a en).syn.st ≠ .holdover := by rw [withParent, setSyn, h]; decide
      rw [parentWrite_locked h, hr, hr', if_neg (by decide), if_pos rfl]
      rw [hr] at hne
      obtain ⟨x, hx⟩ := halSet_syn hne
      rw [hx]
      exact ⟨rfl, rfl, if_pos h⟩
    · subst hr
      rw [parentWrite_holdover h, halCheck_st rfl (by rw [withParent, setSyn, h]; decide)]
      simp only [parentUp_withParent]
      congr 1
      simp [withParent, setSyn, h]
  · rw [exec_holdoverExpiry_of hm, exec_holdoverSlew_of hm, holdoverExpiry, if_neg h, holdoverSlew, if_neg (fun h' => h h'.1)]
    exact ⟨rfl, rfl⟩
  · exact ⟨_, exec_holdoverExpiry_of hm, holdoverExpiry_ends h rfl hle hlt⟩
  · rw [exec_holdoverSlew_of hm, holdoverSlew_now h hr hn]
    obtain ⟨h₁, h₂, h₃, h₄⟩ := slew_clock hlt adv
    exact ⟨_, rfl, h₁, h₂, h₃, h₄⟩

end Sys2Proof.Machine


/-! ### The throttle and the ramp governor -/

namespace Sys2Proof.Machine

open Sys2Proof

theorem elapse_pwr (n : Nat) (s : State) : (elapse n s).pwr = s.pwr := by rw [elapse_eq]

theorem advanceTo_pwr (s : State) (t : Nat) : (advanceTo s t).pwr = s.pwr := by
  unfold advanceTo
  split
  · exact elapse_pwr ..
  · rfl

/-- The clock stands at the count, or past it. -/
theorem advanceTo_reaches (s : State) {t : Nat} (ht : t < 2 ^ 64) : t ≤ (advanceTo s t).halyard := by
  unfold advanceTo
  split
  · rw [elapse_halyard]
    omega
  · omega

/-! #### The end of an interval -/

theorem nextMultiple_spec (s : State) {m : Nat} (hm : 0 < m) :
    s.halyard < nextMultiple s m ∧ nextMultiple s m ≤ s.halyard + m ∧ nextMultiple s m % m = 0 := by
  have h := Nat.div_add_mod s.halyard m
  have hlt := Nat.mod_lt s.halyard hm
  unfold nextMultiple
  rw [Nat.add_mul, Nat.one_mul, Nat.mul_comm]
  refine ⟨by omega, by omega, ?_⟩
  simp

theorem autoSet_pwr (s : State) (a : Nat) : (autoSet s a).pwr = { s.pwr with
    autoLevel := a
    byAuto := if max s.pwr.drvInForce a = max s.pwr.drvInForce s.pwr.autoLevel then s.pwr.byAuto else true } := by
  unfold autoSet
  dsimp only
  split <;> rfl

theorem autoSet_halyard (s : State) (a : Nat) : (autoSet s a).halyard = s.halyard := by
  unfold autoSet
  dsimp only
  split <;> rfl

theorem autoSet_alert (s : State) {a : Nat} (h : 0 < a) : (autoSet s a).aon.alertStatus.getLsbD 3 = true := by
  unfold autoSet
  rw [if_pos h]
  simp [setAlert]

/-- An interval is high by its temperature or by its power. -/
def highInterval (p : Pwr) (hot : Bool) (avg : BitVec 16) (tj : Byte) : Prop :=
  hot = true ∨ p.tjHot.toNat ≤ tj.toNat ∨ p.limitW.toNat < avg.toNat

theorem highInterval_iff (p : Pwr) (hot : Bool) (avg : BitVec 16) (tj : Byte) : highInterval p hot avg tj ↔
    (hot || decide (p.tjHot.toNat ≤ tj.toNat) || decide (p.limitW.toNat < avg.toNat)) = true := by
  simp [highInterval, or_assoc]

section
variable {s : State} {hot : Bool} {avg : BitVec 16} {tj : Byte}

theorem thermalEnd_high (h : highInterval s.pwr hot avg tj) : thermalEnd s hot avg tj =
    autoSet (setPwr s (fun p => { p with avgW := avg, tjMax := tj, coolFor := 0 })) (min 8 (s.pwr.autoLevel + 1)) := by
  unfold thermalEnd
  exact if_pos ((highInterval_iff ..).mp h)

/-- The state after a cool interval, before the level is looked at. -/
def cooled (s : State) (avg : BitVec 16) (tj : Byte) : State :=
  setPwr s (fun p => { p with avgW := avg, tjMax := tj, coolFor := min 100 (p.coolFor + 1) })

theorem thermalEnd_cool (h : ¬ highInterval s.pwr hot avg tj) : thermalEnd s hot avg tj =
    if (cooled s avg tj).pwr.coolFor = 100 then autoSet (cooled s avg tj) (s.pwr.autoLevel - 1) else cooled s avg tj := by
  unfold thermalEnd
  exact if_neg (fun hh => h ((highInterval_iff ..).mpr hh))
end

theorem exec_autoLevel_of {s : State} (h : mainUp s = true) (hot : Bool) (avg : BitVec 16) (tj : Byte) :
    exec (.autoLevel hot avg tj) s = .next (thermalEnd (advanceTo s (nextMultiple s 1000000)) hot avg tj) :=
  congrArg Host.Outcome.next (if_pos h)

/-- What an interval's end does to the throttle; the clock stands at the end. -/
theorem thermalEnd_throttles (s : State) (hot : Bool) (avg : BitVec 16) (tj : Byte) :
    (thermalEnd s hot avg tj).halyard = s.halyard ∧ (thermalEnd s hot avg tj).pwr.avgW = avg ∧
    (thermalEnd s hot avg tj).pwr.tjMax = tj ∧
    (highInterval s.pwr hot avg tj → (thermalEnd s hot avg tj).pwr.autoLevel = min 8 (s.pwr.autoLevel + 1) ∧
      (thermalEnd s hot avg tj).pwr.coolFor = 0 ∧ (thermalEnd s hot avg tj).aon.alertStatus.getLsbD 3 = true) ∧
    (¬ highInterval s.pwr hot avg tj → (thermalEnd s hot avg tj).pwr.coolFor = min 100 (s.pwr.coolFor + 1) ∧
      (thermalEnd s hot avg tj).pwr.autoLevel = if 99 ≤ s.pwr.coolFor then s.pwr.autoLevel - 1 else s.pwr.autoLevel) := by
  by_cases h : highInterval s.pwr hot avg tj
  · rw [thermalEnd_high h, autoSet_pwr, autoSet_halyard]
    exact ⟨rfl, rfl, rfl, fun _ => ⟨rfl, rfl, autoSet_alert _ (by omega)⟩, fun hn => absurd h hn⟩
  · have hc : (cooled s avg tj).pwr.coolFor = min 100 (s.pwr.coolFor + 1) := rfl
    rw [thermalEnd_cool h]
    by_cases h99 : 99 ≤ s.pwr.coolFor
    · rw [if_pos (by rw [hc]; omega), autoSet_pwr, autoSet_halyard]
      exact ⟨rfl, rfl, rfl, fun hh => absurd hh h, fun _ => ⟨rfl, (if_pos h99).symm⟩⟩
    · rw [if_neg (by rw [hc]; omega)]
      exact ⟨rfl, rfl, rfl, fun hh => absurd hh h, fun _ => ⟨rfl, (if_neg h99).symm⟩⟩

/-! #### The driver level, waves and awakened cores -/

theorem exec_pwrThrAt_of {s : State} (h : mainUp s = true) : exec .pwrThrAt s = .next (thrAt s) :=
  congrArg Host.Outcome.next (if_pos h)

theorem exec_governorWave_of {s : State} (h : mainUp s = true) : exec .governorWave s = .next (governorWave s) :=
  congrArg Host.Outcome.next (if_pos h)

theorem exec_coreAwake_of {s : State} (h : mainUp s = true) (k : Fin 512) : exec (.coreAwake k) s = .next (coreAwake s k.val) :=
  congrArg Host.Outcome.next (if_pos h)

theorem thrAt_held {s : State} {n : Nat} (h : s.pwr.drvHeld = some n) : thrAt s =
    setPwr (advanceTo s s.pwr.thrAt.toNat) (fun p => { p with
      drvHeld := none
      drvInForce := n
      byAuto := if max n p.autoLevel = max p.drvInForce p.autoLevel then p.byAuto else false }) := by
  unfold thrAt
  rw [h]

theorem coreAwake_waking {s : State} {k : Nat} {e : Nat × Nat} (h : s.pwr.waking.find? (fun e => e.1 = k) = some e) :
    coreAwake s k = setPwr (advanceTo s e.2) (fun p => { p with
      waking := p.waking.filter (fun x => x.1 ≠ k)
      awake := p.awake ++ [k] }) := by
  unfold coreAwake
  rw [h]

/-- Settles O57: each command sets the throttle's or the governor's registers after the clock has moved, which changes none. -/
theorem throttleAndGovernor : Obligations.ThrottleAndGovernor := by
  unfold Obligations.ThrottleAndGovernor
  intro s hot en avg tj l c hm
  dsimp only
  refine ⟨fun hlt => ?_, ?_, fun h => ?_, fun n h => ?_, fun h => ?_, fun h hlt => ?_, fun h => ?_, fun e h hlt => ?_⟩
  · obtain ⟨h₁, h₂, h₃⟩ := nextMultiple_spec s (m := 1000000) (by decide)
    have hh := advanceTo_halyard h₁.le (by omega : nextMultiple s 1000000 < 2 ^ 64)
    have hp := advanceTo_pwr s (nextMultiple s 1000000)
    obtain ⟨k₁, k₂, k₃, k₄, k₅⟩ := thermalEnd_throttles (advanceTo s (nextMultiple s 1000000)) hot avg tj
    rw [hp] at k₄ k₅
    rw [hh] at k₁
    exact ⟨_, exec_autoLevel_of hm hot avg tj, by rw [k₁, h₃], by rw [k₁]; exact h₁, by rw [k₁]; exact h₂, k₂, k₃, k₄, k₅⟩
  · refine ⟨drvWrite s l en, congrArg Host.Outcome.next (if_pos hm), rfl, rfl, rfl, fun h => ?_, fun h => ?_⟩ <;>
      rw [h] <;> exact ⟨rfl, rfl⟩
  · rw [exec_pwrThrAt_of hm, thrAt, h]
  · rw [exec_pwrThrAt_of hm, thrAt_held h]
    exact ⟨_, rfl, advanceTo_reaches s s.pwr.thrAt.isLt, rfl, rfl⟩
  · rw [exec_governorWave_of hm, governorWave, if_pos h]
  · have hh := advanceTo_reaches s hlt
    have hp := advanceTo_pwr s s.pwr.govNext
    rw [exec_governorWave_of hm, governorWave, if_neg h]
    dsimp only [setPwr]
    rw [hp]
    exact ⟨_, rfl, hh, rfl, rfl, rfl, rfl⟩
  · rw [exec_coreAwake_of hm, coreAwake, h]
  · have hh := advanceTo_reaches s hlt
    have hp := advanceTo_pwr s e.2
    rw [exec_coreAwake_of hm, coreAwake_waking h, setPwr, hp]
    exact ⟨_, rfl, hh, rfl, fun x hx => by simpa using (List.mem_filter.mp hx).2⟩

end Sys2Proof.Machine


/-! ### The bus and the control messages of the Burgee port -/

namespace Sys2Proof.Machine

open Sys2Proof

/-- A command that the port answers only when `p` holds changes nothing otherwise. -/
theorem still_of {p : Prop} [Decidable p] (h : ¬ p) (s t : State) :
    (.next (if p then t else s) : Host.Outcome State Fault Refusal) = .next s := congrArg _ (if_neg h)

theorem taken_of {p : Prop} [Decidable p] (h : p) (s t : State) :
    (.next (if p then t else s) : Host.Outcome State Fault Refusal) = .next t := congrArg _ (if_pos h)

theorem portOff {s : State} (h : ¬ s.pins.vaon = true) : portOn s = false := Bool.eq_false_iff.mpr h

theorem addressed_iff (s : State) : addressed s = true ↔ s.pins.vaon = true ∧ s.aon.i3cDa ≠ 0 := by
  simp [addressed, portOn]

theorem word_three (a b c i j k : Nat) : word [(a, i), (b, j), (c, k)] = a * 2 ^ i + b * 2 ^ j + c * 2 ^ k := by
  simp [word]

theorem pid_eq (s : State) :
    pid s = s.fuses.serialLo.toNat % 2 ^ 32 + 2 ^ 32 + Config.i3cMfr.toNat * 2 ^ 33 := by
  rw [pid, word_three, Nat.pow_zero, Nat.mul_one, Nat.one_mul]

theorem setEid_refused {op : BitVec 2} {e : Byte} (h : 2 ≤ op.toNat ∨ e = 0 ∨ e = 0xFF) (s : State) :
    setEid s op e = ctrlAnswer s 1 2 [] := if_pos h

theorem setEid_taken {op : BitVec 2} {e : Byte} (ho : op.toNat < 2) (h0 : e ≠ 0) (h1 : e ≠ 0xFF) (s : State) :
    setEid s op e = ctrlAnswer (setAon s (fun a => { a with eid := e })) 1 0 [0, e, 0] :=
  if_neg (fun h => h.elim (Nat.not_le.mpr ho) (fun h => h.elim h0 h1))

/-- Settles O52: without standby power nothing answers, without an address no direct command; else each command is its
function. -/
theorem burgeeBusAndControl : Obligations.BurgeeBusAndControl := by
  unfold Obligations.BurgeeBusAndControl
  intro s da m e y op
  dsimp only
  refine ⟨fun h => ?_, fun h => ?_, fun h => ?_⟩
  · have hoff := portOff h
    have hn : ¬ portOn s = true := h
    have hp : (!portOn s) = true := by rw [hoff]; rfl
    exact ⟨still_of (fun h' => h h'.1) .., still_of hn .., still_of hn .., still_of hn .., still_of hn .., still_of hn ..,
      still_of hn .., taken_of hp .., still_of hn .., taken_of hp ..⟩
  · have hn : ¬ addressed s = true := by
      rw [addressed_iff]
      exact fun h' => h.elim (fun h => h h'.1) h'.2
    exact ⟨still_of hn .., still_of hn .., still_of hn .., still_of hn .., still_of hn .., still_of hn ..⟩
  · have hp : ¬ (!portOn s) = true := by simpa [portOn] using h
    refine ⟨fun ha => still_of (fun h' => ha h'.2) .., fun ha => taken_of ⟨h, ha⟩ .., taken_of h .., taken_of h .., taken_of h ..,
      fun ha => ?_, fun hr => ?_, fun ho h0 h1 => ?_, taken_of h .., taken_of h .., fun hy => ?_, fun h0 h1 h2 => ?_, taken_of h ..,
      fun hy => ?_, fun hy => ?_⟩
    · have had : addressed s = true := (addressed_iff s).mpr ⟨h, ha⟩
      rw [← pid_eq]
      exact ⟨taken_of had .., taken_of had .., taken_of had .., taken_of had .., taken_of had .., _, taken_of had ..⟩
    · exact (taken_of h ..).trans (congrArg _ (setEid_refused hr s))
    · exact (taken_of h ..).trans (congrArg _ (setEid_taken ho h0 h1 s))
    · exact congrArg _ ((if_neg hp).trans (if_pos hy))
    · exact congrArg _ ((if_neg hp).trans (if_neg (fun hy => hy.elim h0 (fun hy => hy.elim h1 h2))))
    · exact congrArg _ ((if_neg hp).trans (if_pos hy))
    · exact congrArg _ ((if_neg hp).trans (if_neg hy))

end Sys2Proof.Machine


/-! ### The Hjelnor messages of the Burgee port -/

namespace Sys2Proof.Machine

open Sys2Proof

section
variable {s : State} {b : List Byte}

theorem regRange_length (o n : Nat) : (regRange o n).length = n := by simp [regRange]

/-- A request of the right length for 1 to 16 registers. -/
theorem regReadAns_sized (hb : b.length = 5) (h0 : 0 < natAt b 4 1) (h16 : natAt b 4 1 ≤ 16) : regReadAns s b =
    if !(regRange (natAt b 0 4) (natAt b 4 1)).all burgeeReach then (3, [])
    else if (regRange (natAt b 0 4) (natAt b 4 1)).any (unpowered s) then (4, [])
    else (0, (regRange (natAt b 0 4) (natAt b 4 1)).flatMap (fun x => bytesOf 8 (regValue s x))) := by
  refine if_neg ?_
  rw [regRange_length, ← List.length_eq_zero_iff, regRange_length]
  omega

theorem regReadAns_badLen (h : b.length ≠ 5 ∨ natAt b 4 1 = 0 ∨ 16 < natAt b 4 1) : regReadAns s b = (2, []) := by
  refine if_pos ?_
  rwa [regRange_length, ← List.length_eq_zero_iff, regRange_length]

theorem regWriteAns_sized (hb : b.length = 12) : regWriteAns s b =
    if !burgeeReach (natAt b 0 4) then (3, s)
    else if unpowered s (natAt b 0 4) then (4, s)
    else (0, writeReg s true (natAt b 0 4) (natAt b 4 8)) := if_neg (not_not.mpr hb)
end

theorem fit_length (n : Nat) (l : List Byte) : (fit n l).length = n := by
  simp [fit, padTo]

theorem serial_length (s : State) : (serial s).length = 16 := by
  simp only [serial, List.length_append, bytesOf_length]

theorem identity_length (s : State) : (identity s).length = 16 + 11 + 57 + 16 + 114 := by
  simp only [identity, List.length_append, serial_length, bytesOf_length, fit_length, List.length_singleton]

theorem measAns_signed {s : State} {b : List Byte} (hb : b.length = 33) (hv : (getMeas s 0).value ≠ []) :
    ∃ sig : List Byte, sig.length = 114 ∧ measAns s b = (0, measAll s (natAt b 32 1) ++ sig) :=
  ⟨_, fit_length 114 _, (if_neg (not_not.mpr hb)).trans (if_neg hv)⟩

theorem getMeas_measSet (s : State) (m : Nat) (v : List Byte) (j : Nat) : getMeas (measSet s m v) j =
    if j = m then { value := v, pending := false, next := []
                    count := if (getMeas s m).value = v then (getMeas s m).count else inc32 (getMeas s m).count 1 }
    else getMeas s j := mget_mput ..

/-- Settles O53: the status of a request is the first check that fails; an answer carries it with the data. -/
theorem burgeeMessages : Obligations.BurgeeMessages := by
  unfold Obligations.BurgeeMessages
  intro s r b k hon
  dsimp only
  have hp : ¬ (!portOn s) = true := by simpa [portOn] using hon
  have hread : ∀ a, regReadAns s b = a → exec (.regRead r b) s = .next (hjAnswer s 1 1 r a.1 a.2) := fun a h => by
    subst h
    exact taken_of hon ..
  have hwrite : ∀ a, regWriteAns s b = a → exec (.regWrite r b) s = .next (hjAnswer a.2 1 2 r a.1 []) := fun a h => by
    subst h
    exact taken_of hon ..
  have hmeas : ∀ a, measAns s b = a → exec (.getMeasurements r b) s = .next (hjAnswer s 2 0x11 r a.1 a.2) := fun a h => by
    subst h
    exact taken_of hon ..
  refine ⟨fun _ hn => hread (2, []) (regReadAns_badLen (.inr hn)), fun hb => hread (2, []) (regReadAns_badLen (.inl hb)),
    fun hb h0 h16 hx => hread (3, []) ?_, fun hb h0 h16 hr => ⟨fun hx => hread (4, []) ?_, fun hu => hread (0, _) ?_⟩,
    fun hb => hwrite (2, s) (if_pos hb), fun hb hr => hwrite (3, s) ?_, fun hb hr hu => hwrite (4, s) ?_,
    fun hb hr hu => hwrite (0, _) ?_, fun hb => ⟨?_, ?_⟩, fun hb => ⟨?_, identity_length s, ?_⟩,
    fun hb => hmeas (2, []) (if_pos hb), fun hb hv => hmeas (5, []) ?_, fun hb hv => ?_,
    fun h => ?_, fun h => ⟨_, taken_of h .., rfl, ?_, fun j hj => ?_⟩⟩
  · rw [regReadAns_sized hb h0 h16]
    obtain ⟨x, hx, hr⟩ := hx
    refine if_pos ?_
    simp only [Bool.not_eq_true', List.all_eq_false]
    exact ⟨x, hx, by simp [hr]⟩
  · rw [regReadAns_sized hb h0 h16]
    have hall : (regRange (natAt b 0 4) (natAt b 4 1)).all burgeeReach = true := List.all_eq_true.mpr hr
    rw [if_neg (by simp [hall])]
    exact if_pos (List.any_eq_true.mpr hx)
  · rw [regReadAns_sized hb h0 h16]
    have hall : (regRange (natAt b 0 4) (natAt b 4 1)).all burgeeReach = true := List.all_eq_true.mpr hr
    rw [if_neg (by simp [hall]), if_neg]
    · rfl
    · rw [List.any_eq_true]
      exact fun ⟨x, hx, h⟩ => by simp [hu x hx] at h
  · rw [regWriteAns_sized hb, hr]
    rfl
  · rw [regWriteAns_sized hb, hr, hu]
    rfl
  · rw [regWriteAns_sized hb, hr, hu]
    rfl
  · exact congrArg _ ((if_neg hp).trans (if_pos hb))
  · exact congrArg _ ((if_neg hp).trans (if_pos hb))
  · exact congrArg _ ((if_neg hp).trans (if_neg (not_not.mpr hb)))
  · exact congrArg _ ((if_neg hp).trans (if_neg (not_not.mpr hb)))
  · exact (if_neg (not_not.mpr hb)).trans (if_pos hv)
  · obtain ⟨sig, hl, hs⟩ := measAns_signed hb hv
    exact ⟨sig, hl, hmeas _ hs⟩
  · exact still_of (by simp [h]) ..
  · rw [getMeas_measSet, if_pos rfl]
  · rw [getMeas_measSet, if_neg hj]

end Sys2Proof.Machine


/-! ### Key requests -/

namespace Sys2Proof.Machine

open Sys2Proof

theorem keyNamed_iff (b : List Byte) :
    keyNamed b = true ↔ (natAt b 0 1 = 1 ∨ natAt b 0 1 = 2) ∧ natAt b 1 1 < 4 := by
  simp [keyNamed]

section
variable {s : State} {b : List Byte}

theorem enrollAns_unnamed (hb : b.length = 177) (h : keyNamed b = false) : enrollAns s b = (3, s) :=
  (if_neg (not_not.mpr hb)).trans (if_pos (by rw [h]; rfl))

theorem revokeAns_unnamed (hb : b.length = 120) (h : keyNamed b = false) : revokeAns s b = (3, s) :=
  (if_neg (not_not.mpr hb)).trans (if_pos (by rw [h]; rfl))

/-- A request of the right length for a key slot, by its sequence number and its signature. -/
theorem enrollAns_named (hb : b.length = 177) (h : keyNamed b = true) : enrollAns s b =
    if natAt b 2 4 ≠ s.aon.keySeq.toNat then (7, s)
    else if (natAt b 0 1 = 1 ∧ operatorKeys s = [] ∧ natOf (b.drop 63) = 0) ∨ keySigned s (b.take 63) (b.drop 63) = true then
      (0, keyPut s (natAt b 0 1) (natAt b 1 1) ((b.drop 6).take 57))
    else (6, s) := (if_neg (not_not.mpr hb)).trans (if_neg (by rw [h]; decide))

theorem revokeAns_named (hb : b.length = 120) (h : keyNamed b = true) : revokeAns s b =
    if natAt b 2 4 ≠ s.aon.keySeq.toNat then (7, s)
    else if keySigned s (b.take 6) (b.drop 6) then (0, keyPut s (natAt b 0 1) (natAt b 1 1) [])
    else (6, s) := (if_neg (not_not.mpr hb)).trans (if_neg (by rw [h]; decide))

theorem exec_enrollKey_of (hon : s.pins.vaon = true) {r : BitVec 7} {a : Byte × State} (h : enrollAns s b = a) :
    exec (.enrollKey r b) s = .next (hjAnswer a.2 3 0x20 r a.1 []) := by
  subst h
  exact taken_of hon ..

theorem exec_revokeKey_of (hon : s.pins.vaon = true) {r : BitVec 7} {a : Byte × State} (h : revokeAns s b = a) :
    exec (.revokeKey r b) s = .next (hjAnswer a.2 3 0x21 r a.1 []) := by
  subst h
  exact taken_of hon ..
end

/-- What a filled or emptied slot leaves: its key, the sequence number, the role's measurement and the alert. -/
theorem keyPut_put (s : State) (role slot : Nat) (k : List Byte) :
    mget [] (keyPut s role slot k).aon.keys (4 * (role - 1) + slot) = k ∧
    (keyPut s role slot k).aon.keySeq = inc32 s.aon.keySeq 1 ∧ (getMeas (keyPut s role slot k) (role + 1)).pending = true ∧
    (keyPut s role slot k).aon.alertStatus.getLsbD 6 = true ∧
    (∀ j, j ≠ 4 * (role - 1) + slot → mget [] (keyPut s role slot k).aon.keys j = mget [] s.aon.keys j) ∧
    keyPut s role slot k = { s with aon := (keyPut s role slot k).aon } := by
  unfold keyPut keysMeas
  generalize shake256 _ _ = v
  refine ⟨mget_mput_same .., rfl, ?_, ?_, fun j hj => mget_mput_other _ _ _ _ _ hj, rfl⟩
  · exact congrArg Meas.pending (mget_mput_same ..)
  · simp [measStart, setMeas, setAlert]

/-- The answer to a key request that is taken. -/
theorem keyPut_answered (s : State) (role slot : Nat) (k : List Byte) (code : Byte) (r : BitVec 7) :
    ∃ t, (.next (hjAnswer (keyPut s role slot k) 3 code r 0 []) : Host.Outcome State Fault Refusal) = .next t ∧
      mget [] t.aon.keys (4 * (role - 1) + slot) = k ∧ t.aon.keySeq = inc32 s.aon.keySeq 1 ∧
      (getMeas t (role + 1)).pending = true ∧ t.aon.alertStatus.getLsbD 6 = true ∧
      (∀ j, j ≠ 4 * (role - 1) + slot → mget [] t.aon.keys j = mget [] s.aon.keys j) ∧ t = { s with aon := t.aon } := by
  obtain ⟨h₁, h₂, h₃, h₄, h₅, h₆⟩ := keyPut_put s role slot k
  generalize keyPut s role slot k = u at h₁ h₂ h₃ h₄ h₅ h₆ ⊢
  refine ⟨_, rfl, h₁, h₂, h₃, h₄, h₅, ?_⟩
  rw [h₆]
  rfl

/-- Settles O54: the status of a key request is the first check that fails; a request that is taken changes its slot. -/
theorem keysAreEnrolledAndRevoked : Obligations.KeysAreEnrolledAndRevoked := by
  unfold Obligations.KeysAreEnrolledAndRevoked
  intro s r b hon
  dsimp only
  refine ⟨fun hb => exec_enrollKey_of hon (a := (2, s)) (if_pos hb), fun hb => exec_revokeKey_of hon (a := (2, s)) (if_pos hb),
    fun h => ?_, fun h hs => ?_, fun h hs => ⟨fun hb hk hf => ?_, fun hb hk => ?_, fun hb hk => ?_, fun hb hk => ?_⟩⟩
  · have hn : keyNamed b = false := Bool.eq_false_iff.mpr (fun hn => h ((keyNamed_iff b).mp hn))
    exact ⟨fun hb => exec_enrollKey_of hon (enrollAns_unnamed hb hn), fun hb => exec_revokeKey_of hon (revokeAns_unnamed hb hn)⟩
  · have hn := (keyNamed_iff b).mpr h
    exact ⟨fun hb => exec_enrollKey_of hon (a := (7, s)) ((enrollAns_named hb hn).trans (if_pos hs)),
      fun hb => exec_revokeKey_of hon (a := (7, s)) ((revokeAns_named hb hn).trans (if_pos hs))⟩
  all_goals have hn := (keyNamed_iff b).mpr h
  · refine exec_enrollKey_of hon (a := (6, s)) ((enrollAns_named hb hn).trans ?_)
    rw [if_neg (not_not.mpr hs), if_neg (fun h' => h'.elim hf (by simp [hk]))]
  · rw [exec_enrollKey_of hon ((enrollAns_named hb hn).trans ((if_neg (not_not.mpr hs)).trans (if_pos hk.symm)))]
    exact keyPut_answered ..
  · refine exec_revokeKey_of hon (a := (6, s)) ((revokeAns_named hb hn).trans ?_)
    rw [if_neg (not_not.mpr hs), if_neg (by simp [hk])]
  · rw [exec_revokeKey_of hon ((revokeAns_named hb hn).trans ((if_neg (not_not.mpr hs)).trans (if_pos hk)))]
    exact keyPut_answered ..

end Sys2Proof.Machine


/-! ### Power, pins and the stages of the power-up -/

namespace Sys2Proof.Machine

open Sys2Proof

/-! #### A reset of the main side -/

/-- `t` is `s` but for the measurements. -/
def MeasOnly (s t : State) : Prop := t = { s with aon := { s.aon with meas := t.aon.meas } }

theorem MeasOnly.trans {s t u : State} (h₁ : MeasOnly s t) (h₂ : MeasOnly t u) : MeasOnly s u := by
  unfold MeasOnly at *
  rw [h₂, h₁]

theorem measClear_measOnly (s : State) : MeasOnly s (measClear s) :=
  foldl_rel (R := MeasOnly) (fun _ => rfl) .trans (fun s m => (rfl : MeasOnly s (measSet s m []))) _ s

/-- What a reset of the main side keeps of the state: `u` is the state with its measurements cleared and the link's loss
noted. -/
theorem mainReset_eq (s : State) (cause : Nat) (st : Stage) : ∃ u, u = { s with aon := { s.aon with
      meas := u.aon.meas, alertStatus := u.aon.alertStatus } } ∧ mainReset s cause st = { State.reset with
    pending := u.pending
    free := u.free
    ns := u.ns
    fuses := u.fuses
    pins := { u.pins with pgoodOut := false }
    aon := { u.aon with resetCause := BitVec.ofNat 3 cause }
    pwr := { stage := st, limitW := u.fuses.pwrLimit, tjHot := u.fuses.tjHot }
    bench1 := u.bench1
    chk := u.chk
    hbms := hbmAll u .down } := by
  unfold mainReset
  have h := measClear_measOnly (if linkIsUp s then setAlert s 2 else s)
  generalize measClear _ = u at h ⊢
  refine ⟨u, ?_, rfl⟩
  rw [h]
  split <;> rfl

/-- The main side after a reset: the always-on domain's keys and the stored bytes stay, everything else is at reset. -/
theorem mainReset_down (s : State) (cause : Nat) (st : Stage) : ∃ t, mainReset s cause st = t ∧
    t.pwr.stage = st ∧ t.aon.resetCause = BitVec.ofNat 3 cause ∧ t.aon.keys = s.aon.keys ∧ t.bench1 = s.bench1 ∧
    t.pins.pgoodOut = false ∧ t.hst = {} ∧ t.ctxs = [] ∧ t.cores = [] ∧ t.adits = [] ∧ t.drg = {} ∧ t.halyard = 0 ∧
    t.pending = s.pending := by
  obtain ⟨u, hu, h⟩ := mainReset_eq s cause st
  rw [h]
  exact ⟨_, rfl, rfl, rfl, by rw [hu], by rw [hu], rfl, rfl, rfl, rfl, rfl, rfl, rfl, by rw [hu]⟩

/-! #### The controllers and the adits -/

theorem mget_puts {α : Type} [DecidableEq α] {d : α} (f : Nat → α) (l : List Nat) (m : SMap α) (n : Nat) :
    mget d (l.foldl (fun m k => mput d m k (f k)) m) n = if n ∈ l then f n else mget d m n := by
  induction l generalizing m with
  | nil => rfl
  | cons k l ih =>
    rw [List.foldl_cons, ih, mget_mput]
    by_cases hl : n ∈ l
    · simp [hl]
    · by_cases hk : n = k
      · simp [hk]
      · simp [hl, hk]

theorem mget_hbmAll (s : State) (st : HState) {n : Nat} (h : n < 32) :
    mget {} (hbmAll s st) n = hbmKeep st (getHbm s n) :=
  (mget_puts (fun n => hbmKeep st (getHbm s n)) (List.range 32) [] n).trans (if_pos (List.mem_range.mpr h))

/-- An adit that begins to train. -/
def trainAdit (s : State) (a : Nat) : State := setAdit s a (trainBegin s (getAdit s a))

/-- `t` is `s` but for the adits. -/
def AditsOnly (s t : State) : Prop := t = { s with adits := t.adits }

theorem AditsOnly.trans {s t u : State} (h₁ : AditsOnly s t) (h₂ : AditsOnly t u) : AditsOnly s u := by
  unfold AditsOnly at *
  rw [h₂, h₁]

theorem trainAdits_aditsOnly (l : List Nat) (s : State) : AditsOnly s (l.foldl trainAdit s) :=
  foldl_rel (R := AditsOnly) (fun _ => rfl) .trans (fun s a => (rfl : AditsOnly s (trainAdit s a))) l s

theorem getAdit_trainAdit (s : State) (a j : Nat) :
    getAdit (trainAdit s a) j = if j = a then trainBegin s (getAdit s a) else getAdit s j := getAdit_setAdit ..

theorem getAdit_trainAdits {l : List Nat} (hl : l.Nodup) (s : State) (j : Nat) :
    getAdit (l.foldl trainAdit s) j = if j ∈ l then trainBegin s (getAdit s j) else getAdit s j := by
  induction l generalizing s with
  | nil => rfl
  | cons a l ih =>
    obtain ⟨ha, hl⟩ := List.nodup_cons.mp hl
    rw [List.foldl_cons, ih hl, getAdit_trainAdit]
    by_cases hj : j = a
    · subst hj
      simp [ha]
    · by_cases hm : j ∈ l
      · simp only [hm, hj, if_true, if_false, List.mem_cons, or_true]
        rfl
      · simp [hm, hj]

/-! #### The temperature of the dies -/

theorem foldl_max_le {f : Nat → Nat} {b : Nat} (hf : ∀ d, f d ≤ b) (l : List Nat) {a : Nat} (ha : a ≤ b) :
    l.foldl (fun m d => max m (f d)) a ≤ b := by
  induction l generalizing a with
  | nil => exact ha
  | cons d l ih => exact ih (max_le ha (hf d))

theorem le_foldl_max {f : Nat → Nat} (l : List Nat) {a c : Nat} (h : c ≤ a ∨ ∃ d ∈ l, c ≤ f d) :
    c ≤ l.foldl (fun m d => max m (f d)) a := by
  induction l generalizing a with
  | nil => simpa using h
  | cons d l ih =>
    refine ih ?_
    simp only [List.mem_cons, exists_eq_or_imp] at h
    rcases h with h | h | h
    · exact .inl (le_trans h (le_max_left ..))
    · exact .inl (le_trans h (le_max_right ..))
    · exact .inr h

/-- The reading recorded for a die does not pass the greatest of all. -/
theorem le_tjMax {t : Byte} (die : Fin 13) (p : Pwr) (h : mget 0 p.tjDie die.val = t) :
    t.toNat ≤ (BitVec.ofNat 8 (tjTop p)).toNat := by
  have hle : tjTop p ≤ 255 := foldl_max_le (fun d => Nat.le_of_lt_succ (mget 0 p.tjDie d).isLt) _ (by decide)
  have hge : t.toNat ≤ tjTop p := le_foldl_max _ (.inr ⟨die.val, List.mem_range.mpr die.isLt, by rw [h]⟩)
  rw [BitVec.toNat_ofNat, Nat.mod_eq_of_lt (by omega)]
  exact hge

/-! #### BOOT -/

theorem bootOk_up (s : State) (img : List Byte) : ∃ t, bootOk s img = t ∧ t.pwr.stage = .hbmTrain ∧ t.dev.fw = .running ∧
    t.dev.fwVersion = BitVec.ofNat 32 (natAt img 12 4) ∧ t.dev.fwSvn = BitVec.ofNat 16 (natAt img 4 2) ∧
    t.drg.st = .training ∧ (∀ n, n < 32 → (getHbm t n).st = .training) ∧ (getMeas t 0).value = shake256 (fwSigned img) 64 := by
  have hh := fun n hn => congrArg Hbm.st (mget_hbmAll (n := n) s .training hn)
  unfold bootOk
  generalize shake256 (fwSigned img) 64 = v
  generalize hbmAll s .training = hb at hh ⊢
  generalize identityMeas _ = w
  refine ⟨_, rfl, rfl, rfl, rfl, rfl, rfl, hh, ?_⟩
  rw [getMeas_measSet, if_neg (by decide), getMeas_measSet, if_pos rfl]

theorem exec_boot_of {s : State} (h : s.pwr.stage = .boot) (i0 i1 : List Byte) : exec (.boot i0 i1) s = .next (boot s i0 i1) :=
  congrArg Host.Outcome.next (if_pos h)

/-! #### The commands -/

theorem aditTrain_state {s : State} (h : s.pwr.stage = .aditTrain) : exec .aditTrain s =
    .next (stageReady (setPwr ((List.range 24).foldl trainAdit s) (fun p => { p with stage := .sync }))) :=
  congrArg Host.Outcome.next (if_pos h)

theorem vaonLoss_off {s : State} (h : s.pins.vaon = true) : ∃ t, exec .vaonLoss s = .next t ∧ t.pwr.stage = .off ∧
    t.aon = {} ∧ t.bench1 = [] ∧ t.chk = [] ∧ t.pins.vaon = false ∧ t.pins.resetN = false ∧ t.pins.pgoodOut = false ∧
    t.hst = {} ∧ t.ctxs = [] := by
  refine ⟨_, still_of (by simp [h]) .., ?_⟩
  obtain ⟨u, hu, hm⟩ := mainReset_eq s 0 .off
  rw [hm]
  exact ⟨rfl, rfl, rfl, rfl, rfl, rfl, rfl, rfl, rfl⟩

theorem bootFail_failed (s : State) (fw : FwState) : (bootFail s fw).pwr.stage = .failed ∧ (bootFail s fw).pwr.failStage = 2 ∧
    (bootFail s fw).dev.fw = fw ∧ (bootFail s fw).aon.alertStatus.getLsbD 0 = true := by
  refine ⟨rfl, rfl, rfl, ?_⟩
  show (s.aon.alertStatus ||| BitVec.ofNat 8 (2 ^ 0)).getLsbD 0 = true
  rw [BitVec.getLsbD_or]
  simp

theorem aditTrain_trains {s : State} (h : s.pwr.stage = .aditTrain) : ∃ t, exec .aditTrain s = .next t ∧
    t.pwr.stage = (if locked s then .ready else .sync) ∧ t = { s with adits := t.adits, pwr := t.pwr } ∧
    ∀ a, a < 24 → getAdit t a = trainBegin s (getAdit s a) := by
  refine ⟨_, aditTrain_state h, ?_⟩
  have ht := trainAdits_aditsOnly (List.range 24) s
  have hg : ∀ a, a < 24 → getAdit ((List.range 24).foldl trainAdit s) a = trainBegin s (getAdit s a) := fun a ha =>
    (getAdit_trainAdits List.nodup_range s a).trans (if_pos (List.mem_range.mpr ha))
  generalize (List.range 24).foldl trainAdit s = u at ht hg ⊢
  have hl : locked (setPwr u (fun p => { p with stage := .sync })) = locked s := by rw [ht]; rfl
  rw [stageReady_pwrOnly, hl]
  refine ⟨by simp [setPwr], ?_, hg⟩
  rw [ht]
  rfl

/-- Settles O55: each stage and each pin by its branch; a reset of the main side by what it keeps. -/
theorem powerPinsAndStages : Obligations.PowerPinsAndStages := by
  unfold Obligations.PowerPinsAndStages
  intro s i0 i1 die tj
  dsimp only
  refine ⟨fun h => taken_of h .., fun h => ⟨still_of (by simp [h]) .., taken_of (by simp [h]) ..⟩, vaonLoss_off,
    fun h => taken_of (by simp [h]) .., fun h => taken_of (by simp [h]) .., fun h hr hu => ?_, fun h hr => ?_, fun h hu => ?_,
    fun h hr => still_of (by simp [h, hr]) .., fun h => still_of h .., fun h => taken_of h .., fun h => still_of h ..,
    fun h h0 => ?_, fun h h0 h1 => ?_, fun h h0 h1 => ?_, fun h => still_of h .., aditTrain_trains,
    fun h => taken_of (by simp [h]) .., fun h ht => ?_, fun h ht => ?_⟩
  · obtain ⟨t, ht, hd⟩ := mainReset_down (setPins s fun p => { p with pgoodIn := false }) 1 .off
    exact ⟨t, (still_of (by simp [h]) ..).trans (congrArg _ ((if_pos (Bool.and_eq_true_iff.mpr ⟨hr, hu⟩)).trans ht)), hd⟩
  · exact (still_of (by simp [h]) ..).trans (congrArg _ (if_neg (by simp [setPins, hr])))
  · obtain ⟨t, ht, hd⟩ := mainReset_down (setPins s fun p => { p with resetN := false }) 2 .off
    exact ⟨t, (still_of (by simp [h]) ..).trans (congrArg _ ((if_pos hu).trans ht)), hd⟩
  · exact (bootOk_up s i0).imp fun t ht => ⟨(exec_boot_of h ..).trans (congrArg _ ((if_pos h0).trans ht.1)), ht.2⟩
  · exact (bootOk_up s i1).imp fun t ht =>
      ⟨(exec_boot_of h ..).trans (congrArg _ ((if_neg h0).trans ((if_pos h1).trans ht.1))), ht.2⟩
  · exact ⟨_, (exec_boot_of h ..).trans (congrArg _ ((if_neg h0).trans (if_neg h1))), bootFail_failed ..⟩
  · have he : exec (.thermalTrip die tj) s = .next (setPins (mainReset s 4 .fuse) fun p => { p with thermtripN := false }) :=
      (still_of (by simp [h]) ..).trans (congrArg _ (if_pos ht))
    obtain ⟨t, hm, hd⟩ := mainReset_down s 4 .fuse
    rw [he, hm]
    exact ⟨⟨_, rfl, hd⟩, _, rfl, rfl⟩
  · refine ⟨_, (still_of (by simp [h]) ..).trans (congrArg _ (if_neg (Nat.not_le.mpr ht))), rfl, ?_⟩
    exact le_tjMax die _ (mget_mput_same ..)

end Sys2Proof.Machine


/-! ### The reset domains -/

namespace Sys2Proof.Machine

open Sys2Proof

/-! #### The output of a port that is down -/

/-- `t` is `s` but for the Yard and the end-to-end protocol. -/
def FabricOnly (s t : State) : Prop := t = { s with yard := t.yard, fab := t.fab }

theorem FabricOnly.trans {s t u : State} (h₁ : FabricOnly s t) (h₂ : FabricOnly t u) : FabricOnly s u := by
  unfold FabricOnly at *
  rw [h₂, h₁]

theorem notice_fabricOnly (s : State) (p : Packet) (cause : Nat) : FabricOnly s (notice s p cause) := by
  unfold notice
  split
  · rfl
  · dsimp only
    split <;> rfl

theorem downDrop_fabricOnly (s : State) (q : Nat) (p : Packet) : FabricOnly s (downDrop s q p) :=
  FabricOnly.trans (t := setPort s q _) rfl (notice_fabricOnly ..)

theorem discardOutput_fabricOnly (s : State) (q : Nat) : FabricOnly s (discardOutput s q) :=
  FabricOnly.trans (t := { s with yard := { s.yard with out := s.yard.out.filter (fun e => e.port ≠ q) } }) rfl
    (foldl_rel (R := FabricOnly) (fun _ => rfl) .trans (fun _ _ => downDrop_fabricOnly ..) _ _)

theorem discardDown_fabricOnly (s : State) : FabricOnly s (discardDown s) := by
  unfold discardDown
  have h : FabricOnly s ((List.range 24).foldl (fun s a => if aditUp s a then s else discardOutput s (8 + a)) s) := by
    refine foldl_rel (R := FabricOnly) (fun _ => rfl) .trans (fun s a => ?_) _ s
    split
    · rfl
    · exact discardOutput_fabricOnly ..
  generalize List.foldl _ s _ = u at h ⊢
  dsimp only
  split
  · exact h
  · exact h.trans (discardOutput_fabricOnly ..)

/-- A Yard that holds nothing discards nothing. -/
theorem discardOutput_empty {s : State} (h : s.yard = {}) (q : Nat) : discardOutput s q = s := by
  unfold discardOutput
  rw [h]
  show { s with yard := {} } = s
  rw [← h]

/-! #### A reset of the host domain -/

/-- A reset of the host domain with no request outstanding there. -/
def HostReset (s t : State) : Prop :=
  t = { s with drg := { trainAt := s.halyard }, evt := {}, aon := t.aon, yard := t.yard, fab := t.fab } ∧
    (s.yard = {} → t.yard = s.yard ∧ t.fab = s.fab)

theorem hostDownNow_eq {s : State} (h : s.drg.reqs = []) : ∃ u : State, u = { s with drg := u.drg, aon := u.aon } ∧
    hostDownNow s = if frozen u then u else discardOutput u 32 := by
  unfold hostDownNow
  rw [h]
  exact ⟨_, rfl, rfl⟩

theorem resetHost_hostReset {s : State} (h : s.drg.reqs = []) : HostReset s (resetHost s) := by
  unfold resetHost
  split
  · obtain ⟨u, hu, hd⟩ := hostDownNow_eq h
    rw [hd]
    split
    · dsimp only
      rw [hu]
      exact ⟨rfl, fun _ => ⟨rfl, rfl⟩⟩
    · have hf := discardOutput_fabricOnly u 32
      have he := discardOutput_empty (s := u) (q := 32)
      generalize discardOutput u 32 = v at hf he ⊢
      dsimp only
      refine ⟨?_, fun hy => ?_⟩
      · rw [hf, hu]
      · rw [he (by rw [hu]; exact hy), hu]
        exact ⟨rfl, rfl⟩
  · exact ⟨rfl, fun _ => ⟨rfl, rfl⟩⟩

/-! #### A reset of the compute domain -/

/-- The blocks of the compute domain are at reset; the loader keeps the policy of `h`. -/
def ComputeReset (h : Loader) (t : State) : Prop :=
  t.hst = { reqOperator := h.reqOperator, reqTenant := h.reqTenant } ∧ t.tab = {} ∧
    t.tick = {} ∧ t.ctab = {} ∧ t.ctxs = [] ∧ t.cores = [] ∧ t.saved = [] ∧ t.riddles = [] ∧ t.tramways = [] ∧ t.tir = {} ∧
    t.bpm = {} ∧ t.colls = [] ∧ t.buckets = [] ∧ t.gangs = [] ∧ t.dbg = {} ∧ t.syn.dipSt = .running

theorem HostReset.computeReset {s t : State} (h : HostReset s t) {x : Loader} (hc : ComputeReset x s) : ComputeReset x t := by
  rw [h.1]
  exact hc

theorem FabricOnly.computeReset {s t : State} (h : FabricOnly s t) {x : Loader} (hc : ComputeReset x s) : ComputeReset x t := by
  rw [h]
  exact hc

theorem clearCompute_computeReset (s : State) : ComputeReset s.hst (clearCompute s) :=
  ⟨rfl, rfl, rfl, rfl, rfl, rfl, rfl, rfl, rfl, rfl, rfl, rfl, rfl, rfl, rfl, rfl⟩

theorem dropRequests_reqs {s : State} (h : s.drg.reqs = []) : (dropRequests s).drg = s.drg := by
  unfold dropRequests
  dsimp only
  rw [h, List.filter_nil, ← h]

theorem flushLines_none {s : State} (h : s.lines = []) : flushLines s = s := by
  unfold flushLines
  rw [h]
  rfl

/-- A reset of the compute domain with no line held at home. -/
theorem resetCompute_fabricOnly {s : State} (h : s.lines = []) : FabricOnly (clearCompute (dropRequests s)) (resetCompute s) := by
  unfold resetCompute
  rw [flushLines_none h]
  exact discardDown_fabricOnly _

/-! #### A reset of the fabric domain -/

/-- The blocks of the fabric domain are at reset too. -/
def FabricReset (h : Loader) (t : State) : Prop :=
  ComputeReset h t ∧ t.adits = [] ∧ t.yard = {} ∧ t.fab = {} ∧ t.syn = {} ∧ t.halyard = 0

theorem resetFabric_fabricReset {s : State} (h : s.lines = []) : FabricReset s.hst (resetFabric s) := by
  unfold resetFabric
  rw [flushLines_none h]
  exact ⟨clearCompute_computeReset (dropRequests s), rfl, rfl, rfl, rfl, rfl⟩

theorem HostReset.fabricReset {s t : State} (h : HostReset s t) {x : Loader} (hf : FabricReset x s) : FabricReset x t := by
  obtain ⟨hc, ha, hy, hb, hs, hh⟩ := hf
  obtain ⟨hy', hb'⟩ := h.2 hy
  refine ⟨h.computeReset hc, ?_, hy'.trans hy, hb'.trans hb, ?_, ?_⟩
  all_goals
    rw [h.1]
    assumption

/-- What a reset of the HBM domain leaves. -/
theorem resetHbm_resets {s : State} (hl : s.lines = []) (hr : s.drg.reqs = []) : FabricReset s.hst (resetHbm s) ∧
    (resetHbm s).evt = {} ∧ (resetHbm s).drg = { trainAt := (resetHbm s).drg.trainAt } ∧ (resetHbm s).faces = [] ∧
    (resetHbm s).bench1 = s.bench1 ∧
    ∀ n, n < 32 → (getHbm (resetHbm s) n).st = (if hbmStarted s then .training else .down) := by
  have hh := resetHost_hostReset hr
  have hl' : (resetHost s).lines = [] := by rw [hh.1]; exact hl
  have hf := resetFabric_fabricReset hl'
  have hs : hbmStarted (resetFabric (resetHost s)) = hbmStarted s := by
    unfold resetFabric
    rw [flushLines_none hl', hh.1]
    rfl
  unfold resetHbm
  refine ⟨?_, ?_, ?_, rfl, ?_, fun n hn => (congrArg Hbm.st (mget_hbmAll _ _ hn)).trans (by rw [hs]; rfl)⟩
  · rw [hh.1] at hf
    rw [hh.1]
    exact hf
  · unfold resetFabric
    rw [flushLines_none hl', hh.1]
    show { ({} : Evt) with irqNext := 0 - s.halyard } = {}
    rw [Nat.zero_sub]
  · unfold resetFabric
    rw [flushLines_none hl', hh.1]
    rfl
  · unfold resetFabric
    rw [flushLines_none hl', hh.1]
    rfl

/-! #### The moment of a reset -/

/-- `t` is `s` after some time has passed, with another state of the power-up. -/
def TimeOnly (s t : State) : Prop := t = { s with
  ns := t.ns, halyard := t.halyard, faces := t.faces, buckets := t.buckets, ctxs := t.ctxs, tir := t.tir, ctab := t.ctab,
  bpm := t.bpm, adits := t.adits, colls := t.colls, fab := t.fab, yard := t.yard, cgroups := t.cgroups
  pwr := { s.pwr with resetAt := t.pwr.resetAt } }

theorem advanceNs_timeOnly (s : State) (t : Nat) : TimeOnly s (advanceNs s t) := by
  unfold advanceNs
  split
  · unfold TimeOnly
    rw [elapse_eq]
  · rfl

theorem le_advanceNs_ns (s : State) (t : Nat) : t ≤ (advanceNs s t).ns := by
  unfold advanceNs
  split
  · rw [elapse_ns]
    omega
  · omega

/-- The moment at which a reset of PWR_RESET acts: the time has come, and no request waits any more. -/
def resetMoment (s : State) : State :=
  setPwr (advanceNs s (s.pwr.resetAt.getD (s.ns + 1000, 0)).1) (fun p => { p with resetAt := none })

theorem resetDue_up {s : State} (h : railsUp s = true) (m : BitVec 5) :
    resetDue s m = resetAct (resetMoment s) ((s.pwr.resetAt.getD (s.ns + 1000, 0)).2 ||| m) := if_neg (by simp [h])

theorem resetMoment_timeOnly (s : State) : TimeOnly s (resetMoment s) :=
  (congrArg (fun t => setPwr t _) (advanceNs_timeOnly ..)).trans rfl

theorem pwrReset_due {s : State} {m : BitVec 5} {i : Instr}
    (h : (m, i) ∈ ([(1, .pwrResetCompute), (2, .pwrResetFabric), (4, .pwrResetHbm), (8, .pwrResetHost)] : List (BitVec 5 × Instr))) :
    exec i s = .next (resetDue s m) := by
  simp only [List.mem_cons, Prod.mk.injEq, List.not_mem_nil, or_false] at h
  rcases h with ⟨rfl, rfl⟩ | ⟨rfl, rfl⟩ | ⟨rfl, rfl⟩ | ⟨rfl, rfl⟩ <;> rfl

/-- A reset keeps the time, and no request of PWR_RESET waits after it when none did before. -/
def ClockKept (s t : State) : Prop := t.ns = s.ns ∧ t.pwr.resetAt = s.pwr.resetAt

theorem HostReset.clockKept {s t : State} (h : HostReset s t) : ClockKept s t := by
  rw [h.1]
  exact ⟨rfl, rfl⟩

theorem resetFabric_clockKept {s : State} (h : s.lines = []) : ClockKept s (resetFabric s) := by
  unfold resetFabric
  rw [flushLines_none h]
  exact ⟨rfl, rfl⟩

theorem resetCompute_clockKept {s : State} (h : s.lines = []) : ClockKept s (resetCompute s) := by
  rw [resetCompute_fabricOnly h]
  exact ⟨rfl, rfl⟩

theorem resetHbm_clockKept {s : State} (hl : s.lines = []) (hr : s.drg.reqs = []) : ClockKept s (resetHbm s) := by
  have hh := resetHost_hostReset hr
  have hf := resetFabric_clockKept (s := resetHost s) (by rw [hh.1]; exact hl)
  exact ⟨hf.1.trans hh.clockKept.1, hf.2.trans hh.clockKept.2⟩

/-- What the requests for the fabric domain or the compute domain do where none for the HBM domain waits. -/
def resetInner (s : State) (m : BitVec 5) : State :=
  if m.getLsbD 1 then resetFabric s else if m.getLsbD 0 then resetCompute s else s

theorem resetInner_clockKept {s : State} (h : s.lines = []) (m : BitVec 5) : ClockKept s (resetInner s m) := by
  unfold resetInner
  split
  · exact resetFabric_clockKept h
  · split
    · exact resetCompute_clockKept h
    · exact ⟨rfl, rfl⟩

theorem resetInner_reqs {s : State} (hl : s.lines = []) (hr : s.drg.reqs = []) (m : BitVec 5) :
    (resetInner s m).drg.reqs = [] := by
  unfold resetInner
  split
  · unfold resetFabric
    rw [flushLines_none hl]
    exact (congrArg Drg.reqs (dropRequests_reqs hr)).trans hr
  · split
    · rw [resetCompute_fabricOnly hl]
      exact (congrArg Drg.reqs (dropRequests_reqs hr)).trans hr
    · exact hr

theorem resetAct_inner {s : State} {m : BitVec 5} (h4 : m.getLsbD 4 = false) (h2 : m.getLsbD 2 = false) :
    resetAct s m = if m.getLsbD 3 then resetHost (resetInner s m) else resetInner s m :=
  (if_neg (ne_true_of_eq_false h4)).trans (if_neg (ne_true_of_eq_false h2))

/-- After the inner domains, the host domain is reset or nothing more. -/
theorem resetAct_cases {s : State} {m : BitVec 5} (hl : s.lines = []) (hr : s.drg.reqs = []) (h4 : m.getLsbD 4 = false)
    (h2 : m.getLsbD 2 = false) : HostReset (resetInner s m) (resetAct s m) ∨
      m.getLsbD 3 = false ∧ resetAct s m = resetInner s m := by
  rw [resetAct_inner h4 h2]
  by_cases h3 : m.getLsbD 3 = true
  · exact .inl (by rw [if_pos h3]; exact resetHost_hostReset (resetInner_reqs hl hr m))
  · exact .inr ⟨by simpa using h3, if_neg h3⟩

theorem resetAct_clockKept {s : State} {m : BitVec 5} (hl : s.lines = []) (hr : s.drg.reqs = []) (h4 : m.getLsbD 4 = false) :
    ClockKept s (resetAct s m) := by
  by_cases h2 : m.getLsbD 2 = true
  · have he : resetAct s m = resetHbm s := (if_neg (ne_true_of_eq_false h4)).trans (if_pos h2)
    rw [he]
    exact resetHbm_clockKept hl hr
  · have hi := resetInner_clockKept hl m
    rcases resetAct_cases hl hr h4 (by simpa using h2) with h | ⟨_, h⟩
    · exact ⟨h.clockKept.1.trans hi.1, h.clockKept.2.trans hi.2⟩
    · rw [h]
      exact hi

/-- The fabric domain named: it is at reset, whatever the host domain does. -/
theorem resetAct_fabric {s : State} {m : BitVec 5} (hl : s.lines = []) (hr : s.drg.reqs = []) (h4 : m.getLsbD 4 = false)
    (h2 : m.getLsbD 2 = false) (h1 : m.getLsbD 1 = true) : FabricReset s.hst (resetAct s m) := by
  have hi : FabricReset s.hst (resetInner s m) := by
    rw [show resetInner s m = resetFabric s from if_pos h1]
    exact resetFabric_fabricReset hl
  rcases resetAct_cases hl hr h4 h2 with h | ⟨_, h⟩
  · exact h.fabricReset hi
  · rw [h]
    exact hi

/-- The blocks of the fabric domain that a compute reset leaves: the Halyard and the adits. -/
def FabricKept (s t : State) : Prop :=
  t.halyard = s.halyard ∧ t.syn.st = s.syn.st ∧ ∀ a, (getAdit t a).st = (getAdit s a).st

theorem FabricOnly.fabricKept {s t u : State} (h : FabricOnly t u) (hk : FabricKept s t) : FabricKept s u := by
  rw [h]
  exact hk

theorem resetAct_compute {s : State} {m : BitVec 5} (hl : s.lines = []) (hr : s.drg.reqs = []) (h4 : m.getLsbD 4 = false)
    (h2 : m.getLsbD 2 = false) (h1 : m.getLsbD 1 = false) (h0 : m.getLsbD 0 = true) :
    ComputeReset s.hst (resetAct s m) ∧ FabricKept s (resetAct s m) := by
  have hi : ComputeReset s.hst (resetInner s m) ∧ FabricKept s (resetInner s m) := by
    rw [show resetInner s m = resetCompute s from (if_neg (ne_true_of_eq_false h1)).trans (if_pos h0)]
    have hf := resetCompute_fabricOnly hl
    exact ⟨hf.computeReset (clearCompute_computeReset (dropRequests s)), hf.fabricKept ⟨rfl, rfl, fun _ => rfl⟩⟩
  rcases resetAct_cases hl hr h4 h2 with h | ⟨_, h⟩
  · refine ⟨h.computeReset hi.1, ?_⟩
    rw [h.1]
    exact hi.2
  · rw [h]
    exact hi

/-- Settles O56: the moment at which the reset acts, then the largest domain named. -/
theorem resetDomains : Obligations.ResetDomains := by
  unfold Obligations.ResetDomains
  intro s m i hl hr _ hi
  dsimp only
  refine ⟨fun h => ?_, fun h hk => ⟨_, (pwrReset_due hi).trans (congrArg _ (resetDue_up h m)), ?_⟩, fun hv h => ?_⟩
  · rw [pwrReset_due hi]
    exact congrArg _ (if_pos (by simp [h]))
  · have ht := resetMoment_timeOnly s
    have hns : _ ≤ (resetMoment s).ns := le_advanceNs_ns s _
    have hpast : (s.pwr.resetAt.getD (s.ns + 1000, 0)).1 ≤ s.ns →
        resetMoment s = setPwr s (fun p => { p with resetAt := none }) :=
      fun h => congrArg (fun t => setPwr t _) (advanceNs_past h)
    have hat : (resetMoment s).pwr.resetAt = none := rfl
    have hst : hbmStarted (resetMoment s) = hbmStarted s := by
      rw [ht]
      rfl
    generalize (s.pwr.resetAt.getD (s.ns + 1000, 0)).2 ||| m = k at hk ⊢
    generalize (s.pwr.resetAt.getD (s.ns + 1000, 0)).1 = w at hns hpast ⊢
    generalize resetMoment s = u at ht hns hpast hat hst ⊢
    have hlu : u.lines = [] := by rw [ht]; exact hl
    have hru : u.drg.reqs = [] := by rw [ht]; exact hr
    have hhst : u.hst = s.hst := by rw [ht]
    have hbench : u.bench1 = s.bench1 := by rw [ht]
    have hc := resetAct_clockKept (m := k) hlu hru hk
    rw [← hhst, ← hst, ← hbench]
    refine ⟨hc.1 ▸ hns, hc.2.trans hat, fun h2 => ?_, fun h2 h1 => resetAct_fabric hlu hru hk h2 h1, fun h2 h1 h0 => ?_,
      fun h2 h3 => ?_, fun h8 hw => ?_⟩
    · obtain ⟨hf, he, hd, hfa, hb, hh⟩ := resetHbm_resets hlu hru
      rw [show resetAct u k = resetHbm u from (if_neg (ne_true_of_eq_false hk)).trans (if_pos h2)]
      exact ⟨hf, he, hd, hfa, hb, hh⟩
    · obtain ⟨hcr, hf⟩ := resetAct_compute hlu hru hk h2 h1 h0
      refine ⟨hcr, fun hw => ?_⟩
      rw [hpast hw] at hf ⊢
      exact hf
    · rcases resetAct_cases hlu hru hk h2 with h | ⟨h3', _⟩
      · rw [h.1]
        exact ⟨rfl, rfl⟩
      · exact absurd (h3.symm.trans h3') (by decide)
    · subst h8
      rw [show resetAct u 8 = resetHost u from rfl, (resetHost_hostReset hru).1, hpast hw]
      exact ⟨rfl, rfl, rfl, rfl⟩
  · have hm : ((s.pwr.resetAt.getD (s.ns + 1000, 0)).2 ||| 16#5).getLsbD 4 = true := by
      rw [BitVec.getLsbD_or]
      simp
    have ht := resetMoment_timeOnly s
    refine ⟨_, (taken_of (s := s) hv _).trans (congrArg _ ((resetDue_up h 16).trans (if_pos hm))), ?_⟩
    obtain ⟨t, hd, hst, hcause, hkeys, hbench, -, hhst, hctxs, -, hadits, hdrg, -⟩ := mainReset_down (resetMoment s) 3 .fuse
    rw [hd]
    exact ⟨hst, hcause, hkeys.trans (by rw [ht]), hbench.trans (by rw [ht]), hhst, hctxs, hadits, hdrg⟩

end Sys2Proof.Machine


/-! ### Commands of a Riddle engine -/

namespace Sys2Proof.Machine

open Sys2Proof

/-- An engine that issues starts the command. -/
theorem rdlCommand_issues {s : State} {e : Nat} (h : rdlIssues s e = true) (act : State) : rdlCommand s e act = act := if_pos h

/-- An engine that issues has no cut in force, runs, and has nothing under way. -/
theorem rdlIssues_state {s : State} {e : Nat} (h : rdlIssues s e = true) : frozen s = false ∧
    (getFace s (rdlUnit e)).st = .running ∧ (getRiddle s e).op = none := by
  simp only [rdlIssues, rdlTurns, Bool.and_eq_true, Bool.not_eq_true', decide_eq_true_eq, Option.isNone_iff_eq_none] at h
  exact ⟨h.1.1.1.1, h.1.1.1.2, h.1.2⟩

/-- The engine moves on within its program. -/
theorem rdlAdvance_within {s : State} {e n : Nat} (h : (getRiddle s e).pc.toNat + n < rdlWords s (getRiddle s e)) :
    rdlAdvance s e n = setRiddle s e { getRiddle s e with pc := (getRiddle s e).pc + BitVec.ofNat 8 n, phase := .idle } := by
  refine (if_neg (Nat.not_le.mpr h)).trans ?_
  rw [BitVec.ofNat_add, BitVec.ofNat_toNat, BitVec.setWidth_eq]

theorem rdlAdvance_setRiddle {s : State} {e n : Nat} {r : Riddle} (h : r.pc.toNat + n < rdlWords s r) :
    rdlAdvance (setRiddle s e r) e n =
      setRiddle (setRiddle s e r) e { r with pc := r.pc + BitVec.ofNat 8 n, phase := .idle } := by
  have hr := getRiddle_setRiddle_same (s := s) e r
  rw [rdlAdvance_within (by rw [hr]; exact h), hr]

theorem setRiddle_setRiddle {s : State} {e : Nat} {q r : Riddle} (h : q ≠ {}) :
    setRiddle (setRiddle s e q) e r = setRiddle s e r :=
  congrArg (fun m => { s with riddles := m }) (mput_mput _ s.riddles e q r h)

/-! #### The read of SEQ -/

/-- `t` is `s` but for the engines and the faces of the units. -/
def EnginesOnly (s t : State) : Prop := t = { s with riddles := t.riddles, faces := t.faces }

theorem setRiddle_setFace_enginesOnly (s : State) (e u : Nat) (q r : Riddle) (f : Face) :
    EnginesOnly s (setRiddle (setFace (setRiddle s e q) u f) e r) := rfl

/-- The header of the block that an operation names. -/
def routeHeader (s : State) (e : Nat) (o : ROp) : List Byte :=
  b0Read s (rdlCtx s e) (srcCoreOf o.f o.rho) (64 * o.f.scoreAddr.toNat) 16

theorem seqCheck_ready {s : State} {e : Nat} {o : ROp} (h : natAt (routeHeader s e o) 4 4 = seqOf o.step o.f.tag) :
    seqCheck s e o = setRiddle (setFace s (rdlUnit e) { getFace s (rdlUnit e) with st := .running }) e { getRiddle s e with
      op := some { o with
        tokens := min (natAt (routeHeader s e o) 0 4) (o.f.tM1.toNat + 1)
        tokenBase := BitVec.ofNat 64 (natAt (routeHeader s e o) 8 8) }
      phase := .load } := if_pos h

theorem seqCheck_consumed {s : State} {e : Nat} {o : ROp}
    (h : natAt (routeHeader s e o) 4 4 = seqOf o.step o.f.tag ^^^ 0x80000000) : seqCheck s e o = routeConsumed s e := by
  have hne : natAt (routeHeader s e o) 4 4 ≠ seqOf o.step o.f.tag := by
    rw [h]
    intro hx
    have := Nat.xor_right_injective (x := seqOf o.step o.f.tag) (hx.trans (Nat.xor_zero _).symm)
    omega
  exact (if_neg hne).trans (if_pos h)

theorem seqCheck_waits {s : State} {e : Nat} {o : ROp} (h : natAt (routeHeader s e o) 4 4 ≠ seqOf o.step o.f.tag)
    (hc : natAt (routeHeader s e o) 4 4 ≠ seqOf o.step o.f.tag ^^^ 0x80000000) :
    seqCheck s e o = setRiddle (setFace s (rdlUnit e) { getFace s (rdlUnit e) with st := .waiting }) e
      { getRiddle s e with op := some o, phase := .seqWait } := (if_neg h).trans (if_neg hc)

/-- The engine counts in ROUTES, and runs. -/
def countRoute (s : State) (e : Nat) : State :=
  setFace (bump s (rdlUnit e) 4 1) (rdlUnit e) { getFace (bump s (rdlUnit e) 4 1) (rdlUnit e) with st := .running }

theorem bump_running {s : State} (hf : frozen s = false) (u i n : Nat) : bump s u i n = setFace s u { getFace s u with
    cnt := mput 0 (getFace s u).cnt i (inc64 (mget 0 (getFace s u).cnt i) n) } := if_neg (by simp [hf])

theorem countRoute_counts {s : State} {e : Nat} (hf : frozen s = false) : EnginesOnly s (countRoute s e) ∧
    mget 0 (getFace (countRoute s e) (rdlUnit e)).cnt 4 = inc64 (mget 0 (getFace s (rdlUnit e)).cnt 4) 1 := by
  unfold countRoute
  rw [bump_running hf]
  refine ⟨rfl, ?_⟩
  rw [getFace_setFace_same, getFace_setFace_same, mget_mput_same]

theorem routeConsumed_eq {s : State} {e : Nat} (hf : frozen s = false)
    (hp : (getRiddle s e).pc.toNat + 2 < rdlWords s (getRiddle s e)) : routeConsumed s e =
      setRiddle (setRiddle (countRoute s e) e { getRiddle s e with op := none }) e
        { getRiddle s e with op := none, pc := (getRiddle s e).pc + 2, phase := .idle } := by
  have hw : rdlWords (countRoute s e) { getRiddle s e with op := none } = rdlWords s (getRiddle s e) := by
    rw [(countRoute_counts hf).1]
    rfl
  have hr : getRiddle (bump s (rdlUnit e) 4 1) e = getRiddle s e := by
    rw [bump_running hf]
    rfl
  refine Eq.trans ?_ (rdlAdvance_setRiddle (r := { getRiddle s e with op := none }) (n := 2) (by rw [hw]; exact hp))
  rw [← hr]
  rfl

/-- The command that completes at once moves on by its two words and counts in ROUTES. -/
theorem routeConsumed_moves {s : State} {e : Nat} (hf : frozen s = false)
    (hp : (getRiddle s e).pc.toNat + 2 < rdlWords s (getRiddle s e)) :
    EnginesOnly s (routeConsumed s e) ∧ (getRiddle (routeConsumed s e) e).op = none ∧
      (getRiddle (routeConsumed s e) e).pc = (getRiddle s e).pc + 2 ∧
      mget 0 (getFace (routeConsumed s e) (rdlUnit e)).cnt 4 = inc64 (mget 0 (getFace s (rdlUnit e)).cnt 4) 1 := by
  obtain ⟨hv, hc⟩ := countRoute_counts (s := s) (e := e) hf
  rw [routeConsumed_eq hf hp]
  refine ⟨?_, by rw [getRiddle_setRiddle_same], by rw [getRiddle_setRiddle_same], hc⟩
  unfold EnginesOnly at hv ⊢
  rw [hv]
  rfl

/-! #### ROUTE -/

/-- The operation that ROUTE starts. -/
def routeOp (s : State) (e : Nat) (f : RouteF) (c : RiddleCfg) : ROp :=
  { f := f, rho := (rdlGroup s e).idxOf e, gang := (getRiddle s e).gang, step := (getCtx s (rdlCtx s e)).stepsDone, cfg := c,
    place := s.tab.placement.filter (fun p => p.cfg = c.cfg && decide (p.expert < c.experts)),
    keff := kEff c, tokens := 0, tokenBase := 0, choices := [], nanTokens := 0, list := none, reserved := false }

/-- The engine with the registers that ROUTE sets. -/
def routeRegs (s : State) (e : Nat) (f : RouteF) : State :=
  setRiddle s e { getRiddle s e with
    cfgId := f.cfg, tag := f.tag, rank := BitVec.ofNat 8 ((rdlGroup s e).idxOf e) }

theorem route_faults {s : State} {e : Nat} {f : RouteF} {code : Nat}
    (h : routeFault s e ((rdlGroup s e).idxOf e) f (s.tab.riddle.find? (fun c => c.cfg = f.cfg.toNat)) = some code) :
    route s e f = unitFault s (rdlUnit e) code := by
  unfold route
  dsimp only
  rw [h]

theorem route_starts {s : State} {e : Nat} {f : RouteF} {c : RiddleCfg}
    (hc : s.tab.riddle.find? (fun c => c.cfg = f.cfg.toNat) = some c)
    (h : routeFault s e ((rdlGroup s e).idxOf e) f (s.tab.riddle.find? (fun c => c.cfg = f.cfg.toNat)) = none) :
    route s e f = seqCheck (routeRegs s e f) e (routeOp s e f c) := by
  unfold route
  dsimp only
  rw [h, hc]
  rfl

theorem routeHeader_regs (s : State) (e : Nat) (f : RouteF) (c : RiddleCfg) :
    routeHeader (routeRegs s e f) e (routeOp s e f c) =
      b0Read s (rdlCtx s e) (srcCoreOf f ((rdlGroup s e).idxOf e)) (64 * f.scoreAddr.toNat) 16 := rfl

/-! #### The commands -/

theorem exec_lrtab_of {s : State} {e : Fin 32} {f : LrtabF} (h : rdlIssues s e.val = true) (hf : f.rank ≠ 3) :
    exec (.lrtab e f) s = .next (rdlAdvance (setRiddle s e.val { getRiddle s e.val with
      lr := some f, lane := if (getRiddle s e.val).lr = some f then (getRiddle s e.val).lane else [] }) e.val 1) :=
  congrArg Host.Outcome.next ((rdlCommand_issues h _).trans (if_neg hf))

/-- Settles O28: each command by its branch; ROUTE by what the header shows. -/
theorem riddleCommands : Obligations.RiddleCommands := by
  unfold Obligations.RiddleCommands
  intro s e f g h
  dsimp only
  obtain ⟨hz, hrun, hop⟩ := rdlIssues_state h
  have hroute : exec (.route e g) s = .next (route s e.val g) := congrArg Host.Outcome.next (rdlCommand_issues h _)
  have hhead := fun c => routeHeader_regs s e.val g c
  refine ⟨fun hr => ?_, fun hr hp => ?_, ?_, fun code hc => ?_, fun c hc hnf => ⟨fun hq => ?_, fun hq hm => ?_, fun hm hp => ?_⟩⟩
  · exact congrArg Host.Outcome.next ((rdlCommand_issues h _).trans (if_pos hr))
  · rw [exec_lrtab_of h hr, rdlAdvance_setRiddle (r := { getRiddle s e.val with
        lr := some f, lane := if (getRiddle s e.val).lr = some f then (getRiddle s e.val).lane else [] }) hp,
      setRiddle_setRiddle fun h => absurd (congrArg Riddle.lr h) (Option.some_ne_none f)]
    rfl
  · refine congrArg Host.Outcome.next ((rdlCommand_issues h _).trans (if_pos (.inl ?_)))
    exact hrun
  · rw [hroute, route_faults hc]
  · rw [hroute, route_starts hc hnf, seqCheck_ready (by rw [hhead]; exact hq)]
    refine ⟨_, _, rfl, by rw [getRiddle_setRiddle_same], ?_, ?_, rfl, rfl, rfl, rfl, rfl, rfl,
      setRiddle_setFace_enginesOnly ..⟩
    · rw [getRiddle_setRiddle_same]
    · rw [getFace_setRiddle, getFace_setFace_same]
  · rw [hroute, route_starts hc hnf, seqCheck_waits (by rw [hhead]; exact hq) (by rw [hhead]; exact hm)]
    refine ⟨_, rfl, ?_, ?_, setRiddle_setFace_enginesOnly ..⟩
    · rw [getRiddle_setRiddle_same]
    · rw [getFace_setRiddle, getFace_setFace_same]
  · rw [hroute, route_starts hc hnf, seqCheck_consumed (by rw [hhead]; exact hm)]
    obtain ⟨ho, hop, hpc, hcnt⟩ := routeConsumed_moves (s := routeRegs s e.val g) (e := e.val) hz
      (by rw [routeRegs, getRiddle_setRiddle_same]; exact hp)
    refine ⟨_, rfl, hop, ?_, hcnt, ?_⟩
    · rw [hpc, routeRegs, getRiddle_setRiddle_same]
    · rw [ho]
      rfl

end Sys2Proof.Machine


/-! ### The choices of a token -/

namespace Sys2Proof.Machine

open Sys2Proof

/-- The numbers of the entries. -/
def idsOf (l : List (Nat × FV)) : List Nat := l.map (fun e => e.1)

theorem keyFirst_none {l : List (Nat × FV)} (h : keyFirst l = none) : l = [] := by
  cases l with
  | nil => rfl
  | cons a r =>
    unfold keyFirst at h
    cases hr : keyFirst r <;> simp [hr] at h

theorem keyFirst_mem {l : List (Nat × FV)} {a : Nat × FV} (h : keyFirst l = some a) : a ∈ l := by
  induction l generalizing a with
  | nil => exact absurd h (by simp [keyFirst])
  | cons b r ih =>
    unfold keyFirst at h
    cases hr : keyFirst r with
    | none =>
      rw [hr, Option.some_inj] at h
      exact h ▸ List.mem_cons_self
    | some c =>
      rw [hr, Option.some_inj] at h
      split at h
      · exact h ▸ List.mem_cons_self
      · exact h ▸ List.mem_cons_of_mem _ (ih hr)

theorem keyTop_some (n : Nat) {l : List (Nat × FV)} {a : Nat × FV} (h : keyFirst l = some a) :
    keyTop (n + 1) l = a.1 :: keyTop n (l.filter (fun b => b.1 ≠ a.1)) := by
  rw [keyTop, h]

theorem keyTop_none (n : Nat) {l : List (Nat × FV)} (h : keyFirst l = none) : keyTop n l = [] := by
  cases n with
  | zero => rfl
  | succ n => rw [keyTop, h]

/-- The entries chosen are entries of the list. -/
theorem keyTop_subset (n : Nat) (l : List (Nat × FV)) : ∀ i ∈ keyTop n l, i ∈ idsOf l := by
  induction n generalizing l with
  | zero => exact fun i hi => absurd hi (List.not_mem_nil)
  | succ n ih =>
    intro i hi
    cases h : keyFirst l with
    | none => exact absurd (keyTop_none (n + 1) h ▸ hi) List.not_mem_nil
    | some a =>
      rw [keyTop_some n h, List.mem_cons] at hi
      rcases hi with rfl | hi
      · exact List.mem_map_of_mem (keyFirst_mem h)
      · obtain ⟨e, he, hei⟩ := List.mem_map.mp (ih _ i hi)
        exact List.mem_map.mpr ⟨e, List.mem_of_mem_filter he, hei⟩

theorem keyTop_nodup (n : Nat) (l : List (Nat × FV)) : (keyTop n l).Nodup := by
  induction n generalizing l with
  | zero => exact List.nodup_nil
  | succ n ih =>
    cases h : keyFirst l with
    | none => exact keyTop_none (n + 1) h ▸ List.nodup_nil
    | some a =>
      rw [keyTop_some n h]
      refine List.nodup_cons.mpr ⟨fun ha => ?_, ih _⟩
      obtain ⟨e, he, hei⟩ := List.mem_map.mp (keyTop_subset n _ _ ha)
      exact absurd hei (by simpa using (List.mem_filter.mp he).2)

/-- The entry chosen leaves; the others, with numbers of their own, stay. -/
theorem length_filter_other {l : List (Nat × FV)} (hn : (idsOf l).Nodup) {a : Nat × FV} (ha : a ∈ l) :
    (l.filter (fun b => b.1 ≠ a.1)).length + 1 = l.length := by
  have h : (idsOf l).filter (fun i => i ≠ a.1) = (idsOf l).erase a.1 := by
    rw [hn.erase_eq_filter]
    exact List.filter_congr fun i _ => (decide_not ..).trans rfl
  have hl := congrArg List.length h
  have hm : a.1 ∈ idsOf l := List.mem_map_of_mem ha
  rw [List.length_erase_of_mem hm, idsOf, List.filter_map, List.length_map, List.length_map] at hl
  have hp := List.length_pos_of_mem ha
  change (l.filter (fun b => b.1 ≠ a.1)).length = _ at hl
  omega

theorem keyTop_length (n : Nat) {l : List (Nat × FV)} (hn : (idsOf l).Nodup) : (keyTop n l).length = min n l.length := by
  induction n generalizing l with
  | zero => exact (Nat.zero_min _).symm
  | succ n ih =>
    cases h : keyFirst l with
    | none => rw [keyTop_none (n + 1) h, keyFirst_none h]; rfl
    | some a =>
      have hl := length_filter_other hn (keyFirst_mem h)
      rw [keyTop_some n h, List.length_cons, ih (hn.sublist (List.filter_sublist.map _)), ← hl]
      omega

/-! #### Eligible experts -/

theorem idsOf_indexed (l : List FV) : idsOf (indexed l) = List.range l.length :=
  List.map_fst_zip (by simp)

theorem eligible_sublist (c : RiddleCfg) (keys : List FV) : (eligible c keys).Sublist (indexed keys) := by
  unfold eligible
  dsimp only
  split
  · exact List.Sublist.refl _
  · exact List.filter_sublist

theorem eligible_nodup (c : RiddleCfg) (keys : List FV) : (idsOf (eligible c keys)).Nodup := by
  refine List.Nodup.sublist ((eligible_sublist c keys).map _) ?_
  show (idsOf (indexed keys)).Nodup
  rw [idsOf_indexed]
  exact List.nodup_range

/-- The keys that order the experts of a token. -/
def choiceKeys (c : RiddleCfg) (bias sc : List FV) : List FV :=
  if c.biasEn then (indexed (normalise c.norm sc)).map (fun a => rnd 1 (fadd a.2 (bias.getD a.1 fv0)))
  else normalise c.norm sc

/-- The weight of an expert whose group of choices has the tree sum `w`. -/
def choiceWeight (p : List FV) (w : FV) (i : Nat) : W32 :=
  BitVec.ofNat 32 (enc 1 none (if w.isZero then fv0 else rnd 1 (fdiv (p.getD i fv0) w)))

/-- Each expert chosen stands with its weight. -/
theorem tokenChoices_eq (c : RiddleCfg) (k : Nat) (bias sc : List FV) :
    let ids := keyTop k (eligible c (choiceKeys c bias sc))
    let p := normalise c.norm sc
    (tokenChoices c k bias sc).1 = ids.map (fun i => (i, choiceWeight p (treeSum32 (ids.map (fun i => p.getD i fv0))) i)) := by
  dsimp only
  unfold tokenChoices
  dsimp only [choiceKeys]
  rw [List.map_map, List.map_map, ← List.map_prod_left_eq_zip]
  rfl

/-- Settles O29, from what the key order takes out of the eligible experts. -/
theorem riddleChoices : Obligations.RiddleChoices := by
  unfold Obligations.RiddleChoices
  intro c k bias sc
  have h := tokenChoices_eq c k bias sc
  dsimp only at h ⊢
  have hk : (if c.biasEn then (indexed (normalise c.norm sc)).map (fun a => rnd 1 (fadd a.2 (bias.getD a.1 fv0)))
      else normalise c.norm sc) = choiceKeys c bias sc := rfl
  rw [hk, h, List.map_map]
  rw [show ((fun e : Nat × W32 => e.1) ∘ fun i => (i, choiceWeight _ _ i)) = id from rfl, List.map_id]
  refine ⟨keyTop_nodup .., keyTop_length _ (eligible_nodup ..), keyTop_subset _ _, fun e he => ?_⟩
  obtain ⟨i, _, rfl⟩ := List.mem_map.mp he
  rfl

end Sys2Proof.Machine


/-! ### Accesses of a memory without errors

With no stored error and no lane marked, an access of Bench 1 changes its bytes, the counters of the controllers and the
regulators, and asks for the lines that the companion holds. -/

namespace Sys2Proof.Machine

open Sys2Proof

/-- `t` comes from `s` by accesses of a memory without errors. -/
structure CleanAccess (s t : State) : Prop where
  only : t = { s with
    faces := t.faces
    buckets := t.buckets
    bench1 := t.bench1
    drg := { s.drg with need := t.drg.need } }
  face : ∀ u, getFace t u = { getFace s u with cnt := (getFace t u).cnt }
  held : HeldKept s t

theorem CleanAccess.refl (s : State) : CleanAccess s s := ⟨rfl, fun _ => rfl, .refl s⟩

theorem CleanAccess.trans {s t u : State} (h₁ : CleanAccess s t) (h₂ : CleanAccess t u) : CleanAccess s u := by
  refine ⟨?_, fun v => ?_, h₁.held.trans h₂.held⟩
  · have h := h₁.only
    rw [h₂.only, h]
  · rw [h₂.face, h₁.face]

theorem CleanAccess.foldl {β : Type} {f : State → β → State} (hf : ∀ s b, CleanAccess s (f s b)) (l : List β) (s : State) :
    CleanAccess s (l.foldl f s) := foldl_rel (R := CleanAccess) .refl .trans hf l s

/-- The memory stays without errors. -/
theorem CleanAccess.cleanHbm {s t : State} (h : CleanAccess s t) (hc : CleanHbm s) : CleanHbm t := by
  rw [h.only]
  exact hc

theorem setFace_cnt_cleanAccess (s : State) (u : Nat) (m : SMap W64) :
    CleanAccess s (setFace s u { getFace s u with cnt := m }) := by
  refine ⟨rfl, fun v => ?_, .of_drg rfl⟩
  rw [getFace_setFace]
  by_cases hv : v = u
  · rw [if_pos hv, hv]
  · rw [if_neg hv]

theorem bump_cleanAccess (s : State) (u i n : Nat) : CleanAccess s (bump s u i n) := by
  unfold bump
  split
  · exact .refl s
  · exact setFace_cnt_cleanAccess ..

theorem chargeHbm_cleanAccess (s : State) (ctx : Option Nat) (n : Nat) : CleanAccess s (chargeHbm s ctx n) := by
  unfold chargeHbm
  split
  · exact .refl s
  · dsimp only
    split
    · exact ⟨rfl, fun _ => rfl, .of_drg rfl⟩
    · exact .refl s

theorem countBlock_cleanAccess (x n : Nat) (wr : Bool) (ctx : Option Nat) (s : State) (b : Nat) :
    CleanAccess s (countBlock x n wr ctx s b) := by
  unfold countBlock
  split
  · exact .refl s
  · dsimp only
    split
    · exact (bump_cleanAccess ..).trans (chargeHbm_cleanAccess ..)
    · cases (getHbm s _).st
      case test | retrain | failed => exact bump_cleanAccess ..
      all_goals exact .refl s

theorem countAccess_cleanAccess (s : State) (x n : Nat) (wr : Bool) (ctx : Option Nat) :
    CleanAccess s (countAccess s x n wr ctx) := .foldl (countBlock_cleanAccess x n wr ctx) _ s

theorem snoopNeed_cleanAccess (s : State) (x n : Nat) (wr : Bool) : CleanAccess s (snoopNeed s x n wr) := by
  refine ⟨?_, fun u => ?_, snoopNeed_held ..⟩
  all_goals
    unfold snoopNeed
    split
    · rfl
    · dsimp only
      split <;> rfl

/-! #### Reads -/

theorem applyErr_nil (d : List Byte) : applyErr d [] = d := by
  unfold applyErr
  simp only [List.foldl_nil, indexed]
  exact List.map_snd_zip (by simp)

theorem markedLanes_clean {h : Hbm} (hm : h.marked = []) (pc : Nat) : markedLanes h pc = [] := by
  unfold markedLanes
  rw [hm, List.filter_eq_nil_iff]
  intro l _
  simp [mget]

theorem filterMap_none {α β : Type} (l : List α) : l.filterMap (fun _ => (none : Option β)) = [] := by simp

theorem cwRead_clean {s : State} (h : CleanHbm s) (n loc : Nat) (r : Req) :
    cwRead s n loc [] r = (readBytes s.bench1 (key n loc) 32, false, s) := by
  unfold cwRead
  dsimp only
  rw [markedLanes_clean (h.2 n), h.1, applyErr_nil,
    show ((List.range 4).filterMap fun i => if mget (0 : Byte) [] (key n loc * 4 + i) = 0 then none
      else some (32 + i, mget (0 : Byte) [] (key n loc * 4 + i))) = [] from filterMap_none _]
  rfl

/-- The bytes that one codeword of a read delivers. -/
def cwBytes (s : State) (x : Nat) : List Byte :=
  match place s.bench1 x with
  | none => List.replicate 32 0
  | some k => if served s (k / stackShift) then readBytes s.bench1 (key (k / stackShift) (k % stackShift)) 32
    else List.replicate 32 0

theorem readCwAt_clean {a : List Byte × State} (h : CleanHbm a.2) (r : Req) (x : Nat) :
    readCwAt r a x = (a.1 ++ cwBytes a.2 x, a.2) := by
  unfold readCwAt cwBytes
  cases place a.2.bench1 x with
  | none => rfl
  | some k =>
    dsimp only
    rw [cwRead_clean h]
    split <;> rfl

theorem readCws_clean {s : State} (h : CleanHbm s) (r : Req) (l : List Nat) (d : List Byte) :
    l.foldl (readCwAt r) (d, s) = (d ++ l.flatMap (cwBytes s), s) := by
  induction l generalizing d with
  | nil => simp
  | cons x l ih =>
    rw [List.foldl_cons, readCwAt_clean h, ih, List.flatMap_cons, List.append_assoc]

theorem b1Read_cleanAccess {s : State} (h : CleanHbm s) (x n : Nat) (r : Req) : CleanAccess s (b1Read s x n r).2 := by
  have hc := (snoopNeed_cleanAccess s x n false).trans (countAccess_cleanAccess _ x n false r.ctx)
  unfold b1Read
  dsimp only
  rw [readCws_clean (hc.cleanHbm h)]
  exact hc

theorem b1Nat_cleanAccess {s : State} (h : CleanHbm s) (x n : Nat) (r : Req) : CleanAccess s (b1Nat s x n r).2 :=
  b1Read_cleanAccess h x n r

/-! #### Writes -/

theorem cwWrite_clean {s : State} (h : CleanHbm s) (n loc : Nat) (d : List Byte) :
    cwWrite s n loc d = { s with bench1 := writeBytes s.bench1 (key n loc) d } := by
  have hm : mclear s.chk (fun k => k / 4 = key n loc) = s.chk := by
    rw [h.1]
    rfl
  exact congrArg (fun c => { s with bench1 := writeBytes s.bench1 (key n loc) d, chk := c }) hm

theorem cwWrite_cleanAccess {s : State} (h : CleanHbm s) (n loc : Nat) (d : List Byte) : CleanAccess s (cwWrite s n loc d) := by
  rw [cwWrite_clean h]
  exact ⟨rfl, fun _ => rfl, .of_drg rfl⟩

theorem cwModify_cleanAccess {s : State} (h : CleanHbm s) (n loc : Nat) (d : List Byte) (mask : Nat → Bool) (r : Req) :
    CleanAccess s (cwModify s n loc d mask [] r) := by
  unfold cwModify
  split
  · exact cwWrite_cleanAccess h ..
  · have hb := bump_cleanAccess s (552 + n) 8 1
    dsimp only
    rw [cwRead_clean (hb.cleanHbm h)]
    exact hb.trans (cwWrite_cleanAccess (hb.cleanHbm h) ..)

theorem writeCwAt_cleanAccess {s : State} (h : CleanHbm s) (x : Nat) (d : List Byte) (r : Req) (cw : Nat) :
    CleanAccess s (writeCwAt x d r s cw) := by
  unfold writeCwAt
  split
  · exact .refl s
  · split
    · exact cwModify_cleanAccess h ..
    · exact .refl s

theorem writeCws_cleanAccess {s : State} (h : CleanHbm s) (x : Nat) (d : List Byte) (r : Req) (l : List Nat) :
    CleanAccess s (l.foldl (writeCwAt x d r) s) := by
  induction l generalizing s with
  | nil => exact .refl s
  | cons cw l ih =>
    have hw := writeCwAt_cleanAccess h x d r cw
    exact hw.trans (ih (hw.cleanHbm h))

theorem b1Write_cleanAccess {s : State} (h : CleanHbm s) (x : Nat) (d : List Byte) (r : Req) :
    CleanAccess s (b1Write s x d r) := by
  have hc := (snoopNeed_cleanAccess s x d.length true).trans (countAccess_cleanAccess _ x d.length true r.ctx)
  exact hc.trans (writeCws_cleanAccess (hc.cleanHbm h) ..)

end Sys2Proof.Machine


/-! ### The work of a routing engine -/

namespace Sys2Proof.Machine

open Sys2Proof

/-! #### A buffer of a pool taken -/

/-- The buffer at the head of a pool's free list. -/
def headBuf (q : Pool) : Nat := if q.fresh < q.count then q.fresh else q.ret.headD 0

theorem poolHead_free {q : Pool} (h : 0 < poolFree q) : ∃ r, poolHead q = some (headBuf q, r) ∧ poolFree r = poolFree q - 1 ∧
    r = { q with fresh := r.fresh, ret := r.ret } := by
  unfold poolHead headBuf
  by_cases hf : q.fresh < q.count
  · rw [if_pos hf, if_pos hf]
    refine ⟨_, rfl, ?_, rfl⟩
    simp only [poolFree]
    omega
  · rw [if_neg hf, if_neg hf]
    cases hr : q.ret with
    | nil =>
      simp only [poolFree, hr, List.length_nil] at h
      omega
    | cons i l =>
      refine ⟨_, rfl, ?_, rfl⟩
      simp only [poolFree, hr, List.length_cons]
      omega

/-- One buffer is taken: the pool has one free buffer less. -/
theorem poolTakeN_one {q : Pool} (h : 0 < poolFree q) (refs : Nat) : ∃ r, poolTakeN 1 refs q = ([headBuf q], r) ∧
    poolFree r = poolFree q - 1 ∧ r = { q with fresh := r.fresh, ret := r.ret, refs := r.refs, allocs := r.allocs } := by
  obtain ⟨r, hr, hf, he⟩ := poolHead_free h
  refine ⟨{ r with refs := mput 0 r.refs (headBuf q) (max 1 refs), allocs := inc64 r.allocs 1 }, ?_, hf, ?_⟩
  · rw [poolTakeN, hr]
    rfl
  · dsimp only
    rw [he]

/-- `t` is `s` but for the pools and the events that they post. -/
def PoolsOnly (s t : State) : Prop := t = { s with bpm := t.bpm, drg := t.drg, evt := t.evt, aon := t.aon }

/-- A pool after its crossing: what it holds is the same. -/
def PoolLevel (q r : Pool) : Prop := r = { q with low := r.low, st := r.st, amberEv := r.amberEv, redEv := r.redEv }

theorem PoolLevel.free {q r : Pool} (h : PoolLevel q r) : poolFree r = poolFree q := by
  rw [h]
  rfl

/-- A crossing at the end of a Yard cycle. -/
structure PoolCrossed (s t : State) (p : Nat) : Prop where
  only : PoolsOnly s t
  held : HeldKept s t
  level : PoolLevel (getPool s p) (getPool t p)

theorem PoolCrossed.of_set (s : State) (p : Nat) {r : Pool} (h : PoolLevel (getPool s p) r) : PoolCrossed s (setPool s p r) p :=
  ⟨rfl, .of_drg rfl, by rw [getPool_setPool_same]; exact h⟩

theorem PoolCrossed.post {s t : State} {p : Nat} (h : PoolCrossed s t p) (code : Nat) (ctx : Option (Fin 16)) (a0 a1 : Nat) :
    PoolCrossed s (post t code ctx a0 a1) p := by
  have he := post_eventOnly t code ctx a0 a1
  refine ⟨?_, h.held.trans (post_held ..), ?_⟩
  · have ho := h.only
    unfold PoolsOnly EventOnly at *
    rw [he, ho]
  · have hl := h.level
    rw [he]
    exact hl

theorem poolCross_crossed (s : State) (p : Nat) : PoolCrossed s (poolCross s p) p := by
  unfold poolCross
  dsimp only
  split
  · split
    iterate 6
      refine (PoolCrossed.of_set s p ?_).post ..
      rfl
    refine .of_set s p ?_
    rfl
  · exact ⟨rfl, .refl s, rfl⟩

/-- The state after one buffer of pool `p` was taken, which stood as `q`. -/
structure BufferTaken (s t : State) (p : Nat) (q : Pool) : Prop where
  only : PoolsOnly s t
  held : HeldKept s t
  free : poolFree (getPool t p) = poolFree q - 1
  waiters : (getPool t p).waiters = q.waiters
  bench1 : (getPool t p).bench1 = q.bench1

theorem takeBuffer_taken (s : State) (p : Nat) {q r : Pool} (hf : poolFree r = poolFree q - 1)
    (hr : r = { q with fresh := r.fresh, ret := r.ret, refs := r.refs, allocs := r.allocs }) :
    BufferTaken s (poolCross (setPool s p r) p) p q := by
  have h := poolCross_crossed (setPool s p r) p
  have hl := h.level
  rw [getPool_setPool_same] at hl
  refine ⟨?_, HeldKept.trans (t := setPool s p r) (.of_drg rfl) h.held, hl.free.trans hf, ?_, ?_⟩
  · have ho := h.only
    unfold PoolsOnly at *
    rw [ho]
    rfl
  · rw [hl, hr]
  · rw [hl, hr]

theorem poolAlloc_one {s : State} {p : Nat} (hd : (getPool s p).declared = true) (hw : (getPool s p).waiters = [])
    (h : 0 < poolFree (getPool s p)) : ∃ t, poolAlloc s p 1 1 = some ([headBuf (getPool s p)], t) ∧
      BufferTaken s t p (getPool s p) := by
  obtain ⟨r, hr, hf, he⟩ := poolTakeN_one h 1
  refine ⟨_, ?_, takeBuffer_taken s p hf he⟩
  unfold poolAlloc
  dsimp only
  rw [if_pos ⟨hd, hw, h⟩, hr]

theorem poolServe_one {s : State} {p : Nat} {w : Waiter} {l : List (Waiter × Nat)} (hw : (getPool s p).waiters = (w, 1) :: l)
    (h : 0 < poolFree (getPool s p)) : ∃ t, poolServe s p 1 = some (w, [headBuf (getPool s p)], t) ∧
      BufferTaken s t p { getPool s p with waiters := l } := by
  obtain ⟨r, hr, hf, he⟩ := poolTakeN_one (q := { getPool s p with waiters := l }) h 1
  refine ⟨_, ?_, takeBuffer_taken s p hf he⟩
  unfold poolServe
  dsimp only
  rw [hw]
  dsimp only
  rw [if_pos (Nat.succ_le_of_lt h), hr]
  rfl

/-! #### The list in its buffer -/

/-- `t` is `s` but for the cores. -/
def CoresOnly (s t : State) : Prop := t = { s with cores := t.cores }

/-- A buffer that lies in Bench 0 is written there. -/
theorem bufWrite_coresOnly {s : State} {p : Nat} (h : (getPool s p).bench1 = false) (i o : Nat) (d : List Byte) (r : Req) :
    CoresOnly s (bufWrite s p i o d r) := by
  unfold bufWrite bufLoc
  dsimp only
  rw [if_neg (by simp [h])]
  dsimp only
  split <;> rfl

/-- The free entries of a list queue follow the reservations of the engines. -/
theorem queueFree_setRiddle {s : State} {e : Nat} {r : Riddle}
    (h : (r.op.map (·.reserved)).getD false = ((getRiddle s e).op.map (·.reserved)).getD false) (t : Nat) :
    queueFree (setRiddle s e r) t = queueFree s t := by
  have hj : ∀ j, ((getRiddle (setRiddle s e r) j).op.map (·.reserved)).getD false =
      ((getRiddle s j).op.map (·.reserved)).getD false := by
    intro j
    rw [getRiddle_setRiddle]
    split
    · rename_i hj
      rw [hj, h]
    · rfl
  unfold queueFree
  simp only [hj]
  rfl

/-- `t` is `s` but for the engines. -/
def RiddlesOnly (s t : State) : Prop := t = { s with riddles := t.riddles }

/-- An engine with its list tries to reserve a queue entry. -/
structure Reserving (s t : State) (e : Nat) (o : ROp) : Prop where
  only : RiddlesOnly s t
  op : ∃ r, (getRiddle t e).op = some r ∧ r = { o with reserved := r.reserved } ∧
    (o.reserved = true ∨ 0 < queueFree s (e / 4) → r.reserved = true)

theorem tryReserve_reserving {s : State} {e : Nat} {o : ROp} (h : (getRiddle s e).op = some o) (hl : o.list.isSome) :
    Reserving s (tryReserve s e) e o := by
  unfold tryReserve
  rw [h]
  dsimp only
  split
  · exact ⟨rfl, _, by rw [getRiddle_setRiddle_same], rfl, fun _ => rfl⟩
  · rename_i hn
    refine ⟨rfl, o, h, rfl, fun hr => ?_⟩
    rcases hr with hr | hr
    · exact hr
    · by_contra hf
      exact hn ⟨hl, by simpa using hf, by omega⟩

/-- The list of an engine lies in its buffer: what is left of the state before. -/
structure ListStored (s t : State) (e : Nat) (o : ROp) (l : DList) : Prop where
  only : t = { s with cores := t.cores, riddles := t.riddles }
  op : ∃ r, (getRiddle t e).op = some r ∧ r = { o with list := some l, reserved := r.reserved } ∧
    (o.reserved = true ∨ 0 < queueFree s (e / 4) → r.reserved = true)

theorem riddleBuffer_stored {s : State} {e p buf : Nat} {o : ROp} {l : DList} (h : (getRiddle s e).op = some o)
    (hl : o.list = some l) (hb : (getPool s l.pool).bench1 = false) :
    ListStored s (riddleBuffer s e p buf) e o { l with buf := buf } := by
  unfold riddleBuffer
  rw [h]
  dsimp only
  rw [hl]
  dsimp only
  have hw := bufWrite_coresOnly hb buf 0 (listBytes { l with buf := buf }) (rdlReq e (rdlCtx s e))
  generalize bufWrite s l.pool buf 0 (listBytes { l with buf := buf }) (rdlReq e (rdlCtx s e)) = u at hw ⊢
  have hg : getRiddle u e = getRiddle s e := by rw [hw]; rfl
  rw [hg]
  have hr := tryReserve_reserving (s := setRiddle u e { getRiddle s e with
    op := some { o with list := some { l with buf := buf } }, phase := .outWait }) (e := e)
    (o := { o with list := some { l with buf := buf } }) (by rw [getRiddle_setRiddle_same]) rfl
  generalize tryReserve _ e = t at hr ⊢
  obtain ⟨r, hop, hre, hres⟩ := hr.op
  refine ⟨?_, r, hop, hre, fun hf => hres (hf.imp_right fun hf => ?_)⟩
  · have ho := hr.only
    unfold RiddlesOnly CoresOnly at *
    rw [ho, hw]
    rfl
  · rw [queueFree_setRiddle (by rw [hg, h]; rfl), hw]
    exact hf

/-- The engine's list in a buffer just taken. -/
structure ListServed (s t : State) (e p : Nat) (q : Pool) (o : ROp) (l : DList) : Prop where
  held : HeldKept s t
  waiters : (getPool t p).waiters = q.waiters
  free : poolFree (getPool t p) = poolFree q - 1
  op : ∃ r, (getRiddle t e).op = some r ∧ r = { o with list := some l, reserved := r.reserved } ∧
    (o.reserved = true ∨ 0 < queueFree s (e / 4) → r.reserved = true)

theorem BufferTaken.served {s t : State} {q : Pool} {e : Nat} {o : ROp} {l : DList} (h : BufferTaken s t l.pool q)
    (ho : (getRiddle s e).op = some o) (hl : o.list = some l) (hb : q.bench1 = false) (buf : Nat) :
    ListServed s (riddleBuffer t e l.pool buf) e l.pool q o { l with buf := buf } := by
  have hr : getRiddle t e = getRiddle s e := by rw [h.only]; rfl
  have hq : queueFree t (e / 4) = queueFree s (e / 4) := by rw [h.only]; rfl
  obtain ⟨hst, hop⟩ := riddleBuffer_stored (buf := buf) (p := l.pool) (hr ▸ ho) hl (h.bench1.trans hb)
  have hp : getPool (riddleBuffer t e l.pool buf) l.pool = getPool t l.pool := by rw [hst]; rfl
  refine ⟨h.held.trans (.of_drg (by rw [hst])), by rw [hp, h.waiters], by rw [hp, h.free], ?_⟩
  rwa [← hq]

/-! #### The exchange of an engine alone in its group -/

/-- The engine with its list built. -/
def listOf (s : State) (e : Nat) (o : ROp) : State := setRiddle s e { getRiddle s e with
  op := some { o with list := some (buildList o (rdlCtx s e) []) }, phase := .outWait }

theorem capacityExchange_alone {s : State} {e : Nat} {o : ROp} (ho : (getRiddle s e).op = some o)
    (hp : (getRiddle s e).phase = .exchange) (hg : rdlGroup s e = [e]) : capacityExchange s e =
      match poolAlloc (listOf s e o) o.f.pool.toNat 1 1 with
      | some (b, s) => riddleBuffer s e o.f.pool.toNat (b.headD 0)
      | none => poolWait (listOf s e o) o.f.pool.toNat (.riddle (Fin.ofNat 32 e)) 1 := by
  unfold capacityExchange
  dsimp only
  rw [hg, ho]
  have hops : [e].filterMap (fun x => (getRiddle s x).op.map (fun o => (x, o, (getRiddle s x).phase))) =
      [(e, o, .exchange)] := by
    simp [ho, hp]
  rw [hops]
  dsimp only
  rw [if_pos ⟨hp, rfl, by simp⟩]
  have hstart : [(e, o, RPhase.exchange)].filter (fun x => decide (x.2.1.rho < o.rho)) = [] := by simp
  rw [hstart]
  rfl

theorem exec_capacityExchange_of {s : State} {e : Fin 32} (ha : rdlActs s e.val = true) :
    exec (.capacityExchange e) s = .next (guarded s (capacityExchange s e.val)) := congrArg Host.Outcome.next (if_pos ha)

theorem exec_scoreBlock_of {s : State} {e : Fin 32} (ha : rdlActs s e.val = true) (b : Bool) :
    exec (.scoreBlock e b) s = .next (guarded s (scoreBlock s e.val b)) := congrArg Host.Outcome.next (if_pos ha)

theorem exec_handover_of {s : State} {e : Fin 32} (ha : rdlActs s e.val = true) :
    exec (.handover e) s = .next (guarded s (handover s e.val)) := congrArg Host.Outcome.next (if_pos ha)

theorem rdlActs_running {s : State} {e : Nat} (hf : frozen s = false) (h : (getFace s (rdlUnit e)).st = .running) :
    rdlActs s e = true := by simp [rdlActs, hf, h]

theorem loadLane_none {o : ROp} (s : State) (e : Nat) (hl : o.cfg.lowRank = false) : loadLane s e o = ([], s) := by
  unfold loadLane
  dsimp only
  split
  · rfl
  · rw [if_pos hl]

section
variable {s : State} {e : Nat} {o : ROp} (ho : (getRiddle s e).op = some o)
include ho

theorem scoreBlock_mismatch (hp : (getRiddle s e).phase = .load) : scoreBlock s e false =
    unitFault (setRiddle s e { getRiddle s e with op := none, phase := .idle }) (rdlUnit e) 6 := by
  unfold scoreBlock
  rw [ho]
  dsimp only
  rw [if_neg (by simp [hp]), if_neg (by simp [hp]), if_pos (by decide)]
  rfl

theorem scoreBlock_scores (hp : (getRiddle s e).phase = .load) (hl : o.cfg.lowRank = false) (hb : o.cfg.biasEn = false) :
    scoreBlock s e true = setRiddle s e { getRiddle s e with
      op := some { o with choices := (scoreRows s e o [] []).1, nanTokens := (scoreRows s e o [] []).2 }
      phase := .exchange } := by
  have hbias : loadBias s e o = ([], s) := if_neg (by simp [hb])
  unfold scoreBlock
  rw [ho]
  dsimp only
  rw [if_neg (by simp [hp]), if_neg (by simp [hp]), if_neg (by decide), loadLane_none s e hl]
  dsimp only
  rw [hbias]

end

/-! #### The handover of an engine alone in its group -/

/-- What the handover of an engine changes beside the engine itself and the list queue. -/
structure HandStep (s t : State) : Prop where
  only : t = { s with
    dbg := t.dbg
    ctxs := t.ctxs
    faces := t.faces
    buckets := t.buckets
    cores := t.cores
    bench1 := t.bench1
    drg := t.drg }
  held : HeldKept s t

theorem HandStep.trans {s t u : State} (h₁ : HandStep s t) (h₂ : HandStep t u) : HandStep s u := by
  refine ⟨?_, h₁.held.trans h₂.held⟩
  have h := h₁.only
  rw [h₂.only, h]

theorem CleanAccess.handStep {s t : State} (h : CleanAccess s t) : HandStep s t := by
  refine ⟨?_, h.held⟩
  have ho := h.only
  rw [ho]

/-- Engines, list queues, tables and the counts of ROUTE are those of before. -/
theorem HandStep.kept {s t : State} (h : HandStep s t) :
    t.riddles = s.riddles ∧ t.tramways = s.tramways ∧ t.tab = s.tab ∧ t.rdl = s.rdl := by
  rw [h.only]
  exact ⟨rfl, rfl, rfl, rfl⟩

theorem histAdd_cleanAccess {s : State} (h : CleanHbm s) (e cfg : Nat) (x : Nat × Nat × Nat) :
    CleanAccess s (histAdd e cfg s x) := by
  unfold histAdd
  split
  · exact .refl s
  · dsimp only
    have hr := b1Nat_cleanAccess h
    exact (hr ..).trans (b1Write_cleanAccess ((hr ..).cleanHbm h) ..)

theorem histAdds_cleanAccess {s : State} (h : CleanHbm s) (e cfg : Nat) (l : List (Nat × Nat × Nat)) :
    CleanAccess s (l.foldl (histAdd e cfg) s) := by
  induction l generalizing s with
  | nil => exact .refl s
  | cons x l ih =>
    have hx := histAdd_cleanAccess h e cfg x
    exact hx.trans (ih (hx.cleanHbm h))

/-- A write to Bench 0 of a context that runs reaches its core alone. -/
theorem b0Write_coresOnly {s : State} {c : Nat} (h : (getCtx s c).st = .running) (n a : Nat) (d : List Byte) :
    CoresOnly s (b0Write s c n a d) := by
  unfold b0Write
  dsimp only
  rw [h, if_neg (by decide), if_neg (by decide)]
  split <;> rfl

theorem CoresOnly.handStep {s t : State} (h : CoresOnly s t) : HandStep s t := by
  unfold CoresOnly at h
  exact ⟨by rw [h], .of_drg (by rw [h])⟩

theorem bumps_cleanAccess (u : Nat) (l : List (Nat × Nat)) (s : State) :
    CleanAccess s (l.foldl (fun s x => if x.2 = 0 then s else bump s u x.1 x.2) s) := by
  refine .foldl (fun s x => ?_) l s
  split
  · exact .refl s
  · exact bump_cleanAccess ..

theorem fold_handStep (s : State) (c cls key c1 c2 c3 : Nat) (step : W64) (tile : List Byte) :
    HandStep s (fold s c cls key c1 c2 c3 step tile) := by
  unfold fold
  dsimp only
  split
  · exact ⟨rfl, .of_drg rfl⟩
  · split
    · exact ⟨rfl, .of_drg rfl⟩
    · split <;> exact ⟨rfl, .of_drg rfl⟩

theorem addSpoil_handStep (s : State) (c : Nat) (step : W64) (n : Nat) : HandStep s (addSpoil s c step n) := by
  unfold addSpoil
  split
  · exact ⟨rfl, .refl s⟩
  · dsimp only
    split <;> exact ⟨rfl, .of_drg rfl⟩

/-- The list joins the queue of the die's Tramway engine. -/
def queueList (s : State) (e : Nat) (l : DList) : State :=
  setTrw s (e / 4) { getTrw s (e / 4) with queue := (getTrw s (e / 4)).queue ++ [l] }

/-- The engine's registers after its command. -/
def handRegs (r : Riddle) (l : DList) : Riddle :=
  { r with op := none, lastTokens := BitVec.ofNat 16 l.tokens, lastLive := BitVec.ofNat 16 l.live,
           lastSpoil := BitVec.ofNat 16 l.spoil, lastUnplaced := BitVec.ofNat 16 (l.descs.countP (·.unplaced)),
           lastStep := l.step }

/-- The handover of one engine: the list queued, counts and marks, then the command ends. -/
theorem handOne_ends {s : State} {e : Nat} {o : ROp} {l : DList} (hc : CleanHbm s) (ho : (getRiddle s e).op = some o)
    (hl : o.list = some l) (hr : (getCtx s (rdlCtx s e)).st = .running) : ∃ u v, HandStep (queueList s e l) u ∧
      HandStep { u with rdl := { u.rdl with routes := inc64 u.rdl.routes 1 } } v ∧
      handOne s e = rdlAdvance (setRiddle v e (handRegs (getRiddle v e) l)) e 2 := by
  unfold handOne
  rw [ho]
  dsimp only
  rw [hl]
  dsimp only
  have h₁ := histAdds_cleanAccess (s := queueList s e l) hc e l.cfg (histCounts l)
  have h₂ := b0Write_coresOnly (s := (histCounts l).foldl (histAdd e l.cfg) (queueList s e l)) (c := rdlCtx s e)
    (by rw [h₁.only]; exact hr) l.srcCore (64 * o.f.scoreAddr.toNat + 4) (bytesOf 4 (seqOf o.step o.f.tag ^^^ 0x80000000))
  exact ⟨_, _, (h₁.handStep.trans h₂.handStep).trans (bumps_cleanAccess ..).handStep,
    (fold_handStep ..).trans (addSpoil_handStep ..), rfl⟩

theorem handover_alone {s : State} {e : Nat} {o : ROp} (hg : rdlGroup s e = [e]) (ho : (getRiddle s e).op = some o)
    (hres : o.reserved = true) (hb : listBuilt s e = true) (hs : (getFace s (rdlUnit e)).stopIn = false) :
    handover s e = handOne s e := by
  have ht : tryReserve s e = s := by
    unfold tryReserve
    rw [ho]
    exact if_neg fun h => absurd (h.2.1.symm.trans hres) (by decide)
  unfold handover
  dsimp only
  rw [hg, List.foldl_cons, List.foldl_nil, if_pos hb, ht, if_pos ⟨by simp, by simp [hb, ho, hres, hs]⟩]
  rfl

/-- What the handover of an engine alone leaves. -/
theorem handOne_leaves {s : State} {e : Nat} {o : ROp} {l : DList} (hc : CleanHbm s) (ho : (getRiddle s e).op = some o)
    (hl : o.list = some l) (hr : (getCtx s (rdlCtx s e)).st = .running)
    (hp : (getRiddle s e).pc.toNat + 2 < rdlWords s (getRiddle s e)) :
    HeldKept s (handOne s e) ∧ (getTrw (handOne s e) (e / 4)).queue = (getTrw s (e / 4)).queue ++ [l] ∧
      getRiddle (handOne s e) e = { handRegs (getRiddle s e) l with pc := (getRiddle s e).pc + 2, phase := .idle } ∧
      (handOne s e).rdl.routes = inc64 s.rdl.routes 1 := by
  obtain ⟨u, v, hu, hv, he⟩ := handOne_ends hc ho hl hr
  obtain ⟨hur, hut, hutab, hurdl⟩ := hu.kept
  obtain ⟨hvr, hvt, hvtab, hvrdl⟩ := hv.kept
  have hg : getRiddle v e = getRiddle s e := congrArg (fun m => mget ({} : Riddle) m e) (hvr.trans hur)
  have hw : rdlWords v = rdlWords s := by
    funext r
    unfold rdlWords
    rw [hvtab.trans hutab]
    rfl
  rw [he, hg, rdlAdvance_setRiddle (r := handRegs (getRiddle s e) l) (by rw [hw]; exact hp)]
  refine ⟨?_, ?_, ?_, ?_⟩
  · have hq : HeldKept s (queueList s e l) := .of_drg rfl
    have hx : HeldKept u { u with rdl := { u.rdl with routes := inc64 u.rdl.routes 1 } } := .of_drg rfl
    exact (((hq.trans hu.held).trans hx).trans hv.held).trans (.of_drg rfl)
  · have hq : getTrw v (e / 4) = getTrw (queueList s e l) (e / 4) := congrArg (fun m => mget ({} : Tramway) m (e / 4)) (hvt.trans hut)
    exact (congrArg Tramway.queue hq).trans (by rw [queueList, getTrw_setTrw_same])
  · rw [getRiddle_setRiddle_same]
    rfl
  · show v.rdl.routes = _
    rw [hvrdl, hurdl]
    rfl

/-! #### A buffer brought to an engine that waits -/

theorem allocationServed_riddle {s : State} {p : Nat} {e : Fin 32} {w : List (Waiter × Nat)}
    (hw : (getPool s p).waiters = (.riddle e, 1) :: w) (hf : 0 < poolFree (getPool s p)) : ∃ t,
      BufferTaken s t p { getPool s p with waiters := w } ∧
        allocationServed s p = riddleBuffer t e.val p (headBuf (getPool s p)) := by
  obtain ⟨t, ht, hb⟩ := poolServe_one hw hf
  refine ⟨t, hb, ?_⟩
  unfold allocationServed
  rw [hw]
  dsimp only
  rw [ht]
  rfl

/-- Settles O30: each piece of work by its branch, with what a buffer taken and a list stored leave. -/
theorem riddleWork : Obligations.RiddleWork := by
  unfold Obligations.RiddleWork
  intro s e o hz hn ho hrun
  dsimp only
  have ha := rdlActs_running hz hrun
  refine ⟨fun hp => ?_, fun hp hl hb => ?_, fun q hp hg hq hd hb1 hw hf hqf => ?_, fun q hp hg hq hf => ?_,
    fun l hc hg hl hres hb hs hpc hr => ?_, fun l q w hl hlt hq hd hb1 hw hf => ?_⟩
  · rw [exec_scoreBlock_of ha, scoreBlock_mismatch ho hp]
    exact congrArg Host.Outcome.next (guarded_of _ _ (by rw [unitFault_drg]; exact hn.2))
  · rw [exec_scoreBlock_of ha, scoreBlock_scores ho hp hl hb]
    exact congrArg Host.Outcome.next (HeldKept.guarded (.of_drg rfl) hn)
  · subst hq
    obtain ⟨t, ht, hb⟩ := poolAlloc_one (s := listOf s e.val o) (p := o.f.pool.toNat) hd hw hf
    have hop : (getRiddle (listOf s e.val o) e.val).op = some { o with list := some (buildList o (rdlCtx s e.val) []) } := by
      rw [listOf, getRiddle_setRiddle_same]
    have hqe : queueFree (listOf s e.val o) (e.val / 4) = queueFree s (e.val / 4) :=
      queueFree_setRiddle (by rw [ho]; rfl) _
    have hs := BufferTaken.served (l := buildList o (rdlCtx s e.val) []) hb hop rfl hb1 (headBuf (getPool s o.f.pool.toNat))
    obtain ⟨r, hr, hre, hrr⟩ := hs.op
    refine ⟨_, r, (exec_capacityExchange_of ha).trans (congrArg _ ?_), hr, hrr (.inr (hqe ▸ hqf)), by rw [hre]; rfl, hs.free⟩
    rw [capacityExchange_alone ho hp hg, ht]
    exact (HeldKept.trans (s := s) (t := listOf s e.val o) (.of_drg rfl) hs.held).guarded hn
  · subst hq
    have hno : poolAlloc (listOf s e.val o) o.f.pool.toNat 1 1 = none := if_neg fun h => by
      have h1 : 1 ≤ poolFree (getPool s o.f.pool.toNat) := h.2.2
      omega
    have he : capacityExchange s e.val = poolWait (listOf s e.val o) o.f.pool.toNat (.riddle (Fin.ofNat 32 e.val)) 1 := by
      rw [capacityExchange_alone ho hp hg, hno]
    refine ⟨_, { o with list := some (buildList o (rdlCtx s e.val) []) }, (exec_capacityExchange_of ha).trans
      (congrArg _ (HeldKept.guarded (.of_drg (by rw [he]; rfl)) hn)), ?_, rfl, ?_⟩
    · rw [he, poolWait, getRiddle_setPool, listOf, getRiddle_setRiddle_same]
    · rw [he, poolWait, getPool_setPool_same, Fin.ofNat_val_eq_self]
      rfl
  · obtain ⟨hh, hqu, hre, hro⟩ := handOne_leaves hc ho hl hr hpc
    refine ⟨_, (exec_handover_of ha).trans (congrArg _ (by rw [handover_alone hg ho hres hb hs]; exact hh.guarded hn)), hqu, ?_⟩
    rw [hre]
    exact ⟨rfl, rfl, rfl, rfl, rfl, hro⟩
  · subst hq
    have hx : (ctxFin l.pool).val = l.pool := Nat.mod_eq_of_lt hlt
    obtain ⟨t, hb, he⟩ := allocationServed_riddle hw hf
    have hs := hb.served ho hl hb1 (headBuf (getPool s l.pool))
    obtain ⟨r, hr, hre, -⟩ := hs.op
    refine ⟨_, r, (still_of (by simp [hz]) ..).trans (congrArg _ ?_), hs.waiters, hr, by rw [hre]; rfl⟩
    rw [hx, he]
    exact hs.held.guarded hn

end Sys2Proof.Machine


/-! ### COMBINE beside an engine at the end of its program -/

namespace Sys2Proof.Machine

open Sys2Proof

/-- A record of context 0 with one live descriptor and no answer. -/
def waitingRec : TRec :=
  { n := 2, idx := 4, pool := 1, epoch := 1, opSeq := 1
    list := { cfg := 5, tag := 3, tokens := 1, rank := 0, tokenBase := 0, step := 0, live := 1, spoil := 0, dests := 1,
              srcCore := 0, actAddr := 8, ctx := 0, pool := 1, buf := 1
              descs := [{ token := 0, expert := 0, choice := 0, spoil := false, unplaced := false, replica := 0, row := 0,
                          capSlot := 0, node := 0, gang := 1, weight := 0 }] } }

/-- The XCHG at words 9 to 11 of program 3, which has nothing left to wait for. -/
def lastXchg : TOp := { seq := 1, ctx := 0, gang := 2, step := 0, cmd := .xchg ⟨0, 1, 0x100, 0x200, 3, false, 1, 1, 0, 0, 9⟩ }

/-- Two Tramway engines run program 3 of twelve words for context 0: engine 0 is free and holds a record, engine 1 is about to
move past its last word. -/
def lastWord : State :=
  { State.reset with
    tab := { State.reset.tab with
      programs := [(3, List.replicate 12 0)]
      members := [⟨1, 1, 0, 0⟩, ⟨2, 3, 0, 0⟩, ⟨2, 3, 1, 0⟩]
      parts := [⟨0, 1, 2⟩]
      riddle := [⟨5, 4, 2, 0, false, false, 0, 0, 16, 0⟩]
      groups := [⟨1, 1, 1, 1, 0⟩] }
    ctxs := [(0, { st := .running, bind := [(0, 0)] })]
    bpm := { pools := [(1, { declared := true, sizeLog2 := 10, count := 16, gang := 1 })] }
    faces := [(544, { st := .running, owner := some 0 }), (545, { st := .running, owner := some 0 })]
    tramways := [(0, { prog := 3, gang := 2, ended := false, opStarted := 1, recs := [waitingRec] }),
                 (1, { prog := 3, gang := 2, ended := false, pc := 9, opStarted := 1, op := some lastXchg })] }

/-- A COMBINE of the record's tag into pool 1. -/
def combOfRec : CombineF := ⟨5, 3, 1, 1, 1, 2, 2, false, 0, 0x800, 0x100, 0xC00, 2, false⟩

/-- The operation of engine 0 after its COMBINE. -/
def opAfterCombine : Option TOp := match exec (.combine 0 combOfRec) lastWord with
  | .next v => (getTrw v 0).op
  | _ => none

/-- Refutes O31: a COMBINE lets every engine of the node go on. Engine 1 moves past the last word of its program and faults with
PROG_END, which tears the context down, and the operation that the COMBINE has just started on engine 0 is gone. -/
theorem not_tramwayCommands : ¬ Obligations.TramwayCommands := by
  unfold Obligations.TramwayCommands
  intro h
  have hn : NoHeldLines lastWord := ⟨rfl, rfl⟩
  obtain ⟨-, -, -, -, -, hcomb, -, -⟩ := h lastWord 0 ⟨5, 3, 1, 1, 1, 2, 0, 0, 0x400, 0x100, 0, false, 1, false⟩ combOfRec
    ⟨0, 1, 0x100, 0x200, 3, false, 1, 1, 0, 0, 9⟩ (by decide +kernel) hn
  obtain ⟨v, o, l, hv, -, ho, -⟩ := hcomb waitingRec (getPool lastWord 1) (by decide +kernel) (by decide +kernel)
    (by decide +kernel) (by decide +kernel) (by decide +kernel) (by decide +kernel) (by decide +kernel) rfl
    (by decide +kernel) (by decide +kernel) (by decide +kernel)
  have hgone : opAfterCombine = none := by decide +kernel
  unfold opAfterCombine at hgone
  have hv' : exec (.combine 0 combOfRec) lastWord = .next v := hv
  rw [hv'] at hgone
  exact Option.some_ne_none o (ho.symm.trans hgone)

end Sys2Proof.Machine


/-! ### ABORT beside an engine at the end of its program -/

namespace Sys2Proof.Machine

open Sys2Proof

/-- A DISPATCH of tag 3 of configuration 5. -/
def dispOfTag : DispatchF := ⟨5, 3, 1, 1, 1, 2, 0, 0, 0x400, 0x100, 0, false, 1, false⟩

/-- A DISPATCH that has taken no list yet. -/
def freshDisp : TOp := { seq := 1, ctx := 0, gang := 2, step := 0, cmd := .disp dispOfTag }

/-- Engine 0 has that DISPATCH in progress; engine 1 is about to move past the last word of its program. -/
def lastWordDisp : State :=
  setTrw lastWord 0 { prog := 3, gang := 2, ended := false, opStarted := 1, hist := [(1, 1)], op := some freshDisp }

/-- The operation of engine 0 after the ABORT of its number. -/
def opAfterAbort : Option TOp := match exec (.abort 0 0 1) lastWordDisp with
  | .next v => (getTrw v 0).op
  | _ => none

/-- Refutes O32: an ABORT lets every engine of the node go on. Engine 1 moves past the last word of its program and faults with
PROG_END, which tears the context down, and with it goes the DISPATCH that the ABORT has just marked on engine 0. -/
theorem not_tramwayWork : ¬ Obligations.TramwayWork := by
  unfold Obligations.TramwayWork
  intro h
  have hn : NoHeldLines lastWordDisp := ⟨rfl, rfl⟩
  obtain ⟨-, -, -, habort⟩ := h lastWordDisp 0 freshDisp dispOfTag 0 1 (by decide +kernel) hn
  obtain ⟨-, -, hmark⟩ := habort (by decide +kernel) (by decide +kernel)
  obtain ⟨v, hv, -, -, ho, -⟩ := hmark (by decide +kernel) rfl (by decide +kernel) rfl rfl rfl (by decide +kernel)
    (by decide +kernel) (by decide +kernel) (by decide +kernel)
  have hgone : opAfterAbort = none := by decide +kernel
  unfold opAfterAbort at hgone
  have hv' : exec (.abort 0 0 1) lastWordDisp = .next v := hv
  rw [hv'] at hgone
  exact Option.some_ne_none _ (ho.symm.trans hgone)

end Sys2Proof.Machine


/-! ### Packets of the Tramway at their target -/

namespace Sys2Proof.Machine

open Sys2Proof

/-! #### A packet received -/

theorem countFilters_yardOnly (s : State) (p : Packet) (port : Nat) (point : Bool) :
    YardOnly s (countFilters s p port point).2 := by
  unfold countFilters
  refine foldl_rel (R := fun a b : Option Nat × State => YardOnly a.2 b.2) (fun _ => rfl) .trans (fun a f => ?_) _ (none, s)
  dsimp only
  split <;> rfl

theorem YardOnly.held {s t : State} (h : YardOnly s t) : HeldKept s t := .of_drg (by rw [h])

theorem bunting_held (s : State) (p : Packet) (i o : Nat) (point merged : Bool) : HeldKept s (bunting s p i o point merged) := by
  unfold bunting
  split
  · exact .refl s
  · have hc := (countFilters_yardOnly s p (if point then o else i) point).held
    generalize countFilters s p (if point then o else i) point = c at hc ⊢
    obtain ⟨f, v⟩ := c
    cases f with
    | none => exact hc
    | some f =>
      dsimp only at hc ⊢
      refine hc.trans ?_
      split
      · exact .refl v
      · split
        · exact .of_drg rfl
        · exact (b1Write_memAccess ..).held.trans (.of_drg rfl)

theorem takeDelivery_held {s u : State} {p : Packet} (h : takeDelivery s p = some u) : HeldKept s u := by
  unfold takeDelivery at h
  dsimp only at h
  split at h
  · obtain rfl := Option.some.inj h
    refine HeldKept.trans ?_ (bunting_held ..)
    split <;> exact .of_drg rfl
  · exact absurd h (by simp)

theorem openSession_held (s : State) (p : Packet) : HeldKept s (openSession s p) := by
  unfold openSession
  split
  · exact .of_drg rfl
  · exact .refl s

/-- A fresh packet that arrives has its effect, or stays where it is. -/
theorem recv_arrives {s u : State} {p : Packet} (h : Arrives s p u) (dup : State → State) (act : State → Option State) :
    recv s p dup act = (act (openSession u p)).getD s := by
  obtain ⟨hd, ht, hb, hf⟩ := h
  unfold recv
  rw [if_neg (by simp [hd]), ht]
  dsimp only
  rw [if_neg (by simp [hb]), hf]

/-- The state in which a packet that has arrived is served. -/
theorem Arrives.served_held {s u : State} {p : Packet} (h : Arrives s p u) : HeldKept s (openSession u p) :=
  (takeDelivery_held h.2.1).trans (openSession_held ..)

theorem trwRecv_arrives {s u : State} {p : Packet} (h : Arrives s p u) (hl : p.long = true) (ho : p.op = 8)
    (act : State → Option State) : trwRecv s 0 p act = (engineGate (openSession u p) 0 p act).getD s :=
  (if_pos (by simp [isTrw, hl, ho])).trans (recv_arrives h _ _)

theorem engineGate_noImage {s : State} {p : Packet} {port : Nat} (h : noImage s = true) (k : State → Option State) :
    engineGate s port p k = some (sendAck s port p 2 0) := if_pos h

theorem engineGate_gone {s : State} {p : Packet} {port : Nat} (h : noImage s = false)
    (hx : (getCtx s p.ctx.toNat).st = .teardown ∨ (getCtx s p.ctx.toNat).st = .gone) (k : State → Option State) :
    engineGate s port p k = some (sendAck (setCtx s p.ctx.toNat { getCtx s p.ctx.toNat with
      droppedIn := inc64 (getCtx s p.ctx.toNat).droppedIn 1 }) port p 1 0) := by
  refine (if_neg (by simp [h])).trans ?_
  dsimp only
  split
  · rfl
  · rfl
  all_goals
    rename_i hs
    simp_all

theorem engineGate_noCores {s : State} {p : Packet} {port : Nat} (h : noImage s = false)
    (hx : (getCtx s p.ctx.toNat).st ∈ [CState.absent, .declared, .done]) (k : State → Option State) :
    engineGate s port p k = some (sendAck s port p 2 0) := by
  refine (if_neg (by simp [h])).trans ?_
  simp only [List.mem_cons, List.not_mem_nil, or_false] at hx
  rcases hx with hx | hx | hx <;> rw [hx]

theorem engineGate_running {s : State} {p : Packet} {port : Nat} (h : noImage s = false)
    (hx : (getCtx s p.ctx.toNat).st = .running) (k : State → Option State) : engineGate s port p k = k s := by
  refine (if_neg (by simp [h])).trans ?_
  rw [hx]

/-! #### An engine without work -/

/-- `t` is `s`, every Tramway engine as it was. -/
def SameEngines (s t : State) : Prop := t = { s with tramways := t.tramways } ∧ ∀ i, getTrw t i = getTrw s i

theorem SameEngines.trans {s t u : State} (h₁ : SameEngines s t) (h₂ : SameEngines t u) : SameEngines s u := by
  refine ⟨?_, fun i => (h₂.2 i).trans (h₁.2 i)⟩
  have h := h₁.1
  rw [h₂.1, h]

/-- An engine that has no operation and holds no packet stays as it is. -/
def Quiet (s : State) (e : Nat) : Prop := (getTrw s e).op = none ∧ (getTrw s e).held = []

theorem SameEngines.quiet {s t : State} {e : Nat} (h : SameEngines s t) (hq : Quiet s e) : Quiet t e := by
  unfold Quiet at *
  rwa [h.2]

theorem setTrw_same {s : State} {e : Nat} {w : Tramway} (h : w = getTrw s e) : SameEngines s (setTrw s e w) := by
  refine ⟨rfl, fun i => ?_⟩
  rw [getTrw_setTrw]
  split
  · rename_i hi
    rw [h, hi]
  · rfl

theorem trwDrain_empty {s : State} {e : Nat} (h : (getTrw s e).held = []) : SameEngines s (trwDrain s e) := by
  unfold trwDrain
  rw [h]
  exact setTrw_same (by rw [← h])

theorem trwProgress_quiet {s : State} {e : Nat} (h : Quiet s e) : SameEngines s (trwProgress s e) := by
  unfold trwProgress
  rw [h.1]
  have hd := trwDrain_empty h.2
  have ho : (getTrw (trwDrain s e) e).op = none := by rw [hd.2, h.1]
  dsimp only
  rw [ho]
  exact hd

theorem trwProgress_foldl_quiet (l : List Nat) {s : State} (h : ∀ i ∈ l, Quiet s i) : SameEngines s (l.foldl trwProgress s) := by
  induction l generalizing s with
  | nil => exact ⟨rfl, fun _ => rfl⟩
  | cons i l ih =>
    have hs := trwProgress_quiet (h i List.mem_cons_self)
    exact hs.trans (ih fun j hj => hs.quiet (h j (List.mem_cons_of_mem _ hj)))

theorem trwProgressAll_quiet {s : State} (h : ∀ i, i < 8 → Quiet s i) : SameEngines s (trwProgressAll s) :=
  trwProgress_foldl_quiet _ fun i hi => h i (List.mem_range.mp hi)

/-! #### A part taken: what it leaves beside the engine -/

/-- `t` is `s` but for the engines, their counters and the cores. -/
def PartOnly (s t : State) : Prop := t = { s with tramways := t.tramways, faces := t.faces, cores := t.cores }

theorem PartOnly.trans {s t u : State} (h₁ : PartOnly s t) (h₂ : PartOnly t u) : PartOnly s u := by
  unfold PartOnly at *
  rw [h₂, h₁]

theorem PartOnly.refl (s : State) : PartOnly s s := rfl

theorem PartOnly.held {s t : State} (h : PartOnly s t) : HeldKept s t := .of_drg (by rw [h])

theorem SameEngines.partOnly {s t : State} (h : SameEngines s t) : PartOnly s t := by
  unfold PartOnly
  rw [h.1]

theorem CoresOnly.partOnly {s t : State} (h : CoresOnly s t) : PartOnly s t := by
  unfold CoresOnly at h
  unfold PartOnly
  rw [h]

theorem bump_partOnly (s : State) (u i n : Nat) : PartOnly s (bump s u i n) := by
  unfold PartOnly
  rw [bump_facesOnly s u i n]

/-- The acknowledgement of a packet taken stays on its way. -/
theorem PartOnly.answered {s t : State} {e : Nat} {p : Packet} {st arg : Nat} (h : PartOnly (sendAck s e p st arg) t) :
    Answered t p st arg := by
  refine ⟨e, ?_⟩
  rw [h]
  exact List.mem_append_right _ List.mem_cons_self

/-! #### Writes to the cores of a context that runs -/

theorem CoresOnly.running {s t : State} {c : Nat} (h : CoresOnly s t) (hr : (getCtx s c).st = .running) :
    (getCtx t c).st = .running := by
  rw [h]
  exact hr

theorem CoresOnly.trans {s t u : State} (h₁ : CoresOnly s t) (h₂ : CoresOnly t u) : CoresOnly s u := by
  unfold CoresOnly at *
  rw [h₂, h₁]

theorem CoresOnly.tramways {s t : State} (h : CoresOnly s t) : t.tramways = s.tramways := by rw [h]

theorem coresOnly_foldl {β : Type} {f : State → β → State} {c : Nat}
    (hf : ∀ s b, (getCtx s c).st = .running → CoresOnly s (f s b)) (l : List β) {s : State}
    (h : (getCtx s c).st = .running) : CoresOnly s (l.foldl f s) := by
  induction l generalizing s with
  | nil => rfl
  | cons b l ih => exact (hf s b h).trans (ih ((hf s b h).running h))

theorem putElem_coresOnly {s : State} {c : Nat} (h : (getCtx s c).st = .running) (n a fmt i v : Nat) :
    CoresOnly s (putElem s c n a fmt i v) := by
  have hp : ∀ o len, b0Peek s c n o len = (b0Read s c n o len, s) := fun o len => if_neg (by simp [h])
  unfold putElem
  dsimp only
  split
  · exact b0Write_coresOnly h ..
  · rw [hp]
    exact b0Write_coresOnly h ..

theorem putRow_coresOnly {s : State} {tb : CountTab} (h : (getCtx s tb.ctx.val).st = .running) (r : Nat) (row : List Byte)
    (n : Nat) : CoresOnly s (putRow s tb r row n) := by
  unfold putRow
  dsimp only
  split
  · exact coresOnly_foldl (fun s e hs => putElem_coresOnly hs ..) _ h
  · exact b0Write_coresOnly h ..

theorem putRowAll_coresOnly {s : State} {tb : CountTab} (h : (getCtx s tb.ctx.val).st = .running) (r : Nat) (row : List Byte) :
    CoresOnly s (putRowAll s tb r row) := coresOnly_foldl (fun _ n hs => putRow_coresOnly hs r row n) _ h

/-! #### Count tables -/

theorem findTab_mem {s : State} {c cfg tag : Nat} {step : W64} {expert gang e : Nat} {tb : CountTab}
    (h : findTab s c cfg tag step expert gang = some (e, tb)) : tb ∈ (getTrw s e).tabs ∧ tb.ctx.val = c := by
  obtain ⟨t, _, ht⟩ := List.exists_of_findSome?_eq_some h
  obtain ⟨r, hr, hp⟩ := Option.map_eq_some_iff.mp ht
  obtain ⟨rfl, rfl⟩ := Prod.mk.inj hp
  have hf := List.find?_some hr
  simp only [Bool.and_eq_true, decide_eq_true_eq] at hf
  exact ⟨List.mem_of_find?_eq_some hr, hf.1.1.1.1.1.1⟩

theorem tabOf_unique {s : State} {e : Nat} {tb : CountTab} (h : tb ∈ (getTrw s e).tabs)
    (hu : ∀ r ∈ (getTrw s e).tabs, r.n = tb.n → r = tb) : tabOf s e tb.n = some tb := by
  cases hf : tabOf s e tb.n with
  | none => exact absurd (List.find?_eq_none.mp hf tb h) (by simp)
  | some r => rw [hu r (List.mem_of_find?_eq_some hf) (by simpa using List.find?_some hf)]

theorem tabOf_mapTab {s : State} {e n : Nat} {f : CountTab → CountTab} (hf : ∀ x, (f x).n = x.n) :
    tabOf (mapTab s e n f) e n = (tabOf s e n).map f := by
  unfold tabOf mapTab
  rw [getTrw_setTrw_same, List.find?_map]
  have hp : ((fun r : CountTab => decide (r.n = n)) ∘ fun r => if r.n = n then f r else r) = fun r => decide (r.n = n) := by
    funext r
    by_cases hr : r.n = n <;> simp [hr, hf]
  rw [hp]
  cases hx : (getTrw s e).tabs.find? (fun r => r.n = n) with
  | none => rfl
  | some r =>
    have hn : r.n = n := by simpa using List.find?_some hx
    simp [hn]

theorem tabOf_mem {s : State} {e n : Nat} {tb : CountTab} (h : tabOf s e n = some tb) :
    tb ∈ (getTrw s e).tabs ∧ tb.n = n := ⟨List.mem_of_find?_eq_some h, by simpa using List.find?_some h⟩

theorem mapTab_quiet {s : State} {e i n : Nat} {f : CountTab → CountTab} (h : Quiet s i) : Quiet (mapTab s e n f) i := by
  unfold Quiet mapTab at *
  rw [getTrw_setTrw]
  split
  · rename_i hi
    rwa [← hi]
  · exact h

/-- A batch that is in place, or that awaits a row, is not deposited. -/
theorem deposits_not {s : State} {e n : Nat} {tb : CountTab} (h : tabOf s e n = some tb)
    (hd : tb.deposited = true ∨ tb.rows.length < tabTotal tb) : deposits s e n = s := by
  unfold deposits
  rw [h]
  refine if_pos ?_
  rcases hd with hd | hd <;> simp [hd]

theorem msgFirst_none {v : State} {p : Packet} (h0 : partOfs p ≠ 0) (hm : v.fab.msgs = []) : msgFirst v p = none := by
  unfold msgFirst
  rw [if_neg h0, hm]
  rfl

/-! #### The message of one packet -/

theorem insertBy_nil {α : Type} (key : α → Nat) (x : α) : insertBy key x [] = [x] := rfl

theorem flits_one (p : Packet) : [(0, p.payload)].foldl (fun (n : Nat) (g : Nat × List Byte) => n + ceilDiv g.2.length 64) 0 =
    flits p := Nat.zero_add _

/-- A message whose flits are all in one packet is whole. -/
theorem msgAdd_whole {v : State} {p : Packet} (h0 : partOfs p = 0) (hm : v.fab.msgs = []) (hf : msgFlits p ≤ flits p) :
    msgAdd v p = (some p.payload, v) := by
  have hv : { v with fab := { v.fab with msgs := [] } } = v := by rw [← hm]
  unfold msgAdd
  rw [hm, h0]
  dsimp only [List.find?_nil, Option.map_none, Option.getD_none, List.filter_nil, insertBy_nil]
  refine (if_pos ((flits_one p).symm ▸ hf)).trans ?_
  exact congrArg₂ Prod.mk (congrArg some (List.flatMap_singleton ..)) hv

/-- A message that lacks flits is kept. -/
theorem msgAdd_part {v : State} {p : Packet} (h0 : partOfs p = 0) (hm : v.fab.msgs = []) (hf : flits p < msgFlits p) :
    ∃ w, msgAdd v p = (none, w) ∧ FabricOnly v w ∧ ∃ m ∈ w.fab.msgs, ofMsg p m = true := by
  unfold msgAdd
  rw [hm, h0]
  dsimp only [List.find?_nil, Option.map_none, Option.getD_none, List.filter_nil, insertBy_nil]
  exact ⟨_, if_neg ((flits_one p).symm ▸ Nat.not_le.mpr hf), rfl, _, List.mem_cons_self, by simp [ofMsg]⟩

theorem msgKnown_one {v : State} {p : Packet} (h0 : partOfs p = 0) (hm : v.fab.msgs = []) : msgKnown v p = p.payload := by
  unfold msgKnown
  rw [hm, h0]
  rfl

/-! #### A packet served by the engine of a context that runs -/

/-- The state in which the engines serve a packet that reaches state `s`. -/
structure Serves (s : State) (p : Packet) (v : State) : Prop where
  recv : ∀ k, trwRecv s 0 p k = (k v).getD s
  held : HeldKept s v

theorem Arrives.serves {s u : State} {p : Packet} (h : Arrives s p u) (hl : p.long = true) (ho : p.op = 8)
    (hi : noImage (openSession u p) = false) (hx : (getCtx (openSession u p) p.ctx.toNat).st = .running) :
    Serves s p (openSession u p) :=
  ⟨fun k => by rw [trwRecv_arrives h hl ho, engineGate_running hi hx], h.served_held⟩

/-- The answer of a packet that the gate turns away. -/
theorem trwRecv_turned {s u t : State} {p : Packet} (h : Arrives s p u) (hl : p.long = true) (ho : p.op = 8)
    (hn : NoHeldLines s) (hg : ∀ k, engineGate (openSession u p) 0 p k = some t) (ht : HeldKept (openSession u p) t)
    (k : State → Option State) : guarded s (trwRecv s 0 p k) = t := by
  rw [trwRecv_arrives h hl ho, hg]
  exact (h.served_held.trans ht).guarded hn

section
variable {s v : State} {p : Packet} (hs : Serves s p v)

theorem PartOnly.guarded_of {t a : State} (hs : Serves s p v) (hn : NoHeldLines s) (ha : HeldKept v a) (h : PartOnly a t) :
    guarded s t = t := ((hs.held.trans ha).trans h.held).guarded hn

theorem recordPsn_fabricOnly (s : State) (p : Packet) (o : Option W64) : FabricOnly s (recordPsn s p o) := by
  unfold recordPsn
  dsimp only
  generalize slideBase 257 _ _ = b
  rfl

theorem accept_fabricOnly (s : State) (e : Nat) (p : Packet) : FabricOnly s (accept s e p) := by
  have h := recordPsn_fabricOnly s p none
  unfold accept
  generalize recordPsn s p none = u at h ⊢
  exact h.trans rfl

theorem getTrw_accept (s : State) (e : Nat) (p : Packet) (i : Nat) : getTrw (accept s e p) i = getTrw s i := by
  rw [accept_fabricOnly]
  rfl

theorem getCtx_accept (s : State) (e : Nat) (p : Packet) (c : Nat) : getCtx (accept s e p) c = getCtx s c := by
  rw [accept_fabricOnly]
  rfl

theorem accept_msgs (s : State) (e : Nat) (p : Packet) : (accept s e p).fab.msgs = s.fab.msgs := by
  unfold accept sendAck recordPsn
  dsimp only
  generalize slideBase 257 _ _ = b
  rfl

theorem FabricOnly.held {s t : State} (h : FabricOnly s t) : HeldKept s t := .of_drg (by rw [h])

include hs

theorem blockDescriptor_waits {d : List Byte} (h : (descsIn p).find? (fun d => (descTab v p.ctx.toNat d).isNone) = some d) :
    blockDescriptor s p = trwWaitAns v ((gangDie v p.ctx.toNat (bits (natAt d 0 8) 59 48)).getD 0) p := by
  unfold blockDescriptor
  rw [hs.recv]
  dsimp only
  rw [h]
  rfl

theorem rowsPart_waits (h0 : partOfs p = 0) {e : Nat} {tb : CountTab}
    (ht : partTab v p.ctx.toNat (parsePart p.payload) = some (e, tb)) (hf : tabFull tb = false) : rowsPart s p = s := by
  unfold rowsPart
  rw [hs.recv, msgFirst, if_pos h0]
  dsimp only
  rw [ht]
  dsimp only
  rw [if_pos (by simp [hf])]
  rfl

theorem cancelledPart_waits {e : Nat} {tb : CountTab}
    (ht : partTab v p.ctx.toNat (parsePart p.payload) = some (e, tb)) (hf : tabFull tb = false) : cancelledPart s p = s := by
  unfold cancelledPart
  rw [hs.recv]
  dsimp only
  rw [ht]
  dsimp only
  rw [if_pos (by simp [hf])]
  rfl

theorem rowsPart_late (h0 : partOfs p = 0) (ht : partTab v p.ctx.toNat (parsePart p.payload) = none)
    (hd : (parsePart p.payload).step.toNat < (getCtx v p.ctx.toNat).stepsDone.toNat) : rowsPart s p = accept v 0 p := by
  unfold rowsPart
  rw [hs.recv, msgFirst, if_pos h0]
  dsimp only
  rw [ht]
  dsimp only
  rw [if_pos hd]
  rfl

theorem cancelledPart_late (ht : partTab v p.ctx.toNat (parsePart p.payload) = none)
    (hd : (parsePart p.payload).step.toNat < (getCtx v p.ctx.toNat).stepsDone.toNat) : cancelledPart s p = accept v 0 p := by
  unfold cancelledPart
  rw [hs.recv]
  dsimp only
  rw [ht]
  dsimp only
  rw [if_pos hd]
  rfl

theorem segmentPart_late (h0 : partOfs p = 0) (ht : segOp v p.ctx.toNat (parsePart p.payload) = none)
    (hd : (parsePart p.payload).step.toNat < (getCtx v p.ctx.toNat).stepsDone.toNat) : segmentPart s p = accept v 0 p := by
  unfold segmentPart
  rw [hs.recv, msgFirst, if_pos h0]
  dsimp only
  rw [ht]
  dsimp only
  rw [if_pos hd]
  rfl

theorem resultPart_noFirst (h0 : partOfs p ≠ 0) (hm : v.fab.msgs = []) (ok : Bool) :
    resultPart s p ok = trwWaitAns v 0 p := by
  unfold resultPart
  rw [hs.recv, msgFirst_none h0 hm]
  rfl

theorem segmentPart_noFirst (h0 : partOfs p ≠ 0) (hm : v.fab.msgs = []) : segmentPart s p = s := by
  unfold segmentPart
  rw [hs.recv, msgFirst_none h0 hm]
  rfl

end

/-! #### Parts taken -/

theorem getTrw_congr {s t : State} (h : t.tramways = s.tramways) (e : Nat) : getTrw t e = getTrw s e :=
  congrArg (fun m => mget ({} : Tramway) m e) h

/-- A count table changed, its batch not deposited by it, on an engine that has nothing else to do. -/
theorem mappedTab_taken {a m : State} {e n : Nat} {f : CountTab → CountTab} {tb : CountTab} (ht : tabOf a e n = some tb)
    (hf : ∀ x, (f x).n = x.n) (hq : Quiet a e) (hm : PartOnly a m) (hmt : m.tramways = (mapTab a e n f).tramways)
    (hd : (f tb).deposited = true ∨ (f tb).rows.length < tabTotal (f tb)) :
    PartOnly a (trwProgress (deposits m e n) e) ∧ f tb ∈ (getTrw (trwProgress (deposits m e n) e) e).tabs ∧ (f tb).n = n := by
  have hg := getTrw_congr hmt e
  have hmap : tabOf m e n = some (f tb) := by
    have h := tabOf_mapTab (s := a) (e := e) (n := n) hf
    rw [ht] at h
    unfold tabOf at h ⊢
    rw [hg]
    exact h
  have hqm : Quiet m e := by
    have h := mapTab_quiet (e := e) (n := n) (f := f) hq
    unfold Quiet at h ⊢
    rwa [hg]
  rw [deposits_not hmap hd]
  have hs := trwProgress_quiet hqm
  refine ⟨hm.trans hs.partOnly, ?_, (tabOf_mem hmap).2⟩
  rw [hs.2]
  exact (tabOf_mem hmap).1

theorem mapTab_partOnly (a : State) (e n : Nat) (f : CountTab → CountTab) : PartOnly a (mapTab a e n f) := rfl

theorem tabOf_accept {v : State} {p : Packet} {e : Nat} {tb : CountTab} (h : tb ∈ (getTrw v e).tabs)
    (hu : ∀ r ∈ (getTrw v e).tabs, r.n = tb.n → r = tb) (i : Nat) : tabOf (accept v i p) e tb.n = some tb :=
  tabOf_unique (by rwa [getTrw_accept]) (by rwa [getTrw_accept])

theorem quiet_accept {v : State} {e : Nat} (h : Quiet v e) (i : Nat) (p : Packet) : Quiet (accept v i p) e := by
  unfold Quiet at *
  rwa [getTrw_accept]

/-- An entry of a count table filled. -/
def fillSrc (src n : Nat) (x : CountTab) : CountTab :=
  { x with srcs := x.srcs.map (fun y => if y.1 = src then (y.1, some n) else y) }

/-- A row of a count table taken. -/
def addRow (r : RowRec) (x : CountTab) : CountTab := { x with rows := x.rows ++ [r] }

section
variable {s v : State} {p : Packet} (hs : Serves s p v)
include hs

theorem blockDescriptor_one {d : List Byte} {e : Nat} {tb : CountTab} (hd : descsIn p = [d])
    (ht : descTab v p.ctx.toNat d = some (e, tb)) : blockDescriptor s p = trwProgress (deposits
      (mapTab (accept v e p) e tb.n (fillSrc p.src.toNat (natAt d 16 2))) e tb.n) e := by
  have hnone : (descsIn p).find? (fun d => (descTab v p.ctx.toNat d).isNone) = none := by simp [hd, ht]
  have hes : (descsIn p).filterMap (fun d => (descTab v p.ctx.toNat d).map fun e => (e.1, e.2.n, natAt d 16 2)) =
      [(e, tb.n, natAt d 16 2)] := by simp [hd, ht]
  have hdd : dedup ([(e, tb.n, natAt d 16 2)].map (fun x => x.1)) = [e] := rfl
  unfold blockDescriptor
  rw [hs.recv]
  dsimp only
  rw [hnone]
  dsimp only
  rw [hes]
  dsimp only [List.foldl_cons, List.foldl_nil, List.head?_cons, Option.map_some, Option.getD_some, List.map_cons, List.map_nil]
  rw [hdd]
  rw [List.foldl_cons, List.foldl_nil]
  rfl

/-- A block descriptor of a batch in place: its entry of the table is filled. -/
theorem blockDescriptor_fills {d : List Byte} {e : Nat} {tb : CountTab} (hd : descsIn p = [d])
    (ht : descTab v p.ctx.toNat d = some (e, tb)) (hq : Quiet v e) (hdep : tb.deposited = true)
    (hu : ∀ r ∈ (getTrw v e).tabs, r.n = tb.n → r = tb) : PartOnly (accept v e p) (blockDescriptor s p) ∧
      fillSrc p.src.toNat (natAt d 16 2) tb ∈ (getTrw (blockDescriptor s p) e).tabs := by
  have htab := tabOf_accept (p := p) (findTab_mem ht).1 hu e
  rw [blockDescriptor_one hs hd ht]
  obtain ⟨hp, hm, -⟩ := mappedTab_taken (m := mapTab (accept v e p) e tb.n (fillSrc p.src.toNat (natAt d 16 2))) (f := fillSrc p.src.toNat (natAt d 16 2)) htab
    (fun _ => rfl) (quiet_accept hq ..) (mapTab_partOnly ..) rfl (.inl hdep)
  exact ⟨hp, hm⟩

/-- The row of a part of one row at a table that has not had it. -/
structure OneRow (v : State) (p : Packet) (e : Nat) (tb : CountTab) : Prop where
  tab : partTab v p.ctx.toNat (parsePart p.payload) = some (e, tb)
  full : tabFull tb = true
  quiet : Quiet v e
  unique : ∀ r ∈ (getTrw v e).tabs, r.n = tb.n → r = tb
  rows : (parsePart p.payload).rows = 1
  left : tb.rows.length + 1 < tabTotal tb
  fresh : ∀ y ∈ tb.rows, y.row ≠ tabBase tb p.src.toNat + (parsePart p.payload).base
  running : (getCtx v p.ctx.toNat).st = .running

end

section
variable {v : State} {p : Packet} {e : Nat} {tb : CountTab} (h : OneRow v p e tb)
include h

theorem OneRow.tabOf_accept : tabOf (accept v e p) e tb.n = some tb := Machine.tabOf_accept (findTab_mem h.tab).1 h.unique e

theorem OneRow.running_tab (n : Nat) (f : CountTab → CountTab) :
    (getCtx (mapTab (accept v e p) e n f) tb.ctx.val).st = .running := by
  rw [(findTab_mem h.tab).2]
  show (getCtx (accept v e p) p.ctx.toNat).st = .running
  rw [getCtx_accept]
  exact h.running

theorem OneRow.not_taken : tb.rows.any (fun x => x.row = tabBase tb p.src.toNat + (parsePart p.payload).base) = false := by
  rw [List.any_eq_false]
  intro y hy
  simpa using h.fresh y hy

/-- The row goes to its table; it is written into the batch or dropped. -/
theorem OneRow.takes {f : CountTab → CountTab} {r : RowRec} {m : State} (hf : ∀ x, (f x).n = x.n) (hr : f tb = addRow r tb)
    (hm : PartOnly (accept v e p) m) (hmt : m.tramways = (mapTab (accept v e p) e tb.n f).tramways) :
    PartOnly (accept v e p) (trwProgress (deposits m e tb.n) e) ∧
      addRow r tb ∈ (getTrw (trwProgress (deposits m e tb.n) e) e).tabs := by
  have hl : (addRow r tb).rows.length < tabTotal (addRow r tb) := by
    show (tb.rows ++ [r]).length < tabTotal tb
    rw [List.length_append]
    exact h.left
  obtain ⟨hp, hx, -⟩ := mappedTab_taken h.tabOf_accept hf (m := m) (quiet_accept h.quiet ..) hm hmt
    (.inr (by rw [hr]; exact hl))
  exact ⟨hp, hr ▸ hx⟩

end

/-- The row that a part of one row brings. -/
def partRow (p : Packet) (tb : CountTab) (tag : W64) (dropped cancelled : Bool) : RowRec :=
  { row := tabBase tb p.src.toNat + (parsePart p.payload).base, node := p.src.toNat, tag := tag, dropped := dropped,
    cancelled := cancelled }

/-- A row counted as dropped or written into its batch. -/
theorem row_written {a m : State} {tb : CountTab} (h : PartOnly a m) (hr : (getCtx m tb.ctx.val).st = .running)
    (c : Prop) [Decidable c] (u i n r : Nat) (row : List Byte) :
    PartOnly a (if c then bump m u i n else putRowAll m tb r row) ∧
      (if c then bump m u i n else putRowAll m tb r row).tramways = m.tramways := by
  split
  · exact ⟨h.trans (bump_partOnly ..), by rw [bump_facesOnly m u i n]⟩
  · have hp := putRowAll_coresOnly hr r row
    exact ⟨h.trans hp.partOnly, hp.tramways⟩

/-- A row of a count table cancelled. -/
def cancelRow (r : RowRec) (x : CountTab) : CountTab := { x with rows := x.rows.filter (fun y => y.row ≠ r.row) ++ [r] }

section
variable {v : State} {p : Packet} {e : Nat} {tb : CountTab} (h : OneRow v p e tb)
include h

theorem OneRow.cancelRow_fresh (tag : W64) (d c : Bool) :
    cancelRow (partRow p tb tag d c) tb = addRow (partRow p tb tag d c) tb := by
  have hf : tb.rows.filter (fun y => y.row ≠ (partRow p tb tag d c).row) = tb.rows :=
    List.filter_eq_self.mpr fun y hy => decide_eq_true (h.fresh y hy)
  unfold cancelRow addRow
  rw [hf]

theorem rowsIn_one : ∃ m, rowsIn (accept v e p) e tb.n p.src.toNat p.payload = deposits m e tb.n ∧ PartOnly (accept v e p) m ∧
    m.tramways = (mapTab (accept v e p) e tb.n (addRow (partRow p tb (BitVec.ofNat 64 (natAt p.payload 64 8))
      (decide (dispRows tb.f ≤ tabBase tb p.src.toNat + (parsePart p.payload).base)) false))).tramways := by
  unfold rowsIn
  rw [h.tabOf_accept]
  dsimp only
  rw [h.rows, show List.range 1 = [0] from rfl]
  dsimp only [List.foldl_cons, List.foldl_nil]
  unfold takeRow
  rw [h.tabOf_accept]
  dsimp only
  rw [if_neg (by simp [h.not_taken])]
  obtain ⟨hp, ht⟩ := row_written (mapTab_partOnly (accept v e p) e tb.n _) (h.running_tab tb.n _)
    (decide (dispRows tb.f ≤ tabBase tb p.src.toNat + (parsePart p.payload).base) = true) (trwUnit e) 8 1
    (tabBase tb p.src.toNat + (parsePart p.payload).base) _
  exact ⟨_, rfl, hp, ht⟩

theorem cancelIn_one : ∃ m, cancelIn (accept v e p) e tb.n p.src.toNat (parsePart p.payload) = deposits m e tb.n ∧
    PartOnly (accept v e p) m ∧
      m.tramways = (mapTab (accept v e p) e tb.n (cancelRow (partRow p tb 0 false true))).tramways := by
  unfold cancelIn
  rw [h.tabOf_accept]
  dsimp only
  rw [h.rows, show List.range 1 = [0] from rfl]
  dsimp only [List.foldl_cons, List.foldl_nil]
  have hm := mapTab_partOnly (accept v e p) e tb.n (cancelRow (partRow p tb 0 false true))
  have hr := h.running_tab tb.n (cancelRow (partRow p tb 0 false true))
  by_cases hc : dispRows tb.f ≤ tabBase tb p.src.toNat + (parsePart p.payload).base
  · exact ⟨_, congrArg (fun m => deposits m e tb.n) (if_pos hc), hm, rfl⟩
  · have hp := putRowAll_coresOnly hr (tabBase tb p.src.toNat + (parsePart p.payload).base)
      (List.replicate (dispPitch tb.f) 0)
    exact ⟨_, congrArg (fun m => deposits m e tb.n) (if_neg hc), hm.trans hp.partOnly, hp.tramways⟩

end

section
variable {s v : State} {p : Packet} {e : Nat} {tb : CountTab} (hs : Serves s p v) (h : OneRow v p e tb)
include hs h

theorem rowsPart_one (h0 : partOfs p = 0) (hm : v.fab.msgs = []) (hf : msgFlits p ≤ flits p) :
    rowsPart s p = trwProgress (rowsIn (accept v e p) e tb.n p.src.toNat p.payload) e := by
  unfold rowsPart
  rw [hs.recv, msgFirst, if_pos h0]
  dsimp only
  rw [h.tab]
  dsimp only
  rw [if_neg (by simp [h.full]), msgAdd_whole h0 hm hf]
  rfl

theorem cancelledPart_one : cancelledPart s p =
    trwProgress (cancelIn (accept v e p) e tb.n p.src.toNat (parsePart p.payload)) e := by
  unfold cancelledPart
  rw [hs.recv]
  dsimp only
  rw [h.tab]
  dsimp only
  rw [if_neg (by simp [h.full])]
  rfl

end

/-! #### Answers -/

theorem tagRec_mem {v : State} {c : Nat} {tag : W64} {r : TRec} (h : tagRec v c tag = some r) :
    r ∈ (getTrw v (bits tag.toNat 62 60)).recs := List.mem_of_find?_eq_some h

theorem findRec_unique {v : State} {e : Nat} {r : TRec} (h : r ∈ (getTrw v e).recs)
    (hu : ∀ y ∈ (getTrw v e).recs, y.n = r.n → y = r) : findRec v e r.n = some r := by
  cases hf : findRec v e r.n with
  | none => exact absurd (List.find?_eq_none.mp hf r h) (by simp)
  | some y => rw [hu y (List.mem_of_find?_eq_some hf) (by simpa using List.find?_some hf)]

theorem findRec_mapRec {v : State} {e n : Nat} {g : TRec → TRec} (hg : ∀ x, (g x).n = x.n) :
    findRec (mapRec v e n g) e n = (findRec v e n).map g := by
  unfold findRec mapRec
  rw [getTrw_setTrw_same, List.find?_map]
  have hp : ((fun r : TRec => decide (r.n = n)) ∘ fun r => if r.n = n then g r else r) = fun r => decide (r.n = n) := by
    funext r
    by_cases hr : r.n = n <;> simp [hr, hg]
  rw [hp]
  cases hx : (getTrw v e).recs.find? (fun r => r.n = n) with
  | none => rfl
  | some r =>
    have hn : r.n = n := by simpa using List.find?_some hx
    simp [hn]

/-- A record with one more answer. -/
def addAnswer (d : Nat) (r : TRec) : TRec := { r with answers := r.answers ++ [(d, true)] }

theorem mapRec_partOnly (a : State) (e n : Nat) (g : TRec → TRec) : PartOnly a (mapRec a e n g) := rfl

theorem mapRec_quiet {s : State} {e i n : Nat} {g : TRec → TRec} (h : Quiet s i) : Quiet (mapRec s e n g) i := by
  unfold Quiet mapRec at *
  rw [getTrw_setTrw]
  split
  · rename_i hi
    rwa [← hi]
  · exact h

theorem areaWrite_coresOnly {s : State} {p : Nat} (h : (getPool s p).bench1 = false) (l : List Nat) (o : Nat) (d : List Byte)
    (r : Req) : CoresOnly s (areaWrite s p l o d r) := by
  have hx : ∀ (s : State) (x : Nat × Nat), (getPool s p).bench1 = false → CoresOnly s (match l[x.1 / bufSize s p]? with
      | some i => bufWrite s p i (x.1 % bufSize s p) ((d.drop (x.1 - o)).take x.2) r
      | none => s) := by
    intro s x h
    split
    · exact bufWrite_coresOnly h ..
    · rfl
  unfold areaWrite
  generalize pieces (bufSize s p) o d.length = ps
  induction ps generalizing s with
  | nil => rfl
  | cons x ps ih =>
    have hb := hx s x h
    exact hb.trans (ih (by rw [hb]; exact h))

/-- One answer with its row for a record that awaits it, and more than it. -/
structure OneAnswer (v : State) (p : Packet) (tag : W64) (r : TRec) (f : CombineF) (a : Nat) (l : List Nat) : Prop where
  isTag : tag = BitVec.ofNat 64 (natAt p.payload 64 8)
  rows : (parsePart p.payload).rows = 1
  named : tagRec v p.ctx.toNat tag = some r
  unique : ∀ y ∈ (getTrw v (bits tag.toNat 62 60)).recs, y.n = r.n → y = r
  comb : r.comb = some f
  area : r.area = some (a, l)
  bench1 : (getPool v a).bench1 = false
  row : bitAt tag.toNat 63 = false
  live : bits tag.toNat 43 32 < r.list.live
  desc : bits tag.toNat 43 32 < r.list.descs.length
  fresh : ∀ y ∈ r.answers, y.1 ≠ bits tag.toNat 43 32
  left : r.answers.length + 1 < r.list.live
  arrival : v.tab.mode.faCombine = false
  quiet : ∀ i, i < 8 → Quiet v i

section
variable {v : State} {p : Packet} {tag : W64} {r : TRec} {f : CombineF} {a : Nat} {l : List Nat}
  (h : OneAnswer v p tag r f a l)
include h

theorem OneAnswer.waits : answerWaits v p.ctx.toNat p.payload = none := by
  unfold answerWaits
  dsimp only
  rw [h.rows]
  rcases Nat.eq_zero_or_pos ((p.payload.length - 64) / 8) with h0 | h0
  · rw [h0]
    rfl
  · rw [Nat.min_eq_left h0, show List.range 1 = [0] from rfl, List.map_singleton, List.findSome?_singleton,
      Nat.mul_zero, Nat.add_zero, ← h.isTag, h.named]
    simp [h.area]

theorem OneAnswer.tags : resultTags p.payload = [(tag, some 0)] := by
  unfold resultTags
  dsimp only
  rw [h.rows, show List.range 1 = [0] from rfl, List.foldl_cons, List.foldl_nil, Nat.mul_zero, Nat.add_zero, ← h.isTag,
    if_neg (ne_true_of_eq_false h.row)]
  rfl

/-- The record with its answer. -/
theorem OneAnswer.answers (i : Nat) (row : List Byte) : ∃ t, answer (accept v i p) p.ctx.toNat tag row = t ∧
    PartOnly (accept v i p) t ∧
      t.tramways = (mapRec (accept v i p) (bits tag.toNat 62 60) r.n (addAnswer (bits tag.toNat 43 32))).tramways := by
  have hv := accept_fabricOnly v i p
  have hn : tagRec (accept v i p) p.ctx.toNat tag = some r := by
    rw [hv]
    exact h.named
  have hb : (getPool (accept v i p) a).bench1 = false := by
    rw [hv]
    exact h.bench1
  have hf : (accept v i p).tab.mode.faCombine = false := by
    rw [hv]
    exact h.arrival
  generalize accept v i p = w at hn hb hf
  obtain ⟨x, hx⟩ : ∃ x, (liveDescs r.list)[bits tag.toNat 43 32]? = some x :=
    ⟨_, List.getElem?_eq_getElem (by rw [liveDescs, List.length_take]; exact lt_min h.live h.desc)⟩
  have hany : r.answers.any (fun y => y.1 = bits tag.toNat 43 32) = false := by
    rw [List.any_eq_false]
    intro y hy
    simpa using h.fresh y hy
  have hoff : faOn (bump (mapRec w (bits tag.toNat 62 60) r.n (addAnswer (bits tag.toNat 43 32)))
      (trwUnit (bits tag.toNat 62 60)) 9 1) f = false := by
    rw [bump_facesOnly]
    exact Bool.and_eq_false_imp.mpr fun _ => hf
  obtain ⟨o, d, q, he⟩ : ∃ o d q, answer w p.ctx.toNat tag row =
      areaWrite (bump (mapRec w (bits tag.toNat 62 60) r.n (addAnswer (bits tag.toNat 43 32)))
        (trwUnit (bits tag.toNat 62 60)) 9 1) a l o d q := by
    unfold answer
    rw [hn]
    dsimp only
    rw [h.comb, hx]
    dsimp only
    rw [if_neg (ne_true_of_eq_false hany), if_neg (ne_true_of_eq_false h.row)]
    rw [h.area]
    exact ⟨_, _, _, if_neg (ne_true_of_eq_false hoff)⟩
  have hm := (mapRec_partOnly w (bits tag.toNat 62 60) r.n (addAnswer (bits tag.toNat 43 32))).trans
    (bump_partOnly _ (trwUnit (bits tag.toNat 62 60)) 9 1)
  have htr : (bump (mapRec w (bits tag.toNat 62 60) r.n (addAnswer (bits tag.toNat 43 32)))
      (trwUnit (bits tag.toNat 62 60)) 9 1).tramways =
        (mapRec w (bits tag.toNat 62 60) r.n (addAnswer (bits tag.toNat 43 32))).tramways := by rw [bump_facesOnly]
  have hw := areaWrite_coresOnly (s := bump (mapRec w (bits tag.toNat 62 60) r.n (addAnswer (bits tag.toNat 43 32)))
    (trwUnit (bits tag.toNat 62 60)) 9 1) (p := a) (by rw [hm]; exact hb) l o d q
  rw [← he] at hw
  exact ⟨_, rfl, hm.trans hw.partOnly, hw.tramways.trans htr⟩

/-- An answer that is not the last combines nothing. -/
theorem OneAnswer.resultIn (i : Nat) (ok : Bool) :
    PartOnly (accept v i p) (resultIn (accept v i p) p.ctx.toNat p.payload ok) ∧
      (resultIn (accept v i p) p.ctx.toNat p.payload ok).tramways =
        (mapRec (accept v i p) (bits tag.toNat 62 60) r.n (addAnswer (bits tag.toNat 43 32))).tramways := by
  have hn : tagRec (accept v i p) p.ctx.toNat tag = some r := by
    rw [accept_fabricOnly v i p]
    exact h.named
  unfold Machine.resultIn
  dsimp only
  rw [h.tags]
  have hrecs : [(tag, some 0)].filterMap (fun e : W64 × Option Nat => (tagRec (accept v i p) p.ctx.toNat e.1).map
      (fun r => (bits e.1.toNat 62 60, r.n))) = [(bits tag.toNat 62 60, r.n)] := by simp [hn]
  rw [hrecs]
  rw [List.foldl_cons, List.foldl_nil, List.foldl_cons, List.foldl_nil]
  obtain ⟨t, ht, hp, htr⟩ := h.answers i _
  rw [ht]
  have hf : findRec t (bits tag.toNat 62 60) r.n = some (addAnswer (bits tag.toNat 43 32) r) := by
    have hr := findRec_unique (tagRec_mem h.named) h.unique
    have hm := findRec_mapRec (v := accept v i p) (e := bits tag.toNat 62 60) (n := r.n)
      (g := addAnswer (bits tag.toNat 43 32)) fun _ => rfl
    unfold findRec at hm hr ⊢
    rw [getTrw_congr htr]
    rw [getTrw_accept] at hm
    rw [hm, hr]
    rfl
  have hc : combineList t (bits tag.toNat 62 60) r.n ok = t := by
    unfold combineList
    rw [hf]
    dsimp only
    rw [show (addAnswer (bits tag.toNat 43 32) r).comb = r.comb from rfl, h.comb]
    refine if_pos ?_
    have hl : (addAnswer (bits tag.toNat 43 32) r).answers.length < (addAnswer (bits tag.toNat 43 32) r).list.live := by
      show (r.answers ++ [_]).length < r.list.live
      rw [List.length_append]
      exact h.left
    rw [decide_eq_true hl, Bool.or_true]
  rw [hc]
  exact ⟨hp, htr⟩

/-- The record keeps the answer; every engine stays idle. -/
theorem OneAnswer.taken (i : Nat) (ok : Bool) :
    PartOnly (accept v i p) (trwProgressAll (Machine.resultIn (accept v i p) p.ctx.toNat p.payload ok)) ∧
      addAnswer (bits tag.toNat 43 32) r ∈
        (getTrw (trwProgressAll (Machine.resultIn (accept v i p) p.ctx.toNat p.payload ok)) (bits tag.toNat 62 60)).recs := by
  obtain ⟨hp, htr⟩ := h.resultIn i ok
  have hq : ∀ j, j < 8 → Quiet (Machine.resultIn (accept v i p) p.ctx.toNat p.payload ok) j := by
    intro j hj
    have hm := mapRec_quiet (e := bits tag.toNat 62 60) (n := r.n) (g := addAnswer (bits tag.toNat 43 32))
      (quiet_accept (h.quiet j hj) i p)
    unfold Quiet at hm ⊢
    rwa [getTrw_congr htr]
  have hs := trwProgressAll_quiet hq
  refine ⟨hp.trans hs.partOnly, ?_⟩
  rw [hs.2, getTrw_congr htr]
  unfold mapRec
  rw [getTrw_setTrw_same, getTrw_accept]
  exact List.mem_map.mpr ⟨r, tagRec_mem h.named, if_pos rfl⟩

end

section
variable {s v : State} {p : Packet} {tag : W64} {r : TRec} {f : CombineF} {a : Nat} {l : List Nat}

theorem resultPart_one (hs : Serves s p v) (h : OneAnswer v p tag r f a l) (h0 : partOfs p = 0) (hm : v.fab.msgs = [])
    (hf : msgFlits p ≤ flits p) (ok : Bool) :
    resultPart s p ok = trwProgressAll (Machine.resultIn (accept v 0 p) p.ctx.toNat p.payload ok) := by
  unfold resultPart
  rw [hs.recv, msgFirst, if_pos h0]
  dsimp only
  rw [msgKnown_one h0 hm, h.waits]
  dsimp only
  rw [msgAdd_whole h0 hm hf]
  exact Option.getD_some

/-- A part of a result that lacks flits is kept with its message. -/
theorem resultPart_part (hs : Serves s p v) (h0 : partOfs p = 0) (hw : answerWaits v p.ctx.toNat (msgKnown v p) = none)
    (hm : v.fab.msgs = []) (hf : flits p < msgFlits p) (ok : Bool) : ∃ w, resultPart s p ok = accept w 0 p ∧
      FabricOnly v w ∧ ∃ m ∈ w.fab.msgs, ofMsg p m = true := by
  obtain ⟨w, hadd, hwf, hmsg⟩ := msgAdd_part h0 hm hf
  refine ⟨w, ?_, hwf, hmsg⟩
  unfold resultPart
  rw [hs.recv, msgFirst, if_pos h0]
  dsimp only
  rw [hw]
  dsimp only
  rw [hadd]
  exact Option.getD_some

end

/-! #### Segments -/

/-- One segment that its exchange awaits, and more than it for its slot. -/
structure OneSegment (v : State) (p : Packet) (e : Nat) (o : TOp) (f : XchgF) : Prop where
  named : segOp v p.ctx.toNat (parsePart p.payload) = some (e, o, f)
  op : (getTrw v e).op = some o
  held : (getTrw v e).held = []
  sent : o.todo = []
  fresh : ((parsePart p.payload).expert, (parsePart p.payload).base) ∉ o.got
  uncounted : (parsePart p.payload).expert ∉ o.counted
  left : o.got.countP (fun g => g.1 = (parsePart p.payload).expert) + 1 < xchgSlots f (gangCores v o.gang).length
  running : (getCtx v p.ctx.toNat).st = .running

/-- An operation with one more segment. -/
def addSegment (g : Nat × Nat) (o : TOp) : TOp := { o with got := o.got ++ [g] }

theorem segOp_named {v : State} {c e : Nat} {h : PHdr} {o : TOp} {f : XchgF} (hs : segOp v c h = some (e, o, f)) :
    o.cmd = .xchg f ∧ o.ctx.val = c ∧ ∃ m ∈ o.mine, m.1 = h.expert := by
  obtain ⟨t, _, ht⟩ := List.exists_of_findSome?_eq_some hs
  obtain ⟨x, _, hx⟩ := List.exists_of_findSome?_eq_some ht
  split at hx
  · rename_i g hg
    split at hx
    · rename_i hc
      obtain ⟨rfl, rfl, rfl⟩ : t = e ∧ x = o ∧ g = f := by simpa using hx
      exact ⟨hg, hc.1, by simpa using hc.2.2.2.2⟩
    · exact absurd hx (by simp)
  · exact absurd hx (by simp)

/-- An engine whose operation has nothing to send, and is not complete, keeps it. -/
theorem trwProgress_sent {s : State} {e : Nat} {o : TOp} (ho : (getTrw s e).op = some o) (hh : (getTrw s e).held = [])
    (ht : o.todo = []) (hc : ∀ w, opComplete w o = false) :
    PartOnly s (trwProgress s e) ∧ (getTrw (trwProgress s e) e).op = some o := by
  have hstep : trwSendStep s e = none := by
    unfold trwSendStep
    rw [ho]
    exact if_pos (by simp [ht])
  have hall : ∀ n, trwSendAll n s e = s := by
    intro n
    cases n with
    | zero => rfl
    | succ n =>
      unfold trwSendAll
      rw [hstep]
  have hd := trwDrain_empty hh
  unfold trwProgress
  rw [ho]
  dsimp only
  rw [hall]
  have hod : (getTrw (trwDrain s e) e).op = some o := by rw [hd.2, ho]
  generalize trwDrain s e = u at hd hod ⊢
  rw [hod]
  dsimp only
  rw [if_neg (by simp [hc])]
  refine ⟨hd.partOnly.trans rfl, ?_⟩
  rw [getTrw_setTrw_same, ← hod]

section
variable {v : State} {p : Packet} {e : Nat} {o : TOp} {f : XchgF} (h : OneSegment v p e o f)
include h

theorem OneSegment.notComplete (w : Tramway) :
    opComplete w (addSegment ((parsePart p.payload).expert, (parsePart p.payload).base) o) = false := by
  obtain ⟨hcmd, -, m, hm, hme⟩ := segOp_named h.named
  have hall : o.mine.all (fun m => o.counted.contains m.1) = false := by
    rw [List.all_eq_false]
    exact ⟨m, hm, by simpa [hme] using h.uncounted⟩
  unfold opComplete
  rw [show (addSegment ((parsePart p.payload).expert, (parsePart p.payload).base) o).cmd = .xchg f from hcmd]
  exact Bool.and_eq_false_imp.mpr fun _ => hall

/-- The segment goes to its core; nothing is counted yet. -/
theorem OneSegment.segIn (b : List Byte) : ∃ t, segIn (accept v e p) e o f (parsePart p.payload) b =
    setTrw t e (mapOp (getTrw t e) o.seq fun x => { x with
      got := o.got ++ [((parsePart p.payload).expert, (parsePart p.payload).base)], counted := x.counted }) ∧
      CoresOnly (accept v e p) t := by
  have hv := accept_fabricOnly v e p
  have hr : (getCtx (accept v e p) o.ctx.val).st = .running := by
    rw [getCtx_accept, (segOp_named h.named).2.1]
    exact h.running
  have hn : xchgSlots f (gangCores (accept v e p) o.gang).length = xchgSlots f (gangCores v o.gang).length := by
    have ht : (accept v e p).tab = v.tab := by rw [hv]
    simp only [gangCores, leaves, treeFuel, ht, walkG_congr ht]
  generalize accept v e p = w at hr hn
  have hc := h.left
  have hg : o.got.contains ((parsePart p.payload).expert, (parsePart p.payload).base) = false := by
    simpa using h.fresh
  have hfull : decide (xchgSlots f (gangCores v o.gang).length ≤ (o.got ++ [((parsePart p.payload).expert,
      (parsePart p.payload).base)]).countP (fun g => g.1 = (parsePart p.payload).expert)) = false := by
    simp only [List.countP_append, List.countP_singleton, decide_true, if_true, decide_eq_false_iff_not]
    omega
  unfold Machine.segIn
  rw [if_neg (ne_true_of_eq_false hg)]
  dsimp only
  rw [hn, hfull]
  refine ⟨_, rfl, (b0Write_coresOnly hr ..).trans (b0Write_coresOnly ?_ ..)⟩
  exact (b0Write_coresOnly hr ..).running hr

/-- The engine keeps its operation, with the segment. -/
theorem OneSegment.taken (b : List Byte) :
    PartOnly (accept v e p) (trwProgress (Machine.segIn (accept v e p) e o f (parsePart p.payload) b) e) ∧
      (getTrw (trwProgress (Machine.segIn (accept v e p) e o f (parsePart p.payload) b) e) e).op =
        some (addSegment ((parsePart p.payload).expert, (parsePart p.payload).base) o) := by
  obtain ⟨t, ht, hc⟩ := h.segIn b
  have hw : getTrw t e = getTrw v e := (getTrw_congr hc.tramways e).trans (getTrw_accept ..)
  rw [ht]
  have hp : PartOnly (accept v e p) (setTrw t e (mapOp (getTrw t e) o.seq fun x => { x with
      got := o.got ++ [((parsePart p.payload).expert, (parsePart p.payload).base)], counted := x.counted })) :=
    hc.partOnly.trans rfl
  have hop : (getTrw (setTrw t e (mapOp (getTrw t e) o.seq fun x => { x with
      got := o.got ++ [((parsePart p.payload).expert, (parsePart p.payload).base)], counted := x.counted })) e).op =
        some (addSegment ((parsePart p.payload).expert, (parsePart p.payload).base) o) := by
    rw [getTrw_setTrw_same, hw]
    show Option.map _ (getTrw v e).op = _
    rw [h.op]
    exact congrArg some (if_pos rfl)
  have hheld : (getTrw (setTrw t e (mapOp (getTrw t e) o.seq fun x => { x with
      got := o.got ++ [((parsePart p.payload).expert, (parsePart p.payload).base)], counted := x.counted })) e).held =
        [] := by
    rw [getTrw_setTrw_same, hw]
    exact h.held
  generalize setTrw t e _ = u at hp hop hheld ⊢
  exact ⟨hp.trans (trwProgress_sent hop hheld h.sent h.notComplete).1, (trwProgress_sent hop hheld h.sent h.notComplete).2⟩

end

section
variable {s v : State} {p : Packet} {e : Nat} {o : TOp} {f : XchgF}

theorem segmentPart_one (hs : Serves s p v) (h : OneSegment v p e o f) (h0 : partOfs p = 0) (hm : v.fab.msgs = [])
    (hf : msgFlits p ≤ flits p) : segmentPart s p =
      trwProgress (Machine.segIn (accept v e p) e o f (parsePart p.payload) p.payload) e := by
  unfold segmentPart
  rw [hs.recv, msgFirst, if_pos h0]
  dsimp only
  rw [h.named]
  dsimp only
  rw [msgAdd_whole h0 hm hf]
  exact Option.getD_some

end

/-! #### The statement -/

/-- What the engines leave of a packet taken, with its acknowledgement. -/
theorem PartOnly.answered_guarded {s v t : State} {p : Packet} {e : Nat} (h : PartOnly (accept v e p) t) (hs : Serves s p v)
    (hn : NoHeldLines s) : guarded s t = t ∧ Answered t p 0 0 :=
  ⟨h.guarded_of hs hn (accept_fabricOnly v e p).held, PartOnly.answered h⟩

section
variable {s u : State} {p : Packet}

theorem exec_blockDescriptor_of (hz : frozen s = false) :
    exec (.blockDescriptor p) s = .next (guarded s (blockDescriptor s p)) := congrArg Host.Outcome.next (if_neg (by simp [hz]))
theorem exec_rows_of (hz : frozen s = false) :
    exec (.rows p) s = .next (guarded s (rowsPart s p)) := congrArg Host.Outcome.next (if_neg (by simp [hz]))
theorem exec_result_of (hz : frozen s = false) (ok : Bool) :
    exec (.result p ok) s = .next (guarded s (resultPart s p ok)) := congrArg Host.Outcome.next (if_neg (by simp [hz]))
theorem exec_cancelled_of (hz : frozen s = false) :
    exec (.cancelled p) s = .next (guarded s (cancelledPart s p)) := congrArg Host.Outcome.next (if_neg (by simp [hz]))
theorem exec_segment_of (hz : frozen s = false) :
    exec (.segment p) s = .next (guarded s (segmentPart s p)) := congrArg Host.Outcome.next (if_neg (by simp [hz]))

/-- A packet that the gate turns away is turned away whatever its kind. -/
theorem exec_turned {t : State} (hz : frozen s = false) (hn : NoHeldLines s) (h : Arrives s p u) (hl : p.long = true)
    (ho : p.op = 8) (hg : ∀ k, engineGate (openSession u p) 0 p k = some t) (ht : HeldKept (openSession u p) t) (ok : Bool) :
    exec (.blockDescriptor p) s = .next t ∧ exec (.rows p) s = .next t ∧ exec (.result p ok) s = .next t ∧
      exec (.cancelled p) s = .next t ∧ exec (.segment p) s = .next t := by
  have hr := trwRecv_turned h hl ho hn hg ht
  exact ⟨(exec_blockDescriptor_of hz).trans (congrArg _ (hr _)), (exec_rows_of hz).trans (congrArg _ (hr _)),
    (exec_result_of hz ok).trans (congrArg _ (hr _)), (exec_cancelled_of hz).trans (congrArg _ (hr _)),
    (exec_segment_of hz).trans (congrArg _ (hr _))⟩

end

/-- Settles O33: the gate answers a packet for a context without cores, and what the engine leaves of a part taken is the part
kept, its acknowledgement and the cores' bytes. -/
theorem tramwayPackets : Obligations.TramwayPackets := by
  intro s u p ok hz hn hl ho harr c v x h done each quiet old
  refine ⟨fun hi => ?_, fun hi hx => ?_, fun hi hx => ?_, fun hi hx => ?_⟩
  · exact exec_turned hz hn harr hl ho (engineGate_noImage hi) (.of_drg rfl) ok
  · exact exec_turned hz hn harr hl ho (engineGate_gone hi hx) (.of_drg rfl) ok
  · exact exec_turned hz hn harr hl ho (engineGate_noCores hi hx) (.of_drg rfl) ok
  have hs : Serves s p v := harr.serves hl ho hi hx
  have hacc : ∀ e, guarded s (accept v e p) = accept v e p := fun e =>
    (hs.held.trans (accept_fabricOnly v e p).held).guarded hn
  have hwait : ∀ e, guarded s (trwWaitAns v e p) = trwWaitAns v e p := fun e =>
    (hs.held.trans (.of_drg (show (trwWaitAns v e p).drg = v.drg from bump_drg ..))).guarded hn
  have hself : guarded s s = s := (HeldKept.refl s).guarded hn
  refine ⟨fun d hd => ?_, fun d e tb hd ht hq hdep hu => ?_, fun h0 e tb ht hf => ⟨?_, ?_⟩,
    fun e tb h0 ht hf hfl hm hq hu hr hleft hfresh => ?_, ?_, ?_, fun hold ht => ⟨?_, ?_⟩, fun hold ht => ?_,
    fun h0 hm => ⟨?_, ?_⟩, fun h0 hw hf hm => ?_⟩
  · exact (exec_blockDescriptor_of hz).trans (by rw [blockDescriptor_waits hs hd, hwait])
  · obtain ⟨hp, hmem⟩ := blockDescriptor_fills hs hd ht hq hdep hu
    obtain ⟨hg, ha⟩ := hp.answered_guarded hs hn
    exact ⟨_, (exec_blockDescriptor_of hz).trans (by rw [hg]), ha, _, hmem, rfl, rfl⟩
  · exact (exec_rows_of hz).trans (by rw [rowsPart_waits hs h0 ht hf, hself])
  · exact (exec_cancelled_of hz).trans (by rw [cancelledPart_waits hs ht hf, hself])
  · have h1 : OneRow v p e tb := ⟨ht, hf, hq, hu, hr, hleft, hfresh, hx⟩
    refine ⟨?_, ?_⟩
    · obtain ⟨m, hin, hpm, hmt⟩ := rowsIn_one h1
      obtain ⟨hp, hmem⟩ := h1.takes (f := addRow _) (fun _ => rfl) rfl hpm hmt
      obtain ⟨hg, ha⟩ := hp.answered_guarded hs hn
      exact ⟨_, (exec_rows_of hz).trans (by rw [rowsPart_one hs h1 h0 hm hfl, hin, hg]), ha, _, hmem, rfl, rfl⟩
    · obtain ⟨m, hin, hpm, hmt⟩ := cancelIn_one h1
      obtain ⟨hp, hmem⟩ := h1.takes (f := cancelRow _) (fun _ => rfl) (h1.cancelRow_fresh ..) hpm hmt
      obtain ⟨hg, ha⟩ := hp.answered_guarded hs hn
      exact ⟨_, (exec_cancelled_of hz).trans (by rw [cancelledPart_one hs h1, hin, hg]), ha, _, hmem, rfl, rfl⟩
  · intro r f a l h0 hfl hm hr hq tag e d hnamed hu hcomb harea hb hrow hlive hdesc hfresh hleft hfa
    have h1 : OneAnswer v p tag r f a l :=
      ⟨rfl, hr, hnamed, hu, hcomb, harea, hb, hrow, hlive, hdesc, hfresh, hleft, hfa, hq⟩
    obtain ⟨hp, hmem⟩ := h1.taken 0 ok
    obtain ⟨hg, ha⟩ := hp.answered_guarded hs hn
    exact ⟨_, (exec_result_of hz ok).trans (by rw [resultPart_one hs h1 h0 hm hfl, hg]), ha, _, hmem, rfl, rfl⟩
  · intro e o f h0 hfl hm hop heo _ hheld htodo hgot hcnt hleft
    have h1 : OneSegment v p e o f := ⟨hop, heo, hheld, htodo, hgot, hcnt, hleft, hx⟩
    obtain ⟨hp, hsome⟩ := h1.taken p.payload
    obtain ⟨hg, ha⟩ := hp.answered_guarded hs hn
    exact ⟨_, (exec_segment_of hz).trans (by rw [segmentPart_one hs h1 h0 hm hfl, hg]), ha, hsome⟩
  · exact (exec_rows_of hz).trans (by rw [rowsPart_late hs hold.1 ht hold.2, hacc])
  · exact (exec_cancelled_of hz).trans (by rw [cancelledPart_late hs ht hold.2, hacc])
  · exact (exec_segment_of hz).trans (by rw [segmentPart_late hs hold.1 ht hold.2, hacc])
  · exact (exec_result_of hz ok).trans (by rw [resultPart_noFirst hs h0 hm, hwait])
  · exact (exec_segment_of hz).trans (by rw [segmentPart_noFirst hs h0 hm, hself])
  · obtain ⟨w, hw, hvw, hmsg⟩ := resultPart_part hs h0 hw hm hf ok
    have hg : guarded s (accept w 0 p) = accept w 0 p :=
      (hs.held.trans (hvw.trans (accept_fabricOnly w 0 p)).held).guarded hn
    refine ⟨_, (exec_result_of hz ok).trans (by rw [hw, hg]), PartOnly.answered (.refl (accept w 0 p)), ?_⟩
    obtain ⟨m, hm, hof⟩ := hmsg
    exact ⟨m, by rwa [accept_msgs], hof⟩

end Sys2Proof.Machine


/-! ### Accesses that reach a controller -/

namespace Sys2Proof.Machine

open Sys2Proof

/-! #### Counting and charging an access -/

theorem count_bump {s : State} (hf : frozen s = false) (u i n j : Nat) : mget 0 (getFace (bump s u i n) u).cnt j =
    if j = i then inc64 (mget 0 (getFace s u).cnt i) n else mget 0 (getFace s u).cnt j := by
  rw [bump_running hf, getFace_setFace, if_pos rfl, mget_mput]

/-- `t` is `s` but for one counter and the regulators, the counter one higher. -/
structure Charged (s t : State) (u i : Nat) : Prop where
  only : t = { s with faces := t.faces, buckets := t.buckets }
  count : mget 0 (getFace t u).cnt i = inc64 (mget 0 (getFace s u).cnt i) 1

theorem chargeHbm_only (s : State) (c : Option Nat) (n : Nat) :
    chargeHbm s c n = { s with buckets := (chargeHbm s c n).buckets } := by
  unfold chargeHbm
  split
  · rfl
  · dsimp only
    split <;> rfl

theorem access_charged {s : State} (hf : frozen s = false) (u i : Nat) (c : Option Nat) (n : Nat) :
    Charged s (chargeHbm (bump s u i 1) c n) u i := by
  have hc := chargeHbm_only (bump s u i 1) c n
  have hb := bump_facesOnly s u i 1
  have hn := (count_bump hf u i 1 i).trans (if_pos rfl)
  generalize bump s u i 1 = v at hc hb hn ⊢
  refine ⟨?_, ?_⟩
  · rw [hc, hb]
  · rw [hc]
    exact hn

theorem Charged.frozen {s t : State} {u i : Nat} (h : Charged s t u i) (hf : Machine.frozen s = false) :
    Machine.frozen t = false := by
  rw [h.only]
  exact hf

theorem Charged.bench1 {s t : State} {u i : Nat} (h : Charged s t u i) : t.bench1 = s.bench1 := by rw [h.only]

theorem Charged.chk {s t : State} {u i : Nat} (h : Charged s t u i) : t.chk = s.chk := by rw [h.only]

theorem reqSnoop_none {s : State} (h : NoHeldLines s) (n loc len : Nat) (wr : Bool) (r : Requester) :
    reqSnoop s n loc len wr r = s := by
  unfold reqSnoop
  split
  · rfl
  · exact snoopNeed_none h.1 ..

/-! #### Codewords -/

/-- `t` is `s` but for stored bytes. -/
def StoredOnly (s t : State) : Prop := t = { s with bench1 := t.bench1, chk := t.chk }

theorem StoredOnly.trans {s t u : State} (h₁ : StoredOnly s t) (h₂ : StoredOnly t u) : StoredOnly s u := by
  unfold StoredOnly at *
  rw [h₂, h₁]

theorem cwWrite_storedOnly (s : State) (n loc : Nat) (d : List Byte) : StoredOnly s (cwWrite s n loc d) := rfl

theorem burstPut_storedOnly (s : State) (n base : Nat) (data : List Byte) : StoredOnly s (burstPut s n base data) :=
  foldl_rel (R := StoredOnly) (fun _ => rfl) .trans (fun _ _ => cwWrite_storedOnly ..) _ s

/-- An access leaves its counter advanced when only stored bytes follow it. -/
theorem StoredOnly.counted {s t v : State} {u i : Nat} (h : StoredOnly t v) (hc : Charged s t u i) :
    mget 0 (getFace v u).cnt i = inc64 (mget 0 (getFace s u).cnt i) 1 := by
  rw [h]
  exact hc.count

theorem Charged.guarded {s t : State} {u i : Nat} (hc : Charged s t u i) (hn : NoHeldLines s) : guarded s t = t :=
  HeldKept.guarded (.of_drg (by rw [hc.only])) hn

theorem StoredOnly.guarded {s t v : State} {u i : Nat} (h : StoredOnly t v) (hc : Charged s t u i) (hn : NoHeldLines s) :
    guarded s v = v :=
  HeldKept.guarded (.of_drg (by rw [h, hc.only])) hn

/-- The codeword at `loc` holds no error and none of its lanes is marked. -/
def CleanCw (s : State) (n loc : Nat) : Prop :=
  (getHbm s n).marked = [] ∧ ∀ i, i < 4 → mget 0 s.chk (key n loc * 4 + i) = 0

theorem cwRead_cleanCw {s : State} {n loc : Nat} (h : CleanCw s n loc) (r : Req) :
    cwRead s n loc [] r = (readBytes s.bench1 (key n loc) 32, false, s) := by
  have hst : ((List.range 4).filterMap fun i => if mget 0 s.chk (key n loc * 4 + i) = 0 then none
      else some (32 + i, mget 0 s.chk (key n loc * 4 + i))) = [] :=
    List.filterMap_eq_nil_iff.mpr fun i hi => if_pos (h.2 i (List.mem_range.mp hi))
  unfold cwRead
  dsimp only
  rw [markedLanes_clean h.1, applyErr_nil, hst]
  rfl

theorem padTo_length {n : Nat} {l : List Byte} (h : l.length ≤ n) : (padTo n l).length = n := by
  unfold padTo
  rw [List.length_append, List.length_replicate]
  omega

theorem getD_padTo (n : Nat) (l : List Byte) (i : Nat) : (padTo n l).getD i 0 = l.getD i 0 := by
  unfold padTo
  by_cases h : i < l.length
  · rw [List.getD_append _ _ _ _ h]
  · rw [List.getD_append_right _ _ _ _ (by omega), List.getD_eq_default l _ (by omega), List.getD_eq_getElem?_getD,
      List.getElem?_replicate]
    split <;> rfl

theorem getD_drop_take {l : List Byte} {o n i : Nat} (h : i < n) : ((l.drop o).take n).getD i 0 = l.getD (o + i) 0 := by
  simp only [List.getD_eq_getElem?_getD, List.getElem?_take, if_pos h, List.getElem?_drop]

/-- What a codeword written holds. -/
theorem mget_cwWrite {s : State} {n loc : Nat} {d : List Byte} (hd : d.length = 32) (a : Nat) :
    mget 0 (cwWrite s n loc d).bench1 a =
      if key n loc ≤ a ∧ a < key n loc + 32 then d.getD (a - key n loc) 0 else mget 0 s.bench1 a := by
  show mget 0 (writeBytes s.bench1 (key n loc) d) a = _
  rw [mget_writeBytes, hd]

theorem getD_merge {old new : List Byte} {mask : Nat → Bool} {i : Nat} (hi : i < old.length) :
    (merge old new mask).getD i 0 = if mask i then new.getD i 0 else old.getD i 0 := by
  unfold merge indexed
  rw [List.getD_eq_getElem _ _ (by simpa using hi), List.getElem_map, List.getElem_zip, List.getElem_range,
    List.getD_eq_getElem old _ hi]

theorem merge_length (old new : List Byte) (mask : Nat → Bool) : (merge old new mask).length = old.length := by
  simp [merge, indexed]

/-! #### Bursts -/

/-- What `m` codewords of a long burst leave. -/
theorem mget_codewords (s : State) (n base : Nat) (data : List Byte) (m a : Nat) :
    mget 0 ((List.range m).foldl (fun s k => cwWrite s n (base + 32 * k) (padTo 32 ((data.drop (32 * k)).take 32))) s).bench1 a =
      if key n base ≤ a ∧ a < key n base + 32 * m then data.getD (a - key n base) 0 else mget 0 s.bench1 a := by
  induction m with
  | zero => rw [if_neg (by omega)]; rfl
  | succ m ih =>
    have hk : key n (base + 32 * m) = key n base + 32 * m := (Nat.add_assoc ..).symm
    rw [List.range_succ, List.foldl_append, List.foldl_cons, List.foldl_nil, mget_cwWrite (padTo_length (by simp)), hk, ih]
    by_cases h : key n base + 32 * m ≤ a ∧ a < key n base + 32 * m + 32
    · rw [if_pos h, if_pos (by omega), getD_padTo, getD_drop_take (by omega)]
      congr 1
      omega
    · rw [if_neg h]
      exact if_congr (by omega) rfl rfl

theorem burstGet_clean {s : State} {n : Nat} (hm : (getHbm s n).marked = []) (hc : s.chk = []) (base : Nat) (r : Req) :
    (burstGet s n base [] r).2.2 = s := by
  have hk : ∀ loc, CleanCw s n loc := fun loc => ⟨hm, fun i _ => by rw [hc]; rfl⟩
  unfold burstGet
  generalize List.range 64 = l
  generalize ([] : List Byte) = d
  generalize 0 = m
  induction l generalizing d m with
  | nil => rfl
  | cons k l ih =>
    rw [List.foldl_cons]
    dsimp only
    rw [show cwErrs [] k = [] from rfl, cwRead_cleanCw (hk _)]
    exact ih _ _

/-! #### The statement -/

section
variable {s : State} {n : Fin 32} {addr : BitVec 48} {data : List Byte} {req : Requester}

theorem reach_service {act : State → State} (hf : frozen s = false) (h : (getHbm s n.val).st = .service) :
    reach s n.val req act = act s := by
  unfold reach
  rw [if_neg (by simp [hf]), h]

theorem reach_dropped {act : State → State} (hf : frozen s = false)
    (h : (getHbm s n.val).st = .test ∨ (getHbm s n.val).st = .retrain ∨ (getHbm s n.val).st = .failed) :
    reach s n.val req act = bump s (552 + n.val) 15 1 := by
  unfold reach
  rw [if_neg (by simp [hf])]
  rcases h with h | h | h <;> rw [h]

theorem exec_longBurst_of (ho : hbmOn s = true) (hb : addr.toNat / 2048 * 2048 < trainBase) (wr : Bool) :
    exec (.longBurst n addr wr data [] req) s = .next (guarded s (reach s n.val req fun s =>
      burst s n.val (addr.toNat / 2048 * 2048) wr data [] req)) :=
  congrArg Host.Outcome.next (if_neg (by simpa [ho] using hb))

theorem exec_narrowPath_of (ho : hbmOn s = true) (hb : addr.toNat / 32 * 32 < trainBase) (mask : BitVec 32) :
    exec (.narrowPath n addr mask data [] req) s = .next (guarded s (reach s n.val req fun s =>
      narrow s n.val (addr.toNat / 32 * 32) mask data [] req)) :=
  congrArg Host.Outcome.next (if_neg (by simpa [ho] using hb))

theorem bump_guarded (hn : NoHeldLines s) (u i : Nat) : guarded s (bump s u i 1) = bump s u i 1 :=
  HeldKept.guarded (.of_drg (bump_drg ..)) hn

/-- A long burst written: its bytes and its count. -/
theorem burst_writes (hf : frozen s = false) (hn : NoHeldLines s) (base : Nat) : ∃ v, Charged s v (552 + n.val) 7 ∧
    burst s n.val base true data [] req = burstPut v n.val base data :=
  ⟨_, access_charged hf .., by unfold burst; rw [reqSnoop_none hn]; rfl⟩

/-- A long burst read of a memory without errors: its count. -/
theorem burst_reads (hf : frozen s = false) (hn : NoHeldLines s) (hm : (getHbm s n.val).marked = []) (hc : s.chk = [])
    (base : Nat) : Charged s (burst s n.val base false data [] req) (552 + n.val) 6 := by
  have h := access_charged hf (552 + n.val) 6 (toReq s req).ctx 2048
  have he : burst s n.val base false data [] req = chargeHbm (bump s (552 + n.val) 6 1) (toReq s req).ctx 2048 := by
    unfold burst
    rw [reqSnoop_none hn]
    refine burstGet_clean ?_ ?_ base _
    · exact (congrArg (fun t => (getHbm t n.val).marked) h.only).trans hm
    · exact h.chk.trans hc
  rw [he]
  exact h

/-- A narrow read of a clean codeword: its count. -/
theorem narrow_reads (hf : frozen s = false) (hn : NoHeldLines s) {loc : Nat} (hc : CleanCw s n.val loc) :
    Charged s (narrow s n.val loc 0 data [] req) (552 + n.val) 4 := by
  have h := access_charged hf (552 + n.val) 4 (toReq s req).ctx 32
  have hcc : CleanCw (chargeHbm (bump s (552 + n.val) 4 1) (toReq s req).ctx 32) n.val loc := by
    rw [h.only]
    exact hc
  have he : narrow s n.val loc 0 data [] req = chargeHbm (bump s (552 + n.val) 4 1) (toReq s req).ctx 32 := by
    unfold narrow
    rw [reqSnoop_none hn]
    refine (if_pos rfl).trans ?_
    exact congrArg (fun x => x.2.2) (cwRead_cleanCw hcc _)
  rw [he]
  exact h

/-- A bump of another counter keeps the count of an access. -/
theorem Charged.bump {v : State} {u i : Nat} (h : Charged s v u i) (hf : Machine.frozen s = false) {j : Nat} (hj : i ≠ j) :
    Charged s (bump v u j 1) u i := by
  refine ⟨?_, ?_⟩
  · rw [bump_facesOnly v u j 1, h.only]
  · rw [count_bump (h.frozen hf), if_neg hj, h.count]

theorem all_getLsbD {mask : BitVec 32} : (List.range 32).all (fun i => mask.getLsbD i) = true ↔ mask = BitVec.allOnes 32 := by
  rw [List.all_eq_true]
  refine ⟨fun h => BitVec.eq_of_getLsbD_eq fun i hi => ?_, fun h i hi => ?_⟩
  · rw [h i (List.mem_range.mpr hi), BitVec.getLsbD_allOnes, decide_eq_true hi]
  · rw [h, BitVec.getLsbD_allOnes, decide_eq_true (List.mem_range.mp hi)]

/-- A narrow write: its count, and the codeword that it leaves. -/
theorem narrow_writes (hf : frozen s = false) (hn : NoHeldLines s) {loc : Nat} {mask : BitVec 32} (h0 : mask ≠ 0)
    (hc : mask ≠ BitVec.allOnes 32 → CleanCw s n.val loc) : ∃ v d, Charged s v (552 + n.val) 5 ∧
      narrow s n.val loc mask data [] req = cwWrite v n.val loc d ∧ d.length = 32 ∧
        ∀ i, i < 32 → d.getD i 0 = if mask.getLsbD i then data.getD i 0 else mget 0 s.bench1 (key n.val loc + i) := by
  have h := access_charged hf (552 + n.val) 5 (toReq s req).ctx 32
  have he : narrow s n.val loc mask data [] req = cwModify (chargeHbm (bump s (552 + n.val) 5 1) (toReq s req).ctx 32) n.val loc
      (padTo 32 (data.take 32)) (fun i => mask.getLsbD i) [] (toReq s req) := by
    unfold narrow
    exact (if_neg h0).trans (by rw [reqSnoop_none hn]; rfl)
  have hnew : ∀ i, i < 32 → (padTo 32 (data.take 32)).getD i 0 = data.getD i 0 := fun i hi => by
    rw [getD_padTo, ← List.drop_zero (l := data), getD_drop_take hi, Nat.zero_add]
    rfl
  generalize chargeHbm (bump s (552 + n.val) 5 1) (toReq s req).ctx 32 = v at h he
  rw [he]
  unfold cwModify
  by_cases hall : mask = BitVec.allOnes 32
  · refine ⟨v, _, h, if_pos (all_getLsbD.mpr hall), padTo_length (by simp), fun i hi => ?_⟩
    rw [hnew i hi, hall, BitVec.getLsbD_allOnes, decide_eq_true hi, if_pos rfl]
  · have hb := h.bump hf (j := 8) (by decide)
    have hcc : CleanCw (bump v (552 + n.val) 8 1) n.val loc := by
      rw [hb.only]
      exact hc hall
    have hbytes : (bump v (552 + n.val) 8 1).bench1 = s.bench1 := hb.bench1
    refine ⟨_, merge (readBytes s.bench1 (key n.val loc) 32) (padTo 32 (data.take 32)) (fun i => mask.getLsbD i), hb, ?_, ?_,
      fun i hi => ?_⟩
    · rw [if_neg (mt all_getLsbD.mp hall)]
      dsimp only
      rw [cwRead_cleanCw hcc, hbytes]
    · rw [merge_length]
      simp [readBytes]
    · rw [getD_merge (by simpa [readBytes] using hi), hnew i hi]
      refine if_congr Iff.rfl rfl ?_
      rw [List.getD_eq_getElem _ _ (by simpa [readBytes] using hi)]
      simp [readBytes]

end

/-- Settles O34: an access is counted and charged, and leaves the bytes of its codewords. -/
theorem hbmAccesses : Obligations.HbmAccesses := by
  intro s n addr mask data req wr ho hf hn cw base h counts clean
  refine ⟨fun hst hb => ⟨?_, fun hm hc => ?_⟩, fun hst hb => ⟨fun hw => ?_, fun hc => ?_⟩, fun hst => ⟨fun hb => ?_, fun hb => ?_⟩⟩
  · obtain ⟨v, hv, he⟩ := burst_writes (data := data) (req := req) (n := n) hf hn base
    have hs := burstPut_storedOnly v n.val base data
    have hbytes : v.bench1 = s.bench1 := hv.bench1
    have hat : ∀ a, mget 0 (burstPut v n.val base data).bench1 a = if key n.val base ≤ a ∧ a < key n.val base + 2048 then
        data.getD (a - key n.val base) 0 else mget 0 s.bench1 a := fun a => by
      rw [← hbytes]
      exact mget_codewords v n.val base data 64 a
    refine ⟨burstPut v n.val base data, (exec_longBurst_of ho hb true).trans ?_, hs.counted hv, fun i hi => ?_, fun a ha => ?_⟩
    · rw [reach_service hf hst, he, hs.guarded hv hn]
    · rw [hat, if_pos (by omega), Nat.add_sub_cancel_left]
    · rw [hat, if_neg (by omega)]
  · have hr := burst_reads (data := data) (req := req) hf hn hm hc base
    refine ⟨_, (exec_longBurst_of ho hb false).trans ?_, hr.count, hr.bench1, hr.chk⟩
    rw [reach_service hf hst, hr.guarded hn]
  · have h0 : mask ≠ 0 := by
      rcases hw with hw | hw
      · rw [hw]
        decide
      · exact hw.1
    obtain ⟨v, d, hv, he, hd, hget⟩ := narrow_writes (data := data) (req := req) hf hn h0 fun hall =>
      (hw.resolve_left hall).2
    have hs := cwWrite_storedOnly v n.val cw d
    have hbytes : v.bench1 = s.bench1 := hv.bench1
    refine ⟨cwWrite v n.val cw d, (exec_narrowPath_of ho hb mask).trans ?_, hs.counted hv, fun i hi => ?_, fun a ha => ?_⟩
    · rw [reach_service hf hst, he, hs.guarded hv hn]
    · rw [mget_cwWrite hd, if_pos (by omega), Nat.add_sub_cancel_left, hget i hi]
    · rw [mget_cwWrite hd, if_neg (by omega), hbytes]
  · have hr := narrow_reads (data := data) (req := req) hf hn hc
    refine ⟨_, (exec_narrowPath_of ho hb 0).trans ?_, hr.count, hr.bench1, hr.chk⟩
    rw [reach_service hf hst, hr.guarded hn]
  · exact (exec_longBurst_of ho hb wr).trans (by rw [reach_dropped hf hst, bump_guarded hn])
  · exact (exec_narrowPath_of ho hb mask).trans (by rw [reach_dropped hf hst, bump_guarded hn])

end Sys2Proof.Machine


/-! ### Commands and training of a controller -/

namespace Sys2Proof.Machine

open Sys2Proof

/-! #### A unit that faults -/

/-- A fault of a unit leaves the memories, the stage of the power-up, and the state of every unit. -/
structure FaultKeeps (s t : State) : Prop where
  hbms : t.hbms = s.hbms
  bench1 : t.bench1 = s.bench1
  stage : t.pwr.stage = s.pwr.stage
  face : ∀ u, (getFace t u).st = (getFace s u).st ∧ (getFace t u).fault = (getFace s u).fault

theorem FaultKeeps.refl (s : State) : FaultKeeps s s := ⟨rfl, rfl, rfl, fun _ => ⟨rfl, rfl⟩⟩

theorem FaultKeeps.trans {s t u : State} (h₁ : FaultKeeps s t) (h₂ : FaultKeeps t u) : FaultKeeps s u :=
  ⟨h₂.hbms.trans h₁.hbms, h₂.bench1.trans h₁.bench1, h₂.stage.trans h₁.stage,
    fun v => ⟨(h₂.face v).1.trans (h₁.face v).1, (h₂.face v).2.trans (h₁.face v).2⟩⟩

theorem bump_faultKeeps (s : State) (u i n : Nat) : FaultKeeps s (bump s u i n) := by
  have h := bump_cleanAccess s u i n
  refine ⟨by rw [bump_facesOnly], by rw [bump_facesOnly], by rw [bump_facesOnly], fun v => ?_⟩
  rw [h.face]
  exact ⟨rfl, rfl⟩

theorem stopUnit_faultKeeps (s : State) (src u : Nat) : FaultKeeps s (stopUnit s src u) := by
  refine FaultKeeps.trans (t := setFace s u { getFace s u with stopIn := true, stopSrc := BitVec.ofNat 3 src })
    ⟨rfl, rfl, rfl, fun v => ?_⟩ (bump_faultKeeps ..)
  rw [getFace_setFace]
  split
  · rename_i h
    rw [h]
    exact ⟨rfl, rfl⟩
  · exact ⟨rfl, rfl⟩

theorem stopGang_faultKeeps (s : State) (c src : Nat) : FaultKeeps s (stopGang s c src) :=
  foldl_rel (R := FaultKeeps) .refl .trans (fun s u => stopUnit_faultKeeps s src u) _ s

theorem setCtx_faultKeeps (s : State) (c : Nat) (x : Ctx) : FaultKeeps s (setCtx s c x) :=
  ⟨rfl, rfl, rfl, fun _ => ⟨rfl, rfl⟩⟩

theorem purgeQueues_faultKeeps (s : State) (c : Nat) : FaultKeeps s (purgeQueues s c) := ⟨rfl, rfl, rfl, fun _ => ⟨rfl, rfl⟩⟩

theorem teardown_faultKeeps (s : State) (c cause : Nat) (uf : Option UnitFault) : FaultKeeps s (teardown s c cause uf) := by
  unfold teardown
  dsimp only
  split
  · refine FaultKeeps.trans (((setCtx_faultKeeps s c { getCtx s c with
      st := .teardown
      cause := BitVec.ofNat 8 cause
      causeUnit := uf
      blocked := false
      settling := false
      stepOn := false }).trans
        (stopGang_faultKeeps _ c 1)).trans (purgeQueues_faultKeeps _ c)) ?_
    generalize purgeQueues _ c = w
    exact ⟨rfl, rfl, rfl, fun _ => ⟨rfl, rfl⟩⟩
  · exact .refl s

theorem trigger_faultKeeps (s : State) (bit : Nat) : FaultKeeps s (trigger s bit) := by
  unfold trigger requestDip
  split
  · split <;> exact ⟨rfl, rfl, rfl, fun _ => ⟨rfl, rfl⟩⟩
  · exact .refl s

/-- What a fault leaves of the unit: FAULTED, with its code. -/
theorem unitFault_faultKeeps (s : State) (u code : Nat) :
    FaultKeeps (setFace s u { getFace s u with st := .faulted, fault := BitVec.ofNat 8 code }) (unitFault s u code) := by
  unfold unitFault
  dsimp only
  refine FaultKeeps.trans (trigger_faultKeeps _ 4) ?_
  split
  · exact teardown_faultKeeps ..
  · exact .refl _

/-- A controller that fails: FAILED, its unit FAULTED with TRAIN. -/
theorem hbmFail_failed (s : State) (n : Nat) (fails : List LaneFail) :
    (getHbm (hbmFail s n fails) n).st = .failed ∧ (getHbm (hbmFail s n fails) n).err = (getHbm s n).err ∧
      (getFace (hbmFail s n fails) (552 + n)).st = .faulted ∧ (getFace (hbmFail s n fails) (552 + n)).fault = 0x0A ∧
      (hbmFail s n fails).bench1 = s.bench1 := by
  unfold hbmFail
  dsimp only
  generalize hf : ({ getHbm s n with st := .failed, failPc := _, failValid := _, repaired := _ } : Hbm) = f
  have hst : f.st = .failed := by rw [← hf]
  have herr : f.err = (getHbm s n).err := by rw [← hf]
  have hk := unitFault_faultKeeps (setHbm s n f) (552 + n) 0x0A
  have hh : getHbm (unitFault (setHbm s n f) (552 + n) 0x0A) n = f := by
    unfold getHbm
    rw [hk.hbms]
    exact getHbm_setHbm_same ..
  have hfc := hk.face (552 + n)
  rw [getFace_setFace, if_pos rfl] at hfc
  generalize unitFault (setHbm s n f) (552 + n) 0x0A = t at hh hfc hk
  refine ⟨?_, ?_, hfc.1, hfc.2, hk.bench1⟩
  · exact (congrArg Hbm.st hh).trans hst
  · exact (congrArg Hbm.err hh).trans herr

/-! #### Training -/

/-- The controller as its training leaves it when the device ID and every lane are good. -/
def trained (h : Hbm) : Hbm :=
  { h with
    repaired := repairAll h.hardRepaired []
    st := .service
    marked := [] }

/-- The state with the stack of a controller trained and filled. -/
def trainedState (s : State) (n : Nat) : State :=
  setHbm (hbmFill (setHbm s n { getHbm s n with repaired := (getHbm s n).hardRepaired }) n) n (trained (getHbm s n))

theorem hbmTrain_good {s : State} {n : Nat} (ht : (getHbm s n).st = .training)
    (hg : firstFail (getHbm s n).hardRepaired [] = none) : hbmTrain s n true [] =
      if (trainedState s n).pwr.stage = .hbmTrain ∧ (List.range 32).all (served (trainedState s n)) then
        { trainedState s n with pwr := { (trainedState s n).pwr with stage := .aditTrain } }
      else trainedState s n := by
  unfold hbmTrain
  dsimp only
  rw [if_neg (by simp [ht]), getHbm_setHbm_same]
  exact if_pos (by simp [trainOk, hg])

theorem hbmTrain_bad {s : State} {n : Nat} {ok : Bool} {fails : List LaneFail} (ht : (getHbm s n).st = .training)
    (hb : ok = false ∨ (firstFail (getHbm s n).hardRepaired fails).isSome = true) : ∃ u, u.bench1 = s.bench1 ∧
      hbmTrain s n ok fails =
        { hbmFail u n fails with pwr := { (hbmFail u n fails).pwr with stage := .failed, failStage := 3 } } := by
  refine ⟨setHbm s n { getHbm s n with repaired := (getHbm s n).hardRepaired }, rfl, ?_⟩
  unfold hbmTrain
  dsimp only
  rw [if_neg (by simp [ht]), getHbm_setHbm_same]
  refine if_neg ?_
  unfold trainOk
  rcases hb with hb | hb
  · simp [hb]
  · dsimp only
    cases hf : firstFail (getHbm s n).hardRepaired fails with
    | none => simp [hf] at hb
    | some p => simp

theorem getHbm_trainedState (s : State) (n k : Nat) :
    getHbm (trainedState s n) k = if k = n then trained (getHbm s n) else getHbm s k := by
  unfold trainedState
  rw [getHbm_setHbm]
  split
  · rfl
  · rename_i hk
    exact (getHbm_setHbm ..).trans (if_neg hk)

theorem pwr_trainedState (s : State) (n : Nat) : (trainedState s n).pwr = s.pwr := by
  unfold trainedState
  rw [setHbm_pwr, show ∀ t, (hbmFill t n).pwr = t.pwr from fun _ => rfl, setHbm_pwr]

theorem bench1_trainedState (s : State) (n a : Nat) : mget 0 (trainedState s n).bench1 a =
    if a / stackShift = n ∧ a % stackShift < trainBase then 0 else mget 0 s.bench1 a := by
  have h : (trainedState s n).bench1 = mclear s.bench1 fun k => decide (k / stackShift = n ∧ k % stackShift < trainBase) := rfl
  rw [h, mget_mclear]
  exact if_congr (by simp) rfl rfl

/-- Every controller serves once the last has trained. -/
theorem all_served_trainedState {s : State} {n : Nat} : (List.range 32).all (served (trainedState s n)) = true ↔
    ∀ k, k < 32 → k ≠ n → (getHbm s k).st = .service := by
  rw [List.all_eq_true]
  refine ⟨fun h k hk hne => ?_, fun h k hk => ?_⟩
  · have hs := h k (List.mem_range.mpr hk)
    unfold served at hs
    rwa [getHbm_trainedState, if_neg hne, decide_eq_true_eq] at hs
  · unfold served
    rw [getHbm_trainedState, decide_eq_true_eq]
    split
    · rfl
    · rename_i hne
      exact h k (List.mem_range.mp hk) hne

/-- What a good training leaves: the controller serving, its stack filled, and the stage past HBM_TRAIN with the last. -/
theorem hbmTrain_trained {s : State} {n : Nat} (ht : (getHbm s n).st = .training)
    (hg : firstFail (getHbm s n).hardRepaired [] = none) :
    getHbm (hbmTrain s n true []) n = trained (getHbm s n) ∧
      (∀ a, mget 0 (hbmTrain s n true []).bench1 a =
        if a / stackShift = n ∧ a % stackShift < trainBase then 0 else mget 0 s.bench1 a) ∧
      (s.pwr.stage = .hbmTrain → (∀ k, k < 32 → k ≠ n → (getHbm s k).st = .service) →
        (hbmTrain s n true []).pwr.stage = .aditTrain) ∧
      (s.pwr.stage = .hbmTrain → (¬ ∀ k, k < 32 → k ≠ n → (getHbm s k).st = .service) →
        (hbmTrain s n true []).pwr.stage = .hbmTrain) := by
  have hh : getHbm (trainedState s n) n = trained (getHbm s n) := (getHbm_trainedState ..).trans (if_pos rfl)
  have hp := pwr_trainedState s n
  have hb := bench1_trainedState s n
  have ha := all_served_trainedState (s := s) (n := n)
  rw [hbmTrain_good ht hg]
  generalize trainedState s n = u at hh hp hb ha
  by_cases hl : u.pwr.stage = .hbmTrain ∧ (List.range 32).all (served u) = true
  · rw [if_pos hl]
    exact ⟨hh, hb, fun _ _ => rfl, fun _ hn => absurd (ha.mp hl.2) hn⟩
  · rw [if_neg hl]
    exact ⟨hh, hb, fun hst ho => absurd ⟨hp ▸ hst, ha.mpr ho⟩ hl, fun hst _ => hp ▸ hst⟩

/-! #### Commands -/

section
variable {s : State} {n : Nat}

theorem hbmRetrain_taken (h : ((getHbm s n).st = .service ∧ hbmBusy s = false) ∨ (getHbm s n).st = .test)
    (hf : (getFace s (552 + n)).st ≠ .faulted) : hbmRetrain s n =
      setHbm s n { hbmBegin (getHbm s n) 3 0 with st := .retrain, failValid := false, failPc := 0 } := by
  unfold hbmRetrain
  dsimp only
  rcases h with ⟨h, hb⟩ | h
  · rw [h]
    dsimp only
    rw [if_neg (by simp [hb])]
    exact if_neg hf
  · rw [h]
    dsimp only
    rw [if_neg (by simp)]
    exact if_neg hf

theorem hbmRetrain_refused (h : (getHbm s n).st = .down ∨ (getHbm s n).st = .training ∨ (getHbm s n).st = .retrain) :
    hbmRetrain s n = hbmRefuse s n 3 1 := by
  unfold hbmRetrain
  dsimp only
  rcases h with h | h | h <;> rw [h]

theorem hbmRetrain_busy (h : (getHbm s n).st = .service) (hb : hbmBusy s = true) : hbmRetrain s n = hbmRefuse s n 3 2 := by
  unfold hbmRetrain
  dsimp only
  rw [h]
  exact if_pos ⟨rfl, hb⟩

theorem hbmRepair_away (h : (getHbm s n).st ≠ .test) (cmd : Nat) : hbmRepair s n cmd = hbmRefuse s n cmd 1 := if_pos h

theorem hbmRepair_bad (h : (getHbm s n).st = .test) (hb : pprBad (getHbm s n) = true) (cmd : Nat) :
    hbmRepair s n cmd = hbmRefuse s n cmd 4 := (if_neg (by simp [h])).trans (if_pos hb)

theorem hbmRepair_taken (h : (getHbm s n).st = .test) (hb : pprBad (getHbm s n) = false) (cmd : Nat) :
    hbmRepair s n cmd = setHbm s n (hbmBegin (getHbm s n) cmd (pprAddr (getHbm s n))) :=
  (if_neg (by simp [h])).trans (if_neg (by simp [hb]))

theorem hbmCommandDone_retrain {row : BitVec 34} (h : (getHbm s n).jobs = [(3, row)]) (ok : Bool) (fails : List LaneFail) :
    hbmCommandDone s n ok fails = retrainDone s n ok fails := by
  unfold hbmCommandDone
  rw [h]
  rfl

theorem retrainDone_good {row : BitVec 34} (h : (getHbm s n).jobs = [(3, row)])
    (hg : firstFail (getHbm s n).repaired [] = none) : retrainDone s n true [] = setHbm s n { getHbm s n with
      jobs := []
      done := true
      marked := []
      st := .service
      repaired := repairAll (getHbm s n).repaired [] } := by
  have hj : jobEnd (getHbm s n) = { getHbm s n with jobs := [], done := true } := by simp [jobEnd, h]
  unfold retrainDone
  rw [hj]
  exact if_pos (by simp [trainOk, hg])

theorem retrainDone_bad (fails : List LaneFail) :
    ∃ u, (getHbm u n).err = 5 ∧ retrainDone s n false fails = hbmFail u n fails :=
  ⟨setHbm s n { jobEnd (getHbm s n) with marked := [], err := 5 }, by rw [getHbm_setHbm_same], by
    unfold retrainDone
    exact if_neg (by simp [trainOk])⟩

theorem bump_getHbm (s : State) (u i m k : Nat) : getHbm (bump s u i m) k = getHbm s k := by rw [bump_facesOnly]; rfl

/-- A test burst written, without raw symbols: the buffer's bytes. -/
theorem testBurstComplete_writes (hg : (getHbm s n).burstGo = true) (hw : (getHbm s n).burstWrite = true)
    (hr : (getHbm s n).raw = false) (hb : (getHbm s n).burstAddr.toNat / 2048 * 2048 < stackSize) :
    ∃ u, u.bench1 = s.bench1 ∧ (getHbm u n).burstGo = false ∧ testBurstComplete s n [] =
      burstPut u n ((getHbm s n).burstAddr.toNat / 2048 * 2048) (readBytes (getHbm s n).burstBuf 0 2048) := by
  have hm : testMove (setHbm s n { getHbm s n with burstGo := false }) n ((getHbm s n).burstAddr.toNat / 2048 * 2048) [] =
      burstPut (setHbm (bump (setHbm s n { getHbm s n with burstGo := false }) (552 + n) 7 1) n
        { getHbm s n with burstGo := false, bCorrected := 0, bUncorr := 0 }) n
          ((getHbm s n).burstAddr.toNat / 2048 * 2048) (readBytes (getHbm s n).burstBuf 0 2048) := by
    unfold testMove
    dsimp only
    rw [getHbm_setHbm_same]
    dsimp only
    rw [hr, hw]
    dsimp only
    rw [if_pos rfl, bump_getHbm, getHbm_setHbm_same]
  have he : testBurstComplete s n [] = testMove (setHbm s n { getHbm s n with burstGo := false }) n
      ((getHbm s n).burstAddr.toNat / 2048 * 2048) [] := by
    unfold testBurstComplete
    dsimp only
    rw [if_neg (by simp [hg]), if_pos hb]
  refine ⟨_, ?_, ?_, he.trans hm⟩
  · exact (bump_faultKeeps (setHbm s n { getHbm s n with burstGo := false }) (552 + n) 7 1).bench1
  · rw [getHbm_setHbm_same]

end

theorem burstPut_getHbm (s : State) (n base : Nat) (d : List Byte) (k : Nat) : getHbm (burstPut s n base d) k = getHbm s k := by
  have h : (burstPut s n base d).hbms = s.hbms := by rw [burstPut_storedOnly s n base d]
  unfold getHbm
  rw [h]

theorem testBurst_taken {s : State} {n : Nat} (h : (getHbm s n).st = .test ∨ (getHbm s n).st = .failed) :
    testBurst s n = setHbm s n { getHbm s n with burstGo := true } := by
  unfold testBurst
  dsimp only
  rcases h with h | h <;> rw [h]

theorem testBurst_refused {s : State} {n : Nat} (h : (getHbm s n).st ≠ .test) (h' : (getHbm s n).st ≠ .failed) :
    testBurst s n = setHbm s n { getHbm s n with err := 1 } := by
  unfold testBurst
  dsimp only
  split
  · exact absurd ‹_› h
  · exact absurd ‹_› h'
  · rfl

theorem mget_burstPut (s : State) (n base : Nat) (d : List Byte) (a : Nat) : mget 0 (burstPut s n base d).bench1 a =
    if key n base ≤ a ∧ a < key n base + 2048 then d.getD (a - key n base) 0 else mget 0 s.bench1 a :=
  mget_codewords s n base d 64 a

theorem getD_readBytes {m : Mem} {a n i : Nat} (h : i < n) : (readBytes m a n).getD i 0 = mget 0 m (a + i) := by
  rw [List.getD_eq_getElem _ _ (by simpa [readBytes] using h)]
  simp [readBytes]

theorem intervalEnd_multiple {s : State} (h : s.halyard % 1000000 = 0) : intervalEnd s = s := if_pos h

/-- An exec arm that works only while the memory's controllers have power. -/
theorem hbmOn_next {s t u : State} (h : hbmOn s = true) (he : t = u) :
    (Host.Outcome.next (if hbmOn s then t else s) : Host.Outcome State Fault Refusal) = .next u :=
  congrArg Host.Outcome.next ((if_pos h).trans he)

/-- Settles O35: each command is its case of the controller's state; training fills the stack or fails the controller. -/
theorem hbmCommands : Obligations.HbmCommands := by
  refine ⟨fun s n fails t8 ho => ?_, fun s n fails ok ho ht => ⟨fun hg => ?_, fun hb => ?_⟩⟩
  · intro h put no begun
    refine ⟨fun hs => ?_, fun hs hb => ⟨?_, ?_⟩, fun hs hb => ?_, fun hs => ⟨?_, ?_, ?_⟩,
      fun hs => ⟨?_, fun hb => ⟨?_, ?_⟩, fun hb => ⟨?_, ?_⟩⟩, fun hs => ?_, fun hs hf => ?_, fun hs => ?_, fun hs => ?_,
      fun hj => ?_, fun row hj hg => ?_, fun row hj => ?_, fun hs hw => ?_, fun hs => ?_, fun hs => ?_, fun hs => ?_,
      fun hs hs' => ?_, fun hg hw hr hb => ?_, fun ha hs => ?_, fun ha => ⟨?_, ?_⟩, fun hi => ?_⟩
    · exact hbmOn_next ho (if_pos hs)
    · exact hbmOn_next ho ((if_neg (not_not_intro hs)).trans (if_pos hb))
    · exact hbmOn_next ho (hbmRetrain_busy hs hb)
    · exact hbmOn_next ho ((if_neg (not_not_intro hs)).trans (if_neg (by simp [hb])))
    · exact hbmOn_next ho (if_pos hs)
    · exact hbmOn_next ho (hbmRepair_away hs 4)
    · exact hbmOn_next ho (hbmRepair_away hs 5)
    · exact hbmOn_next ho (if_neg (not_not_intro hs))
    · exact hbmOn_next ho (hbmRepair_bad hs hb 4)
    · exact hbmOn_next ho (hbmRepair_bad hs hb 5)
    · exact hbmOn_next ho (hbmRepair_taken hs hb 4)
    · exact hbmOn_next ho (hbmRepair_taken hs hb 5)
    · exact hbmOn_next ho (hbmRetrain_refused hs)
    · exact hbmOn_next ho (hbmRetrain_taken hs hf)
    · exact hbmOn_next ho (if_pos hs)
    · exact hbmOn_next ho (if_neg hs)
    · refine hbmOn_next ho ?_
      unfold hbmCommandDone
      rw [hj]
    · exact hbmOn_next ho ((hbmCommandDone_retrain hj ..).trans (retrainDone_good hj hg))
    · obtain ⟨u, hu, he⟩ := retrainDone_bad (s := s) (n := n.val) fails
      obtain ⟨hst, herr, hf, hc, -⟩ := hbmFail_failed u n.val fails
      exact ⟨_, hbmOn_next ho ((hbmCommandDone_retrain hj ..).trans he), hst, herr.trans hu, hf, hc⟩
    · exact hbmOn_next ho (if_pos (by simp [h, hs, hw]))
    · refine hbmOn_next ho (if_neg ?_)
      rcases hs with hs | hs <;> simp [h, hs]
    · exact ⟨_, hbmOn_next ho (if_neg (by simp [h, hs]))⟩
    · exact hbmOn_next ho (testBurst_taken hs)
    · exact hbmOn_next ho (testBurst_refused hs hs')
    · intro base
      obtain ⟨u, hu, hgo, he⟩ : ∃ u : State, u.bench1 = s.bench1 ∧ (getHbm u n.val).burstGo = false ∧
        testBurstComplete s n.val [] = burstPut u n.val base (readBytes h.burstBuf 0 2048) := testBurstComplete_writes hg hw hr hb
      refine ⟨_, hbmOn_next ho he, ?_, fun i hi => ?_, fun a ha => ?_⟩
      · rw [burstPut_getHbm, hgo]
      · rw [mget_burstPut, if_pos (by omega), Nat.add_sub_cancel_left, getD_readBytes hi, Nat.zero_add]
      · rw [mget_burstPut, if_neg (by omega), hu]
    · exact congrArg Host.Outcome.next (if_neg (by simp [ho, h, ha, hs]))
    · exact congrArg Host.Outcome.next (if_neg (by simp [ho, h, ha]))
    · exact congrArg Host.Outcome.next (if_neg (by simp [ho, h, ha]))
    · refine congrArg Host.Outcome.next ((if_neg (by simp [ho])).trans ?_)
      dsimp only
      rw [intervalEnd_multiple hi]
  · obtain ⟨hh, hbytes, hgo, hstay⟩ := hbmTrain_trained ht hg
    refine ⟨hbmTrain s n.val true [], hbmOn_next ho rfl, congrArg Hbm.st hh, congrArg Hbm.marked hh, ?_, ?_, ?_, ?_⟩
    · intro a ha hb
      rw [hbytes, if_pos ⟨ha, hb⟩]
    · intro a ha
      rw [hbytes, if_neg fun hc => ha hc.1]
    · exact hgo
    · exact hstay
  · obtain ⟨u, hu, he⟩ := hbmTrain_bad ht hb
    obtain ⟨hst, -, hf, hc, hbytes⟩ := hbmFail_failed u n.val fails
    exact ⟨_, hbmOn_next ho he, hst, hf, hc, rfl, rfl, hbytes.trans hu⟩

end Sys2Proof.Machine


/-! ### A packet at a Yard input -/

namespace Sys2Proof.Machine

open Sys2Proof

theorem bunting_off {s : State} (h : s.tab.mode.bunting = false) (p : Packet) (i o : Nat) (point merged : Bool) :
    bunting s p i o point merged = s := if_pos (by simp [h])

/-! #### The packet taken from where it waits -/

/-- `t` is `s` with the packet taken from an injection queue and its timer started. -/
structure TakenFrom (s : State) (q : Nat) (p : Packet) (t : State) : Prop where
  only : t = { s with fab := { s.fab with inject := s.fab.inject.erase (q, p), table := t.fab.table } }
  table : ∃ g : SendEnt → SendEnt, (∀ e, (g e).pkt = e.pkt ∧ (g e).owner = e.owner) ∧ t.fab.table = s.fab.table.map g

/-- A request whose timer starts. -/
def timed (s : State) (p : Packet) (e : SendEnt) : SendEnt :=
  if samePkt e.pkt p then { e with due := s.halyard + 1000 * max 1 s.fab.timeoutUs.toNat } else e

theorem taken_packet (s : State) {q : Nat} (p : Packet) (hq : q < 8 ∨ 32 ≤ q) :
    TakenFrom s q p (startTimer (freeUnits (takeWaiting s q p) q p) p) := by
  have hnot : ¬ (8 ≤ q ∧ q < 32) := by omega
  unfold takeWaiting freeUnits
  rw [if_neg hnot, if_neg hnot]
  unfold startTimer
  split
  · refine ⟨rfl, timed s p, fun e => ?_, rfl⟩
    unfold timed
    split <;> exact ⟨rfl, rfl⟩
  · exact ⟨rfl, id, fun _ => ⟨rfl, rfl⟩, (List.map_id _).symm⟩

section
variable {s t : State} {q : Nat} {p : Packet} (h : TakenFrom s q p t)
include h

theorem TakenFrom.yard : t.yard = s.yard := by rw [h.only]

theorem TakenFrom.tab : t.tab = s.tab := by rw [h.only]

theorem TakenFrom.inject : t.fab.inject = s.fab.inject.erase (q, p) := by rw [h.only]

theorem TakenFrom.drg : t.drg = s.drg := by rw [h.only]

theorem TakenFrom.routeOf (i : Nat) (k : Packet) : routeOf t i k = routeOf s i k := by rw [h.only]; rfl

theorem TakenFrom.find? (f : Packet → Bool) : t.fab.table.find? (fun e => f e.pkt) = none ∧ s.fab.table.find? (fun e => f e.pkt) = none ∨
    ∃ e e', t.fab.table.find? (fun e => f e.pkt) = some e ∧ s.fab.table.find? (fun e => f e.pkt) = some e' ∧ e.pkt = e'.pkt ∧
      e.owner = e'.owner := by
  obtain ⟨g, hg, ht⟩ := h.table
  have hp : ((fun e : SendEnt => f e.pkt) ∘ g) = fun e => f e.pkt := funext fun e => congrArg f (hg e).1
  rw [ht, List.find?_map, hp]
  cases hf : s.fab.table.find? (fun e => f e.pkt) with
  | none => exact .inl ⟨rfl, rfl⟩
  | some e => exact .inr ⟨g e, e, rfl, rfl, (hg e).1, (hg e).2⟩

theorem TakenFrom.herePort (k : Packet) : herePort t k = herePort s k := by
  have htir : t.tir = s.tir := by rw [h.only]
  have hphys : ∀ c n, physIn t c n = physIn s c n := fun c n => by rw [h.only]; rfl
  have hf := h.find? (fun x => x.dest = k.src && x.psn = k.psn)
  unfold Machine.herePort
  rw [htir]
  dsimp only at hf ⊢
  rcases hf with ⟨ht, hs⟩ | ⟨e, e', ht, hs, hpkt, hown⟩
  · rw [ht, hs]
  · rw [ht, hs]
    dsimp only
    rw [hpkt, hown]
    simp only [hphys]

theorem TakenFrom.outPortOf (i : Nat) (k : Packet) : outPortOf t i k = outPortOf s i k := by
  unfold Machine.outPortOf
  rw [h.routeOf, h.herePort]

end

/-! #### What becomes of it -/

/-- No group is there to absorb a resend. -/
theorem absorbResend_none {s : State} (h : s.yard.groups = []) (p : Packet) : absorbResend s p = none := by
  unfold absorbResend
  rw [h]
  rfl

theorem tryMerge_none {s : State} {p : Packet} (h : mergeable p = false) : tryMerge s p = none := if_pos (by simp [h])

theorem mergeFull_none {s : State} {p : Packet} (h : mergeable p = false) : mergeFull s p = false := by
  simp [mergeFull, h]

/-- A packet that waits at the end of the staging queues. -/
def staged (s : State) (q : Nat) (p : Packet) : State :=
  { s with yard := { s.yard with stage := s.yard.stage ++ [(q, p)] } }

section
variable {s t : State} {q : Nat} {p : Packet} (hr : stageRoom s q p.vc.toNat = true) (hs : p.stomp = false)
  (hg : s.yard.groups = []) (hb : s.tab.mode.bunting = false)
  (ht : startTimer (freeUnits (takeWaiting s q p) q p) p = t) (h : TakenFrom s q p t)
include hr ht

theorem yardAccept_stomped (hs : p.stomp = true) : yardAccept s q p = t := by
  unfold yardAccept
  rw [if_neg (by simp [hr]), ht]
  exact if_pos hs

include hs hg h

theorem yardAccept_dropped (hm : mergeable p = false) {c : Nat} (hd : routeOf s q p = .drop c) :
    yardAccept s q p = routeDrop t p c := by
  unfold yardAccept
  rw [if_neg (by simp [hr]), ht]
  dsimp only
  rw [if_neg (by simp [hs]), absorbResend_none (by rw [h.yard, hg]), tryMerge_none hm]
  dsimp only
  rw [if_neg (by simp [mergeFull_none hm]), h.routeOf, hd]

/-- A load that meets a held load of its place is merged with it. -/
theorem yardAccept_merged {u : State} (hu : tryMerge t p = some u) (hbu : u.tab.mode.bunting = false) :
    yardAccept s q p = u := by
  unfold yardAccept
  rw [if_neg (by simp [hr]), ht]
  dsimp only
  rw [if_neg (by simp [hs]), absorbResend_none (by rw [h.yard, hg]), hu]
  exact bunting_off hbu ..

include hb

/-- A packet bound for an output that is no adit's: admitted there, or staged. -/
theorem yardAccept_out (hm : mergeable p = false) {o : Nat} (hn : ∀ c, routeOf s q p ≠ .drop c)
    (ho : outPortOf s q p = some o) (hx : o < 8 ∨ 32 ≤ o) : yardAccept s q p =
      if s.yard.stage.any (fun e => e.1 = q && e.2.vc = p.vc) then staged t q p
      else (tryAdmit t q o p).getD (staged t q p) := by
  have hbt : t.tab.mode.bunting = false := by rw [h.tab, hb]
  have hnot : ∀ x : Prop, ¬ (8 ≤ o ∧ o < 32 ∧ x) := fun x => by omega
  have hand : (decide (8 ≤ o) && decide (o < 32)) = false := by simp; omega
  rw [← h.yard]
  unfold yardAccept
  rw [if_neg (by simp [hr]), ht]
  dsimp only
  rw [if_neg (by simp [hs]), absorbResend_none (by rw [h.yard, hg]), tryMerge_none hm]
  dsimp only
  rw [if_neg (by simp [mergeFull_none hm]), h.routeOf, h.outPortOf, ho]
  cases hrt : routeOf s q p with
  | drop c => exact absurd hrt (hn c)
  | here | adit a =>
    dsimp only
    rw [bunting_off hbt, if_neg (hnot _), hand]
    simp only [Bool.false_and, Bool.or_false]
    refine if_congr Iff.rfl rfl ?_
    cases tryAdmit t q o p with
    | none => rfl
    | some u => exact if_neg (hnot _)

end

/-! #### Admission -/

theorem tryAdmit_room {s : State} {o : Nat} {p : Packet} (h : occ s o p.vc.toNat + pktLen p ≤ partSize o p.vc.toNat)
    (hc : s.yard.conns = []) (q : Nat) : ∃ y, tryAdmit s q o p = some { s with yard := y } ∧ y.stage = s.yard.stage ∧
      y.out = s.yard.out ++ [{ port := o, inPort := q, pkt := p, at_ := yardNow s, gid := none }] := by
  unfold tryAdmit
  rw [hc]
  exact ⟨_, if_pos ⟨h, by simp⟩, rfl, rfl⟩

theorem tryAdmit_full {s : State} {o : Nat} {p : Packet} (h : partSize o p.vc.toNat < occ s o p.vc.toNat + pktLen p) (q : Nat) :
    tryAdmit s q o p = none := if_neg fun hc => absurd hc.1 (Nat.not_le.mpr h)

theorem occ_congr {s t : State} (h : t.yard = s.yard) (o v : Nat) : occ t o v = occ s o v := by
  unfold occ
  rw [h]

/-- A merge with a held load: a new group of the two. -/
theorem tryMerge_load {s : State} {p : Packet} {e : YEnt} (hc : s.yard.cmbDisable = false) (hop : p.op = 2)
    (hm : mergeable p = true) (he : s.yard.out.find? (fun e => mergeable e.pkt && samePlace e.pkt p &&
      decide (yardNow s - e.at_ ≤ 255)) = some e) (hgid : e.gid = none) (hg : s.yard.groups = []) :
    ∃ y f g, tryMerge s p = some { s with yard := y, fab := f } ∧ f.inject = s.fab.inject ∧ y.groups = [g] ∧
      g.members = [e.pkt, p] ∧ y.readMerges = inc64 s.yard.readMerges 1 := by
  unfold tryMerge
  rw [if_neg (by simp [hc, hm]), he]
  dsimp only
  rw [hgid]
  dsimp only
  rw [if_neg (by simp [hg]), if_pos hop, hg]
  exact ⟨_, _, _, rfl, rfl, rfl, rfl, rfl⟩

theorem routeDrop_noRoute (s : State) (p : Packet) : ∃ f, routeDrop s p 0x11 = { s with fab := f } ∧
    f.noRoute = inc32 s.fab.noRoute 1 := by
  unfold routeDrop
  rw [if_pos rfl]
  unfold notice
  dsimp only
  split
  · exact ⟨_, rfl, rfl⟩
  · split <;> exact ⟨_, rfl, rfl⟩

/-! #### The statement -/

/-- Settles O36: a packet with room at its input leaves where it waited; its route, and the room there, say what becomes of
it. -/
theorem packetsAreAccepted : Obligations.PacketsAreAccepted := by
  intro s q p hf hn hb hq gone
  have hexec : ∀ t, yardAccept s q.val p = t → t.drg = s.drg → exec (.packetAccept q p) s = .next t := fun t ht hd =>
    congrArg Host.Outcome.next ((if_neg (by simp [hf])).trans (by rw [ht]; exact HeldKept.guarded (.of_drg hd) hn))
  have h := taken_packet s p hq
  generalize ht : startTimer (freeUnits (takeWaiting s q.val p) q.val p) p = t at h
  refine ⟨fun hr => ?_, fun hr hs => ?_, fun hr hs hg => ⟨fun hm hd => ?_, fun e hc hop hm he hgid => ?_,
    fun o hm hnd ho hx hst hroom hconn => ?_, fun o hm hnd ho hx hst => ?_⟩⟩
  · exact hexec s (if_pos (by simp [hr])) rfl
  · exact ⟨t, hexec t (yardAccept_stomped hr ht hs) h.drg, h.inject, h.yard, by rw [h.only]⟩
  · obtain ⟨f, hdrop, hno⟩ := routeDrop_noRoute t p
    refine ⟨_, hexec _ ((yardAccept_dropped hr hs hg ht h hm hd).trans hdrop) h.drg, ?_, h.yard⟩
    rw [hno, h.only]
  · have hne : yardNow t = yardNow s := by rw [h.only]; rfl
    obtain ⟨y, f, g, hmerge, hin, hgs, hmem, hcnt⟩ := tryMerge_load (s := t) (by rw [h.yard, hc]) hop hm
      (by rw [h.yard, hne]; exact he) hgid (by rw [h.yard, hg])
    refine ⟨_, g, hexec _ (yardAccept_merged hr hs hg ht h hmerge (h.tab ▸ hb)) h.drg, hin.trans h.inject, hgs, hmem, ?_⟩
    rw [hcnt, h.yard]
  · obtain ⟨y, hadm, hstage, hout⟩ := tryAdmit_room (s := t) (by rwa [occ_congr h.yard]) (by rw [h.yard, hconn]) q.val
    have hne : yardNow t = yardNow s := by rw [h.only]; rfl
    refine ⟨{ t with yard := y }, hexec _ ((yardAccept_out hr hs hg hb ht h hm hnd ho hx).trans
      ((if_neg (by simp [hst])).trans ?_)) h.drg, h.inject, ?_, ?_⟩
    · rw [hadm]
      rfl
    · rw [hstage, h.yard]
    · rw [hout, h.yard, hne]
  · refine ⟨staged t q.val p, hexec _ ((yardAccept_out hr hs hg hb ht h hm hnd ho hx).trans ?_) h.drg, h.inject, ?_⟩
    · split
      · rfl
      · rename_i hno
        rw [tryAdmit_full (by rw [occ_congr h.yard]; exact hst.resolve_left hno)]
        rfl
    · rw [← h.yard]
      rfl

end Sys2Proof.Machine


/-! ### Packets on their way through the Yard -/

namespace Sys2Proof.Machine

open Sys2Proof

/-- A packet taken from its staging queue. -/
def unstaged (s : State) (e : Nat × Packet) : State := { s with yard := { s.yard with stage := s.yard.stage.erase e } }

section
variable {s : State} {q v : Nat} {p : Packet}
  (hh : s.yard.stage.find? (fun e => e.1 = q && e.2.vc.toNat = v) = some (q, p))
include hh

/-- The head of a staging queue bound for an output that is no adit's is admitted there, or stays. -/
theorem yardAdmit_out {o : Nat} (hn : ∀ c, routeOf s q p ≠ .drop c) (ho : outPortOf s q p = some o) (hx : o < 8 ∨ 32 ≤ o) :
    yardAdmit s q v = (tryAdmit (unstaged s (q, p)) q o p).getD s := by
  have hnot : ∀ x : Prop, ¬ (8 ≤ o ∧ o < 32 ∧ x) := fun x => by omega
  unfold yardAdmit
  rw [hh]
  dsimp only
  rw [ho]
  cases hrt : routeOf s q p with
  | drop c => exact absurd hrt (hn c)
  | here | adit a =>
    dsimp only
    rw [if_neg (hnot _), if_neg (hnot _)]
    rfl

theorem yardAdmit_dropped {c : Nat} (hd : routeOf s q p = .drop c) : yardAdmit s q v = routeDrop (unstaged s (q, p)) p c := by
  unfold yardAdmit
  rw [hh]
  dsimp only
  rw [hd]
  rfl

end

theorem yardAdmit_empty {s : State} {q v : Nat} (hh : s.yard.stage.find? (fun e => e.1 = q && e.2.vc.toNat = v) = none) :
    yardAdmit s q v = s := by
  unfold yardAdmit
  rw [hh]

/-! #### Transmission -/

/-- The packet as it leaves on its adit. -/
def sentPkt (e : YEnt) : Packet :=
  { e.pkt with hops := if 8 ≤ e.inPort ∧ e.inPort < 32 then e.pkt.hops + 1 else e.pkt.hops, stomp := false }

/-- A good packet sent: its bytes counted, it and its units noted at the adit. -/
theorem transmitPkt_good {s : State} {e : YEnt} (hb : s.tab.mode.bunting = false) (hp : e.pkt.bad = false) (a : Nat) :
    ∃ y, y.out = s.yard.out.erase e ∧ transmitPkt s a e = setAdit { s with yard := y } a { getAdit s a with
      sent := mput 0 (getAdit s a).sent e.pkt.vc.toNat (inc32 (mget 0 (getAdit s a).sent e.pkt.vc.toNat) (pktUnits e.pkt))
      tx := (getAdit s a).tx ++ [sentPkt e] } := by
  have hbt : ∀ y p i o b m, bunting { s with yard := y } p i o b m = { s with yard := y } := fun _ => bunting_off hb
  unfold transmitPkt
  dsimp only
  rw [if_neg (by simp [hp])]
  unfold setPort
  dsimp only
  rw [hbt]
  exact ⟨_, rfl, by simp only [sentPkt, hp, decide_eq_true_eq]; rfl⟩

/-- Settles O37: each moves the one packet, or the one entry, that its guard finds. -/
theorem packetsMoveOn : Obligations.PacketsMoveOn := by
  intro s q v a p hf hn hb head
  have hadm : ∀ t, yardAdmit s q.val v.val = t → exec (.packetAdmit q v) s = .next t := fun t ht =>
    congrArg Host.Outcome.next ((if_neg (by simp [hf])).trans ht)
  have htr : ∀ t, yardTransmit s a.val v.val = t → t.drg = s.drg → exec (.transmit a v) s = .next t := fun t ht hd =>
    congrArg Host.Outcome.next ((if_neg (by simp [hf])).trans (by rw [ht]; exact HeldKept.guarded (.of_drg hd) hn))
  refine ⟨fun hh => ?_, fun o hh hnd ho hx => ⟨fun hroom hconn => ?_, fun hfull => ?_⟩, fun c hh hd hc => ?_, fun hup => ?_,
    fun e hup he => ⟨fun hcr => ?_, fun hcr hbad => ?_⟩, fun hg => ?_, fun g hg hx => ?_⟩
  · exact hadm s (yardAdmit_empty hh)
  · obtain ⟨y, hy, hstage, hout⟩ := tryAdmit_room (s := unstaged s (q.val, p)) hroom hconn q.val
    exact ⟨_, hadm _ ((yardAdmit_out hh hnd ho hx).trans (by rw [hy, Option.getD_some])), hstage, hout, rfl⟩
  · exact hadm s ((yardAdmit_out hh hnd ho hx).trans (by
      rw [tryAdmit_full (s := unstaged s (q.val, p)) hfull, Option.getD_none]))
  · obtain ⟨f, hdrop, hno⟩ := routeDrop_noRoute (unstaged s (q.val, p)) p
    exact ⟨_, hadm _ ((yardAdmit_dropped hh hd).trans (hc ▸ hdrop)), rfl, hno⟩
  · exact htr s (if_pos (by simp [hup])) rfl
  · refine htr s ?_ rfl
    unfold yardTransmit
    rw [if_neg (by simp [hup]), he]
    exact if_neg (by simp [hcr])
  · intro sent x
    have hv : e.pkt.vc.toNat = v.val := by
      have := List.find?_some he
      simp only [Bool.and_eq_true, decide_eq_true_eq] at this
      exact this.2
    obtain ⟨y, hout, ht⟩ := transmitPkt_good hb hbad a.val
    rw [hv] at ht
    refine ⟨_, htr _ ((?_ : yardTransmit s a.val v.val = transmitPkt s a.val e).trans ht) rfl, hout, ?_, rfl, fun j hj => ?_⟩
    · unfold yardTransmit
      rw [if_neg (by simp [hup]), he]
      exact if_pos hcr
    · rw [getAdit_setAdit, if_pos rfl]
      rfl
    · rw [getAdit_setAdit, if_neg hj]
      rfl
  · refine congrArg Host.Outcome.next ((if_neg (by simp [hf])).trans ?_)
    rw [hg]
    rfl
  · refine congrArg Host.Outcome.next ((if_neg (by simp [hf])).trans ?_)
    have hpast : advanceTo s g.expiry = s := if_neg (Nat.not_lt.mpr hx)
    rw [hg, show sortBy (fun g : CmbGroup => g.expiry) [g] = [g] from rfl]
    dsimp only
    rw [hpast]

end Sys2Proof.Machine


/-! ### The link of an adit -/

namespace Sys2Proof.Machine

open Sys2Proof

/-! #### What the Halyard's states change -/

/-- `t` is `s` but for the Halyard's state and what follows from it. -/
def HalOnly (s t : State) : Prop :=
  t = { s with syn := t.syn, pwr := t.pwr, hst := t.hst, drg := t.drg, evt := t.evt, aon := t.aon }

theorem HalOnly.trans {s t u : State} (h₁ : HalOnly s t) (h₂ : HalOnly t u) : HalOnly s u := by
  unfold HalOnly at *
  rw [h₂, h₁]

theorem HalOnly.adits {s t : State} (h : HalOnly s t) : t.adits = s.adits := by rw [h]
theorem HalOnly.yard {s t : State} (h : HalOnly s t) : t.yard = s.yard := by rw [h]
theorem HalOnly.halyard {s t : State} (h : HalOnly s t) : t.halyard = s.halyard := by rw [h]

theorem post_halOnly (s : State) (code : Nat) (c : Option (Fin 16)) (x y : Nat) : HalOnly s (post s code c x y) := by
  unfold HalOnly
  rw [post_eventOnly]

theorem loaderUnlock_halOnly (s : State) : HalOnly s (loaderUnlock s) := by
  by_cases h : lostLock s
  · obtain ⟨t, ht, hs⟩ := refuse_eq s 0x0A
    rw [loaderUnlock_lost h, ht, hs]
    rfl
  · rw [loaderUnlock_kept h]
    rfl

theorem halSet_halOnly (s : State) (h : HalState) : HalOnly s (halSet s h) := by
  by_cases hne : s.syn.st = h
  · rw [halSet, if_pos hne]
    rfl
  · obtain ⟨u, hu, he, _⟩ := halSet_moves hne
    have hs : HalOnly s u := by
      rw [hu]
      rfl
    rw [he]
    split
    · exact hs
    · exact hs.trans (loaderUnlock_halOnly u)

theorem halCheck_halOnly (s : State) : HalOnly s (halCheck s) := by
  obtain h | ⟨st, h⟩ := halCheck_cases s
  · rw [h]
    rfl
  · rw [h]
    exact halSet_halOnly s st

/-! #### An adit as time passes -/

/-- What a part of an adit is read as when time may pass over it. -/
def TimeKept {γ : Type} (g : Adit → γ) : Prop := ∀ h s n a x, g (trainTime h x) = g x ∧ g (aditTime s n a x) = g x

/-- What an adit has received is no part that time changes. -/
def received (x : Adit) : List Packet × SMap W32 × W64 × BitVec 14 × Nat :=
  (x.rx, x.recv, x.framesRx, x.partnerNode, x.lastFrame)

theorem received_timeKept : TimeKept received := by
  intro h s n a x
  unfold trainTime aditTime
  exact ⟨by split <;> rfl, by split <;> rfl⟩

/-- How often an adit that is up has gone down. -/
def upDowns (x : Adit) : Option W32 := if x.st = .up then some x.downCount else none

theorem upDowns_timeKept : TimeKept upDowns := by
  intro h s n a x
  refine ⟨?_, ?_⟩
  · unfold trainTime
    split
    · rename_i hc
      have ht : x.st = .training := by
        rw [Bool.and_eq_true, decide_eq_true_eq] at hc
        exact hc.1
      simp [upDowns, ht]
    · rfl
  · unfold aditTime
    split <;> rfl

theorem elapse_adits (n : Nat) (s : State) : ∃ f : Nat → Adit → Adit, (elapse n s).adits = mmap {} f s.adits ∧
    ∀ {γ : Type} (g : Adit → γ), TimeKept g → ∀ k x, g (f k x) = g x := by
  unfold elapse
  split
  · exact ⟨_, rfl, fun g hg k x => (hg _ s n k x).1⟩
  · exact ⟨_, rfl, fun g hg k x => ((hg _ s n k _).1).trans (hg 0 s n k x).2⟩

theorem getAdit_elapse {γ : Type} {g : Adit → γ} (hg : TimeKept g) {s : State} (hm : mwf {} s.adits = true) (n a : Nat) :
    g (getAdit (elapse n s) a) = g (getAdit s a) := by
  obtain ⟨f, hf, hk⟩ := elapse_adits n s
  unfold getAdit
  rw [hf]
  exact mget_mmap_keep g (hk g hg) s.adits hm a

theorem getAdit_advanceTo {γ : Type} {g : Adit → γ} (hg : TimeKept g) {s : State} (hm : mwf {} s.adits = true) (t a : Nat) :
    g (getAdit (advanceTo s t) a) = g (getAdit s a) := by
  unfold advanceTo
  split
  · exact getAdit_elapse hg hm ..
  · rfl

/-- The adits after something of the Halyard: as they were, or time has passed over them. -/
def AditsPass (s t : State) : Prop := t.adits = s.adits ∨ ∃ u, u.adits = s.adits ∧ t.adits = (elapse 1 u).adits

theorem AditsPass.getAdit {s t : State} (h : AditsPass s t) {γ : Type} {g : Adit → γ} (hg : TimeKept g)
    (hm : mwf {} s.adits = true) (a : Nat) : g (getAdit t a) = g (getAdit s a) := by
  rcases h with h | ⟨u, hu, ht⟩
  · exact congrArg (fun m => g (mget {} m a)) h
  · have he := getAdit_elapse hg (s := u) (by rw [hu]; exact hm) 1 a
    unfold Machine.getAdit at he ⊢
    rw [ht, he, hu]

theorem AditsPass.halOnly {s t u : State} (h : AditsPass s t) (hu : HalOnly t u) : AditsPass s u := by
  unfold AditsPass at *
  rwa [hu.adits]

theorem slew_aditsPass {s t : State} (h : t.adits = s.adits) (adv : Bool) : AditsPass s (slew t adv) :=
  .inr ⟨t, h, rfl⟩

/-- The Halyard's state after a measurement `m` of the parent's time. -/
theorem measured_aditsPass {s u : State} (h : AditsPass s u) (m : Int) : AditsPass s (match u.syn.st with
    | .acquiring => if -8 ≤ m ∧ m ≤ 8 then halSet u .locked else u
    | .locked => if -32 ≤ m ∧ m ≤ 32 then u else halSet u .acquiring
    | _ => u) := by
  cases u.syn.st with
  | acquiring =>
    dsimp only
    split
    · exact h.halOnly (halSet_halOnly ..)
    · exact h
  | locked =>
    dsimp only
    split
    · exact h
    · exact h.halOnly (halSet_halOnly ..)
  | free | holdover => exact h

/-- The parent's time word measured: the Halyard may move, or the clock be slewed by one ns. -/
theorem parentFrame_aditsPass (s : State) (a : Nat) (time : W64) : AditsPass s (parentFrame s a time) := by
  unfold parentFrame
  split
  · exact .inl rfl
  · dsimp only
    generalize halError _ = m
    refine measured_aditsPass ?_ _
    generalize hu : setSyn (setSyn s _) _ = u
    have ha : u.adits = s.adits := by
      rw [← hu]
      rfl
    by_cases hl : u.syn.everLocked = true
    · rw [if_neg (by simp [hl])]
      generalize (if u.syn.st = HalState.locked then 2000 else 1000) = w
      split
      · exact .inl ha
      · split
        · exact slew_aditsPass ha false
        · split
          · exact slew_aditsPass ha true
          · exact .inl ha
    · rw [if_pos (by simp [hl])]
      split <;> exact .inl ha

/-! #### A good frame -/

/-- The adit after a good frame with one control packet. -/
theorem goodFrame_control {s : State} {a : Nat} {f : Frame} {nib : BitVec 4} {b : List Byte} (hf : frozen s = false)
    (hl : (getAdit s a).lossPending = false) (hs : f.slots = [{ nib := nib, bytes := b }]) (hn : nib.toNat < 2) :
    received (getAdit (goodFrame s a f) a) = ((getAdit s a).rx ++ [parseCtl (b.take 32)],
      mput 0 (getAdit s a).recv nib.toNat (inc32 (mget 0 (getAdit s a).recv nib.toNat) 1),
      inc64 (getAdit s a).framesRx 1, f.srcNode, s.halyard) := by
  have hv : bits nib.toNat 2 0 = nib.toNat := by unfold bits; omega
  have hd : bitAt nib.toNat 3 = false := by
    unfold bitAt
    rw [Nat.div_eq_of_lt (by omega)]
    rfl
  unfold goodFrame
  dsimp only
  rw [getAdit_setAdit_same, hs, List.foldl_cons, List.foldl_nil, if_neg (ne_true_of_eq_false hf), hl]
  simp only [Bool.false_eq_true, if_false]
  unfold takeSlot
  dsimp only
  rw [hv, hd, if_neg (by omega), if_pos hn]
  rfl

theorem goodFrame_wf {s : State} (hm : mwf {} s.adits = true) (a : Nat) (f : Frame) :
    mwf {} (goodFrame s a f).adits = true := mwf_mput _ _ _ _ hm

theorem getAdit_congr {s t : State} (h : t.adits = s.adits) (a : Nat) : getAdit t a = getAdit s a :=
  congrArg (fun m => mget ({} : Adit) m a) h

/-! #### Down and up -/

theorem downDrop_out (s : State) (q : Nat) (p : Packet) : (downDrop s q p).yard.out = s.yard.out := by
  unfold downDrop notice
  dsimp only
  split
  · rfl
  · split <;> rfl

theorem discardOutput_out (s : State) (q : Nat) : ∀ e ∈ (discardOutput s q).yard.out, e.port ≠ q := by
  have hout : ∀ (l : List YEnt) (u : State), (l.foldl (fun s e => downDrop s q e.pkt) u).yard.out = u.yard.out := fun l u =>
    foldl_keep (fun t : State => t.yard.out) (f := fun s e => downDrop s q e.pkt) (fun t e => downDrop_out t q e.pkt) l u
  unfold discardOutput
  rw [hout]
  intro e he
  simpa using (List.mem_filter.mp he).2

theorem zeroFlits_downs (x : Adit) (v n : Nat) : (zeroFlits x v n).downCount = x.downCount := by
  unfold zeroFlits asmPut
  split
  · rfl
  · dsimp only
    split
    · rfl
    · split <;> rfl

/-- What an adit that was up is after it went down. -/
theorem aditDown_down {s : State} {a : Nat} (hup : (getAdit s a).st = .up) (hf : frozen s = false) (cause : Nat) :
    ((getAdit (aditDown s a cause) a).st = .down ∧ (getAdit (aditDown s a cause) a).downCause = BitVec.ofNat 2 cause ∧
      (getAdit (aditDown s a cause) a).downCount = inc32 (getAdit s a).downCount 1) ∧
      (aditDown s a cause).halyard = s.halyard ∧ ∀ e ∈ (aditDown s a cause).yard.out, e.port ≠ 8 + a := by
  have hx : ([2, 3, 4, 5].foldl (fun x v => zeroFlits x v (((asmOf x v).map (·.2)).getD 0)) (getAdit s a)).downCount =
      (getAdit s a).downCount := foldl_keep Adit.downCount (fun x v => zeroFlits_downs x v _) _ _
  unfold aditDown
  dsimp only
  rw [if_neg (not_not_intro hup)]
  generalize List.foldl _ (getAdit s a) _ = x at hx ⊢
  generalize hv : setAdit s a _ = v
  have hp := post_halOnly v evLinkDown none (a + 256 * cause) 0
  have hpf : frozen (post v evLinkDown none (a + 256 * cause) 0) = false := by
    rw [post_eventOnly, ← hv]
    exact hf
  rw [if_neg (ne_true_of_eq_false hpf)]
  have hd := discardOutput_fabricOnly (post v evLinkDown none (a + 256 * cause) 0) (8 + a)
  have ho := discardOutput_out (post v evLinkDown none (a + 256 * cause) 0) (8 + a)
  generalize post v evLinkDown none (a + 256 * cause) 0 = w at hp hd ho
  generalize discardOutput w (8 + a) = y at hd ho
  have hh := halCheck_halOnly y
  have hadits : (halCheck y).adits = v.adits := by rw [hh.adits, hd, hp]
  have hg : getAdit (halCheck y) a = getAdit v a := congrArg (fun m => mget ({} : Adit) m a) hadits
  rw [hg, ← hv, getAdit_setAdit_same]
  refine ⟨⟨rfl, rfl, congrArg (fun n => inc32 n 1) hx⟩, ?_, ?_⟩
  · rw [hh.halyard, hd, hp, ← hv]
    rfl
  · rw [hh.yard]
    exact ho

theorem upDowns_some {x : Adit} {n : W32} (h : upDowns x = some n) : x.st = .up ∧ x.downCount = n := by
  unfold upDowns at h
  split at h
  · exact ⟨‹_›, Option.some.inj h⟩
  · exact absurd h (by simp)

theorem trainingAttempt_begins {s : State} {a : Nat} (hu : (getAdit s a).st ≠ .up) (ht : (getAdit s a).st ≠ .training) :
    trainingAttempt s a = setAdit (advanceTo s ((getAdit s a).trainAt + 1000000)) a
      (trainBegin (advanceTo s ((getAdit s a).trainAt + 1000000)) (getAdit (advanceTo s ((getAdit s a).trainAt + 1000000)) a)) := by
  unfold trainingAttempt
  dsimp only
  split
  · exact absurd ‹_› hu
  · exact absurd ‹_› ht
  · rfl

theorem exec_trainingAttempt_of {s t : State} {a : Fin 24} (h : s.pwr.stage = .sync ∨ s.pwr.stage = .ready)
    (ht : trainingAttempt s a.val = t) : exec (.trainingAttempt a) s = .next t := by
  show execTrainingAttempt a s = _
  unfold execTrainingAttempt
  rcases h with h | h <;> rw [h, ht]

/-- The adit as its link comes up. -/
def linked (s : State) (x : Adit) (p : Partner) : Adit :=
  { x with
    partnerReady := p.ready
    partnerTime := p.timeValid
    partnerNode := p.node
    partnerNodeValid := p.nodeValid
    partnerAdit := p.adit
    st := .up
    delay := p.delay
    delayValid := true
    lastFrame := s.halyard
    sent := []
    theirFreed := []
    recv := []
    freed := creditStart x
    lossPending := false
    asm := []
    orphan := [] }

theorem linkUp_up {s : State} {a : Nat} {p : Partner} (hx : (getAdit s a).st = .training) (hok : partnerOk s a p = true) :
    getAdit (linkUp s a p) a = linked s (getAdit s a) p ∧ ∀ j, j ≠ a → getAdit (linkUp s a p) j = getAdit s j := by
  have he : linkUp s a p = halCheck (post (setAdit s a (linked s (getAdit s a) p)) evLinkUp none a 0) :=
    (if_neg (not_not_intro hx)).trans (if_neg (by simp [hok]))
  have h := ((post_halOnly (setAdit s a (linked s (getAdit s a) p)) evLinkUp none a 0).trans (halCheck_halOnly _)).adits
  rw [he]
  refine ⟨?_, fun j hj => ?_⟩
  · rw [getAdit_congr h, getAdit_setAdit_same]
  · rw [getAdit_congr h, getAdit_setAdit, if_neg hj]

/-! #### The statement -/

/-- Settles O38: each event writes its adit; what the Halyard does with it, and the time that passes, leave what the link
received. -/
theorem linksOfAnAdit : Obligations.LinksOfAnAdit := by
  intro s a f p b hup hmaps x training
  obtain ⟨-, -, -, -, -, -, -, -, hm, -⟩ := hmaps
  have hframe : exec (.linkFrame a f) s = .next (linkFrame s a.val f) := congrArg Host.Outcome.next (if_pos hup)
  have hlink : exec (.linkUp a p) s = .next (linkUp s a.val p) := congrArg Host.Outcome.next (if_pos hup)
  refine ⟨fun hx => ⟨?_, ?_⟩, fun hx hu => ?_, fun nib hx hu hg hl hf hs hn => ?_, fun ht hx hc => ?_, fun ht hx => ?_, fun hx => ?_,
    fun hx hok => ?_, fun hx hok => ?_, fun d hx hf => ?_⟩
  · exact hframe.trans (congrArg _ (if_pos hx))
  · exact congrArg Host.Outcome.next (if_pos (by simp [aditUp, show (getAdit s a.val).st ≠ .up from hx]))
  · exact hframe.trans (congrArg _ ((if_neg (not_not_intro hx)).trans (if_pos hu)))
  · have hgood := goodFrame_control (s := s) (a := a.val) (f := f) (b := b) hf hl hs hn
    have hl : linkFrame s a.val f = parentFrame (halCheck (goodFrame s a.val f)) a.val f.time :=
      (if_neg (not_not_intro hx)).trans ((if_neg (by simp [hu])).trans (if_neg (by simp [hg])))
    have hmg : mwf {} (halCheck (goodFrame s a.val f)).adits = true := by
      rw [(halCheck_halOnly _).adits]
      exact goodFrame_wf hm ..
    have hadit : getAdit (halCheck (goodFrame s a.val f)) a.val = getAdit (goodFrame s a.val f) a.val :=
      getAdit_congr (halCheck_halOnly _).adits _
    have hr := (parentFrame_aditsPass (halCheck (goodFrame s a.val f)) a.val f.time).getAdit received_timeKept hmg a.val
    rw [hadit, hgood, ← hl] at hr
    obtain ⟨hrx, hrecv, hrx', hnode, hlast⟩ : _ ∧ _ ∧ _ ∧ _ ∧ _ := by simpa only [received, Prod.mk.injEq] using hr
    exact ⟨_, hframe, hrx, by rw [hrecv, mget_mput_same], hrx', hnode, hlast⟩
  · exact exec_trainingAttempt_of ht ((trainingAttempt_begins (by simp [show (getAdit s a.val).st = .down from hx])
      (by simp [show (getAdit s a.val).st = .down from hx])).trans (by rw [advanceTo_past hc]; rfl))
  · refine exec_trainingAttempt_of ht ?_
    unfold trainingAttempt
    dsimp only
    rcases hx with hx | hx <;> rw [show (getAdit s a.val).st = _ from hx]
  · exact hlink.trans (congrArg _ (if_pos hx))
  · obtain ⟨hself, hothers⟩ := linkUp_up hx hok
    exact ⟨_, hlink, congrArg Adit.st hself, congrArg Adit.delay hself, congrArg Adit.delayValid hself,
      congrArg Adit.partnerNode hself, congrArg Adit.sent hself, hothers⟩
  · exact ⟨_, hlink.trans (congrArg _ ((if_neg (not_not_intro hx)).trans (if_pos (by simp [hok])))), by
      rw [getAdit_setAdit_same], by rw [getAdit_setAdit_same], rfl⟩
  · have hupa : aditUp s a.val = true := decide_eq_true hx
    have hexec : exec (.linkDown a d) s = .next (if d then aditDown s a.val 2
        else aditDown (advanceTo s ((getAdit s a.val).lastFrame + 2000)) a.val 1) :=
      congrArg Host.Outcome.next (if_neg (by simp [hup, hupa]))
    cases d with
    | true =>
      obtain ⟨⟨hst, hcause, hcount⟩, -, hout⟩ := aditDown_down hx hf 2
      exact ⟨_, hexec, hst, hcause, hcount, fun h => absurd h (by simp), hout⟩
    | false =>
      have hk := getAdit_advanceTo upDowns_timeKept hm ((getAdit s a.val).lastFrame + 2000) a.val
      have hs : upDowns (getAdit s a.val) = some (getAdit s a.val).downCount := if_pos hx
      rw [hs] at hk
      obtain ⟨hst', hcnt⟩ := upDowns_some hk
      have hf' : frozen (advanceTo s ((getAdit s a.val).lastFrame + 2000)) = false := by
        unfold frozen
        rw [advanceTo_syn]
        exact hf
      obtain ⟨⟨hst, hcause, hcount⟩, hh, hout⟩ := aditDown_down hst' hf' 1
      refine ⟨_, hexec, hst, hcause, hcount.trans (by rw [hcnt]), fun _ => ?_, hout⟩
      rw [if_neg (by simp), hh]
      by_cases hlt : (getAdit s a.val).lastFrame + 2000 < 2 ^ 64
      · exact .inl (advanceTo_reaches s hlt)
      · exact .inr (Nat.not_lt.mp hlt)

end Sys2Proof.Machine


/-! ### Answers at their source -/

namespace Sys2Proof.Machine

open Sys2Proof

/-! #### An answer received -/

theorem answerRecv_of {s u : State} {p : Packet} (hd : p.dest.toNat = node s) (ht : takeDelivery s p = some u)
    (hb : badOp p = false) (act : State → State) : answerRecv s p act = act u := by
  unfold answerRecv
  rw [if_neg (not_not_intro hd), ht]
  exact if_neg (ne_true_of_eq_false hb)

theorem badOp_ctrl {p : Packet} (hl : p.long = false) (ho : p.op = 1 ∨ p.op = 2) : badOp p = false := by
  unfold badOp
  rw [if_neg (ne_true_of_eq_false hl)]
  rcases ho with ho | ho <;> rw [ho] <;> rfl

theorem badOp_resp {p : Packet} (hl : p.long = true) (ho : p.op = 4) : badOp p = false := by
  unfold badOp
  rw [if_pos hl, ho]
  rfl

theorem drainHeld_none {s : State} (h : s.fab.held = []) : drainHeld s = s := by
  unfold drainHeld
  rw [h]
  show { s with fab := { s.fab with held := [] } } = s
  rw [← h]

/-! #### A piece of an operation answered -/

/-- The core with a piece of an operation answered. -/
def lessPiece (c : Core) (id : Nat) : Core :=
  { c with ops := c.ops.map (fun o => if o.id = id then { o with pieces := o.pieces - 1 } else o) }

/-- A piece answered of an operation that awaits more. -/
theorem pieceDone_left {s : State} {k id : Nat} {o : Op} (ho : (getCore s k).ops.find? (fun o => o.id = id) = some o)
    (hk : o.kind = .movHR ∨ o.kind = .movHW) (hp : 2 ≤ o.pieces) (hu : ∀ x ∈ (getCore s k).ops, x.id = id → x = o) :
    pieceDone s k id = setCore s k (lessPiece (getCore s k) id) := by
  have hmap : (getCore s k).ops.map (fun x => if x.id = id then { o with pieces := o.pieces - 1 } else x) =
      (lessPiece (getCore s k) id).ops := by
    refine List.map_congr_left fun x hx => ?_
    by_cases hid : x.id = id
    · rw [if_pos hid, if_pos hid, hu x hx hid]
    · rw [if_neg hid, if_neg hid]
  have hne : ∀ c : Prop, ¬ (o.pieces - 1 = 0 ∧ c) := fun c h => by omega
  unfold pieceDone
  rw [ho]
  dsimp only
  rw [hmap]
  rcases hk with hk | hk
  · rw [hk]
    exact if_neg (hne _)
  · rw [hk]
    exact if_neg (hne _)

theorem coreAnswered_running {s : State} {c k n j : Nat} (hr : (getCtx s c).st = .running)
    (hb : (getCtx s c).bind.find? (fun b => b.1 = k) = some (n, j)) (id : Nat) (f : Core → Core) :
    coreAnswered s c k id f = pieceDone (setCore s j (f (getCore s j))) j id := by
  unfold coreAnswered
  dsimp only
  rw [if_neg (by simp [hr]), hb]

theorem b0Write_running {s : State} {c k n j : Nat} (hr : (getCtx s c).st = .running) (hl : (getCtx s c).lc = false)
    (hb : (getCtx s c).bind.find? (fun b => b.1 = k) = some (n, j)) (a : Nat) (d : List Byte) :
    b0Write s c k a d = setCore s j { getCore s j with b0 := writeBytes (getCore s j).b0 a d } := by
  have hp : physIn s c k = some j := by
    unfold physIn
    rw [if_neg (ne_true_of_eq_false hl), hb]
    rfl
  unfold b0Write
  dsimp only
  rw [if_neg (by simp [hr]), if_neg (by simp [hr]), hp]

/-! #### A request that fails -/

theorem unitFault_noHeld {s : State} (h : s.fab.held = []) (u code : Nat) : (unitFault s u code).fab.held = [] := by
  have htr : ∀ (s : State) (b : Nat), (trigger s b).fab = s.fab := fun s b => by
    unfold trigger requestDip
    split
    · split <;> rfl
    · rfl
  have hstop : ∀ (s : State) (c src : Nat), (stopGang s c src).fab = s.fab := fun s c src =>
    foldl_keep State.fab (f := fun s u => stopUnit s src u) (fun s u => by unfold stopUnit; rw [bump_facesOnly]; rfl) _ _
  unfold unitFault
  dsimp only
  split
  · unfold teardown
    dsimp only
    split
    · show ((stopGang _ _ 1).fab.held.filter _) = []
      rw [hstop]
      show ((trigger _ 4).fab.held.filter _) = []
      rw [htr]
      show (s.fab.held.filter _) = []
      rw [h]
      rfl
    · rw [htr]
      exact h
  · rw [htr]
    exact h

/-- `t` is `s` but for the end-to-end protocol, the Dip and the events. -/
def NoteOnly (s t : State) : Prop := t = { s with fab := t.fab, syn := t.syn, drg := t.drg, evt := t.evt, aon := t.aon }

theorem unreachableEvent_noteOnly (s : State) (ctx : Option (Fin 16)) (dest cause kind index psn : Nat) :
    NoteOnly s (unreachableEvent s ctx dest cause kind index psn) ∧
      (unreachableEvent s ctx dest cause kind index psn).fab.held = s.fab.held ∧
      HeldKept s (unreachableEvent s ctx dest cause kind index psn) := by
  unfold unreachableEvent
  dsimp only
  split
  · unfold postUnreachable trigger requestDip
    generalize hv : ({ s with fab := _ } : State) = v
    have hn : NoteOnly s v ∧ v.fab.held = s.fab.held ∧ HeldKept s v := by
      rw [← hv]
      exact ⟨rfl, rfl, .of_drg rfl⟩
    have hp := post_eventOnly v evUnreachable ctx (dest + 65536 * cause + 16777216 * kind + 268435456 * index) psn
    have hh := post_held v evUnreachable ctx (dest + 65536 * cause + 16777216 * kind + 268435456 * index) psn
    generalize post v evUnreachable ctx (dest + 65536 * cause + 16777216 * kind + 268435456 * index) psn = w at hp hh ⊢
    obtain ⟨hn, hf, hk⟩ := hn
    have hw : NoteOnly s w ∧ w.fab.held = s.fab.held ∧ HeldKept s w := by
      refine ⟨?_, ?_, hk.trans hh⟩
      · unfold NoteOnly EventOnly at *
        rw [hp, hn]
      · rw [hp, ← hf]
    split
    · split <;> exact ⟨by rw [NoteOnly, hw.1], hw.2.1, hw.2.2.trans (.of_drg rfl)⟩
    · exact hw
  · exact ⟨rfl, rfl, .of_drg rfl⟩

/-- A remote store that fails: its core faults with FABRIC. -/
theorem failEnt_core {s : State} {e : SendEnt} {k : Fin 512} {id n j : Nat} (hheld : s.fab.held = []) (ho : e.owner = .movHW k id)
    (hb : (getCtx s e.pkt.ctx.toNat).bind.find? (fun b => b.1 = k.val) = some (n, j)) (cause : Nat) :
    HeldKept s (failEnt s e cause) ∧ (getFace (failEnt s e cause) j).st = .faulted ∧
      (getFace (failEnt s e cause) j).fault = 8 := by
  obtain ⟨ctx, kind, index, he⟩ : ∃ ctx kind index, failEnt s e cause = drainHeld (failOwner
      (unreachableEvent (dropEnt s e) ctx e.pkt.dest.toNat cause kind index e.pkt.psn.toNat) e) := ⟨_, _, _, rfl⟩
  rw [he]
  obtain ⟨hn, hf, hk⟩ := unreachableEvent_noteOnly (dropEnt s e) ctx e.pkt.dest.toNat cause kind index e.pkt.psn.toNat
  generalize unreachableEvent (dropEnt s e) ctx e.pkt.dest.toNat cause kind index e.pkt.psn.toNat = v at hn hf hk ⊢
  have hbv : (getCtx v e.pkt.ctx.toNat).bind.find? (fun b => b.1 = k.val) = some (n, j) := by
    rw [hn]
    exact hb
  have hfail : failOwner v e = unitFault v j fFabric := by
    unfold failOwner
    rw [ho]
    dsimp only
    unfold coreFabric
    rw [hbv]
  rw [hfail, drainHeld_none (unitFault_noHeld (hf.trans hheld) ..)]
  have hface := (unitFault_faultKeeps v j fFabric).face j
  rw [getFace_setFace, if_pos rfl] at hface
  have h0 : HeldKept s (dropEnt s e) := .of_drg rfl
  exact ⟨h0.trans (hk.trans (.of_drg (unitFault_drg ..))), hface.1, hface.2⟩

/-! #### What an answer does -/

section
variable {s u : State} {p : Packet} (hd : p.dest.toNat = node s) (ht : takeDelivery s p = some u)
include hd ht

theorem ackIn_of (hi : p.long = false ∧ p.op = 1) : ackIn s p = ackTaken u p :=
  (if_pos (by simp [hi.1, hi.2])).trans (answerRecv_of hd ht (badOp_ctrl hi.1 (.inl hi.2)) _)

theorem noticeIn_late (hi : p.long = false ∧ p.op = 2) (hm : matchEnt u p = none) : noticeIn s p = lateAck u := by
  refine (if_pos (by simp [hi.1, hi.2])).trans ((answerRecv_of hd ht (badOp_ctrl hi.1 (.inr hi.2)) _).trans ?_)
  rw [hm]

theorem noticeIn_fails (hi : p.long = false ∧ p.op = 2) {e : SendEnt} (hm : matchEnt u p = some e) :
    noticeIn s p = failEnt u e p.status.toNat := by
  refine (if_pos (by simp [hi.1, hi.2])).trans ((answerRecv_of hd ht (badOp_ctrl hi.1 (.inr hi.2)) _).trans ?_)
  rw [hm]

theorem loadRespIn_late (hi : p.long = true ∧ p.op = 4) (hm : matchEnt u p = none) : loadRespIn s p = lateAck u := by
  refine (if_pos (by simp [hi.1, hi.2])).trans ((answerRecv_of hd ht (badOp_resp hi.1 hi.2) _).trans ?_)
  rw [hm]

theorem loadRespIn_completes (hi : p.long = true ∧ p.op = 4) {e : SendEnt} (hm : matchEnt u p = some e) (he : e.pkt.op = 2) :
    loadRespIn s p = drainHeld (completeLoad (dropEnt (countAck u) e) e p) := by
  refine (if_pos (by simp [hi.1, hi.2])).trans ((answerRecv_of hd ht (badOp_resp hi.1 hi.2) _).trans ?_)
  rw [hm]
  exact if_pos he

end

theorem ackTaken_late {u : State} {p : Packet} (hm : matchEnt u p = none) : ackTaken u p = lateAck u := by
  unfold ackTaken
  rw [hm]

theorem ackTaken_wait {u : State} {p : Packet} {e : SendEnt} (hm : matchEnt u p = some e) (hs : p.status = 4) :
    ackTaken u p = setEnt (countAck u) e { e with waitAns := true, due := u.halyard + waitCounts u } := by
  unfold ackTaken
  rw [hm, hs]
  rfl

theorem ackTaken_ok {u : State} {p : Packet} {e : SendEnt} (hm : matchEnt u p = some e) (hs : p.status = 0) :
    ackTaken u p = drainHeld (completeAck (dropEnt (countAck u) e) e p) := by
  unfold ackTaken
  rw [hm, hs]
  rfl

/-- A remote store turned away fails. -/
theorem ackTaken_fails {u : State} {p : Packet} {e : SendEnt} {k : Fin 512} {id : Nat} (hm : matchEnt u p = some e)
    (hs : p.status = 2 ∨ p.status = 3) (ho : e.owner = .movHW k id) :
    ackTaken u p = failEnt (countAck u) e p.status.toNat := by
  unfold ackTaken
  rw [hm]
  dsimp only
  rcases hs with hs | hs
  · rw [hs, ho]
    rfl
  · rw [hs, ho]
    rfl

/-- The operation of a core that awaits two answers or more. -/
structure Awaits (s : State) (c k n j id : Nat) (o : Op) : Prop where
  running : (getCtx s c).st = .running
  bound : (getCtx s c).bind.find? (fun b => b.1 = k) = some (n, j)
  found : (getCore s j).ops.find? (fun o => o.id = id) = some o
  kind : o.kind = .movHR ∨ o.kind = .movHW
  pieces : 2 ≤ o.pieces
  unique : ∀ x ∈ (getCore s j).ops, x.id = id → x = o

section
variable {s : State} {c k n j id : Nat} {o : Op} (h : Awaits s c k n j id o)
include h

/-- An answer that changes no operation leaves the core with a piece less. -/
theorem Awaits.answered {f : Core → Core} (hf : ∀ x, (f x).ops = x.ops) : coreAnswered s c k id f =
    setCore (setCore s j (f (getCore s j))) j (lessPiece (f (getCore s j)) id) := by
  have hops : (getCore (setCore s j (f (getCore s j))) j).ops = (getCore s j).ops := by rw [getCore_setCore_same, hf]
  rw [coreAnswered_running h.running h.bound, pieceDone_left (by rw [hops]; exact h.found) h.kind h.pieces (by rw [hops]; exact h.unique),
    getCore_setCore_same]

/-- The bytes of a load's answer written, the operation still awaits its answers. -/
theorem Awaits.written (d : Mem) : Awaits (setCore s j { getCore s j with b0 := d }) c k n j id o :=
  ⟨h.running, h.bound, by rw [getCore_setCore_same]; exact h.found, h.kind, h.pieces, by rw [getCore_setCore_same]; exact h.unique⟩

end

theorem completeAck_store {s : State} {e : SendEnt} {k : Fin 512} {q : Nat} (h : e.owner = .movHW k q) (p : Packet) :
    completeAck s e p = coreAnswered s e.pkt.ctx.toNat k.val q id := by
  unfold completeAck
  rw [h]

theorem completeLoad_read {s : State} {e : SendEnt} {k : Fin 512} {q b : Nat} (h : e.owner = .movHR k q b) (p : Packet) :
    completeLoad s e p = coreAnswered (b0Write s e.pkt.ctx.toNat k.val b p.payload) e.pkt.ctx.toNat k.val q id := by
  unfold completeLoad
  rw [h]

/-! #### The statement -/

/-- Settles O39: an answer finds its request, or is late; each owner's part of it is its core's, or its fault. -/
theorem answersComplete : Obligations.AnswersComplete := by
  intro s u p hf hn hd ht hheld isAck isNotice isResp late piece
  have hk := takeDelivery_held ht
  have hack : ∀ t, isAck → ackTaken u p = t → HeldKept u t → exec (.ack p) s = .next t := fun t hi he hut =>
    congrArg Host.Outcome.next ((if_neg (by simp [hf])).trans (by
      rw [ackIn_of hd ht hi, he]
      exact (hk.trans hut).guarded hn))
  have hnote : ∀ t, noticeIn s p = t → HeldKept u t → exec (.notice p) s = .next t := fun t he hut =>
    congrArg Host.Outcome.next ((if_neg (by simp [hf])).trans (by rw [he]; exact (hk.trans hut).guarded hn))
  have hresp : ∀ t, loadRespIn s p = t → HeldKept u t → exec (.loadResp p) s = .next t := fun t he hut =>
    congrArg Host.Outcome.next ((if_neg (by simp [hf])).trans (by rw [he]; exact (hk.trans hut).guarded hn))
  refine ⟨fun hm => ⟨fun hi => ?_, fun hi => ?_, fun hi => ?_⟩, fun e hm => ?_⟩
  · exact hack _ hi (ackTaken_late hm) (.of_drg rfl)
  · exact hnote _ (noticeIn_late hd ht hi hm) (.of_drg rfl)
  · exact hresp _ (loadRespIn_late hd ht hi hm) (.of_drg rfl)
  intro c
  refine ⟨fun hi hs => ?_, fun k q n j o hi hs hw hr hb ho hkind hp hu => ?_,
    fun k q b n j o hi hop hw hr hlc hb ho hkind hp hu => ?_, fun k q n j hw hb => ⟨fun hi hs => ?_, fun hi => ?_⟩⟩
  · exact ⟨_, hack _ hi (ackTaken_wait hm hs) (.of_drg rfl), rfl, rfl⟩
  · have ha : Awaits (dropEnt (countAck u) e) c k.val n j q o := ⟨hr, hb, ho, .inr hkind, hp, hu⟩
    have hc := (completeAck_store hw p).trans (ha.answered (f := id) fun _ => rfl)
    generalize hv : setCore (setCore _ _ _) _ _ = v at hc
    have hfab : v.fab = (dropEnt (countAck u) e).fab := by rw [← hv, setCore_fab, setCore_fab]
    have hdrg : v.drg = u.drg := by rw [← hv, setCore_drg, setCore_drg]; rfl
    have hnone : v.fab.held = [] := by rw [hfab]; exact hheld
    refine ⟨v, hack v hi ((ackTaken_ok hm hs).trans ((congrArg drainHeld hc).trans (drainHeld_none hnone))) (.of_drg hdrg),
      by rw [hfab]; rfl, by rw [hfab]; rfl, ?_⟩
    rw [← hv, getCore_setCore_same]
    rfl
  · have ha : Awaits (dropEnt (countAck u) e) c k.val n j q o := ⟨hr, hb, ho, .inl hkind, hp, hu⟩
    have hc := completeLoad_read (s := dropEnt (countAck u) e) hw p
    rw [b0Write_running (s := dropEnt (countAck u) e) (c := e.pkt.ctx.toNat) hr hlc hb] at hc
    have hc := hc.trans ((ha.written _).answered (f := id) fun _ => rfl)
    generalize hv : setCore (setCore _ _ _) _ _ = v at hc
    have hfab : v.fab = (dropEnt (countAck u) e).fab := by rw [← hv, setCore_fab, setCore_fab, setCore_fab]
    have hdrg : v.drg = u.drg := by rw [← hv, setCore_drg, setCore_drg, setCore_drg]; rfl
    have hnone : v.fab.held = [] := by rw [hfab]; exact hheld
    refine ⟨v, hresp v ((loadRespIn_completes hd ht hi hm hop).trans ((congrArg drainHeld hc).trans (drainHeld_none hnone)))
      (.of_drg hdrg), by rw [hfab]; rfl, by rw [hfab]; rfl, ?_⟩
    rw [← hv]
    rw [getCore_setCore_same, id, getCore_setCore_same]
    exact ⟨rfl, readBytes_writeBytes .., fun i hi => mget_writeBytes_out _ _ _ _ hi⟩
  · obtain ⟨hh, hst, hfault⟩ := failEnt_core (s := countAck u) (e := e) hheld hw hb p.status.toNat
    exact ⟨_, hack _ hi (ackTaken_fails hm hs hw) ((HeldKept.of_drg (s := u) (t := countAck u) rfl).trans hh), hst, hfault⟩
  · obtain ⟨hh, hst, hfault⟩ := failEnt_core hheld hw hb p.status.toNat
    exact ⟨_, hnote _ (noticeIn_fails hd ht hi hm) hh, hst, hfault⟩

end Sys2Proof.Machine


/-! ### Aligned accesses of Bench 1

What a write of whole codewords below the host window's end leaves, at the place that the interleaving gives it. -/

namespace Sys2Proof.Machine

open Sys2Proof

theorem writeBytes_append (m : Mem) (a : Nat) (d e : List Byte) :
    writeBytes m a (d ++ e) = writeBytes (writeBytes m a d) (a + d.length) e := by
  induction d generalizing m a with
  | nil => rfl
  | cons b d ih =>
    rw [List.cons_append, writeBytes, ih, writeBytes, List.length_cons, Nat.add_right_comm, Nat.add_assoc]

/-! #### Codewords and their places -/

theorem cwsOf_line {x : Nat} (h : x % 64 = 0) : cwsOf x 64 = [x, x + 32] := by
  have hn : (x + 64 - 1) / 32 + 1 - x / 32 = 2 := by omega
  unfold cwsOf
  rw [if_neg (by decide), hn]
  show [32 * (0 + x / 32), 32 * (1 + x / 32)] = _
  rw [show 32 * (0 + x / 32) = x by omega, show 32 * (1 + x / 32) = x + 32 by omega]

theorem cwsOf_half {x : Nat} (h : x % 32 = 0) : cwsOf x 32 = [x] := by
  have hn : (x + 32 - 1) / 32 + 1 - x / 32 = 1 := by omega
  unfold cwsOf
  rw [if_neg (by decide), hn]
  show [32 * (0 + x / 32)] = _
  rw [show 32 * (0 + x / 32) = x by omega]

theorem place_plain {x : Nat} (h : 16 * frameSize ≤ x) (m : Mem) : place m x = some (interleave x) :=
  if_neg (Nat.not_lt.mpr h)

theorem interleave_stack {x : Nat} (h : x < hostWindow) : interleave x / stackShift = x / 4096 % 32 := by
  unfold interleave key stackShift
  unfold hostWindow at h
  omega

theorem key_stack_loc (k : Nat) : key (k / stackShift) (k % stackShift) = k := Nat.div_add_mod' ..

/-- The second codeword of a line follows the first at its place. -/
theorem interleave_second {x : Nat} (h : x % 64 = 0) : interleave (x + 32) = interleave x + 32 := by
  unfold interleave key
  have h1 : (x + 32) / 4096 = x / 4096 := by omega
  have h2 : (x + 32) / 131072 = x / 131072 := by omega
  have h3 : (x + 32) % 4096 = x % 4096 + 32 := by omega
  rw [h1, h2, h3]
  omega

/-! #### A codeword written -/

theorem cwWrite_bench1 (s : State) (k : Nat) (d : List Byte) :
    (cwWrite s (k / stackShift) (k % stackShift) d).bench1 = writeBytes s.bench1 k d := by
  show writeBytes s.bench1 (key _ _) d = _
  rw [key_stack_loc]

theorem StoredOnly.served {s t : State} (h : StoredOnly s t) (n : Nat) : served t n = served s n := by
  rw [h]
  rfl

/-- A codeword that the data covers is written without a read. -/
theorem writeCwAt_covers {s : State} {x cw : Nat} {d : List Byte} (hw : 16 * frameSize ≤ cw) (he : cw < hostWindow)
    (hx : x ≤ cw) (hd : cw + 32 ≤ x + d.length) (hs : served s (cw / 4096 % 32) = true) (r : Req) :
    StoredOnly s (writeCwAt x d r s cw) ∧
      (writeCwAt x d r s cw).bench1 = writeBytes s.bench1 (interleave cw) ((d.drop (cw - x)).take 32) := by
  have hall : (List.range 32).all (fun i => decide (x ≤ cw + i ∧ cw + i < x + d.length)) = true := by
    rw [List.all_eq_true]
    intro i hi
    have := List.mem_range.mp hi
    exact decide_eq_true (by omega)
  have hbytes : ((List.range 32).map fun i => if x ≤ cw + i then d.getD (cw + i - x) 0 else 0) = (d.drop (cw - x)).take 32 := by
    refine List.ext_getElem (by simp; omega) fun i hi _ => ?_
    have hi : i < 32 := by simpa using hi
    simp only [List.getElem_map, List.getElem_range, List.getElem_take, List.getElem_drop]
    rw [if_pos (by omega), List.getD_eq_getElem _ _ (by omega)]
    congr 1
    omega
  have hwr : writeCwAt x d r s cw = cwWrite s (interleave cw / stackShift) (interleave cw % stackShift)
      ((d.drop (cw - x)).take 32) := by
    unfold writeCwAt
    rw [place_plain hw]
    dsimp only
    rw [interleave_stack he, if_pos hs, ← interleave_stack he, ← hbytes]
    exact if_pos hall
  rw [hwr]
  exact ⟨cwWrite_storedOnly .., cwWrite_bench1 ..⟩

/-- A line of 64 bytes written. -/
theorem writeCws_line {s : State} {x : Nat} {d : List Byte} (ha : x % 64 = 0) (hl : d.length = 64) (hw : 16 * frameSize ≤ x)
    (he : x + 64 ≤ hostWindow) (hs : served s (x / 4096 % 32) = true) (r : Req) :
    StoredOnly s ((cwsOf x d.length).foldl (writeCwAt x d r) s) ∧
      ((cwsOf x d.length).foldl (writeCwAt x d r) s).bench1 = writeBytes s.bench1 (interleave x) d := by
  rw [hl, cwsOf_line ha, List.foldl_cons, List.foldl_cons, List.foldl_nil]
  obtain ⟨h1, b1⟩ := writeCwAt_covers (s := s) (x := x) (cw := x) (d := d) hw (by omega) (by omega) (by omega) hs r
  have hst : (x + 32) / 4096 % 32 = x / 4096 % 32 := by omega
  obtain ⟨h2, b2⟩ := writeCwAt_covers (s := writeCwAt x d r s x) (x := x) (cw := x + 32) (d := d) (by omega) (by omega) (by omega)
    (by omega) (by rw [hst, h1.served]; exact hs) r
  refine ⟨h1.trans h2, ?_⟩
  have hfirst : (d.drop (x - x)).take 32 = d.take 32 := by rw [Nat.sub_self, List.drop_zero]
  have hsecond : (d.drop (x + 32 - x)).take 32 = d.drop 32 := by
    rw [Nat.add_sub_cancel_left]
    exact List.take_of_length_le (by simp [hl])
  have hlen : (d.take 32).length = 32 := by simp [hl]
  have happ := writeBytes_append s.bench1 (interleave x) (d.take 32) (d.drop 32)
  rw [List.take_append_drop, hlen] at happ
  rw [b2, b1, interleave_second ha, hfirst, hsecond, happ]

/-! #### Accesses counted -/

/-- `t` is `s` but for the units' counters and the regulators. -/
def CountOnly (s t : State) : Prop := t = { s with faces := t.faces, buckets := t.buckets }

theorem CountOnly.trans {s t u : State} (h₁ : CountOnly s t) (h₂ : CountOnly t u) : CountOnly s u := by
  unfold CountOnly at *
  rw [h₂, h₁]

theorem countAccess_countOnly (s : State) (x n : Nat) (wr : Bool) (ctx : Option Nat) : CountOnly s (countAccess s x n wr ctx) := by
  have hb : ∀ s u i n, CountOnly s (bump s u i n) := fun s u i n => by
    unfold CountOnly
    rw [bump_facesOnly s u i n]
  have hc : ∀ s c n, CountOnly s (chargeHbm s c n) := fun s c n => by
    unfold CountOnly
    rw [chargeHbm_only s c n]
  refine foldl_rel (R := CountOnly) (fun _ => rfl) .trans (fun s b => ?_) _ s
  unfold countBlock
  split
  · rfl
  · dsimp only
    split
    · exact (hb ..).trans (hc ..)
    · split
      · exact hb ..
      · exact hb ..
      · exact hb ..
      · rfl

/-- `t` is `s` but for stored bytes, the units' counters and the regulators. -/
def PutOnly (s t : State) : Prop := t = { s with faces := t.faces, buckets := t.buckets, bench1 := t.bench1, chk := t.chk }

theorem CountOnly.putOnly {s t u : State} (h₁ : CountOnly s t) (h₂ : StoredOnly t u) : PutOnly s u := by
  unfold CountOnly StoredOnly PutOnly at *
  rw [h₂, h₁]

/-- A line put into Bench 1. -/
theorem b1Put_line {s : State} {x : Nat} {d : List Byte} (ha : x % 64 = 0) (hl : d.length = 64) (hw : 16 * frameSize ≤ x)
    (he : x + 64 ≤ hostWindow) (hs : served s (x / 4096 % 32) = true) (r : Req) :
    PutOnly s (b1Put s x d r) ∧ (b1Put s x d r).bench1 = writeBytes s.bench1 (interleave x) d := by
  have hc := countAccess_countOnly s x d.length true r.ctx
  have hsv : served (countAccess s x d.length true r.ctx) (x / 4096 % 32) = true := by
    rw [hc]
    exact hs
  have hb : (countAccess s x d.length true r.ctx).bench1 = s.bench1 := by rw [hc]
  obtain ⟨h1, h2⟩ := writeCws_line ha hl hw he hsv r
  exact ⟨hc.putOnly h1, h2.trans (by rw [hb])⟩

end Sys2Proof.Machine


/-! ### Requests sent again -/

namespace Sys2Proof.Machine

open Sys2Proof

theorem findEnt_mem {s : State} {dest : BitVec 14} {psn : W32} {e : SendEnt} (h : findEnt s dest psn = some e) :
    e ∈ s.fab.table := List.mem_of_find?_eq_some h

theorem sendAgain_table {s : State} {e : SendEnt} (h : e ∈ s.fab.table) (f : SendEnt) :
    { f with due := 0 } ∈ (sendAgain s e f).fab.table := List.mem_map.mpr ⟨e, h, if_pos rfl⟩

/-! #### A request whose time is up -/

section
variable {s : State} {dest : BitVec 14} {psn : W32} {e : SendEnt}

theorem e2eTimeout_none (h : findEnt s dest psn = none) : e2eTimeout s dest psn = s := by
  unfold e2eTimeout
  rw [h]

theorem waitRetryDue_none (h : findEnt s dest psn = none) : waitRetryDue s dest psn = s := by
  unfold waitRetryDue
  rw [h]

variable (h : findEnt s dest psn = some e) (hd : e.due ≤ s.halyard)
include h hd

theorem e2eTimeout_due (hw : e.waitAns = false) (h0 : e.due ≠ 0) : e2eTimeout s dest psn =
    if e.resends < 3 then
      sendAgain { s with fab := { s.fab with resends := inc64 s.fab.resends 1 } } e { e with resends := e.resends + 1 }
    else failEnt s e 0xFF := by
  unfold e2eTimeout
  rw [h]
  dsimp only
  rw [if_neg (by simp [hw, h0]), advanceTo_past hd]

theorem waitRetryDue_due (hw : e.waitAns = true) : waitRetryDue s dest psn =
    sendAgain { s with fab := { s.fab with waits := inc64 s.fab.waits 1 } } e { e with waitAns := false, resends := 0 } := by
  unfold waitRetryDue
  rw [h]
  dsimp only
  rw [if_pos hw, advanceTo_past hd]

end

/-! #### A held pennant request -/

theorem pennantRelease_one {s : State} {h : Held} (hh : s.fab.held = [h]) (hp : h.pkt.pennant = true)
    (ha : sendAllowed s h = true) (hf : pennantFree s h = true) :
    pennantRelease s h.pkt.dest = enterTable { s with fab := { s.fab with held := [] } } h := by
  unfold pennantRelease
  rw [hh, List.foldl_cons, List.foldl_nil]
  unfold tryPennant
  rw [if_pos (by simp [hp, ha, hf]), hh, List.erase_cons_head]

/-- A request without a regulator enters the table and its port's queue. -/
theorem enterTable_injected {s : State} {h : Held} (hp : h.part = none) : ∃ x : SendEnt, x.owner = h.owner ∧ x.resends = 0 ∧
    x.pkt.session = s.fab.session ∧ x.pkt.psn = BitVec.ofNat 32 (mget 0 s.fab.nextPsn h.pkt.dest.toNat) ∧
      (enterTable s h).fab.table = s.fab.table ++ [x] ∧ (enterTable s h).fab.held = s.fab.held ∧
        (enterTable s h).fab.inject = s.fab.inject ++ [(h.port, x.pkt)] := by
  unfold enterTable
  rw [hp]
  exact ⟨_, rfl, rfl, rfl, rfl, rfl, rfl, rfl⟩

/-! #### The statement -/

/-- Settles O40: the request that is due is sent again, or fails; the line is written at its place in Bench 1. -/
theorem requestsAreSentAgain : Obligations.RequestsAreSentAgain := by
  intro s dest psn e u hf hn
  have hexec : ∀ t, e2eTimeout s dest psn = t → HeldKept s t → exec (.e2eTimeout dest psn) s = .next t := fun t ht hk =>
    congrArg Host.Outcome.next ((if_neg (by simp [hf])).trans (by rw [ht]; exact hk.guarded hn))
  have hwait : ∀ t, waitRetryDue s dest psn = t → exec (.waitRetry dest psn) s = .next t := fun t ht =>
    congrArg Host.Outcome.next ((if_neg (by simp [hf])).trans ht)
  refine ⟨fun h => ⟨?_, ?_⟩, fun h hw h0 hd => ⟨fun hr => ?_, fun k id j n hr ho hheld hb => ?_⟩, fun h hw hd => ?_,
    fun h hh hdest hp hpart ha hfree => ?_, fun l hl hns hlen hlo hhi hs => ?_, fun hl => ?_⟩
  · exact hexec s (e2eTimeout_none h) (.refl s)
  · exact hwait s (waitRetryDue_none h)
  · exact ⟨_, hexec _ ((e2eTimeout_due h hd hw h0).trans (if_pos hr)) (.of_drg rfl), rfl, rfl,
      sendAgain_table (s := { s with fab := { s.fab with resends := inc64 s.fab.resends 1 } }) (findEnt_mem h) _, rfl⟩
  · obtain ⟨hk, hst, hfault⟩ := failEnt_core hheld ho hb 0xFF
    exact ⟨_, hexec _ ((e2eTimeout_due h hd hw h0).trans (if_neg (by omega))) hk, hst, hfault⟩
  · exact ⟨_, hwait _ (waitRetryDue_due h hd hw), rfl, rfl,
      sendAgain_table (s := { s with fab := { s.fab with waits := inc64 s.fab.waits 1 } }) (findEnt_mem h) _, rfl⟩
  · obtain ⟨x, hown, hres, hses, hpsn, htab, hheld, hinj⟩ :=
      enterTable_injected (s := { s with fab := { s.fab with held := [] } }) hpart
    refine ⟨_, x, congrArg Host.Outcome.next ((if_neg (by simp [hf])).trans (hdest ▸ pennantRelease_one hh hp ha hfree)), hheld, htab,
      hown, hres, hses, ?_, hinj⟩
    rw [hpsn, hdest]
  · have hmod : 64 * l.line / 4096 % 32 = l.line / 64 % 32 := by omega
    obtain ⟨honly, hbytes⟩ := b1Put_line (s := { s with lines := s.lines.erase l }) (x := 64 * l.line) (by omega) hlen hlo
      (by unfold hostWindow at *; omega) (by rw [hmod]; exact hs) (homeReq s (64 * l.line))
    have hwb : lineWriteback s u.val = dropLine s l := by
      unfold lineWriteback
      rw [hl, show sortBy (fun l : HLine => l.last) [l] = [l] from rfl]
      dsimp only
      rw [advanceNs_past hns]
    refine ⟨_, congrArg Host.Outcome.next ((if_neg (by simp [hf])).trans hwb), ?_, ?_⟩
    · exact congrArg State.lines honly
    · have hr := readBytes_writeBytes s.bench1 (interleave (64 * l.line)) l.bytes
      rw [hlen] at hr
      exact (congrArg (fun m => readBytes m (interleave (64 * l.line)) 64) hbytes).trans hr
  · refine congrArg Host.Outcome.next ((if_neg (by simp [hf])).trans ?_)
    unfold lineWriteback
    rw [hl]
    rfl

end Sys2Proof.Machine


/-! ### Memory requests at their home -/

namespace Sys2Proof.Machine

open Sys2Proof

/-! #### How long a read of Bench 1 is -/

theorem applyErr_length (d : List Byte) (e : List (Nat × Byte)) : (applyErr d e).length = d.length := by
  simp [applyErr, indexed]

theorem cwRead_length (s : State) (n loc : Nat) (e : List (Nat × Byte)) (r : Req) : (cwRead s n loc e r).1.length = 32 := by
  have h : (readBytes s.bench1 (key n loc) 32).length = 32 := by simp [readBytes]
  unfold cwRead
  dsimp only
  split
  · rw [applyErr_length, h]
  · rw [applyErr_length, applyErr_length, h]
  · rw [applyErr_length, h]

theorem readCwAt_length (r : Req) (a : List Byte × State) (x : Nat) : (readCwAt r a x).1.length = a.1.length + 32 := by
  unfold readCwAt
  split
  · rw [List.length_append, List.length_replicate]
  · split
    · rename_i k _ _
      show (a.1 ++ (cwRead a.2 (k / stackShift) (k % stackShift) [] r).1).length = _
      rw [List.length_append, cwRead_length]
    · rw [List.length_append, List.length_replicate]

theorem readCws_length (r : Req) (l : List Nat) (a : List Byte × State) :
    (l.foldl (readCwAt r) a).1.length = a.1.length + 32 * l.length := by
  induction l generalizing a with
  | nil => rfl
  | cons x l ih =>
    rw [List.foldl_cons, ih, readCwAt_length, List.length_cons]
    omega

theorem cwsOf_length {x n : Nat} (h : n ≠ 0) : (cwsOf x n).length = (x + n - 1) / 32 + 1 - x / 32 := by
  unfold cwsOf
  rw [if_neg h, List.length_map, List.length_range]

theorem b1Get_length (s : State) {x n : Nat} (r : Req) : (b1Get s x n r).1.length = n := by
  rcases Nat.eq_zero_or_pos n with h0 | h0
  · subst h0
    exact List.length_take.trans (Nat.zero_min _)
  · show ((((cwsOf x n).foldl (readCwAt r) ([], countAccess s x n false r.ctx)).1.drop (x % 32)).take n).length = n
    rw [List.length_take, List.length_drop, readCws_length, cwsOf_length (by omega), List.length_nil]
    omega

/-! #### Lines of the home units -/

/-- Every buffered line holds 64 bytes. -/
def LinesOk (s : State) : Prop := ∀ l ∈ s.lines, l.bytes.length = 64

theorem findLine_ok {s : State} (h : LinesOk s) {l : Nat} {e : HLine} (he : findLine s l = some e) : e.bytes.length = 64 :=
  h e (List.mem_of_find?_eq_some he)

theorem dropLine_lines (s : State) (e : HLine) : (dropLine s e).lines = s.lines.erase e := by
  unfold dropLine
  rw [(b1Put_memAccess ..).only]

/-- A line put into its unit's buffer: the others stay, but for one that makes room. -/
theorem putLine_lines (s : State) (l : Nat) (d : List Byte) : ∃ k e, (putLine s l d).lines = k ++ [e] ∧ e.line = l ∧ e.bytes = d ∧
    (∀ x ∈ k, x ∈ s.lines ∧ x.line ≠ l) ∧ (s.lines.length < 64 → k = s.lines.filter (fun e => e.line ≠ l)) := by
  unfold putLine
  dsimp only
  have hmem : ∀ x ∈ s.lines.filter (fun e => e.line ≠ l), x ∈ s.lines ∧ x.line ≠ l := fun x hx => by
    simpa using List.mem_filter.mp hx
  split
  · exact ⟨_, _, rfl, rfl, rfl, hmem, fun _ => rfl⟩
  · rename_i hfull
    split
    · rename_i e r he
      refine ⟨_, _, congrArg (· ++ _) (dropLine_lines ..), rfl, rfl, fun x hx => hmem x (List.mem_of_mem_erase hx), fun hlt => ?_⟩
      refine absurd ?_ hfull
      exact Nat.lt_of_le_of_lt ((List.length_filter_le ..).trans (List.length_filter_le ..)) hlt
    · exact ⟨_, _, rfl, rfl, rfl, hmem, fun _ => rfl⟩

theorem putLine_ok {s : State} (h : LinesOk s) (l : Nat) {d : List Byte} (hd : d.length = 64) : LinesOk (putLine s l d) := by
  obtain ⟨k, e, hl, -, hb, hk, -⟩ := putLine_lines s l d
  intro x hx
  rw [hl, List.mem_append, List.mem_singleton] at hx
  rcases hx with hx | rfl
  · exact h x (hk x hx).1
  · rw [hb, hd]

theorem findLine_putLine (s : State) (l : Nat) (d : List Byte) : ∃ e, findLine (putLine s l d) l = some e ∧ e.bytes = d := by
  obtain ⟨k, e, hl, he, hb, hk, -⟩ := putLine_lines s l d
  refine ⟨e, ?_, hb⟩
  have hnone : k.find? (fun x => x.line = l) = none := List.find?_eq_none.mpr fun x hx => by simpa using (hk x hx).2
  unfold findLine
  rw [hl, List.find?_append, hnone, List.find?_singleton, if_pos (by simp [he])]
  rfl

theorem findLine_putLine_other {s : State} {l m : Nat} (h : s.lines.length < 64) (hm : m ≠ l) (d : List Byte) :
    findLine (putLine s l d) m = findLine s m := by
  obtain ⟨k, e, hl, he, -, -, hk⟩ := putLine_lines s l d
  unfold findLine
  rw [hl, hk h, List.find?_append, List.find?_singleton, if_neg (by simp [he, Ne.symm hm]), Option.or_none, List.find?_filter]
  congr 1
  funext x
  by_cases hx : x.line = m
  · simp [hx, hm]
  · simp [hx]

theorem putLine_length {s : State} {l : Nat} (h : s.lines.length < 64) (d : List Byte) :
    (putLine s l d).lines.length ≤ s.lines.length + 1 := by
  obtain ⟨k, e, hl, -, -, -, hk⟩ := putLine_lines s l d
  rw [hl, hk h, List.length_append]
  exact Nat.add_le_add_right (List.length_filter_le ..) 1

theorem putLine_tir (s : State) (l : Nat) (d : List Byte) : (putLine s l d).tir = s.tir ∧ (putLine s l d).dev = s.dev := by
  unfold putLine
  dsimp only
  split
  · exact ⟨rfl, rfl⟩
  · split
    · unfold dropLine
      rw [(b1Put_memAccess ..).only]
      exact ⟨rfl, rfl⟩
    · exact ⟨rfl, rfl⟩

/-! #### Frames of a home written -/

theorem frameWritten_congr {s t : State} (h : t.tir = s.tir) (x : Nat) : frameWritten t x = frameWritten s x := by
  unfold frameWritten
  rw [h]

theorem touchFrame_lines (s : State) (x : Nat) : (touchFrame s x).lines = s.lines ∧ (touchFrame s x).dev = s.dev := by
  unfold touchFrame
  generalize List.replicate 4096 (0 : Byte) = z
  split
  · exact ⟨rfl, rfl⟩
  · dsimp only
    rw [(b1Put_memAccess ..).only]
    exact ⟨rfl, rfl⟩

/-- A touched frame is written; those written stay so. -/
theorem touchFrame_written (s : State) (x y : Nat) (h : y / 4096 = x / 4096 ∨ frameWritten s y = true) :
    frameWritten (touchFrame s x) y = true := by
  unfold touchFrame
  generalize List.replicate 4096 (0 : Byte) = z
  split
  · rename_i hx
    rcases h with h | h
    · unfold frameWritten at hx ⊢
      rw [h, hx]
    · exact h
  · unfold frameWritten
    dsimp only
    rw [(b1Put_memAccess s _ z _).tir, mget_mput]
    split
    · rfl
    · rename_i hy
      exact h.resolve_left hy

/-! #### A read of a home -/

theorem linesOf_length {x n : Nat} (h : n ≠ 0) : (linesOf x n).length = (x + n - 1) / 64 + 1 - x / 64 := by
  unfold linesOf
  rw [if_neg h, List.length_map, List.length_range]

/-- The bytes of line `e.2`, the `e.1`-th of a read: buffered, or read from Bench 1. -/
def lineOf (s : State) (d : List Byte) (e : Nat × Nat) : List Byte :=
  match findLine s e.2 with
  | some h => h.bytes
  | none => (d.drop (64 * e.1)).take 64

/-- The lines of a read put into the buffers. -/
def putLines (s : State) (d : List Byte) (ls : List Nat) : State :=
  ((indexed ls).map (fun e => (e.2, lineOf s d e))).foldl (fun s e => putLine s e.1 e.2) s

/-- A read of lines that are not all zero: what Bench 1 brought, and the state after it. -/
theorem homeGet_reads {s : State} {x : Nat} (hw : frameWritten s x = true) (n : Nat) : ∃ d t, homeGet s x n =
      (((((indexed (linesOf x n)).map (fun e => (e.2, lineOf t d e))).flatMap (·.2)).drop (x % 64)).take n,
        putLines t d (linesOf x n)) ∧ t.lines = s.lines ∧ t.tir = s.tir ∧ t.dev = s.dev ∧
      (∀ e ∈ indexed (linesOf x n), (findLine s e.2).isNone = true → 64 * (linesOf x n).length ≤ d.length) := by
  unfold homeGet
  rw [if_neg (by simp [hw])]
  by_cases hm : (linesOf x n).filter (fun l => (findLine s l).isNone) = []
  · refine ⟨[], s, ?_, rfl, rfl, rfl, fun e he hn => ?_⟩
    · dsimp only
      rw [hm, if_pos rfl]
      rfl
    · have hmem : e.2 ∈ linesOf x n := (List.of_mem_zip he).2
      exact absurd (List.mem_filter.mpr ⟨hmem, hn⟩) (by rw [hm]; simp)
  · refine ⟨(b1Get s (64 * (x / 64)) (64 * (linesOf x n).length) (homeReq s x)).1,
      (b1Get s (64 * (x / 64)) (64 * (linesOf x n).length) (homeReq s x)).2, ?_, ?_, ?_, ?_, fun _ _ _ => ?_⟩
    · dsimp only
      rw [if_neg hm]
      rfl
    · rw [(b1Get_memAccess ..).only]
    · rw [(b1Get_memAccess ..).only]
    · rw [(b1Get_memAccess ..).only]
    · rw [b1Get_length]

theorem putLines_keeps (s : State) (d : List Byte) (ls : List Nat) :
    (putLines s d ls).tir = s.tir ∧ (putLines s d ls).dev = s.dev :=
  ⟨foldl_keep State.tir (f := fun s (e : Nat × List Byte) => putLine s e.1 e.2) (fun s e => (putLine_tir s e.1 e.2).1) _ s,
    foldl_keep State.dev (f := fun s (e : Nat × List Byte) => putLine s e.1 e.2) (fun s e => (putLine_tir s e.1 e.2).2) _ s⟩

theorem foldl_putLine_ok {l : List (Nat × List Byte)} (hl : ∀ e ∈ l, e.2.length = 64) {s : State} (h : LinesOk s) :
    LinesOk (l.foldl (fun s e => putLine s e.1 e.2) s) := by
  induction l generalizing s with
  | nil => exact h
  | cons e l ih =>
    exact ih (fun x hx => hl x (List.mem_cons_of_mem _ hx)) (putLine_ok h _ (hl e List.mem_cons_self))

theorem flatMap_length {l : List (Nat × List Byte)} (hl : ∀ e ∈ l, e.2.length = 64) : (l.flatMap (·.2)).length = 64 * l.length := by
  induction l with
  | nil => rfl
  | cons e l ih =>
    rw [List.flatMap_cons, List.length_append, ih fun x hx => hl x (List.mem_cons_of_mem _ hx), hl e List.mem_cons_self,
      List.length_cons]
    omega

/-- A read of a home keeps the buffers' lines whole, and delivers as many bytes as it asks for. -/
theorem homeGet_ok {s : State} (h : LinesOk s) (x : Nat) {n : Nat} (hn : n ≠ 0) : LinesOk (homeGet s x n).2 ∧
    (homeGet s x n).2.tir = s.tir ∧ (homeGet s x n).2.dev = s.dev ∧ (homeGet s x n).1.length = n := by
  by_cases hw : frameWritten s x = true
  · obtain ⟨d, t, he, hl, htir, hdev, hd⟩ := homeGet_reads hw n
    have hok : LinesOk t := by
      unfold LinesOk
      rw [hl]
      exact h
    have hline : ∀ e ∈ (indexed (linesOf x n)).map (fun e => (e.2, lineOf t d e)), e.2.length = 64 := by
      intro e hm
      obtain ⟨i, hi, rfl⟩ := List.mem_map.mp hm
      show (lineOf t d i).length = 64
      unfold lineOf
      split
      · exact findLine_ok hok ‹_›
      · rename_i hnone
        have hlen := hd i hi (by unfold findLine at *; rw [← hl, hnone]; rfl)
        have hlt : i.1 < (linesOf x n).length := List.mem_range.mp (List.of_mem_zip hi).1
        rw [List.length_take, List.length_drop]
        omega
    rw [he]
    refine ⟨foldl_putLine_ok hline hok, (putLines_keeps ..).1.trans htir, (putLines_keeps ..).2.trans hdev, ?_⟩
    rw [List.length_take, List.length_drop, flatMap_length hline, List.length_map]
    have hz : (indexed (linesOf x n)).length = (linesOf x n).length := by simp [indexed]
    rw [hz, linesOf_length hn]
    omega
  · unfold homeGet
    rw [if_pos (by simp [hw])]
    exact ⟨h, rfl, rfl, List.length_replicate⟩

theorem homeGet_keeps (s : State) (x n : Nat) : (homeGet s x n).2.dev = s.dev ∧ (homeGet s x n).2.tir = s.tir := by
  by_cases hw : frameWritten s x = true
  · obtain ⟨d, t, he, -, htir, hdev, -⟩ := homeGet_reads hw n
    rw [he]
    exact ⟨(putLines_keeps ..).2.trans hdev, (putLines_keeps ..).1.trans htir⟩
  · unfold homeGet
    rw [if_pos (by simp [hw])]
    exact ⟨rfl, rfl⟩

theorem snoopNeed_keeps (s : State) (x n : Nat) (wr : Bool) : (snoopNeed s x n wr).dev = s.dev ∧
    (snoopNeed s x n wr).tir = s.tir ∧ (snoopNeed s x n wr).lines = s.lines := by
  rw [(snoopNeed_memAccess s x n wr).only]
  exact ⟨rfl, rfl, rfl⟩

theorem homeRead_keeps (s : State) (x n : Nat) : (homeRead s x n).2.dev = s.dev ∧ (homeRead s x n).2.tir = s.tir := by
  unfold homeRead
  split
  · exact ⟨rfl, rfl⟩
  · dsimp only
    obtain ⟨hd, ht, -⟩ := snoopNeed_keeps s x n false
    have hkeep (e : Nat × Nat) (a : List Byte × State) := homeGet_keeps a.2 e.1 (e.2 - e.1)
    refine ⟨(foldl_keep (fun a : List Byte × State => a.2.dev) ?_ _ _).trans hd,
      (foldl_keep (fun a : List Byte × State => a.2.tir) ?_ _ _).trans ht⟩
    · exact fun a e => (hkeep e a).1
    · exact fun a e => (hkeep e a).2

/-- A read of a home within one page. -/
theorem homeRead_page {s : State} {x n : Nat} (hn : n ≠ 0) (hp : (x + n - 1) / 4096 = x / 4096) :
    homeRead s x n = homeGet (snoopNeed s x n false) x n := by
  have hlo : max x (4096 * (x / 4096 + 0)) = x := by omega
  have hhi : min (x + n) (4096 * (x / 4096 + 0) + 4096) - x = n := by omega
  unfold homeRead
  rw [if_neg hn]
  dsimp only
  rw [hp, Nat.add_sub_cancel_left, List.range_one, List.map_singleton, List.foldl_cons, List.foldl_nil, hlo, hhi]
  rfl

/-! #### A store of whole lines -/

/-- The `i`-th 64 bytes of a payload. -/
def chunk (d : List Byte) (i : Nat) : List Byte := (d.drop (64 * i)).take 64

theorem chunk_length {d : List Byte} {i : Nat} (h : i < d.length / 64) : (chunk d i).length = 64 := by
  unfold chunk
  rw [List.length_take, List.length_drop]
  omega

theorem chunks_flatMap (d : List Byte) (k : Nat) : (List.range k).flatMap (chunk d) = d.take (64 * k) := by
  induction k with
  | zero => rfl
  | succ k ih =>
    rw [List.range_succ, List.flatMap_append, ih, List.flatMap_singleton, Nat.mul_succ, List.take_add]
    rfl

theorem linesOf_aligned {x n : Nat} (hx : x % 64 = 0) (hn : n % 64 = 0) :
    linesOf x n = (List.range (n / 64)).map (x / 64 + ·) := by
  unfold linesOf
  split
  · rename_i h
    subst h
    rfl
  · rw [show (x + n - 1) / 64 + 1 - x / 64 = n / 64 by omega]
    exact List.map_congr_left fun i _ => Nat.add_comm ..

/-- One line of an aligned store. -/
def storeLine (x : Nat) (d : List Byte) (s : State) (i : Nat) : State :=
  putLine (touchFrame s (64 * (x / 64 + i))) (x / 64 + i) (chunk d i)

theorem foldl_congr_mem {α β : Type} {f g : β → α → β} {l : List α} (h : ∀ b, ∀ a ∈ l, f b a = g b a) (b : β) :
    l.foldl f b = l.foldl g b := by
  induction l generalizing b with
  | nil => rfl
  | cons a l ih =>
    rw [List.foldl_cons, List.foldl_cons, h b a List.mem_cons_self]
    exact ih (fun b x hx => h b x (List.mem_cons_of_mem _ hx)) _

theorem homePut_aligned {x : Nat} {d : List Byte} (s : State) (hx : x % 64 = 0) (hn : d.length % 64 = 0) :
    homePut s x d = (List.range (d.length / 64)).foldl (storeLine x d) s := by
  unfold homePut
  rw [linesOf_aligned hx hn, List.foldl_map]
  refine foldl_congr_mem (fun s i hi => ?_) s
  have hi := List.mem_range.mp hi
  have h1 : max x (64 * (x / 64 + i)) = x + 64 * i := by omega
  have h2 : min (x + d.length) (64 * (x / 64 + i) + 64) = x + 64 * i + 64 := by omega
  dsimp only
  rw [h1, h2, Nat.add_sub_cancel_left, Nat.add_sub_cancel_left]
  exact if_pos (chunk_length hi)

/-- After the first `k` lines of an aligned store: their bytes stand in the home units, which have taken at most `k` lines more. -/
theorem storeLines_hold {x : Nat} {d : List Byte} {s : State} {k : Nat} (hk : s.lines.length + k ≤ 64) :
    let t := (List.range k).foldl (storeLine x d) s
    t.lines.length ≤ s.lines.length + k ∧
    ∀ j < k, frameWritten t (64 * (x / 64 + j)) = true ∧ ∃ e, findLine t (x / 64 + j) = some e ∧ e.bytes = chunk d j := by
  induction k with
  | zero => exact ⟨Nat.le_refl _, fun j hj => absurd hj (Nat.not_lt_zero j)⟩
  | succ k ih =>
    obtain ⟨hlen, hold⟩ := ih (by omega)
    rw [List.range_succ, List.foldl_append]
    generalize (List.range k).foldl (storeLine x d) s = t at hlen hold ⊢
    obtain ⟨hlines, -⟩ := touchFrame_lines t (64 * (x / 64 + k))
    have hroom : (touchFrame t (64 * (x / 64 + k))).lines.length < 64 := by
      rw [hlines]
      omega
    have hput := putLine_length (l := x / 64 + k) hroom (chunk d k)
    rw [hlines] at hput
    refine ⟨Nat.le_trans hput (by omega), fun j hj => ?_⟩
    show frameWritten (putLine _ _ _) _ = true ∧ ∃ e, findLine (putLine _ _ _) _ = some e ∧ e.bytes = _
    rw [frameWritten_congr (putLine_tir ..).1]
    rcases Nat.lt_succ_iff_lt_or_eq.mp hj with hj | rfl
    · obtain ⟨hw, e, he, hb⟩ := hold j hj
      refine ⟨touchFrame_written _ _ _ (.inr hw), e, ?_, hb⟩
      rw [findLine_putLine_other hroom (by omega)]
      unfold findLine at he ⊢
      rw [hlines, he]
    · exact ⟨touchFrame_written _ _ _ (.inl rfl), findLine_putLine ..⟩

theorem peekLine_buffered {s : State} {l : Nat} {e : HLine} (hw : frameWritten s (64 * l) = true) (he : findLine s l = some e) :
    peekLine s l = e.bytes := by
  unfold peekLine
  rw [if_neg (by simp [hw]), he]

theorem peekLine_congr {s t : State} (hl : t.lines = s.lines) (ht : t.tir = s.tir) {l : Nat} {e : HLine}
    (hw : frameWritten s (64 * l) = true) (he : findLine s l = some e) : peekLine t l = e.bytes := by
  refine peekLine_buffered ((frameWritten_congr ht _).trans hw) ?_
  unfold findLine at he ⊢
  rw [hl, he]

/-- What a store of whole lines leaves at its home. -/
theorem peekHome_homeWrite {s t : State} {x : Nat} {d : List Byte} (hx : x % 64 = 0) (hn : d.length % 64 = 0)
    (hroom : s.lines.length + d.length / 64 ≤ 64) (hl : t.lines = (homeWrite s x d).lines) (ht : t.tir = (homeWrite s x d).tir) :
    peekHome t x d.length = d := by
  unfold homeWrite at hl ht
  rw [homePut_aligned _ hx hn] at hl ht
  obtain ⟨-, -, hs⟩ := snoopNeed_keeps s x d.length true
  obtain ⟨-, hold⟩ := storeLines_hold (x := x) (d := d) (s := snoopNeed s x d.length true) (k := d.length / 64) (by rw [hs]; exact hroom)
  unfold peekHome
  split
  · rename_i h
    exact (List.eq_nil_of_length_eq_zero h).symm
  · have hcount : (x + d.length - 1) / 64 + 1 - x / 64 = d.length / 64 := by omega
    have hlines : (List.range (d.length / 64)).flatMap (fun i => peekLine t (x / 64 + i)) =
        (List.range (d.length / 64)).flatMap (chunk d) := by
      refine List.flatMap_congr fun j hj => ?_
      obtain ⟨hw, e, he, hb⟩ := hold j (List.mem_range.mp hj)
      rw [peekLine_congr hl ht hw he, hb]
    rw [hcount, hlines, chunks_flatMap, hx, List.drop_zero, List.take_take]
    exact List.take_of_length_le (by omega)

/-! #### A write within a line -/

theorem linesOf_word {x n : Nat} (hn : n ≠ 0) (h : x % 64 + n ≤ 64) : linesOf x n = [x / 64] := by
  unfold linesOf
  rw [if_neg hn, show (x + n - 1) / 64 + 1 - x / 64 = 1 by omega, List.range_one, List.map_singleton, Nat.zero_add]

/-- What a write of a part of a line leaves at its home. -/
theorem peekHome_part {s t : State} {x : Nat} {d : List Byte} (hok : LinesOk s) (hd : 0 < d.length) (hn : d.length < 64)
    (h : x % 64 + d.length ≤ 64) (hl : t.lines = (homePut s x d).lines) (ht : t.tir = (homePut s x d).tir) :
    peekHome t x d.length = d := by
  have h1 : max x (64 * (x / 64)) = x := by omega
  have h2 : min (x + d.length) (64 * (x / 64) + 64) = x + d.length := by omega
  have hput : homePut s x d = homePutLine (touchFrame s (64 * (x / 64))) (x / 64) (x % 64) d := by
    unfold homePut
    rw [linesOf_word (by omega) h, List.foldl_cons, List.foldl_nil]
    dsimp only
    rw [h1, h2, Nat.sub_self, Nat.add_sub_cancel_left, List.drop_zero, List.take_length]
    congr 1
    omega
  have hok' : LinesOk (touchFrame s (64 * (x / 64))) := by
    unfold LinesOk
    rw [(touchFrame_lines ..).1]
    exact hok
  have hwritten := touchFrame_written s (64 * (x / 64)) (64 * (x / 64)) (.inl rfl)
  rw [hput] at hl ht
  unfold homePutLine at hl ht
  rw [if_neg (by omega)] at hl ht
  dsimp only at hl ht
  generalize touchFrame s (64 * (x / 64)) = u at hl ht hok' hwritten
  obtain ⟨-, htir, -, hlen⟩ := homeGet_ok hok' (64 * (x / 64)) (n := 64) (by decide)
  rw [← frameWritten_congr htir] at hwritten
  generalize homeGet u (64 * (x / 64)) 64 = g at hl ht hwritten hlen
  generalize hw : g.1.take (x % 64) ++ d ++ g.1.drop (x % 64 + d.length) = w at hl ht
  obtain ⟨e, he, hb⟩ := findLine_putLine g.2 (x / 64) w
  have hpeek := peekLine_congr hl ht ((frameWritten_congr (putLine_tir ..).1 _).trans hwritten) he
  unfold peekHome
  rw [if_neg (by omega), show (x + d.length - 1) / 64 + 1 - x / 64 = 1 by omega, List.range_one, List.flatMap_singleton,
    Nat.add_zero, hpeek, hb, ← hw, List.append_assoc, List.drop_append_of_le_length (by rw [List.length_take]; omega)]
  rw [List.drop_of_length_le (by rw [List.length_take]; omega), List.nil_append, List.take_left']
  rfl

/-! #### The packets at their home -/

theorem bunting_dev (s : State) (p : Packet) (i o : Nat) (point merged : Bool) : (bunting s p i o point merged).dev = s.dev := by
  have hcount : ∀ port, (countFilters s p port point).2.dev = s.dev := fun port => by
    unfold countFilters
    refine foldl_keep (fun a : Option Nat × State => a.2.dev) ?_ _ _
    intro a f
    dsimp only
    split <;> rfl
  unfold bunting
  split
  · rfl
  · split
    · rename_i hc
      rw [← hcount, hc]
    · rename_i hc
      rw [← hcount, hc]
      split
      · rfl
      · split
        · rfl
        · dsimp only
          rw [(b1Write_memAccess ..).only]

theorem takeDelivery_dev {s u : State} {p : Packet} (h : takeDelivery s p = some u) : u.dev = s.dev := by
  unfold takeDelivery at h
  dsimp only at h
  split at h
  · obtain rfl := Option.some.inj h
    rw [bunting_dev]
    split <;> rfl
  · exact absurd h (by simp)

theorem Arrives.node {s u : State} {p : Packet} (h : Arrives s p u) : node (openSession u p) = node s := by
  refine node_congr (Eq.trans ?_ (takeDelivery_dev h.2.1))
  unfold openSession
  split <;> rfl

section
variable {s u : State} {p : Packet}

theorem memRecv_arrives (h : Arrives s p u) (hl : p.long = true) {op : Nat} (ho : p.op = BitVec.ofNat 5 op)
    (dup : State → State) (act : State → Option State) : memRecv s p op dup act = (act (openSession u p)).getD s :=
  (if_pos (by simp [hl, ho])).trans (recv_arrives h _ _)

theorem exec_store_of (hz : frozen s = false) (h : Arrives s p u) (hl : p.long = true) (ho : p.op = 1) :
    exec (.store p) s = .next (guarded s ((applyStore (openSession u p) p).getD s)) :=
  congrArg Host.Outcome.next ((if_neg (by simp [hz])).trans (congrArg (guarded s) (memRecv_arrives h hl ho _ _)))

theorem exec_load_of (hz : frozen s = false) (h : Arrives s p u) (hl : p.long = true) (ho : p.op = 2) :
    exec (.load p) s = .next (guarded s (applyLoad (openSession u p) p true)) :=
  congrArg Host.Outcome.next ((if_neg (by simp [hz])).trans (congrArg (guarded s) (memRecv_arrives h hl ho _ _)))

theorem exec_atomic_of (hz : frozen s = false) (h : Arrives s p u) (hl : p.long = true) (ho : p.op = 3) :
    exec (.atomic p) s = .next (guarded s ((applyAtomic (openSession u p) p).getD s)) :=
  congrArg Host.Outcome.next ((if_neg (by simp [hz])).trans (congrArg (guarded s) (memRecv_arrives h hl ho _ _)))

theorem turnAway_answers (s : State) (p : Packet) {st : Nat} (h : st ≠ 1) : turnAway s p st = sendAck s (herePort s p) p st 0 := by
  unfold turnAway
  rw [if_neg h]

theorem answered_sendAck (t : State) (e : Nat) (p : Packet) (st arg : Nat) : Answered (sendAck t e p st arg) p st arg :=
  ⟨e, List.mem_append_right _ List.mem_cons_self⟩

theorem sendAck_fabricOnly (s : State) (e : Nat) (p : Packet) (st arg : Nat) : FabricOnly s (sendAck s e p st arg) := rfl

theorem takeHome_fabricOnly (s : State) (n : Nat) : FabricOnly s (takeHome s n) := rfl

/-- A store taken: its bytes at their home, and its answer. -/
theorem applyStore_takes {v : State} {p : Packet} {x : Nat} (ht : memTarget v p = .ok x)
    (hs : settleHolds v (memOfs p) (memLen p) = false) (hb : doorbell v p = none) :
    applyStore v p = some (accept (takeHome (homeWrite v x p.payload) 1) (herePort v p) p) := by
  unfold applyStore
  rw [ht]
  dsimp only
  rw [if_neg (by simp [hs]), hb]
  rfl

theorem applyStore_held {v : State} {p : Packet} {x : Nat} (ht : memTarget v p = .ok x)
    (hs : settleHolds v (memOfs p) (memLen p) = true) : applyStore v p = none := by
  unfold applyStore
  rw [ht]
  exact if_pos hs

/-- The state in which a load's answer is sent. -/
def loadServed (v : State) (p : Packet) (x : Nat) : State := takeHome (recordPsn (homeRead v x (memLen p)).2 p none) 1

theorem loadServed_fabricOnly (v : State) (p : Packet) (x : Nat) : FabricOnly (homeRead v x (memLen p)).2 (loadServed v p x) :=
  (recordPsn_fabricOnly ..).trans rfl

theorem loadServed_node (v : State) (p : Packet) (x : Nat) : node (loadServed v p x) = node v := by
  refine node_congr (Eq.trans ?_ (homeRead_keeps v x (memLen p)).1)
  rw [loadServed_fabricOnly]

theorem applyLoad_serves {v : State} {p : Packet} {x : Nat} (ht : memTarget v p = .ok x) :
    applyLoad v p true = loadAnswer (loadServed v p x) p (homeRead v x (memLen p)).1 := by
  unfold applyLoad
  rw [ht]
  rfl

/-- The state after the write of an atomic's new value, and the answer with the old one. -/
def atomServed (v : State) (p : Packet) (x : Nat) : State :=
  let old := natOf (homeRead v x 8).1
  let w := homeWrite (homeRead v x 8).2 x (bytesOf 8 (atomNew (memAtop p) old p.w4.toNat p.w5.toNat))
  sendAck (recordPsn (takeHome w 1) p (some (BitVec.ofNat 64 old))) (herePort w p) p 0 old

theorem applyAtomic_takes {v : State} {p : Packet} {x : Nat} (ht : memTarget v p = .ok x)
    (hs : settleHolds v (memOfs p) 8 = false) : applyAtomic v p = some (atomServed v p x) := by
  unfold applyAtomic
  rw [ht]
  exact if_neg (by simp [hs])

theorem atomServed_fabricOnly (v : State) (p : Packet) (x : Nat) : FabricOnly
    (homeWrite (homeRead v x 8).2 x (bytesOf 8 (atomNew (memAtop p) (natOf (homeRead v x 8).1) p.w4.toNat p.w5.toNat)))
    (atomServed v p x) := by
  unfold atomServed
  dsimp only
  generalize homeWrite (homeRead v x 8).2 x _ = w
  exact (takeHome_fabricOnly w 1).trans ((recordPsn_fabricOnly ..).trans rfl)

theorem atomServed_held (v : State) (p : Packet) (x : Nat) : HeldKept v (atomServed v p x) :=
  (homeRead_held ..).trans ((homeWrite_held ..).trans (atomServed_fabricOnly ..).held)

/-- What an atomic leaves at its home. -/
theorem peekHome_atomServed {v : State} (p : Packet) {x : Nat} (hx : x % 8 = 0) (hok : LinesOk v) : peekHome (atomServed v p x) x 8 =
    bytesOf 8 (atomNew (memAtop p) (natOf (homeRead v x 8).1) p.w4.toNat p.w5.toNat) := by
  have hread : LinesOk (homeRead v x 8).2 := by
    rw [homeRead_page (by decide) (by omega)]
    refine (homeGet_ok ?_ x (by decide)).1
    unfold LinesOk
    rw [(snoopNeed_keeps ..).2.2]
    exact hok
  have hfab := atomServed_fabricOnly v p x
  generalize atomNew _ _ _ _ = nv at hfab ⊢
  generalize (homeRead v x 8).2 = w at hread hfab
  have hlen : (bytesOf 8 nv).length = 8 := bytesOf_length ..
  unfold homeWrite at hfab
  have hok' : LinesOk (snoopNeed w x (bytesOf 8 nv).length true) := by
    unfold LinesOk
    rw [(snoopNeed_keeps ..).2.2]
    exact hread
  have h := peekHome_part (t := atomServed v p x) hok' (x := x) (d := bytesOf 8 nv) (by omega) (by omega) (by omega)
    (by rw [hfab]) (by rw [hfab])
  rwa [hlen] at h

end

/-- Settles O41: each request reaches its home's unit through the receiver; a store of whole lines and an atomic within a line are
followed line by line. -/
theorem homeRequests : Obligations.HomeRequests := by
  unfold Obligations.HomeRequests
  intro s u p hz hn _ hl ha
  dsimp only
  have hheld := ha.served_held
  refine ⟨fun st ht h1 => ?_, fun x ht => ⟨fun ho hs => ?_, fun ho hs hb hlen hx hroom => ?_, fun ho => ?_, fun ho hs => ?_⟩⟩
  · have hg : guarded s (sendAck (openSession u p) (herePort (openSession u p) p) p st 0) = _ :=
      (hheld.trans (sendAck_fabricOnly ..).held).guarded hn
    have ht' := turnAway_answers (openSession u p) p h1
    refine ⟨fun ho => ?_, fun ho => ?_, fun ho => ?_⟩
    · rw [exec_store_of hz ha hl ho]
      unfold applyStore
      rw [ht]
      dsimp only [Option.getD_some]
      rw [ht', hg]
    · rw [exec_load_of hz ha hl ho]
      unfold applyLoad
      rw [ht]
      dsimp only
      rw [ht', hg]
    · rw [exec_atomic_of hz ha hl ho]
      unfold applyAtomic
      rw [ht]
      dsimp only [Option.getD_some]
      rw [ht', hg]
  · rw [exec_store_of hz ha hl ho, applyStore_held ht hs]
    exact congrArg Host.Outcome.next (HeldKept.guarded (.refl s) hn)
  · have hp : memLen p = p.payload.length := if_pos ho
    rw [exec_store_of hz ha hl ho, applyStore_takes ht hs hb, Option.getD_some]
    have hfab : FabricOnly (homeWrite (openSession u p) x p.payload)
        (accept (takeHome (homeWrite (openSession u p) x p.payload) 1) (herePort (openSession u p) p) p) :=
      (takeHome_fabricOnly ..).trans (accept_fabricOnly ..)
    rw [((hheld.trans (homeWrite_held ..)).trans hfab.held).guarded hn, hp]
    refine ⟨_, rfl, answered_sendAck .., peekHome_homeWrite hx hlen (by rwa [← hp]) ?_ ?_⟩
    · rw [hfab]
    · rw [hfab]
  · rw [exec_load_of hz ha hl ho, applyLoad_serves ht]
    have hk : HeldKept (openSession u p)
        (loadAnswer (loadServed (openSession u p) p x) p (homeRead (openSession u p) x (memLen p)).1) :=
      ((homeRead_held ..).trans (loadServed_fabricOnly ..).held).trans (FabricOnly.held rfl)
    rw [(hheld.trans hk).guarded hn, ← ha.node, ← loadServed_node _ p x]
    exact ⟨_, _, rfl, List.mem_append_right _ List.mem_cons_self⟩
  · rw [exec_atomic_of hz ha hl ho, applyAtomic_takes ht hs, Option.getD_some, (hheld.trans (atomServed_held ..)).guarded hn]
    exact ⟨_, rfl, answered_sendAck .., peekHome_atomServed p⟩

end Sys2Proof.Machine


/-! ### Dragiper Link -/

namespace Sys2Proof.Machine

open Sys2Proof

/-! #### Requests and events at a link that is up -/

/-- The link's state, the moment of its last good flit and the sequence number of events, which requests leave alone. -/
def LinkKept (s t : State) : Prop :=
  t.drg.st = s.drg.st ∧ t.drg.lastFlit = s.drg.lastFlit ∧ t.evt.seq = s.evt.seq

theorem evtWrite_linkKept (s : State) (e : EvRec) : LinkKept s (evtWrite s e) := ⟨rfl, rfl, rfl⟩

theorem evtIrq_linkKept (s : State) : LinkKept s (evtIrq s) := by
  unfold evtIrq
  split
  · split
    · exact ⟨rfl, rfl, rfl⟩
    · exact ⟨rfl, rfl, rfl⟩
  · exact ⟨rfl, rfl, rfl⟩

/-- An event posted while the queue has room takes the next number. -/
theorem post_seq {s : State} (h : s.evt.queue.length < 256) (code : Nat) (ctx : Option (Fin 16)) (a0 a1 : Nat) :
    LinkKept { s with evt := { s.evt with seq := inc32 s.evt.seq 1 } } (post s code ctx a0 a1) := by
  unfold post
  dsimp only
  by_cases hq : s.evt.queue = [] ∧ s.evt.lostSince = 0 ∧ evtRoom s
  · obtain ⟨h1, h2, h3⟩ := evtIrq_linkKept
      (evtWrite { s with evt := { s.evt with seq := inc32 s.evt.seq 1 } } (evRecord s code ctx a0 a1))
    rw [if_pos hq]
    exact ⟨h1, h2, h3⟩
  · rw [if_neg hq, if_pos h]
    exact ⟨rfl, rfl, rfl⟩

theorem post_link (s : State) (code : Nat) (ctx : Option (Fin 16)) (a0 a1 : Nat) :
    (post s code ctx a0 a1).drg.st = s.drg.st ∧ (post s code ctx a0 a1).drg.lastFlit = s.drg.lastFlit := by
  by_cases h : s.evt.queue.length < 256
  · obtain ⟨h1, h2, -⟩ := post_seq h code ctx a0 a1
    exact ⟨h1, h2⟩
  · have hq : ¬(s.evt.queue = [] ∧ s.evt.lostSince = 0 ∧ evtRoom s) := fun hq => h (by rw [hq.1]; decide)
    unfold post
    dsimp only
    rw [if_neg hq, if_neg h]
    exact ⟨rfl, rfl⟩

/-! #### The link goes down -/

theorem drgAcked_reqs (d : Drg) (a : BitVec 12) : (drgAcked d a).reqs = d.reqs := by
  unfold drgAcked
  split <;> rfl

theorem drgAcked_none {d : Drg} (h : d.unacked = []) (a : BitVec 12) : drgAcked d a = d := by
  unfold drgAcked
  rw [h]
  rfl

theorem elapse_drg (n : Nat) (s : State) : (elapse n s).drg = s.drg := by rw [elapse_eq]

theorem advanceTo_drg (s : State) (t : Nat) : (advanceTo s t).drg = s.drg := by
  unfold advanceTo
  split
  · exact elapse_drg ..
  · rfl

/-- A link gone down: nothing is outstanding, nothing held, and the alert stands. -/
def LinkDown (s t : State) : Prop :=
  t.drg = { s.drg with
    st := .down
    downs := inc32 s.drg.downs 1
    trainAt := s.halyard
    filter := []
    snoops := []
    held := []
    reqs := []
    unacked := []
    txWait := 0
    txSeq := 0
    rxSeq := 0xFFF
    awaitReplay := false
    nakDue := false
    credit := [] } ∧ t.halyard = s.halyard ∧ t.aon = (setAlert s 2).aon

/-- The state of a link gone down, before the port's output is discarded. -/
def hostCut (s : State) : State :=
  setAlert (setDrg s (fun d => { d with
    st := .down
    downs := inc32 d.downs 1
    trainAt := s.halyard
    filter := []
    snoops := []
    held := []
    reqs := []
    unacked := []
    txWait := 0
    txSeq := 0
    rxSeq := 0xFFF
    awaitReplay := false
    nakDue := false
    credit := [] })) 2

theorem hostDownNow_cut {s : State} (h : s.drg.reqs = []) :
    hostDownNow s = if frozen (hostCut s) then hostCut s else discardOutput (hostCut s) 32 := by
  unfold hostDownNow
  rw [h]
  rfl

theorem hostDownNow_down {s : State} (h : s.drg.reqs = []) : LinkDown s (hostDownNow s) := by
  rw [hostDownNow_cut h]
  split
  · exact ⟨rfl, rfl, rfl⟩
  · unfold LinkDown
    rw [discardOutput_fabricOnly]
    exact ⟨rfl, rfl, rfl⟩

theorem LinkDown.alert {s t : State} (h : LinkDown s t) : t.aon.alertStatus.getLsbD 2 = true := by
  rw [h.2.2]
  show (s.aon.alertStatus ||| BitVec.ofNat 8 (2 ^ 2)).getLsbD 2 = true
  rw [BitVec.getLsbD_or]
  exact Bool.or_eq_true_iff.mpr (.inr (by decide))

/-! #### NAK -/

section
variable {s : State} {a : BitVec 12}

theorem up_iff : linkIsUp s = true ↔ s.drg.st = .up := decide_eq_true_iff

theorem nakTaken_done (h : (drgAcked s.drg a).unacked = []) : nakTaken s a = { s with drg := drgAcked s.drg a } := by
  unfold nakTaken
  exact if_pos h

/-- The state after a replay of every outstanding flit. -/
def replayed (s : State) (a : BitVec 12) : State :=
  let x := drgAcked s.drg a
  { s with drg := { x with replays := inc64 x.replays 1, unacked := x.unacked.map (fun e => (e.1, e.2 + 1)) } }

theorem nakTaken_replays (h : (drgAcked s.drg a).unacked ≠ []) (hf : ∀ e ∈ (drgAcked s.drg a).unacked, e.2 < 15) :
    nakTaken s a = replayed s a := by
  unfold nakTaken
  refine (if_neg h).trans (if_neg ?_)
  intro hany
  obtain ⟨e, he, h16⟩ := List.any_eq_true.mp hany
  obtain ⟨i, hi, rfl⟩ := List.mem_map.mp he
  have := hf i hi
  have := of_decide_eq_true h16
  omega

theorem nakTaken_fails (hf : ∃ e ∈ (drgAcked s.drg a).unacked, 15 ≤ e.2) : nakTaken s a = hostDownNow (replayed s a) := by
  obtain ⟨e, he, h15⟩ := hf
  unfold nakTaken
  refine (if_neg fun hnil => ?_).trans (if_pos ?_)
  · exact absurd (hnil ▸ he : e ∈ []) List.not_mem_nil
  · exact List.any_eq_true.mpr ⟨_, List.mem_map.mpr ⟨e, he, rfl⟩, decide_eq_true (by dsimp only; omega)⟩

theorem exec_nak_of (h : s.drg.st = .up) : exec (.nak a) s = .next (nakTaken s a) :=
  congrArg Host.Outcome.next (if_pos (up_iff.mpr h))

end

/-! #### Flits -/

theorem exec_flit_of {s : State} (h : s.drg.st = .up) (bs : List Byte) : exec (.dragiperFlit bs) s = .next (flitTaken s bs) :=
  congrArg Host.Outcome.next (if_pos (up_iff.mpr h))

theorem flitOrder_eq (d : Drg) (q : BitVec 12) : flitOrder d q = { d with
    rxSeq := if q = d.rxSeq + 1 then d.rxSeq + 1 else d.rxSeq
    awaitReplay := if q = d.rxSeq + 1 then false else d.awaitReplay
    nakDue := if q = d.rxSeq + 1 then false else d.nakDue } := by
  unfold flitOrder
  by_cases h : q = d.rxSeq + 1
  · rw [if_pos h, if_pos h, if_pos h, if_pos h, h]
  · rw [if_neg h, if_neg h, if_neg h, if_neg h]

/-- A flit's number taken or passed over, when no flit waits for the acknowledgement that it carries. -/
theorem setDrg_flitOrder {t : State} (h : t.drg.unacked = []) (w : Nat) (a : BitVec 12) :
    setDrg (if bitAt w 25 then t else setDrg t (fun d => flitOrder d (BitVec.ofNat 12 w))) (fun d => drgAcked d a) =
      setDrg t (fun d => { d with
        rxSeq := if bitAt w 25 = false ∧ BitVec.ofNat 12 w = d.rxSeq + 1 then d.rxSeq + 1 else d.rxSeq
        awaitReplay := if bitAt w 25 = false ∧ BitVec.ofNat 12 w = d.rxSeq + 1 then false else d.awaitReplay
        nakDue := if bitAt w 25 = false ∧ BitVec.ofNat 12 w = d.rxSeq + 1 then false else d.nakDue }) := by
  have hdone : ∀ u : State, u.drg.unacked = [] → setDrg u (fun d => drgAcked d a) = u := fun u hu => by
    unfold setDrg
    dsimp only
    rw [drgAcked_none hu]
  by_cases hn : bitAt w 25 = true
  · rw [if_pos hn, hdone t h]
    simp only [hn, Bool.true_eq_false, false_and, if_false]
    rfl
  · rw [if_neg hn]
    simp only [flitOrder_eq, eq_false_of_ne_true hn, true_and]
    refine hdone _ ?_
    exact h

theorem flitTaken_good {s : State} {bs : List Byte}
    (hgood : natAt bs 248 8 = (crc64 (padTo 248 (bs.take 248))).toNat) (hnak : bitAt (natAt bs 0 8) 24 = false)
    (hun : s.drg.unacked = []) :
    let d := s.drg
    let w := natAt bs 0 8
    let c := bits w 28 26
    let next := bitAt w 25 = false ∧ BitVec.ofNat 12 w = d.rxSeq + 1
    flitTaken s bs = { s with drg := { d with
      lastFlit := s.halyard
      credit := if c < 4 then mput 0 d.credit c (mget 0 d.credit c + bits w 40 29) else d.credit
      rxSeq := if next then d.rxSeq + 1 else d.rxSeq
      awaitReplay := if next then false else d.awaitReplay
      nakDue := if next then false else d.nakDue } } := by
  unfold flitTaken
  dsimp only
  rw [if_neg (not_not_intro hgood), if_neg (ne_true_of_eq_false hnak)]
  generalize natAt bs 0 8 = w
  by_cases hc : bits w 28 26 < 4
  · rw [if_pos hc, if_pos hc]
    refine (setDrg_flitOrder ?_ w _).trans rfl
    exact hun
  · rw [if_neg hc, if_neg hc]
    refine (setDrg_flitOrder ?_ w _).trans rfl
    exact hun

/-- A link that trains again. -/
def retrained (s : State) : State := setDrg s (fun d => { d with st := .training, trainAt := s.halyard })

theorem retrained_halyard (s : State) : (retrained s).halyard = s.halyard := rfl

theorem retrained_drg (s : State) : (retrained s).drg = { s.drg with st := .training, trainAt := s.halyard } := rfl

theorem exec_hostRetrain_of {s : State} (hp : pastBoot s = true) (h : linkIsUp s = false) :
    exec .hostRetrain s = .next (retrained (advanceTo s (s.drg.trainAt + 1000000))) :=
  congrArg Host.Outcome.next (if_neg (by simp [hp, h]))

/-- Settles O49: the equations of each part of the link layer, put together. -/
theorem dragiperLink : Obligations.DragiperLink := by
  unfold Obligations.DragiperLink
  intro s a bs
  dsimp only
  refine ⟨fun h => ?_, fun h hbad => ?_, fun h hgood hnak hun => ?_, fun h hx => ?_, fun h hx hf => ?_, fun h hf hr => ?_,
    fun h hr ht => ?_, fun hp h ht => ?_, fun hp => ?_, fun hp h => ?_⟩
  · have hdown : ¬ linkIsUp s = true := fun hu => h (up_iff.mp hu)
    exact ⟨congrArg Host.Outcome.next (if_neg hdown), congrArg Host.Outcome.next (if_neg hdown),
      congrArg Host.Outcome.next (if_neg hdown)⟩
  · rw [exec_flit_of h]
    exact congrArg Host.Outcome.next (if_pos hbad)
  · rw [exec_flit_of h, flitTaken_good hgood hnak hun]
  · rw [exec_nak_of h, nakTaken_done hx]
  · rw [exec_nak_of h, nakTaken_replays hx hf]
    rfl
  · rw [exec_nak_of h, nakTaken_fails hf]
    refine ⟨_, rfl, ?_⟩
    rw [(hostDownNow_down (s := replayed s a) ((drgAcked_reqs ..).trans hr)).1]
  · refine ⟨_, congrArg Host.Outcome.next (if_pos (up_iff.mpr h)), ?_⟩
    have hd := hostDownNow_down (s := advanceTo s (s.drg.lastFlit + 2000)) (by rw [advanceTo_drg]; exact hr)
    have halert := hd.alert
    have hclock := advanceTo_reaches s ht
    obtain ⟨hdrg, hhal, -⟩ := hd
    rw [hdrg, hhal]
    refine ⟨rfl, hclock, ?_, rfl, rfl, rfl, rfl, halert⟩
    rw [advanceTo_drg]
  · have hdown : linkIsUp s = false := decide_eq_false h
    refine ⟨_, exec_hostRetrain_of hp hdown, ?_, ?_⟩
    · rw [retrained_halyard]
      exact advanceTo_reaches s ht
    · rw [retrained_halyard, retrained_drg, advanceTo_drg]
  · exact ⟨congrArg Host.Outcome.next (if_pos (by simp [hp])), congrArg Host.Outcome.next (if_neg (by simp [hp]))⟩
  · refine ⟨_, congrArg Host.Outcome.next (if_pos (by simp [hp, h])), ?_⟩
    obtain ⟨h1, h2⟩ := post_link (setDrg s (fun d => { d with st := .up, lastFlit := s.halyard })) evHostLinkUp none s.drg.downs.toNat 0
    exact ⟨h1, h2, fun hq => (post_seq (s := setDrg s _) hq ..).2.2⟩

end Sys2Proof.Machine


/-! ### Counters and samples -/

namespace Sys2Proof.Machine

open Sys2Proof

/-- A machine at reset in which a line of the host window still waits for its snoop. -/
def snoopWaiting : State := { State.reset with drg := { need := [(0, true)] } }

theorem snoopWaiting_runs : mainUp snoopWaiting = true ∧ frozen snoopWaiting = false ∧ (getSet snoopWaiting (0 : Fin 16).val).strobeAt = 0 := by
  decide +kernel

theorem exec_strobe_of {s : State} {j : Fin 16} (hm : mainUp s = true) (hz : frozen s = false) :
    exec (.strobe j) s = .next (guarded s (strobe s j.val)) := congrArg Host.Outcome.next (if_neg (by simp [hm, hz]))

theorem strobe_idle {s : State} {j : Fin 16} (h : (getSet s j.val).strobeAt = 0) : strobe s j.val = s := if_pos h

theorem snoopWaiting_sends : (guarded snoopWaiting snoopWaiting).drg.snpSent ≠ snoopWaiting.drg.snpSent := by
  decide +kernel

/-- Refutes O46: its clause on a set without a firing asks for no empty list of snoops that wait, and STROBE sends those that do. In
`snoopWaiting` set 0 has not fired, and yet the command sends a snoop and counts it. -/
theorem not_countersAndSamples : ¬ Obligations.CountersAndSamples := by
  unfold Obligations.CountersAndSamples
  intro h
  obtain ⟨hm, hz, h0⟩ := snoopWaiting_runs
  have hidle := ((h snoopWaiting 0 0 hm).2.2 hz).2.2.2.1 h0
  rw [exec_strobe_of hm hz, strobe_idle h0] at hidle
  exact snoopWaiting_sends (congrArg (fun t : State => t.drg.snpSent) (Host.Outcome.next.inj hidle))

end Sys2Proof.Machine


/-! ### The image broadcast: its commands -/

namespace Sys2Proof.Machine

open Sys2Proof

/-! #### Copies to the children -/

/-- What identifies a child and what it has reported, whatever copies it has not acknowledged. -/
def childKey (c : BChild) : BitVec 14 × BitVec 3 × Option (Nat × Bool × BitVec 14 × Byte) := (c.node, c.fwd, c.report)

/-- `t` is `s` after copies sent to its children. -/
def CopiesSent (s t : State) : Prop := BcastOnly s t ∧ t.syn = { s.syn with children := t.syn.children } ∧
  t.syn.children.map childKey = s.syn.children.map childKey

theorem CopiesSent.refl (s : State) : CopiesSent s s := ⟨rfl, rfl, rfl⟩

theorem CopiesSent.trans {s t u : State} (h₁ : CopiesSent s t) (h₂ : CopiesSent t u) : CopiesSent s u := by
  obtain ⟨b₁, y₁, k₁⟩ := h₁
  obtain ⟨b₂, y₂, k₂⟩ := h₂
  exact ⟨b₁.trans b₂, by rw [y₂, y₁], k₂.trans k₁⟩

theorem sendChild_copiesSent (s : State) (c : BChild) (w3 id w5 : Nat) (b : List Byte) :
    CopiesSent s (sendChild s c w3 id w5 b) := by
  unfold sendChild
  extract_lets p q t
  have ht : CopiesSent s t := by
    refine ⟨rfl, rfl, ?_⟩
    show (s.syn.children.map _).map childKey = _
    rw [List.map_map]
    refine List.map_congr_left fun x _ => ?_
    dsimp only [Function.comp]
    split <;> rfl
  have hs := (sendRequest_sends t { pkt := q, owner := .bcast c.node, part := none, port := 32 }).1
  refine ht.trans ⟨hs.bcastOnly, ?_, ?_⟩
  · rw [hs]
  · rw [hs]

theorem sendData_copiesSent (s : State) (w3 id len : Nat) (b : List Byte) : CopiesSent s (sendData s w3 id len b) :=
  foldl_rel (R := CopiesSent) .refl .trans (fun _ _ => sendChild_copiesSent ..) _ s

theorem sendArm_copiesSent (s : State) (id commit launch mask : Nat) : CopiesSent s (sendArm s id commit launch mask) :=
  foldl_rel (R := CopiesSent) .refl .trans (fun _ _ => sendChild_copiesSent ..) _ s

/-! #### The children of an origin -/

theorem boardPeers_ne_nil (s : State) : stagePeers s 0 ≠ [] := by
  intro h
  have hall : ∀ i < 4, peerAt s (locR s) (locC s) i = node s := fun i hi => by
    unfold stagePeers at h
    have := List.filter_eq_nil_iff.mp h _ (List.mem_map.mpr ⟨i, List.mem_range.mpr hi, rfl⟩)
    simpa using this
  have h0 := hall 0 (by decide)
  have h1 := hall 1 (by decide)
  unfold peerAt at h0 h1
  omega

theorem originChildren_ne_nil (s : State) : originChildren s ≠ [] := by
  intro h
  obtain ⟨-, hc⟩ := List.append_eq_nil_iff.mp h
  obtain ⟨hc, -⟩ := List.append_eq_nil_iff.mp hc
  obtain ⟨hc, -⟩ := List.append_eq_nil_iff.mp hc
  exact boardPeers_ne_nil s (List.map_eq_nil_iff.mp hc)

theorem originChildren_report {s : State} {c : BChild} (h : c ∈ originChildren s) : c.report = none := by
  have hmap : ∀ (l : List Nat) (fwd : Nat) (dim : Option Nat), c ∈ l.map (fun n => bchild n fwd dim) → c.report = none :=
    fun l fwd dim hm => by
      obtain ⟨n, -, rfl⟩ := List.mem_map.mp hm
      rfl
  unfold originChildren at h
  rcases List.mem_append.mp h with h | h
  · obtain ⟨n, -, rfl⟩ := List.mem_map.mp h
    rfl
  · rcases List.mem_append.mp h with h | h
    · rcases List.mem_append.mp h with h | h
      · exact hmap _ _ _ h
      · exact hmap _ _ _ h
    · exact hmap _ _ _ h

/-- With the reports of its children missing, an origin's broadcast goes on. -/
theorem bcastProgress_waits {s : State} {l : List BChild} (hk : s.syn.children.map childKey = l.map childKey) (hl : l ≠ [])
    (hr : ∀ c ∈ l, c.report = none) : bcastProgress s = s := by
  refine if_pos ?_
  obtain ⟨c, l, rfl⟩ := List.exists_cons_of_ne_nil hl
  obtain ⟨x, m, hx⟩ := List.exists_cons_of_ne_nil (l := s.syn.children) (fun h => by simp [h] at hk)
  have hx' : x.report = none := by
    rw [hx, List.map_cons, List.map_cons] at hk
    have hkey := (List.cons.inj hk).1
    exact (congrArg (fun k => k.2.2) hkey).trans (hr c List.mem_cons_self)
  simp [allReported, hx, hx']

/-! #### SEND -/

section
variable {s : State}

theorem exec_send_of (h : loaderTakes s = true) : exec .send s = .next (guarded s (bcastSend s)) :=
  congrArg Host.Outcome.next (if_pos h)

theorem exec_bcastArm_of (h : loaderTakes s = true) : exec .bcastArm s = .next (bcastArm s) :=
  congrArg Host.Outcome.next (if_pos h)

theorem exec_abandon_of (h : loaderTakes s = true) : exec .abandon s = .next (bcastAbandon s) :=
  congrArg Host.Outcome.next (if_pos h)

/-- The origin of a broadcast that begins with the machine as `u` stands. -/
def origin (u : State) (id : Nat) : State :=
  setSyn u (fun y => { y with
    bst := .sending
    berr := 0
    okCount := 0
    firstFail := 0
    isOrigin := true
    children := originChildren u
    sentId := BitVec.ofNat 64 id })

theorem bcastSend_sends (hv : s.hst.st = .valid) (hb : s.syn.bst ≠ .sending) (hl : locked s = true) :
    CopiesSent (origin (stagedImage s).2 (stagedId s)) (bcastSend s) := by
  unfold bcastSend
  rw [if_neg (by simp [hv, hb]), if_neg (by simp [hl])]
  dsimp only
  generalize (stagedImage s).2 = u
  have hc := foldl_rel (R := CopiesSent) .refl .trans
    (fun t (e : Nat × List Byte) => sendData_copiesSent t (e.1 + 2 ^ 32 * ceilDiv u.hst.image.length 64) (stagedId s)
      u.hst.image.length e.2) (imageParts u.hst.image) (origin u (stagedId s))
  refine hc.trans ?_
  refine (bcastProgress_waits (l := originChildren u) ?_ (originChildren_ne_nil u) fun c => originChildren_report).symm ▸ .refl _
  exact hc.2.2

theorem originChildren_stagedImage (s : State) : originChildren (stagedImage s).2 = originChildren s := by
  rw [(stagedImage_memAccess s).only]
  rfl

end

/-! #### ARM -/

theorem armAct_valid {s : State} {id commit launch : W64} {mask : BitVec 16} (hv : s.hst.st = .valid)
    (hid : stagedId s = id.toNat) : armAct s id commit launch mask =
      loaderArm (setHst { s with syn := { s.syn with armPending := some (id, launch, mask) } } (fun h => { h with commitCount := commit })) :=
  if_pos ⟨hv, hid⟩

/-- What ARM may change of the synchronisation block and the loader. -/
theorem loaderArm_keeps (s : State) : (loaderArm s).hst.commitCount = s.hst.commitCount ∧ (loaderArm s).syn.bst = s.syn.bst ∧
    (loaderArm s).syn.berr = s.syn.berr := by
  have hrefuse : ∀ e, (refuse s e).hst.commitCount = s.hst.commitCount ∧ (refuse s e).syn.bst = s.syn.bst ∧
      (refuse s e).syn.berr = s.syn.berr := fun e => by
    unfold refuse imageEvent
    rw [post_eventOnly]
    exact ⟨rfl, rfl, rfl⟩
  unfold loaderArm
  split
  · exact ⟨rfl, rfl, rfl⟩
  · split
    · exact hrefuse _
    · split
      · exact hrefuse _
      · exact ⟨rfl, rfl, rfl⟩

theorem armAct_keeps (s : State) (id commit launch : W64) (mask : BitVec 16) :
    (armAct s id commit launch mask).syn.bst = s.syn.bst ∧ (armAct s id commit launch mask).syn.berr = s.syn.berr := by
  unfold armAct
  split
  · exact (loaderArm_keeps _).2
  · dsimp only
    rw [post_eventOnly]
    exact ⟨rfl, rfl⟩

theorem armAct_ignored {s : State} (h : s.hst.st ≠ .valid) (id commit launch : W64) (mask : BitVec 16) :
    (armAct s id commit launch mask).hst = s.hst := by
  unfold armAct
  rw [if_neg (fun hc => h hc.1)]
  exact (post_eventOnly ..).hst

/-- The image held is armed for the agreed count. -/
theorem armAct_arms {s : State} {id commit launch : W64} {mask : BitVec 16} (hv : s.hst.st = .valid) (hid : stagedId s = id.toNat)
    (hl : locked s = true) (hc : s.halyard < commit.toNat) : armAct s id commit launch mask = { s with
      syn := { s.syn with armPending := some (id, launch, mask) }
      hst := { s.hst with commitCount := commit, st := if s.hst.stagedKind then .arming else .armed } } := by
  rw [armAct_valid hv hid]
  refine (loaderArm_taken ?_ ?_ ?_).trans rfl
  · exact hv
  · exact hl
  · exact hc

/-- Settles O47: the copies that SEND and ARM send change the children's counts of copies only. -/
theorem broadcastCommands : Obligations.BroadcastCommands := by
  unfold Obligations.BroadcastCommands
  intro s
  dsimp only
  refine ⟨fun h => ⟨exec_loader_refused h (by simp), exec_loader_refused h (by simp), exec_loader_refused h (by simp)⟩,
    fun h => ⟨fun hn hbad => ?_, fun hn hv hb hl => ?_, fun hn _ hv hb hl => ?_, fun hb => ?_, fun hb => ?_, ?_⟩⟩
  · have he : bcastSend s = setSyn s (fun y => { y with berr := 1 }) := if_pos hbad
    rw [exec_send_of h, he, (setSyn_bcastOnly ..).held.guarded hn]
    rfl
  · have he : bcastSend s = setSyn s (fun y => { y with berr := 3 }) :=
      (if_neg (by simp [hv, hb])).trans (if_pos (by simp [hl]))
    rw [exec_send_of h, he, (setSyn_bcastOnly ..).held.guarded hn]
    rfl
  · obtain ⟨hbc, hsyn, hkey⟩ := bcastSend_sends hv hb hl
    have hm := stagedImage_memAccess s
    have ho : BcastOnly (stagedImage s).2 (origin (stagedImage s).2 (stagedId s)) := setSyn_bcastOnly ..
    have hheld : HeldKept s (bcastSend s) := hm.held.trans (ho.trans hbc).held
    rw [exec_send_of h, hheld.guarded hn]
    refine ⟨_, rfl, ?_⟩
    have hchild : (origin (stagedImage s).2 (stagedId s)).syn.children = originChildren s := originChildren_stagedImage s
    rw [hchild] at hkey
    rw [hsyn]
    refine ⟨rfl, rfl, rfl, rfl, rfl, rfl, hkey.trans ?_, hbc.hst.trans hm.hst⟩
    refine List.map_congr_left fun c hc => ?_
    unfold childKey
    rw [originChildren_report hc]
  · rw [exec_bcastArm_of h]
    exact congrArg Host.Outcome.next (if_pos hb)
  · have he : bcastArm s = armAct (sendArm (setSyn s (fun y => { y with bst := .armSent, berr := 0 })) s.syn.sentId.toNat
        s.syn.bcastCommit.toNat s.syn.bcastLaunch.toNat s.syn.ctxMask.toNat) s.syn.sentId s.syn.bcastCommit s.syn.bcastLaunch
        s.syn.ctxMask := if_neg (not_not_intro hb)
    obtain ⟨hbc, hsyn, -⟩ := sendArm_copiesSent (setSyn s (fun y => { y with bst := .armSent, berr := 0 })) s.syn.sentId.toNat
      s.syn.bcastCommit.toNat s.syn.bcastLaunch.toNat s.syn.ctxMask.toNat
    rw [exec_bcastArm_of h, he]
    generalize sendArm _ _ _ _ _ = u at hbc hsyn ⊢
    have hhst : u.hst = s.hst := hbc.hst
    obtain ⟨hbst, hberr⟩ := armAct_keeps u s.syn.sentId s.syn.bcastCommit s.syn.bcastLaunch s.syn.ctxMask
    refine ⟨_, rfl, hbst.trans (by rw [hsyn]; rfl), hberr.trans (by rw [hsyn]; rfl), fun hv hid => ⟨?_, fun hl hc => ?_⟩, fun hv => ?_⟩
    · rw [armAct_valid (by rw [hhst, hv]) (by rw [stagedId, hhst]; exact hid)]
      exact (loaderArm_keeps _).1
    · have hlock : locked u = true := by
        rw [← hl]
        unfold locked
        rw [hsyn, hbc]
        rfl
      have hclock : u.halyard = s.halyard := by
        rw [hbc]
        rfl
      rw [armAct_arms (by rw [hhst, hv]) (by rw [stagedId, hhst]; exact hid) hlock (by rw [hclock]; exact hc)]
      exact ⟨by rw [hhst], rfl⟩
    · rw [armAct_ignored (by rw [hhst]; exact hv), hhst]
  · exact exec_abandon_of h

end Sys2Proof.Machine


/-! ### The image broadcast: its packets -/

namespace Sys2Proof.Machine

open Sys2Proof

theorem natOf_lt (l : List Byte) : natOf l < 256 ^ l.length := by
  induction l with
  | nil => decide
  | cons b l ih =>
    have hb := b.isLt
    unfold natOf
    rw [List.length_cons, Nat.pow_succ]
    omega

theorem natAt_lt (l : List Byte) (o n : Nat) : natAt l o n < 256 ^ n :=
  Nat.lt_of_lt_of_le (natOf_lt _) (Nat.pow_le_pow_right (by decide) (List.length_take_le ..))

section
variable {s u : State} {p : Packet}

theorem imageRecv_arrives (h : Arrives s p u) (hl : p.long = true) (ho : p.op = 10) {kind : Nat} (hk : p.w5.toNat % 4 = kind)
    (act : State → State) : imageRecv s p kind act = act (openSession u p) :=
  (if_pos (by simp [hl, ho, hk])).trans (recv_arrives h _ _)

theorem exec_imageData_arrives (hz : frozen s = false) (h : Arrives s p u) (hl : p.long = true) (ho : p.op = 10)
    (hk : p.w5.toNat % 4 = 0) : exec (.imageData p) s = .next (guarded s
      (if turnsAway (openSession u p) then
        sendAck (if stageBusy (openSession u p) then stageDrop (openSession u p) else openSession u p) 32 p 2 0
      else dataTaken (openSession u p) p)) :=
  congrArg Host.Outcome.next ((if_neg (by simp [hz])).trans (congrArg (guarded s) (imageRecv_arrives h hl ho hk _)))

/-- A REPORT accepted in state `w`, acted on when it is of the present broadcast. -/
def reportTaken (w : State) (p : Packet) : State :=
  if (if w.syn.isOrigin then w.syn.bst = .sending && p.w4 = w.syn.sentId else p.w4 = w.syn.rxId) then
    takeReport w p.src (natAt p.payload 0 4, bitAt (natAt p.payload 6 1) 0, BitVec.ofNat 14 (natAt p.payload 4 2),
      BitVec.ofNat 8 (natAt p.payload 7 1))
  else w

theorem exec_report_arrives (hz : frozen s = false) (h : Arrives s p u) (hl : p.long = true) (ho : p.op = 10)
    (hk : p.w5.toNat % 4 = 1) : exec (.report p) s = .next (guarded s (reportTaken (accept (openSession u p) 32 p) p)) :=
  congrArg Host.Outcome.next ((if_neg (by simp [hz])).trans (congrArg (guarded s) (imageRecv_arrives h hl ho hk _)))

/-- An ARM packet accepted in state `w`. -/
def armTaken (w : State) (p : Packet) : State :=
  armAct (if w.syn.isOrigin || w.syn.rxId ≠ p.w4 then w
    else sendArm w (natAt p.payload 0 8) (natAt p.payload 8 8) (natAt p.payload 16 8) (natAt p.payload 24 2))
    (BitVec.ofNat 64 (natAt p.payload 0 8)) (BitVec.ofNat 64 (natAt p.payload 8 8)) (BitVec.ofNat 64 (natAt p.payload 16 8))
    (BitVec.ofNat 16 (natAt p.payload 24 2))

theorem exec_imageArm_arrives (hz : frozen s = false) (h : Arrives s p u) (hl : p.long = true) (ho : p.op = 10)
    (hk : p.w5.toNat % 4 = 2) : exec (.imageArm p) s = .next (guarded s (armTaken (accept (openSession u p) 32 p) p)) :=
  congrArg Host.Outcome.next ((if_neg (by simp [hz])).trans (congrArg (guarded s) (imageRecv_arrives h hl ho hk _)))

theorem exec_reportTimeout_of (hz : frozen s = false) (c : BitVec 14) :
    exec (.reportTimeout c) s = .next (reportTimeout s c) := congrArg Host.Outcome.next (if_neg (by simp [hz]))

end

/-! #### DATA -/

theorem openImage_same {s : State} {p : Packet} (h : s.syn.rxId = p.w4) : openImage s p = s := if_pos h

theorem childrenOf_none (s : State) : childrenOf s 0 = [] := rfl

/-- The image of another number opened, with no stage to forward it to. -/
def imageOpened (s : State) (p : Packet) : State :=
  { s with
    hst := { s.hst with st := .staging, err := 0, stageLen := 0 }
    syn := { s.syn with
      armPending := none
      rxId := p.w4
      rxParent := p.src
      rxParts := []
      rxTotal := msgFlits p
      rxFwd := 0
      children := []
      isOrigin := false
      reported := false
      ownPending := false
      own := none } }

theorem takesBegin_of_not_busy {s : State} (h : stageBusy s = false) : takesBegin s.hst.st = true := by
  unfold stageBusy at h
  cases hs : s.hst.st with
  | validating | arming | armed | installing => simp [hs] at h
  | empty | staging | valid | committed | refused => rfl

theorem openImage_opens {s : State} {p : Packet} (h : s.syn.rxId ≠ p.w4) (hb : stageBusy s = false) (hf : bits p.w5.toNat 4 2 = 0) :
    openImage s p = imageOpened s p := by
  have hbegin : loaderBegin s = setHst { s with syn := { s.syn with armPending := none } }
      (fun h => { h with st := .staging, err := 0, stageLen := 0 }) := if_pos (takesBegin_of_not_busy hb)
  unfold openImage
  rw [if_neg h]
  dsimp only
  rw [hf, childrenOf_none, hbegin]
  rfl

/-- A DATA packet of the open image staged, when there is no child to forward it to. -/
def dataStaged (s : State) (p : Packet) : State :=
  accept (setSyn (b1Write s (stageBase + 64 * partOfs p) (p.payload.take (stageSize - 64 * partOfs p)) { kind := 8, index := 0, ctx := none })
    (fun y => { y with rxParts := y.rxParts.filter (fun e => e.1 ≠ partOfs p) ++ [(partOfs p, flits p)] })) 32 p

section
variable (s : State) (p : Packet)

theorem dataStaged_memAccess : MemAccess s (b1Write s (stageBase + 64 * partOfs p) (p.payload.take (stageSize - 64 * partOfs p))
    { kind := 8, index := 0, ctx := none }) := b1Write_memAccess ..

theorem dataStaged_hst : (dataStaged s p).hst = s.hst := by
  unfold dataStaged
  rw [accept_fabricOnly]
  exact (dataStaged_memAccess s p).hst

/-- What a staged packet does to the broadcast's registers. -/
theorem dataStaged_syn : (dataStaged s p).syn.rxParts = s.syn.rxParts.filter (fun e => e.1 ≠ partOfs p) ++ [(partOfs p, flits p)] ∧
    (dataStaged s p).syn.isOrigin = s.syn.isOrigin ∧ (dataStaged s p).syn.rxId = s.syn.rxId ∧
    (dataStaged s p).syn.rxParent = s.syn.rxParent ∧ (dataStaged s p).syn.children = s.syn.children := by
  unfold dataStaged
  rw [accept_fabricOnly, (dataStaged_memAccess s p).only]
  exact ⟨rfl, rfl, rfl, rfl, rfl⟩

theorem dataStaged_bench1 : (dataStaged s p).bench1 = (b1Write s (stageBase + 64 * partOfs p)
    (p.payload.take (stageSize - 64 * partOfs p)) { kind := 8, index := 0, ctx := none }).bench1 := by
  unfold dataStaged
  rw [accept_fabricOnly]
  rfl

theorem dataStaged_held : HeldKept s (dataStaged s p) :=
  ((dataStaged_memAccess s p).held.trans (setSyn_bcastOnly ..).held).trans (accept_fabricOnly ..).held

theorem dataStaged_answered : Answered (dataStaged s p) p 0 0 := answered_sendAck ..

end

/-- The flits that a part list holds. -/
def partFlits (l : List (Nat × Nat)) : Nat := l.foldl (fun n e => n + e.2) 0

/-- The loader validates an image that has come whole. -/
def imageWhole (s : State) (p : Packet) : State :=
  loaderValidate (setSyn (setHst s (fun h => { h with stageLen := BitVec.ofNat 32 (p.w5.toNat / 2 ^ 32) }))
    (fun y => { y with ownPending := !y.isOrigin }))

theorem dataTaken_leaf {s a : State} {p : Packet} (ha : openImage s p = a) (hc : a.syn.children = []) : dataTaken s p =
    if msgFlits p ≤ partFlits (dataStaged a p).syn.rxParts ∧ (dataStaged a p).hst.st = .staging then imageWhole (dataStaged a p) p
    else dataStaged a p := by
  unfold dataTaken
  rw [ha]
  dsimp only
  have hm := dataStaged_memAccess a p
  generalize hb : b1Write a _ _ _ = b at hm
  have hsend : (if b.syn.isOrigin then b else sendData b p.w3.toNat p.w4.toNat (p.w5.toNat / 2 ^ 32) p.payload) = b := by
    have hnil : b.syn.children = [] := by
      rw [hm.only]
      exact hc
    split
    · rfl
    · unfold sendData
      rw [hnil]
      rfl
  rw [hsend, ← hb]
  rfl

theorem imageWhole_validates {s : State} (h : s.hst.st = .staging) (p : Packet) : imageWhole s p = { s with
    hst := { s.hst with st := .validating, stageLen := BitVec.ofNat 32 (p.w5.toNat / 2 ^ 32) }
    syn := { s.syn with ownPending := !s.syn.isOrigin } } := if_pos h

/-! #### REPORT -/

theorem takeReport_child {s : State} {c : BChild} (hc : s.syn.children = [c]) (hr : c.report = none) (r : Nat × Bool × BitVec 14 × Byte) :
    takeReport s c.node r = bcastProgress (setSyn s (fun y => { y with children := [{ c with report := some r }] })) := by
  have hcond : c.node = c.node ∧ c.report.isNone := ⟨rfl, by rw [hr]; rfl⟩
  unfold takeReport setSyn
  dsimp only
  rw [hc, List.map_singleton, if_pos hcond]

/-- A report taken at an origin with one child: the broadcast ends. -/
theorem takeReport_only {s : State} {c : BChild} (ho : s.syn.isOrigin = true) (hb : s.syn.bst = .sending) (hc : s.syn.children = [c])
    (hr : c.report = none) (n : Nat) (f : Bool) (d : BitVec 14) (e : Byte) : takeReport s c.node (n, f, d, e) = setSyn s (fun y => { y with
      children := [{ c with report := some (n, f, d, e) }]
      bst := if decide (1 + n = 64 * (s.syn.chHi.toNat + 1 - s.syn.chLo.toNat)) && !f then .doneOk else .doneFail
      okCount := BitVec.ofNat 32 (1 + n)
      firstFail := if f then d else 0 }) := by
  rw [takeReport_child hc hr]
  unfold bcastProgress
  rw [if_neg (by simp [allReported, setSyn]), if_pos (by exact ho), if_neg (by simp [setSyn, hb])]
  cases f with
  | true => simp [bcastTotal, setSyn]
  | false => simp [bcastTotal, setSyn]

theorem decided_iff (n m : Nat) (f : Bool) : (decide (n = m) && !f) = true ↔ n = m ∧ f = false := by simp

theorem takeReport_held (s : State) (c : BitVec 14) (r : Nat × Bool × BitVec 14 × Byte) : HeldKept s (takeReport s c r) :=
  ((setSyn_bcastOnly ..).trans (bcastProgress_bcastOnly _)).held

/-! #### ARM -/

theorem armTaken_leaf {w : State} {p : Packet} (hc : w.syn.children = []) : armTaken w p = armAct w
    (BitVec.ofNat 64 (natAt p.payload 0 8)) (BitVec.ofNat 64 (natAt p.payload 8 8)) (BitVec.ofNat 64 (natAt p.payload 16 8))
    (BitVec.ofNat 16 (natAt p.payload 24 2)) := by
  unfold armTaken
  congr 1
  split
  · rfl
  · unfold sendArm
    rw [hc]
    rfl

theorem natAt_word (l : List Byte) (o : Nat) : (BitVec.ofNat 64 (natAt l o 8)).toNat = natAt l o 8 :=
  (BitVec.toNat_ofNat ..).trans (Nat.mod_eq_of_lt (natAt_lt l o 8))

/-- Settles O48: a leaf stages a packet's bytes and no more; the last report and the last failure end a broadcast. -/
theorem broadcastPackets : Obligations.BroadcastPackets := by
  unfold Obligations.BroadcastPackets
  intro s u p c hz hn _ hl ho ha
  have hheld := ha.served_held
  dsimp only
  refine ⟨fun hk => ?_, fun hk horig hb hc hnode hr => ?_, fun hk hc hlock hv hid hcount => ?_, fun hany => ?_,
    fun hc hr hack horig hb hdue => ?_⟩
  · have he := exec_imageData_arrives hz ha hl ho hk
    generalize openSession u p = v at hheld he ⊢
    refine ⟨fun hbusy => ?_, fun hbusy hup => ?_, fun hbusy hup horig hfwd => ⟨fun hid hlt => ?_, fun hid hc => ?_⟩⟩
    · rw [he, if_pos (by simp [turnsAway, hbusy]), if_pos hbusy]
      exact congrArg Host.Outcome.next (((hheld.trans (setHst_held ..)).trans (sendAck_fabricOnly ..).held).guarded hn)
    · rw [he, if_pos (by simp [turnsAway, hup]), if_neg (by simp [hbusy])]
      exact congrArg Host.Outcome.next ((hheld.trans (sendAck_fabricOnly ..).held).guarded hn)
    · have hopen := openImage_opens hid hbusy hfwd
      have hopened : HeldKept v (imageOpened v p) := .of_drg rfl
      rw [he, if_neg (by simp [turnsAway, hup, hbusy]), dataTaken_leaf hopen rfl]
      obtain ⟨hparts, -, hrx, hparent, hchildren⟩ := dataStaged_syn (imageOpened v p) p
      have hflits : partFlits (dataStaged (imageOpened v p) p).syn.rxParts = flits p := by
        rw [hparts]
        exact Nat.zero_add _
      rw [if_neg (by omega), ((hheld.trans hopened).trans (dataStaged_held ..)).guarded hn]
      refine ⟨_, rfl, dataStaged_answered .., ?_⟩
      rw [dataStaged_hst, hparts, hrx, hparent, hchildren]
      exact ⟨rfl, rfl, rfl, rfl, rfl, rfl⟩
    · rw [he, if_neg (by simp [turnsAway, hup, hbusy]), dataTaken_leaf (openImage_same hid) hc]
      have hst := dataStaged_held v p
      have hans := dataStaged_answered v p
      have hb1 := dataStaged_bench1 v p
      have hhst := dataStaged_hst v p
      obtain ⟨hparts, ho, -⟩ := dataStaged_syn v p
      generalize dataStaged v p = w at hst hans hb1 hhst hparts ho ⊢
      rw [hparts, hhst]
      by_cases hall : msgFlits p ≤ partFlits (v.syn.rxParts.filter (fun e => e.1 ≠ partOfs p) ++ [(partOfs p, flits p)]) ∧
        v.hst.st = .staging
      · rw [if_pos hall, imageWhole_validates (hhst ▸ hall.2)]
        refine ⟨_, congrArg Host.Outcome.next (HeldKept.guarded (hheld.trans (hst.trans (.of_drg rfl))) hn), hans, hparts, hb1,
          fun hnot => absurd hall.1 hnot, fun _ _ => ⟨rfl, rfl, ?_⟩⟩
        show (!w.syn.isOrigin) = true
        rw [ho, horig]
        rfl
      · rw [if_neg hall]
        exact ⟨w, congrArg Host.Outcome.next ((hheld.trans hst).guarded hn), hans, hparts, hb1, fun _ => hhst,
          fun hw hs => absurd ⟨hw, hs⟩ hall⟩
  · rw [exec_report_arrives hz ha hl ho hk]
    generalize openSession u p = v at hheld horig hb hc ⊢
    have hans := answered_sendAck (recordPsn v p none) 32 p 0 0
    have hacc : FabricOnly v (accept v 32 p) := accept_fabricOnly ..
    change Answered (accept v 32 p) p 0 0 at hans
    generalize accept v 32 p = w at hans hacc ⊢
    have hsyn : w.syn = v.syn := by rw [hacc]
    rw [← hsyn] at horig hb hc ⊢
    refine ⟨fun hid => ?_, fun hid => ?_⟩
    · have he : reportTaken w p = w := by
        unfold reportTaken
        rw [if_pos horig, if_neg (by simp [hid])]
      rw [he, (hheld.trans hacc.held).guarded hn]
    · have he : reportTaken w p = takeReport w c.node (natAt p.payload 0 4, bitAt (natAt p.payload 6 1) 0,
          BitVec.ofNat 14 (natAt p.payload 4 2), BitVec.ofNat 8 (natAt p.payload 7 1)) := by
        unfold reportTaken
        rw [if_pos horig, if_pos (by simp [hb, hid]), hnode]
      have hrep : HeldKept w (takeReport w c.node (natAt p.payload 0 4, bitAt (natAt p.payload 6 1) 0,
          BitVec.ofNat 14 (natAt p.payload 4 2), BitVec.ofNat 8 (natAt p.payload 7 1))) := takeReport_held ..
      rw [he, ((hheld.trans hacc.held).trans hrep).guarded hn, takeReport_only horig hb hc hr]
      refine ⟨_, rfl, hans, rfl, ?_, fun hf => if_pos hf⟩
      show (if (decide _ && !_) = true then BState.doneOk else BState.doneFail) = _
      simp only [decided_iff]
  · rw [exec_imageArm_arrives hz ha hl ho hk]
    generalize openSession u p = v at hheld hc hlock hv hid hcount ⊢
    have hans := answered_sendAck (recordPsn v p none) 32 p 0 0
    have hacc : FabricOnly v (accept v 32 p) := accept_fabricOnly ..
    change Answered (accept v 32 p) p 0 0 at hans
    generalize accept v 32 p = w at hans hacc ⊢
    have hsyn : w.syn = v.syn := by rw [hacc]
    have hhst : w.hst = v.hst := by rw [hacc]
    have hclock : w.halyard = v.halyard := by rw [hacc]
    have hlockw : locked w = true := by
      unfold locked at hlock ⊢
      rw [hsyn, hclock]
      exact hlock
    rw [armTaken_leaf (by rw [hsyn, hc]), armAct_arms (by rw [hhst, hv]) (by rw [stagedId, hhst, natAt_word]; exact hid) hlockw
      (by rw [hclock, natAt_word]; exact hcount)]
    refine ⟨_, congrArg Host.Outcome.next (HeldKept.guarded (hheld.trans (hacc.held.trans (.of_drg rfl))) hn), hans, rfl, ?_, rfl⟩
    show (if w.hst.stagedKind = true then LState.arming else LState.armed) = _
    rw [hhst]
  · rw [exec_reportTimeout_of hz]
    exact congrArg Host.Outcome.next (if_neg (by simp [hany]))
  · rw [exec_reportTimeout_of hz]
    have hclock := advanceTo_reaches s hdue
    have hsyn := advanceTo_syn s (s.syn.copiesAt + s.syn.timeoutUs.toNat * bcastStages s * 1000)
    have he : reportTimeout s c.node = takeReport
        (advanceTo s (s.syn.copiesAt + s.syn.timeoutUs.toNat * bcastStages s * 1000)) c.node (0, true, c.node, 0xFE) :=
      if_pos (by simp [hc, hr, hack])
    rw [he]
    generalize advanceTo s _ = w at hclock hsyn ⊢
    rw [← hsyn] at hc horig hb
    rw [takeReport_only horig hb hc hr]
    refine ⟨_, rfl, hclock, if_neg ?_, rfl, rfl⟩
    simp

end Sys2Proof.Machine


/-! ### The host window -/

namespace Sys2Proof.Machine

open Sys2Proof

/-! #### Lines of Bench 1 beyond the frames -/

/-- The 64 bytes at `x` lie beyond the frames, in the host window, in a stack that serves. -/
structure PlainLine (s : State) (x : Nat) : Prop where
  aligned : x % 64 = 0
  beyond : 16 * frameSize ≤ x
  inside : x + 64 ≤ hostWindow
  serves : served s (x / 4096 % 32) = true

theorem readBytes_append (m : Mem) (a n k : Nat) : readBytes m a n ++ readBytes m (a + n) k = readBytes m a (n + k) := by
  unfold readBytes
  rw [List.range_add, List.map_append, List.map_map]
  simp only [Function.comp_def, Nat.add_assoc]

theorem cwBytes_plain {s : State} {x : Nat} (hw : 16 * frameSize ≤ x) (he : x < hostWindow) (hs : served s (x / 4096 % 32) = true) :
    cwBytes s x = readBytes s.bench1 (interleave x) 32 := by
  have hk := interleave_stack (x := x) (by omega)
  unfold cwBytes
  rw [place_plain hw]
  dsimp only
  rw [hk, if_pos hs, ← hk, key_stack_loc]

/-- A line read from a memory without errors: its bytes, and the counters of its controller. -/
theorem b1Get_line {s : State} {x : Nat} (hc : CleanHbm s) (h : PlainLine s x) (r : Req) :
    (b1Get s x 64 r).1 = readBytes s.bench1 (interleave x) 64 ∧ CountOnly s (b1Get s x 64 r).2 := by
  obtain ⟨ha, hw, he, hs⟩ := h
  have hcount := countAccess_countOnly s x 64 false r.ctx
  have hclean := (countAccess_cleanAccess s x 64 false r.ctx).cleanHbm hc
  unfold b1Get
  rw [cwsOf_line ha]
  generalize countAccess s x 64 false r.ctx = t at hcount hclean ⊢
  rw [readCws_clean hclean]
  refine ⟨?_, hcount⟩
  have hserved : ∀ n, served t n = served s n := fun n => by
    rw [hcount]
    rfl
  have hb : t.bench1 = s.bench1 := by rw [hcount]
  have hst : (x + 32) / 4096 % 32 = x / 4096 % 32 := by omega
  dsimp only
  rw [List.flatMap_cons, List.flatMap_singleton, cwBytes_plain hw (by omega) (by rw [hserved, hs]),
    cwBytes_plain (by omega) (by omega) (by rw [hst, hserved, hs]), interleave_second ha, hb, readBytes_append]
  rw [show x % 32 = 0 by omega, List.nil_append, List.drop_zero]
  exact List.take_of_length_le (by simp [readBytes])

/-! #### Reads and writes of the companion -/

theorem hostGet_plain {s : State} {l : Nat} (hc : CleanHbm s) (h : PlainLine s (64 * l)) (hw : windowAt s (64 * l) = none) :
    (hostGet s l).1 = readBytes s.bench1 (interleave (64 * l)) 64 ∧ CountOnly s (hostGet s l).2 := by
  have hget := b1Get_line hc h hostReq
  have he : hostGet s l = b1Get s (64 * l) 64 hostReq := by
    unfold hostGet
    dsimp only
    rw [hw]
    exact if_neg (Nat.not_lt.mpr h.beyond)
  rw [he]
  exact hget

theorem hostPut_plain {s : State} {l : Nat} {d : List Byte} (hl : d.length = 64) (h : PlainLine s (64 * l))
    (hw : windowAt s (64 * l) = none) :
    PutOnly s (hostPut s l d) ∧ (hostPut s l d).bench1 = writeBytes s.bench1 (interleave (64 * l)) d := by
  have hput := b1Put_line h.aligned hl h.beyond h.inside h.serves hostReq
  have he : hostPut s l d = b1Put s (64 * l) d hostReq := by
    unfold hostPut
    rw [hw]
  rw [he]
  exact hput

/-- A line written by the companion while the loader does not hold the staging area. -/
theorem hostWrite_line {s : State} {l : Nat} {d : List Byte} (hl : d.length = 64) (hb : stageBusy s = false) :
    hostWrite s l 1 d = hostPut s l d := by
  have hd : padTo 64 ((d.drop (64 * 0)).take 64) = d := by
    unfold padTo
    rw [Nat.mul_zero, List.drop_zero, List.take_of_length_le (by omega), hl]
    exact List.append_nil d
  unfold hostWrite
  rw [hb, List.range_one]
  dsimp only [List.foldl_cons, List.foldl_nil, Bool.false_and]
  rw [hd]
  rfl

theorem hostGets_line (s : State) (l : Nat) : hostGets s l 1 = hostGet s l := by
  unfold hostGets
  rw [List.range_one]
  rfl

theorem merge_all {old new : List Byte} {mask : Nat → Bool} (ho : old.length = 32) (hn : new.length = 32)
    (hm : (List.range 32).all mask = true) : merge old new mask = new := by
  refine List.ext_getElem (by rw [merge_length, ho, hn]) fun i hi hi' => ?_
  have hlt : i < old.length := by rwa [merge_length] at hi
  have hmask : mask i = true := List.all_eq_true.mp hm i (List.mem_range.mpr (by omega))
  have h := getD_merge (new := new) (mask := mask) hlt
  rwa [if_pos hmask, List.getD_eq_getElem _ _ hi, List.getD_eq_getElem _ _ hi'] at h

/-- A codeword without errors written under a mask. -/
theorem cwModify_clean {s : State} (hc : CleanHbm s) {k : Nat} {d : List Byte} (hl : d.length = 32) (mask : Nat → Bool) (r : Req) :
    PutOnly s (cwModify s (k / stackShift) (k % stackShift) d mask [] r) ∧
      (cwModify s (k / stackShift) (k % stackShift) d mask [] r).bench1 =
        writeBytes s.bench1 k (merge (readBytes s.bench1 k 32) d mask) := by
  unfold cwModify
  split
  · rename_i hall
    rw [cwWrite_bench1, merge_all (by simp [readBytes]) hl hall]
    exact ⟨(show CountOnly s s from rfl).putOnly (cwWrite_storedOnly ..), rfl⟩
  · have hb : CountOnly s (bump s (552 + k / stackShift) 8 1) := by
      rw [CountOnly, bump_facesOnly]
    have hclean := (bump_cleanAccess s (552 + k / stackShift) 8 1).cleanHbm hc
    dsimp only
    generalize bump s (552 + k / stackShift) 8 1 = t at hb hclean ⊢
    have hbytes : t.bench1 = s.bench1 := by rw [hb]
    rw [cwRead_clean hclean, key_stack_loc]
    dsimp only
    rw [cwWrite_bench1, hbytes]
    exact ⟨hb.putOnly (cwWrite_storedOnly ..), rfl⟩

/-- A half-line written under a mask. -/
theorem hostPart_plain {s : State} {x : Nat} {d : List Byte} {mask : Nat → Bool} (hc : CleanHbm s) (hl : d.length = 32)
    (hf : 16 * frameSize ≤ x) (he : x < hostWindow) (hs : served s (x / 4096 % 32) = true) (hw : windowAt s x = none) :
    PutOnly s (hostPart s x d mask) ∧ (hostPart s x d mask).bench1 =
      writeBytes s.bench1 (interleave x) (merge (readBytes s.bench1 (interleave x) 32) d mask) := by
  have hcount := countAccess_countOnly s x 32 true none
  have hclean := (countAccess_cleanAccess s x 32 true none).cleanHbm hc
  have hd : padTo 32 (d.take 32) = d := by
    unfold padTo
    rw [List.take_of_length_le (by omega), hl]
    exact List.append_nil d
  unfold hostPart
  rw [hw, place_plain hf]
  dsimp only
  generalize countAccess s x 32 true none = t at hcount hclean ⊢
  have hserved : served t (interleave x / stackShift) = true := by
    rw [interleave_stack (by omega), ← hs, hcount]
    rfl
  have hb : t.bench1 = s.bench1 := by rw [hcount]
  rw [if_pos hserved, hd]
  obtain ⟨hput, hbytes⟩ := cwModify_clean (k := interleave x) hclean hl mask hostReq
  rw [hb] at hbytes
  refine ⟨?_, hbytes⟩
  unfold CountOnly PutOnly at *
  rw [hput, hcount]

/-! #### Requests -/

section
variable {s : State} {q : HostReq}

theorem hostIn_up (h : linkIsUp s = true) (q : HostReq) : hostIn s q = hostServe s q := if_pos h

theorem hostServe_range (h : reqOk q = false) : hostServe s q = hostRange s q := if_pos (by simp [h])

theorem hostServe_holds (h : reqOk q = true) (hm : mustHold s q = true) : hostServe s q = holdReq s q :=
  (if_neg (by simp [h])).trans (if_pos hm)

theorem hostServe_acts (h : reqOk q = true) (hm : mustHold s q = false) : hostServe s q = hostAct s q :=
  (if_neg (by simp [h])).trans (if_neg (by simp [hm]))

end

/-- A request of the companion for the line at `a`. -/
def lineReq (tag : BitVec 12) (a : BitVec 56) (op : Nat) (d : List Byte) : HostReq :=
  { opcode := BitVec.ofNat 8 op, tag := tag, addr := a, lenM1 := 0, mask := 0, data := d }

/-- A request of the companion for a part of the half-line at `a`. -/
def partReq (tag : BitVec 12) (a : BitVec 56) (mask : BitVec 32) (d : List Byte) : HostReq :=
  { opcode := 0x14, tag := tag, addr := a, lenM1 := 0, mask := mask, data := d }

/-- The opcodes of the requests for a line. -/
def lineOps : List Nat := [0x10, 0x11, 0x12, 0x13]

section
variable (tag : BitVec 12) (a : BitVec 56) (mask : BitVec 32) (d : List Byte) {op : Nat}

theorem lineReq_bytes (h : op ∈ lineOps) : reqBytes (lineReq tag a op d) = 64 := by
  have hall : ∀ op ∈ lineOps, reqBytes (lineReq 0 0 op []) = 64 := by decide
  exact hall op h

theorem lineReq_ok (h : op ∈ lineOps) : reqOk (lineReq tag a op d) = (decide (a.toNat % 64 = 0) && decide (a.toNat + 64 ≤ hostWindow)) := by
  have hall : ∀ op ∈ lineOps, (BitVec.ofNat 8 op : Byte) ≠ 0x14 := by decide
  have hop : (lineReq tag a op d).opcode ≠ 0x14 := hall op h
  unfold reqOk
  rw [if_neg hop, lineReq_bytes tag a d h]
  rfl

theorem partReq_ok : reqOk (partReq tag a mask d) = (decide (a.toNat % 32 = 0) && decide (a.toNat + 32 ≤ hostWindow)) := rfl

theorem lineReq_lines (h : op ∈ lineOps) (ha : a.toNat % 64 = 0) : reqLines (lineReq tag a op d) = [a.toNat / 64] := by
  unfold reqLines
  rw [lineReq_bytes tag a d h]
  exact linesOf_word (x := a.toNat) (by decide) (by omega)

theorem partReq_lines (ha : a.toNat % 32 = 0) : reqLines (partReq tag a mask d) = [a.toNat / 64] :=
  linesOf_word (x := a.toNat) (n := 32) (by decide) (by omega)

end

theorem mustHold_congr (s : State) {q r : HostReq} (h : reqLines q = reqLines r) : mustHold s q = mustHold s r := by
  unfold mustHold
  rw [h]

/-! #### Answers -/

theorem drgSend_drg {s t : State} (h : t.drg = s.drg) (m : DrgMsg) : (drgSend t m).drg = (drgSend s m).drg := by
  unfold drgSend
  dsimp only
  rw [h]

/-- The filter in which the companion holds a line. -/
def grantedFilter (f : List (Nat × Bool)) (l : Nat) (m : Bool) : List (Nat × Bool) :=
  if f.any (fun e => e.1 = l) then f.map (fun e => if e.1 = l then (l, m) else e) else f ++ [(l, m)]

theorem filterPut_eq (s : State) (l : Nat) (m : Bool) :
    filterPut s l m = { s with drg := { s.drg with filter := grantedFilter s.drg.filter l m } } := rfl

theorem CountOnly.drg {s t : State} (h : CountOnly s t) : t.drg = s.drg ∧ t.bench1 = s.bench1 := by
  rw [h]
  exact ⟨rfl, rfl⟩

theorem PutOnly.drg {s t : State} (h : PutOnly s t) : t.drg = s.drg := by rw [h]

/-- A read that grants its line: the answer with the line's bytes. -/
theorem grant_plain {s : State} {q : HostReq} {x l : Nat} (hx : 64 * l = x) (hl : q.addr.toNat / 64 = l) (hc : CleanHbm s)
    (h : PlainLine s x) (hw : windowAt s x = none) (he : needsEvict s l = false) (m : Bool) :
    (grant s q m).bench1 = s.bench1 ∧ (grant s q m).drg =
      (rspTo { s with drg := { s.drg with filter := grantedFilter s.drg.filter l m } } q.tag 0
        (readBytes s.bench1 (interleave x) 64)).drg := by
  subst hx
  obtain ⟨hbytes, hcount⟩ := hostGet_plain hc h hw
  obtain ⟨hdrg, hbench⟩ := hcount.drg
  have hg : grant s q m = rspTo (filterPut (hostGet s l).2 l m) q.tag 0 (hostGet s l).1 := by
    unfold grant
    rw [hl]
    exact if_neg (by simp [he])
  rw [hg, hbytes]
  refine ⟨hbench, drgSend_drg ?_ _⟩
  rw [filterPut_eq, hdrg]

/-- A grant that needs an eviction, with no snoop outstanding: the earliest entry of the set is asked for, the request held. -/
theorem grant_evicts {s : State} {q : HostReq} {l : Nat} (hl : q.addr.toNat / 64 = l) (he : needsEvict s l = true)
    (hs : s.drg.snoops = []) {e : Nat × Bool} {r : List (Nat × Bool)} (hset : setEntries s l = e :: r) (m : Bool) :
    (grant s q m).drg.held = s.drg.held ++ [q] ∧ (grant s q m).drg.snoops = [(s.drg.nextTag, e.1, true)] ∧
      (grant s q m).drg.snpEvicts = inc64 s.drg.snpEvicts 1 ∧ (grant s q m).drg.filter = s.drg.filter := by
  have hnone : ∀ l, s.drg.snoops.any (fun o => decide (o.2.1 = l)) = false := fun l => by rw [hs]; rfl
  have hg : grant s q m = holdReq (evict s l) q := by
    unfold grant
    rw [hl]
    exact if_pos he
  have hev : evict s l = sendSnoop (setDrg s (fun d => { d with snpEvicts := inc64 d.snpEvicts 1 })) (e.1, true) := by
    unfold evict
    rw [hset]
    exact if_neg (by simp [snoopOut, hnone])
  rw [hg, hev]
  unfold sendSnoop
  rw [if_neg (by show ¬ s.drg.snoops.any _ = true; simp [hnone])]
  refine ⟨rfl, ?_, rfl, rfl⟩
  show s.drg.snoops ++ _ = _
  rw [hs]
  rfl

/-- A line of the companion written: the answer, the bytes, and no other byte. -/
theorem hostWrite_plain {s : State} {x l : Nat} {d : List Byte} (hx : 64 * l = x) (hd : d.length = 64) (hb : stageBusy s = false)
    (h : PlainLine s x) (hw : windowAt s x = none) : (hostWrite s l 1 d).drg = s.drg ∧
      readBytes (hostWrite s l 1 d).bench1 (interleave x) 64 = d ∧
      ∀ y, (y < interleave x ∨ interleave x + 64 ≤ y) → mget 0 (hostWrite s l 1 d).bench1 y = mget 0 s.bench1 y := by
  subst hx
  obtain ⟨hput, hbytes⟩ := hostPut_plain hd h hw
  rw [hostWrite_line hd hb, hbytes]
  refine ⟨hput.drg, ?_, fun y hy => mget_writeBytes_out _ _ _ _ (by rwa [hd])⟩
  have hread := readBytes_writeBytes s.bench1 (interleave (64 * l)) d
  rwa [hd] at hread

/-! #### Answers to snoops -/

theorem snoopAnswer_none {s : State} {tag : BitVec 12} (h : s.drg.snoops.find? (fun o => o.1 = tag) = none) (ok : Bool → Bool)
    (f : State → Nat → Bool → State) : snoopAnswer s tag ok f = s := by
  unfold snoopAnswer
  split
  · rfl
  · rw [h]

theorem hostRetry_none {s : State} (h : s.drg.held = []) : hostRetry s = s := by
  unfold hostRetry
  rw [h, List.foldl_nil]
  unfold setDrg
  rw [← h]

/-- The one snoop outstanding answered, when no request is held. -/
theorem snoopAnswer_only {s : State} {tag : BitVec 12} {l : Nat} {inv : Bool} (hup : linkIsUp s = true)
    (hs : s.drg.snoops = [(tag, l, inv)]) {ok : Bool → Bool} (hok : ok inv = true) (f : State → Nat → Bool → State)
    (hf : (f { s with drg := { s.drg with snoops := [] } } l inv).drg.held = []) :
    snoopAnswer s tag ok f = f { s with drg := { s.drg with snoops := [] } } l inv := by
  have hfind : s.drg.snoops.find? (fun o => o.1 = tag) = some (tag, l, inv) := by simp [hs]
  have hdrop : s.drg.snoops.filter (fun x => x.1 ≠ tag) = [] := by simp [hs]
  unfold snoopAnswer
  rw [if_neg (by simp [hup]), hfind]
  dsimp only
  rw [if_pos hok]
  unfold setDrg
  dsimp only
  rw [hdrop]
  exact hostRetry_none hf

section
variable {s : State} (hup : linkIsUp s = true) (tag : BitVec 12) (a : BitVec 56)
include hup

theorem exec_hwRdS_up : exec (.hwRdS tag a) s = .next (hostServe s (lineReq tag a 0x10 [])) :=
  congrArg Host.Outcome.next (hostIn_up hup _)

theorem exec_hwRdM_up : exec (.hwRdM tag a) s = .next (hostServe s (lineReq tag a 0x11 [])) :=
  congrArg Host.Outcome.next (hostIn_up hup _)

theorem exec_hwRdNc_up : exec (.hwRdNc tag a 0) s = .next (hostServe s (lineReq tag a 0x12 [])) :=
  congrArg Host.Outcome.next (hostIn_up hup _)

theorem exec_hwWr_up (d : List Byte) : exec (.hwWr tag a 0 d) s = .next (hostServe s (lineReq tag a 0x13 d)) :=
  congrArg Host.Outcome.next (hostIn_up hup _)

theorem exec_hwWrPart_up (mask : BitVec 32) (d : List Byte) :
    exec (.hwWrPart tag a mask d) s = .next (hostServe s (partReq tag a mask d)) :=
  congrArg Host.Outcome.next (hostIn_up hup _)

theorem exec_hwEvictM_up (d : List Byte) : exec (.hwEvictM tag a d) s = .next (hostEvict s tag a (some d)) :=
  congrArg Host.Outcome.next (if_pos hup)

theorem exec_hwEvictS_up : exec (.hwEvictS tag a) s = .next (hostEvict s tag a none) :=
  congrArg Host.Outcome.next (if_pos hup)

end

/-- The modified line that answers a snoop: written, and then kept shared or not at all. -/
def snpData (d : List Byte) (s : State) (l : Nat) (inv : Bool) : State :=
  if inv then filterDel (hostWrite s l 1 d) l else filterPut (hostWrite s l 1 d) l false

/-- Settles O50: each request is one branch of the service of the window, and its line one line of Bench 1. -/
theorem hostWindow_served : Obligations.HostWindow := by
  unfold Obligations.HostWindow
  intro s tag a lenM1 mask b h hup hclean hneed hb hh
  dsimp only
  have hrange : ∀ {op d}, op ∈ lineOps → a.toNat % 64 ≠ 0 ∨ hostWindow < a.toNat + 64 → reqOk (lineReq tag a op d) = false :=
    fun {op d} hop hbad => by
      rw [lineReq_ok tag a d hop]
      rcases hbad with h | h
      · simp [h]
      · simp [Nat.not_le.mpr h]
  have hok : ∀ {op d}, op ∈ lineOps → a.toNat % 64 = 0 → a.toNat + 64 ≤ hostWindow → reqOk (lineReq tag a op d) = true :=
    fun {op d} hop ha he => by
      rw [lineReq_ok tag a d hop]
      simp [ha, he]
  have hline : ∀ {op d}, op ∈ lineOps → a.toNat % 64 = 0 → mustHold s (lineReq tag a op d) = mustHold s (lineReq tag a 0x10 []) :=
    fun {op d} hop ha => mustHold_congr s (by rw [lineReq_lines tag a d hop ha, lineReq_lines tag a [] (by decide) ha])
  have hheld : ∀ {op d}, op ∈ lineOps → a.toNat % 64 = 0 → 
      (mustHold s (lineReq tag a 0x10 []) = false) = (false = true) → mustHold s (lineReq tag a op d) = true := fun hop ha hf => by
    rw [hline hop ha]
    exact eq_true_of_ne_false fun hno => Bool.false_ne_true (hf ▸ hno)
  have hfreed : ∀ {op d}, op ∈ lineOps → a.toNat % 64 = 0 → mustHold s (lineReq tag a 0x10 []) = false →
      mustHold s (lineReq tag a op d) = false := fun hop ha hf => by
    rw [hline hop ha, hf]
  have hpok : a.toNat % 32 = 0 → a.toNat + 32 ≤ hostWindow → reqOk (partReq tag a mask h) = true := fun ha he => by
    rw [partReq_ok]
    simp [ha, he]
  have hpart : a.toNat % 64 = 0 → mustHold s (lineReq tag a 0x10 []) = mustHold s (partReq tag a mask h) := fun ha =>
    mustHold_congr s (by rw [lineReq_lines tag a [] (by decide) ha, partReq_lines tag a mask h (by omega)])
  have hline64 : a.toNat % 64 = 0 → 64 * (a.toNat / 64) = a.toNat := fun ha => by omega
  refine ⟨fun hbad => ⟨?_, ?_, ?_, ?_, ?_, ?_⟩, fun hbad => ?_, fun ha he hfree => ⟨?_, ?_, ?_, ?_, ?_⟩,
    fun ha ⟨hw, hbe, he, hs, hst⟩ hfree => ⟨fun m hev => ?_, fun e r hev hsn hset => ?_, ?_, ?_⟩,
    fun ha hw hbe he hs hst hm => ?_, fun ha ⟨hw, hbe, he, hs, hst⟩ hout => ⟨?_, ?_⟩, fun hnone => ⟨?_, ?_, ?_⟩,
    fun inv hsn hnoheld => ⟨?_, fun hinv => ?_, fun ha ⟨hw, hbe, he, hs, hst⟩ => ?_⟩⟩
  · rw [exec_hwRdS_up hup, hostServe_range (hrange (by decide) hbad)]
    rfl
  · rw [exec_hwRdM_up hup, hostServe_range (hrange (by decide) hbad)]
    rfl
  · rw [exec_hwRdNc_up hup, hostServe_range (hrange (by decide) hbad)]
    rfl
  · rw [exec_hwWr_up hup, hostServe_range (hrange (by decide) hbad)]
    rfl
  · rw [exec_hwEvictM_up hup]
    exact congrArg Host.Outcome.next (if_pos hbad)
  · rw [exec_hwEvictS_up hup]
    exact congrArg Host.Outcome.next (if_pos hbad)
  · have hno : reqOk (partReq tag a mask h) = false := by
      rw [partReq_ok]
      rcases hbad with h | h
      · simp [h]
      · simp [Nat.not_le.mpr h]
    rw [exec_hwWrPart_up hup, hostServe_range hno]
    rfl
  · rw [exec_hwRdS_up hup, hostServe_holds (hok (by decide) ha he) (hheld (by decide) ha hfree)]
    rfl
  · rw [exec_hwRdM_up hup, hostServe_holds (hok (by decide) ha he) (hheld (by decide) ha hfree)]
    rfl
  · rw [exec_hwRdNc_up hup, hostServe_holds (hok (by decide) ha he) (hheld (by decide) ha hfree)]
    rfl
  · rw [exec_hwWr_up hup, hostServe_holds (hok (by decide) ha he) (hheld (by decide) ha hfree)]
    rfl
  · rw [exec_hwWrPart_up hup, hostServe_holds (hpok (by omega) (by omega)) (hpart (by omega) ▸ hheld (by decide) ha hfree)]
    rfl
  · have hg := grant_plain (q := lineReq tag a (if m then 0x11 else 0x10) []) (hline64 ha) rfl hclean ⟨ha, hbe, he, hs⟩ hw hev m
    cases m with
    | true =>
      rw [if_pos rfl, exec_hwRdM_up hup, hostServe_acts (hok (by decide) ha he) (hfreed (by decide) ha hfree)]
      exact ⟨_, rfl, hg.2, hg.1⟩
    | false =>
      rw [if_neg (by decide), exec_hwRdS_up hup, hostServe_acts (hok (by decide) ha he) hfree]
      exact ⟨_, rfl, hg.2, hg.1⟩
  · obtain ⟨h1, h2, h3, h4⟩ := grant_evicts (q := lineReq tag a 0x10 []) rfl hev hsn hset false
    rw [exec_hwRdS_up hup, hostServe_acts (hok (by decide) ha he) hfree]
    exact ⟨_, rfl, h1, h2, h3, h4⟩
  · obtain ⟨hbytes, hcount⟩ := hostGet_plain (l := a.toNat / 64) hclean (by rw [hline64 ha]; exact ⟨ha, hbe, he, hs⟩)
      (by rw [hline64 ha]; exact hw)
    have hact : hostAct s (lineReq tag a 0x12 []) = rspTo (hostGets s (a.toNat / 64) 1).2 tag 0 (hostGets s (a.toNat / 64) 1).1 := rfl
    rw [exec_hwRdNc_up hup, hostServe_acts (hok (by decide) ha he) (hfreed (by decide) ha hfree), hact, hostGets_line,
      hbytes, hline64 ha]
    exact ⟨_, rfl, drgSend_drg hcount.drg.1 _, hcount.drg.2⟩
  · obtain ⟨hdrg, hbytes, hframe⟩ := hostWrite_plain (hline64 ha) hb hst ⟨ha, hbe, he, hs⟩ hw
    have hact : hostAct s (lineReq tag a 0x13 b) = cmpTo (hostWrite s (a.toNat / 64) 1 b) tag 0 := rfl
    rw [exec_hwWr_up hup, hostServe_acts (hok (by decide) ha he) (hfreed (by decide) ha hfree), hact]
    exact ⟨_, rfl, drgSend_drg hdrg _, hbytes, hframe⟩
  · obtain ⟨hput, hbytes⟩ := hostPart_plain (mask := fun i => mask.getLsbD i) hclean hh hbe (by omega) hs hw
    have hact : hostAct s (partReq tag a mask h) = cmpTo (hostPart s a.toNat h (fun i => mask.getLsbD i)) tag 0 :=
      if_neg (by simp [hst])
    have hread := readBytes_writeBytes s.bench1 (interleave a.toNat)
      (merge (readBytes s.bench1 (interleave a.toNat) 32) h (fun i => mask.getLsbD i))
    have hlen : (merge (readBytes s.bench1 (interleave a.toNat) 32) h (fun i => mask.getLsbD i)).length = 32 := by
      rw [merge_length]
      simp [readBytes]
    rw [exec_hwWrPart_up hup, hostServe_acts (hpok ha he) hm, hact]
    rw [← hbytes, hlen] at hread
    refine ⟨_, rfl, drgSend_drg hput.drg _, hread, fun y hy => ?_⟩
    show mget 0 (hostPart _ _ _ _).bench1 y = _
    rw [hbytes]
    exact mget_writeBytes_out _ _ _ _ (by rwa [hlen])
  · obtain ⟨hdrg, hbytes, -⟩ := hostWrite_plain (hline64 ha) hb hst ⟨ha, hbe, he, hs⟩ hw
    have hev : hostEvict s tag a (some b) = cmpTo (filterDel (hostWrite s (a.toNat / 64) 1 b) (a.toNat / 64)) tag 0 := by
      unfold hostEvict
      dsimp only
      rw [if_neg (by omega), if_neg]
      unfold snoopOut at hout ⊢
      rw [hdrg, hout]
      decide
    rw [exec_hwEvictM_up hup, hev]
    refine ⟨_, rfl, drgSend_drg ?_ _, hbytes⟩
    unfold filterDel setDrg
    dsimp only
    rw [hdrg]
  · have hev : hostEvict s tag a none = cmpTo (filterDel s (a.toNat / 64)) tag 0 := by
      unfold hostEvict
      dsimp only
      rw [if_neg (by omega), if_neg (by simp [hout])]
    rw [exec_hwEvictS_up hup, hev]
    rfl
  · exact congrArg Host.Outcome.next (snoopAnswer_none hnone _ _)
  · exact congrArg Host.Outcome.next (snoopAnswer_none hnone _ _)
  · exact congrArg Host.Outcome.next (snoopAnswer_none hnone _ _)
  · exact congrArg Host.Outcome.next ((snoopAnswer_only hup hsn rfl _ hnoheld).trans rfl)
  · exact congrArg Host.Outcome.next ((snoopAnswer_only hup hsn (by rw [hinv]; rfl) _ hnoheld).trans rfl)
  · obtain ⟨hdrg, hbytes, -⟩ := hostWrite_plain (s := { s with drg := { s.drg with snoops := [] } }) (hline64 ha) hb hst
      ⟨ha, hbe, he, hs⟩ hw
    have hstep := snoopAnswer_only (ok := fun _ => true) hup hsn rfl (snpData b)
    unfold snpData at hstep
    dsimp only at hstep
    generalize hostWrite _ _ _ _ = w at hdrg hbytes hstep
    have hdel : (filterDel w (a.toNat / 64)).drg = { s.drg with
        snoops := []
        filter := s.drg.filter.filter (fun e => e.1 ≠ a.toNat / 64) } := by
      unfold filterDel setDrg
      dsimp only
      rw [hdrg]
    have hput : (filterPut w (a.toNat / 64) false).drg = { s.drg with
        snoops := []
        filter := grantedFilter s.drg.filter (a.toNat / 64) false } := by
      rw [filterPut_eq, hdrg]
    cases inv with
    | true => exact ⟨_, congrArg Host.Outcome.next (hstep (by rw [if_pos rfl, hdel]; exact hnoheld)), hbytes, hdel⟩
    | false => exact ⟨_, congrArg Host.Outcome.next (hstep (by rw [if_neg (by decide), hput]; exact hnoheld)), hbytes, hput⟩

end Sys2Proof.Machine


/-! ### Registers of the control window -/

namespace Sys2Proof.Machine

open Sys2Proof

/-! #### Fields of a word -/

theorem fld_toNat (w v lo : Nat) : (fld w v lo).toNat = v / 2 ^ lo % 2 ^ w := BitVec.toNat_ofNat ..

theorem fld_whole (v : W64) : (fld 64 v.toNat 0).toNat = v.toNat := by
  have := v.isLt
  rw [fld_toNat]
  omega

theorem word_two (a b i j : Nat) : word [(a, i), (b, j)] = a * 2 ^ i + b * 2 ^ j := by simp [word]

/-- Two neighbouring fields make one. -/
theorem fld_join (v w lo u : Nat) :
    (fld w v lo).toNat * 2 ^ lo + (fld u v (lo + w)).toNat * 2 ^ (lo + w) = v / 2 ^ lo % 2 ^ (w + u) * 2 ^ lo := by
  rw [fld_toNat, fld_toNat, Nat.pow_add, Nat.pow_add, ← Nat.div_div_eq_div_mul, Nat.mod_mul]
  ring

theorem b2n_bitAt_zero (v : Nat) : b2n (bitAt v 0) = v / 2 ^ 0 % 2 ^ 1 * 2 ^ 0 := by
  unfold bitAt b2n
  rw [Nat.pow_zero, Nat.mul_one, Nat.pow_one]
  have h := Nat.mod_two_eq_zero_or_one (v / 1)
  rcases h with h | h
  · rw [h]
    rfl
  · rw [h]
    rfl

/-! #### Writes that reach a register -/

/-- The register at an offset is reached by a write. -/
def reached (s : State) (burgee : Bool) (o : Nat) : Bool :=
  if burgee then s.pins.vaon && burgeeReach o && !unpowered s o else linkIsUp s

theorem registerWrite_reached {s : State} {burgee : Bool} {o : Nat} (h : reached s burgee o = true) (h8 : o % 8 = 0) (v : Nat) :
    registerWrite s burgee o v = writeReg s burgee o v := by
  unfold reached at h
  unfold registerWrite
  cases burgee with
  | true => exact (if_pos rfl).trans (if_pos h)
  | false => exact (if_neg (by decide)).trans (if_pos (by rw [show linkIsUp s = true from h]; simp [h8]))

theorem registerWrite_unreached {s : State} {burgee : Bool} {o : Nat} (h : reached s burgee o = false) (v : Nat) :
    registerWrite s burgee o v = s := by
  unfold reached at h
  unfold registerWrite
  cases burgee with
  | true => exact (if_pos rfl).trans (if_neg (ne_true_of_eq_false h))
  | false => exact (if_neg (by decide)).trans (if_neg (by rw [show linkIsUp s = false from h]; simp))

/-- A write that reaches its register, and what the register reads then. -/
theorem registerWrite_reads {s : State} {burgee : Bool} {o : Nat} {v : W64} (h : reached s burgee o = true) (h28 : o < 2 ^ 28)
    (h8 : o % 8 = 0) {x : Nat} (hx : regValue (writeReg s burgee o v.toNat) o = x) :
    ∃ t, exec (.registerWrite burgee (BitVec.ofNat 28 o) v) s = .next t ∧ regValue t o = x := by
  have ho : (BitVec.ofNat 28 o).toNat = o := (BitVec.toNat_ofNat ..).trans (Nat.mod_eq_of_lt h28)
  refine ⟨_, congrArg Host.Outcome.next ?_, hx⟩
  rw [ho, registerWrite_reached h h8]

/-- A register that takes nothing of a write. -/
theorem registerWrite_keeps {s : State} {burgee : Bool} {o : Nat} {v : W64} (h : reached s burgee o = true) (h28 : o < 2 ^ 28)
    (h8 : o % 8 = 0) (hs : writeReg s burgee o v.toNat = s) :
    ∃ t, exec (.registerWrite burgee (BitVec.ofNat 28 o) v) s = .next t ∧ regValue t o = regValue s o :=
  registerWrite_reads h h28 h8 (by rw [hs])

/-- Settles O58: the write of each register sets the fields that its read puts together. -/
theorem registerWritesReadBack : Obligations.RegisterWritesReadBack := by
  unfold Obligations.RegisterWritesReadBack
  intro s burgee v
  dsimp only
  refine ⟨fun o h => congrArg Host.Outcome.next (registerWrite_unreached h _), fun o _ h => ⟨fun ho => ?_, fun ho => ?_,
    fun ho => ?_, fun ho => ?_, fun ho => ?_, fun ho => ?_, fun ho => ?_⟩, fun hb hup => ?_⟩
  · have h : reached s burgee o = true := h
    simp only [List.mem_cons, List.not_mem_nil, or_false] at ho
    rcases ho with rfl | rfl | rfl
    · exact registerWrite_reads h (by decide) (by decide) (fld_whole v)
    · exact registerWrite_reads h (by decide) (by decide) (fld_whole v)
    · exact registerWrite_reads h (by decide) (by decide) (fld_whole v)
  · have h : reached s burgee o = true := h
    have hjoin : word [((fld 48 v.toNat 0).toNat, 0), ((fld 5 v.toNat 48).toNat, 48)] = v.toNat / 2 ^ 0 % 2 ^ 53 * 2 ^ 0 := by
      rw [word_two]
      exact fld_join v.toNat 48 0 5
    simp only [List.mem_cons, List.not_mem_nil, or_false] at ho
    rcases ho with rfl | rfl
    · exact registerWrite_reads h (by decide) (by decide) hjoin
    · exact registerWrite_reads h (by decide) (by decide) hjoin
  · have h : reached s burgee o = true := h
    subst ho
    exact registerWrite_reads h (by decide) (by decide) ((fld_toNat 5 v.toNat 0).trans (Nat.mul_one _).symm)
  · have h : reached s burgee o = true := h
    subst ho
    refine registerWrite_reads h (by decide) (by decide) ((word_two _ _ 0 8).trans ?_)
    exact fld_join v.toNat 8 0 8
  · have h : reached s burgee o = true := h
    subst ho
    refine registerWrite_reads h (by decide) (by decide) ((word_two _ _ 0 32).trans ?_)
    rw [← fld_toNat, ← fld_toNat]
    rfl
  · have h : reached s burgee o = true := h
    subst ho
    refine registerWrite_reads h (by decide) (by decide) ((word_three _ _ _ 0 4 16).trans ?_)
    rw [← fld_toNat 32]
    exact congrArg (· + _) (fld_join v.toNat 4 0 9)
  · have h : reached s burgee o = true := h
    simp only [List.mem_cons, List.not_mem_nil, or_false] at ho
    rcases ho with rfl | rfl | rfl | rfl | rfl | rfl | rfl
    · exact registerWrite_keeps h (by decide) (by decide) rfl
    · exact registerWrite_keeps h (by decide) (by decide) rfl
    · exact registerWrite_keeps h (by decide) (by decide) rfl
    · exact registerWrite_keeps h (by decide) (by decide) rfl
    · exact registerWrite_keeps h (by decide) (by decide) rfl
    · exact registerWrite_keeps h (by decide) (by decide) rfl
    · exact registerWrite_keeps h (by decide) (by decide) rfl
  · subst hb
    have h : ∀ o, reached s false o = true := fun _ => hup
    refine ⟨fun o ho => ?_, fun o ho => ?_, ?_, ?_, ?_, fun o ho => ?_⟩
    · simp only [List.mem_cons, List.not_mem_nil, or_false] at ho
      rcases ho with rfl | rfl
      · exact registerWrite_reads (h _) (by decide) (by decide) (fld_whole v)
      · exact registerWrite_reads (h _) (by decide) (by decide) (fld_whole v)
    · have hlow : (fld 32 v.toNat 0).toNat = v.toNat / 2 ^ 0 % 2 ^ 32 * 2 ^ 0 := (fld_toNat ..).trans (Nat.mul_one _).symm
      simp only [List.mem_cons, List.not_mem_nil, or_false] at ho
      rcases ho with rfl | rfl | rfl
      · exact registerWrite_reads (h _) (by decide) (by decide) hlow
      · exact registerWrite_reads (h _) (by decide) (by decide) hlow
      · exact registerWrite_reads (h _) (by decide) (by decide) ((word_two _ _ 0 16).trans (fld_join v.toNat 16 0 16))
    · exact registerWrite_reads (h _) (by decide) (by decide) ((word_two _ _ 0 4).trans (fld_join v.toNat 4 0 16))
    · refine registerWrite_reads (h _) (by decide) (by decide) ((word_two _ _ 0 16).trans ?_)
      rw [← fld_toNat, ← fld_toNat]
      rfl
    · exact registerWrite_reads (h _) (by decide) (by decide) (b2n_bitAt_zero v.toNat)
    · simp only [List.mem_cons, List.not_mem_nil, or_false] at ho
      rcases ho with rfl | rfl | rfl | rfl
      · exact registerWrite_keeps (h _) (by decide) (by decide) rfl
      · exact registerWrite_keeps (h _) (by decide) (by decide) rfl
      · exact registerWrite_keeps (h _) (by decide) (by decide) rfl
      · exact registerWrite_keeps (h _) (by decide) (by decide) rfl

end Sys2Proof.Machine


/-! ### A mismatch that ends its context -/

namespace Sys2Proof.Machine

open Sys2Proof

/-- An all-reduce of group 0 that a member on core 0 has posted, its completion counted in count 2. -/
def postedReduce : CDesc :=
  { group := 0, kind := 0, rop := 0, fmt := 1, var_ := false, empty := false, sparse := false, zcomp := false, cnt := 2
    stagePool := 0, cseq := 3, core := 0, srcAddr := 0, dstAddr := 16, statusAddr := 32, len := 64, arg := 1, granules := 0
    ctx := 0, step := 0 }

/-- The member of rank 0. -/
def reduceMem : CMem := ⟨0, postedReduce, false, 0, [], [], false⟩

/-- Its operation, which awaits the verdict. -/
def reduceOp : COp := { group := 0, cseq := 3, ctx := 0, mems := [reduceMem] }

/-- Core 0 waits for count 2 with the last instruction of its program; engine 0 has the operation in progress. -/
def lastWait : State :=
  { State.reset with
    hst := { State.reset.hst with activeId := 1 }
    pwr := { State.reset.pwr with stage := .ready }
    tab := { State.reset.tab with
      programs := [(3, [0])]
      members := [⟨1, 1, 0, 0⟩, ⟨1, 1, 0, 5⟩]
      groups := [⟨0, 1, 1, 4, 0⟩] }
    ctxs := [(0, { st := .running, bind := [(0, 0)] })]
    faces := [(0, { st := .waiting, owner := some 0 })]
    cores := [(0, { prog := 3, gang := 1, ended := false, wait := .count 2 1 false })]
    colls := [(0, { ops := [reduceOp] })] }

/-- A VERDICT of MISMATCH for that operation, from node 5. -/
def mismatch : Packet :=
  withCrc { pkt0 with
    src := 5
    vc := 2
    op := 9
    w4 := BitVec.ofNat 64 (collW4 0 3 1 0)
    w5 := BitVec.ofNat 64 (collW5 0 true false 0 0) }

/-- The state in which it is delivered. -/
def mismatchIn : State := (takeDelivery lastWait mismatch).getD lastWait

theorem mismatch_delivered : takeDelivery lastWait mismatch = some mismatchIn := by
  have h : (takeDelivery lastWait mismatch).isSome = true := by decide +kernel
  obtain ⟨u, hu⟩ := Option.isSome_iff_exists.mp h
  unfold mismatchIn
  rw [hu, Option.getD_some]

theorem mismatch_arrives : Arrives lastWait mismatch mismatchIn :=
  ⟨by decide +kernel, mismatch_delivered, by decide +kernel, by decide +kernel⟩

/-- The operations that engine 0 has completed after the VERDICT. -/
def opsAfterMismatch : Option W64 := match exec (.verdict mismatch) lastWait with
  | .next t => some (getColl t 0).opsDone
  | _ => none

/-- Refutes O42: the completion record counts in count 2, and core 0, which waits for it with the last instruction of its program,
moves past the end and faults with PROG_END. That tears the context down and its operation is gone, before the engine counts it as
completed. -/
theorem not_collectivesStart : ¬ Obligations.CollectivesStart := by
  unfold Obligations.CollectivesStart
  intro h
  have hn : NoHeldLines lastWait := ⟨rfl, rfl⟩
  obtain ⟨-, -, hpackets⟩ := h lastWait mismatchIn mismatch 0 0 (by decide +kernel) hn
  obtain ⟨-, -, -, -, hmis, -⟩ := hpackets (by decide +kernel) (by decide +kernel) mismatch_arrives
  obtain ⟨t, ht, -, hdone, -⟩ := hmis 0 reduceOp reduceMem ⟨by decide +kernel, by decide +kernel⟩ (by decide +kernel)
    (by decide +kernel) (by decide +kernel) rfl rfl rfl rfl
  have hbefore : (getColl (accept (openSession mismatchIn mismatch) 0 mismatch) 0).opsDone = 0 := by decide +kernel
  have hafter : opsAfterMismatch = some 0 := by decide +kernel
  unfold opsAfterMismatch at hafter
  rw [ht] at hafter
  have hzero : (getColl t 0).opsDone = 0 := Option.some.inj hafter
  rw [hbefore, hzero] at hdone
  exact absurd hdone (by decide)

end Sys2Proof.Machine


/-! ### A result for a context that is being saved -/

namespace Sys2Proof.Machine

open Sys2Proof

/-- An all-reduce of 16 bytes that a member of context 1 has posted. -/
def savedReduce : CDesc := { postedReduce with ctx := 1, len := 16 }

/-- The member of rank 0. -/
def savedMem : CMem := ⟨0, savedReduce, false, 0, [], [], false⟩

/-- Its operation, which awaits the verdict. -/
def savedOp : COp := { group := 0, cseq := 3, ctx := 1, mems := [savedMem] }

/-- The place in HBM of the codeword that keeps the output in the frame of context 1. -/
def poisonedWord : Nat := 50332672

theorem place_recordOfs : place [] (recordOfs 1 0 (64 * savedReduce.dstAddr)) = some poisonedWord := by decide +kernel

/-- Context 1 is being saved, and the codeword of its frame that keeps the output has more errors than the burst code corrects;
context 0 runs. -/
def poisonedSave : State :=
  { lastWait with
    ctxs := [(0, { st := .running, bind := [(0, 0)] }), (1, { st := .saving, bind := [(0, 1)] })]
    hbms := [(0, { st := .service })]
    chk := (List.range 4).map (fun i => (4 * poisonedWord + i, 1))
    colls := [(0, { ops := [savedOp] })] }

/-- The RESULT of that operation's one chunk, in a packet that names context 0. -/
def strayResult : Packet :=
  withCrc { pkt0 with
    src := 5
    vc := 3
    op := 9
    w4 := BitVec.ofNat 64 (collW4 0 3 3 0)
    w5 := BitVec.ofNat 64 (collW5 0 false false 1 0) }

/-- The state in which it is delivered. -/
def strayIn : State := (takeDelivery poisonedSave strayResult).getD poisonedSave

theorem strayResult_delivered : takeDelivery poisonedSave strayResult = some strayIn := by
  have h : (takeDelivery poisonedSave strayResult).isSome = true := by decide +kernel
  obtain ⟨u, hu⟩ := Option.isSome_iff_exists.mp h
  unfold strayIn
  rw [hu, Option.getD_some]

theorem strayResult_arrives : Arrives poisonedSave strayResult strayIn :=
  ⟨by decide +kernel, strayResult_delivered, by decide +kernel, by decide +kernel⟩

/-- The operation at engine 0 after the RESULT. -/
def opAfterResult : Option COp := match exec (.collectiveResult strayResult) poisonedSave with
  | .next t => findCop t 0 0 3
  | _ => none

/-- Refutes O43: nothing in the statement ties the operation's context to the packet's. The operation found belongs to context 1,
which is being saved, so the result is also written into its frame in Bench 1. The codeword there is uncorrectable, which tears context
1 down; its operation is gone and no member has ticked the chunk off. -/
theorem not_collectiveValues : ¬ Obligations.CollectiveValues := by
  unfold Obligations.CollectiveValues
  intro h
  have hn : NoHeldLines poisonedSave := ⟨rfl, rfl⟩
  obtain ⟨-, -, hops⟩ := h poisonedSave strayIn strayResult true (by decide +kernel) hn (by decide +kernel) (by decide +kernel)
    strayResult_arrives (by decide +kernel) (by decide +kernel) (by decide +kernel) (by decide +kernel) (by decide +kernel)
    (by decide +kernel)
  obtain ⟨-, -, -, hmembers⟩ := hops 0 savedOp (by decide +kernel)
  obtain ⟨-, hresult, -⟩ := hmembers savedMem rfl rfl
  obtain ⟨t, ⟨-, hexec⟩, hop, -⟩ := hresult rfl (by decide +kernel) (by decide +kernel) (by decide +kernel)
  have ht : exec (.collectiveResult strayResult) poisonedSave = .next t := hexec (by decide)
  have hgone : opAfterResult = none := by decide +kernel
  unfold opAfterResult at hgone
  rw [ht] at hgone
  have hnone : findCop t 0 0 3 = none := hgone
  have hfld : (collFld strayResult).group = 0 ∧ (collFld strayResult).cseq = 3 := by decide +kernel
  rw [hfld.1, hfld.2, hnone] at hop
  exact absurd hop (by simp)

end Sys2Proof.Machine

namespace Sys2Proof.Machine

/-! ### The canonical form of the maps: how to prove it of a state (MapsOk) -/

/-- `MapsOk` of a state written out: one condition for each memory and table. -/
@[simp] theorem mapsOk_mk {pending free ns halyard fuses pins aon dev pwr syn dbg hst tab tick ctab ctxs buckets faces gangs cores
    saved riddles rdl tramways tir bpm bench1 chk hbms yard adits fab lines colls cgroups drg evt} :
    MapsOk ⟨pending, free, ns, halyard, fuses, pins, aon, dev, pwr, syn, dbg, hst, tab, tick, ctab, ctxs, buckets, faces, gangs,
      cores, saved, riddles, rdl, tramways, tir, bpm, bench1, chk, hbms, yard, adits, fab, lines, colls, cgroups, drg, evt⟩ ↔
    (mwf 0 bench1 = true ∧ mwf 0 chk = true) ∧ mwf {} ctxs = true ∧ mwf {} faces = true ∧ mwf {} gangs = true ∧
    mwf {} cores = true ∧ mwf {} riddles = true ∧ mwf {} tramways = true ∧ mwf {} hbms = true ∧ mwf {} adits = true ∧
    mwf {} colls = true ∧ mwf {} cgroups = true ∧ mwf {} buckets = true ∧ mwf {} bpm.pools = true := Iff.rfl

/-! Each table of a state that meets `MapsOk`, whatever form the default has been brought to. -/

section
variable {s : State} (h : MapsOk s)
include h

@[simp] theorem MapsOk.bench1 {d : Byte} (hd : d = 0) : mwf d s.bench1 = true := hd ▸ h.1.1
@[simp] theorem MapsOk.chk {d : Byte} (hd : d = 0) : mwf d s.chk = true := hd ▸ h.1.2
@[simp] theorem MapsOk.ctxs {d : Ctx} (hd : d = {}) : mwf d s.ctxs = true := hd ▸ h.2.1
@[simp] theorem MapsOk.faces {d : Face} (hd : d = {}) : mwf d s.faces = true := hd ▸ h.2.2.1
@[simp] theorem MapsOk.gangs {d : GangFace} (hd : d = {}) : mwf d s.gangs = true := hd ▸ h.2.2.2.1
@[simp] theorem MapsOk.cores {d : Core} (hd : d = {}) : mwf d s.cores = true := hd ▸ h.2.2.2.2.1
@[simp] theorem MapsOk.riddles {d : Riddle} (hd : d = {}) : mwf d s.riddles = true := hd ▸ h.2.2.2.2.2.1
@[simp] theorem MapsOk.tramways {d : Tramway} (hd : d = {}) : mwf d s.tramways = true := hd ▸ h.2.2.2.2.2.2.1
@[simp] theorem MapsOk.hbms {d : Hbm} (hd : d = {}) : mwf d s.hbms = true := hd ▸ h.2.2.2.2.2.2.2.1
@[simp] theorem MapsOk.adits {d : Adit} (hd : d = {}) : mwf d s.adits = true := hd ▸ h.2.2.2.2.2.2.2.2.1
@[simp] theorem MapsOk.colls {d : Coll} (hd : d = {}) : mwf d s.colls = true := hd ▸ h.2.2.2.2.2.2.2.2.2.1
@[simp] theorem MapsOk.cgroups {d : CGroup} (hd : d = {}) : mwf d s.cgroups = true := hd ▸ h.2.2.2.2.2.2.2.2.2.2.1
@[simp] theorem MapsOk.buckets {d : Bucket} (hd : d = {}) : mwf d s.buckets = true := hd ▸ h.2.2.2.2.2.2.2.2.2.2.2.1
@[simp] theorem MapsOk.pools {d : Pool} (hd : d = {}) : mwf d s.bpm.pools = true := hd ▸ h.2.2.2.2.2.2.2.2.2.2.2.2

end

section
variable {α : Type} [DecidableEq α] (d : α) {m : SMap α} (hm : mwf d m = true)

@[simp] theorem mwf_empty : mwf d ([] : SMap α) = true := rfl

include hm
@[simp] theorem mwf_put (k : Nat) (v : α) : mwf d (mput d m k v) = true := mwf_mput d m k v hm
@[simp] theorem mwf_clear (p : Nat → Bool) : mwf d (mclear m p) = true := mwf_mclear d m p hm
@[simp] theorem mwf_map (f : Nat → α → α) : mwf d (mmap d f m) = true := mwf_mmap d f m hm

end

@[simp] theorem mwf_bytes {d : Byte} (hd : d = 0) {m : Mem} (hm : mwf d m = true) (a : Nat) (bs : List Byte) :
    mwf d (writeBytes m a bs) = true := by
  subst hd
  exact wf_writeBytes m a bs hm

/-- A fold over a table keeps its canonical form when each step does. -/
theorem mwf_foldl {α β : Type} [DecidableEq α] {d : α} {f : SMap α → β → SMap α}
    (hf : ∀ m b, mwf d m = true → mwf d (f m b) = true) (l : List β) {m : SMap α} (hm : mwf d m = true) :
    mwf d (l.foldl f m) = true := by
  induction l generalizing m with
  | nil => exact hm
  | cons b l ih => exact ih (hf m b hm)

/-- A table listed by rising keys, without defaults, is in canonical form. -/
theorem mwfFrom_range {α : Type} [DecidableEq α] (d : α) (g : Nat → Option (Nat × α))
    (hg : ∀ u e, g u = some e → e.1 = u ∧ e.2 ≠ d) (lo n : Nat) : mwfFrom d lo ((List.range' lo n).filterMap g) = true := by
  induction n generalizing lo with
  | zero => rfl
  | succ n ih =>
    have hr := ih (lo + 1)
    rw [List.range'_succ, List.filterMap_cons]
    split
    · exact mwfFrom_mono d _ (lo + 1) lo (by omega) hr
    next e he =>
      obtain ⟨u, v⟩ := e
      obtain ⟨rfl, hv⟩ := hg _ _ he
      simp only [mwfFrom, Bool.and_eq_true, decide_eq_true_eq]
      exact ⟨⟨le_refl _, hv⟩, hr⟩

@[simp] theorem mapsOk_ite {c : Prop} [Decidable c] {s t : State} :
    MapsOk (if c then s else t) ↔ (c → MapsOk s) ∧ (¬ c → MapsOk t) := by
  split <;> simp [*]

/-- A change of anything but the memories and tables keeps them. -/
theorem mapsOk_update {s : State} (h : MapsOk s) {pending free ns halyard fuses pins aon dev pwr syn dbg hst tab tick ctab
saved rdl tir yard fab lines drg evt} :
    MapsOk ⟨pending, free, ns, halyard, fuses, pins, aon, dev, pwr, syn, dbg, hst, tab, tick, ctab, s.ctxs, s.buckets,
    s.faces, s.gangs, s.cores, saved, s.riddles, rdl, s.tramways, tir, s.bpm, s.bench1, s.chk, s.hbms, yard, s.adits, fab,
    lines, s.colls, s.cgroups, drg, evt⟩ := h

/-- The same, with the registers of the buffer pools changed. -/
theorem mapsOk_updateBpm {s : State} (h : MapsOk s) {pending free ns halyard fuses pins aon dev pwr syn dbg hst tab tick
ctab saved rdl tir bpm yard fab lines drg evt} (hb : bpm.pools = s.bpm.pools) :
    MapsOk ⟨pending, free, ns, halyard, fuses, pins, aon, dev, pwr, syn, dbg, hst, tab, tick, ctab, s.ctxs, s.buckets,
    s.faces, s.gangs, s.cores, saved, s.riddles, rdl, s.tramways, tir, bpm, s.bench1, s.chk, s.hbms, yard, s.adits, fab,
    lines, s.colls, s.cgroups, drg, evt⟩ :=
  mapsOk_mk.mpr (hb ▸ h)

/-- The same, with the buffer pools replaced. -/
theorem mapsOk_updatePools {s : State} (h : MapsOk s) {pending free ns halyard fuses pins aon dev pwr syn dbg hst tab tick
ctab saved rdl tir bpm yard fab lines drg evt} (hb : mwf {} bpm.pools = true) :
    MapsOk ⟨pending, free, ns, halyard, fuses, pins, aon, dev, pwr, syn, dbg, hst, tab, tick, ctab, s.ctxs, s.buckets,
    s.faces, s.gangs, s.cores, saved, s.riddles, rdl, s.tramways, tir, bpm, s.bench1, s.chk, s.hbms, yard, s.adits, fab,
    lines, s.colls, s.cgroups, drg, evt⟩ :=
  mapsOk_mk.mpr ⟨h.1, h.ctxs rfl, h.faces rfl, h.gangs rfl, h.cores rfl, h.riddles rfl, h.tramways rfl, h.hbms rfl, h.adits rfl,
    h.colls rfl, h.cgroups rfl, h.buckets rfl, hb⟩

theorem mapsOk_getD {o : Option State} {s : State} (ho : ∀ t ∈ o, MapsOk t) (h : MapsOk s) : MapsOk (o.getD s) := by
  cases o with
  | none => exact h
  | some t => exact ho t rfl

/-- A fold keeps what each of its steps keeps. -/
theorem mapsOk_foldl {β : Type} {f : State → β → State} (hf : ∀ s b, MapsOk s → MapsOk (f s b)) (l : List β) {s : State}
    (h : MapsOk s) : MapsOk (l.foldl f s) := by
  induction l generalizing s with
  | nil => exact h
  | cons b l ih => exact ih (hf s b h)

/-- A fold whose state travels with another value. -/
theorem mapsOk_foldl_snd {β γ : Type} {f : γ × State → β → γ × State} (hf : ∀ a b, MapsOk a.2 → MapsOk (f a b).2) (l : List β)
    {a : γ × State} (h : MapsOk a.2) : MapsOk (l.foldl f a).2 := by
  induction l generalizing a with
  | nil => exact h
  | cons b l ih => exact ih (hf a b h)

/-- A fold whose state travels with two other values. -/
theorem mapsOk_foldl_trd {β γ δ : Type} {f : γ × δ × State → β → γ × δ × State}
    (hf : ∀ a b, MapsOk a.2.2 → MapsOk (f a b).2.2) (l : List β) {a : γ × δ × State} (h : MapsOk a.2.2) :
    MapsOk (l.foldl f a).2.2 := by
  induction l generalizing a with
  | nil => exact h
  | cons b l ih => exact ih (hf a b h)

/-! A state that a case split names as a part of a result. -/

section
variable {α : Type} {a : α} {t : State}

theorem mapsOk_of_pair {x : α × State} (e : x = (a, t)) (h : MapsOk x.2) : MapsOk t := by
  rw [e] at h
  exact h

theorem mapsOk_of_some {o : Option State} (e : o = some t) (h : ∀ u ∈ o, MapsOk u) : MapsOk t := h t e

theorem mapsOk_of_some_pair {o : Option (α × State)} (e : o = some (a, t)) (h : ∀ u ∈ o, MapsOk u.2) : MapsOk t := h (a, t) e

theorem mapsOk_mem_some (h : MapsOk t) : ∀ u ∈ some t, MapsOk u := by
  rintro u ⟨⟩
  exact h

theorem mapsOk_mem_none : ∀ u ∈ (none : Option State), MapsOk u := by
  rintro u ⟨⟩

end

/-! ### The functions of the model keep the maps in canonical form, in the order of their definitions

One lemma for each function of the model that changes the state. Where a definition branches, its lemma walks the branches:
what it lists are the lemmas on the functions that the definition calls. -/

/-! Flags -/

@[simp] theorem mapsOk_setAlert {s : State} (bit : Nat) (h : MapsOk s) :
    MapsOk (setAlert s bit) := by
  simp [setAlert, h]

@[simp] theorem mapsOk_requestDip {s : State} (src : Nat) (h : MapsOk s) :
    MapsOk (requestDip s src) := by
  simp [requestDip, h]

@[simp] theorem mapsOk_trigger {s : State} (bit : Nat) (h : MapsOk s) :
    MapsOk (trigger s bit) := by
  simp [trigger, h]

@[simp] theorem mapsOk_drgSend {s : State} (m : DrgMsg) (h : MapsOk s) :
    MapsOk (drgSend s m) := by
  simp [drgSend, h]

@[simp] theorem mapsOk_drgRequest {s : State} (opcode : Nat) (addr : Nat) (mask : Nat) (data : List Byte) (what : CmReq) (h : MapsOk s) :
    MapsOk (drgRequest s opcode addr mask data what) := by
  simp [drgRequest, h]

@[simp] theorem mapsOk_evtWrite {s : State} (e : EvRec) (h : MapsOk s) :
    MapsOk (evtWrite s e) := by
  simp [evtWrite, h]

@[simp] theorem mapsOk_evtIrq {s : State} (h : MapsOk s) :
    MapsOk (evtIrq s) := by
  simp [evtIrq, h]

@[simp] theorem mapsOk_post {s : State} (code : Nat) (ctx : Option (Fin 16)) (a0 a1 : Nat) (h : MapsOk s) :
    MapsOk (post s code ctx a0 a1) := by
  unfold post
  repeat' split
  all_goals apply_rules [mapsOk_evtIrq, mapsOk_evtWrite, mapsOk_setAlert, mapsOk_update]

@[simp] theorem mapsOk_postArith {s : State} (ctx : Option (Fin 16)) (kind index a1 : Nat) (h : MapsOk s) :
    MapsOk (postArith s ctx kind index a1) := by
  simp [postArith, h]

@[simp] theorem mapsOk_postUnreachable {s : State} (ctx : Option (Fin 16)) (dest cause kind index psn : Nat) (h : MapsOk s) :
    MapsOk (postUnreachable s ctx dest cause kind index psn) := by
  simp [postUnreachable, h]

@[simp] theorem mapsOk_unreachableEvent {s : State} (ctx : Option (Fin 16)) (dest cause kind index psn : Nat) (h : MapsOk s) :
    MapsOk (unreachableEvent s ctx dest cause kind index psn) := by
  simp [unreachableEvent, h]

/-! Operations -/

@[simp] theorem mapsOk_setFace {s : State} (u : Nat) (f : Face) (h : MapsOk s) :
    MapsOk (setFace s u f) := by
  simp [setFace, h]

@[simp] theorem mapsOk_setGangFace {s : State} (g : Nat) (f : GangFace) (h : MapsOk s) :
    MapsOk (setGangFace s g f) := by
  simp [setGangFace, h]

@[simp] theorem mapsOk_setCore {s : State} (k : Nat) (c : Core) (h : MapsOk s) :
    MapsOk (setCore s k c) := by
  simp [setCore, h]

@[simp] theorem mapsOk_setCtx {s : State} (c : Nat) (x : Ctx) (h : MapsOk s) :
    MapsOk (setCtx s c x) := by
  simp [setCtx, h]

@[simp] theorem mapsOk_setRiddle {s : State} (e : Nat) (r : Riddle) (h : MapsOk s) :
    MapsOk (setRiddle s e r) := by
  simp [setRiddle, h]

@[simp] theorem mapsOk_setTrw {s : State} (t : Nat) (w : Tramway) (h : MapsOk s) :
    MapsOk (setTrw s t w) := by
  simp [setTrw, h]

@[simp] theorem mapsOk_setHbm {s : State} (n : Nat) (hx : Hbm) (h : MapsOk s) :
    MapsOk (setHbm s n hx) := by
  simp [setHbm, h]

@[simp] theorem mapsOk_setAdit {s : State} (a : Nat) (x : Adit) (h : MapsOk s) :
    MapsOk (setAdit s a x) := by
  simp [setAdit, h]

@[simp] theorem mapsOk_setColl {s : State} (d : Nat) (x : Coll) (h : MapsOk s) :
    MapsOk (setColl s d x) := by
  simp [setColl, h]

@[simp] theorem mapsOk_setCGroup {s : State} (g : Nat) (x : CGroup) (h : MapsOk s) :
    MapsOk (setCGroup s g x) := by
  simp [setCGroup, h]

@[simp] theorem mapsOk_setPool {s : State} (p : Nat) (x : Pool) (h : MapsOk s) :
    MapsOk (setPool s p x) := by
  simp [setPool, h]

@[simp] theorem mapsOk_setBucket {s : State} (p l : Nat) (b : Bucket) (h : MapsOk s) :
    MapsOk (setBucket s p l b) := by
  simp [setBucket, h]

@[simp] theorem mapsOk_setTirCtx {s : State} (c : Nat) (x : TirCtx) (h : MapsOk s) :
    MapsOk (setTirCtx s c x) := by
  simp [setTirCtx, h]

@[simp] theorem mapsOk_bump {s : State} (u i n : Nat) (h : MapsOk s) :
    MapsOk (bump s u i n) := by
  simp [bump, h]

@[simp] theorem mapsOk_resetCounters {s : State} (u : Nat) (mask : W32) (h : MapsOk s) :
    MapsOk (resetCounters s u mask) := by
  simp [resetCounters, h]

@[simp] theorem mapsOk_acceptCmd {s : State} (u opcode ctx : Nat) (slot : BitVec 16) (arg : Nat) (h : MapsOk s) :
    MapsOk (acceptCmd s u opcode ctx slot arg) := by
  unfold acceptCmd
  all_goals apply_rules [mapsOk_resetCounters, mapsOk_setFace, mapsOk_bump, mapsOk_update]

@[simp] theorem mapsOk_gangCmd {s : State} (g : Nat) (cmd : FaceCmd) (h : MapsOk s) :
    MapsOk (gangCmd s g cmd) := by
  unfold gangCmd
  refine mapsOk_foldl (fun s b h => ?_) _ ?_ <;> apply_rules [mapsOk_setGangFace, mapsOk_foldl, mapsOk_update]

@[simp] theorem mapsOk_stopUnit {s : State} (src : Nat) (u : Nat) (h : MapsOk s) :
    MapsOk (stopUnit s src u) := by
  simp [stopUnit, h]

@[simp] theorem mapsOk_stopGang {s : State} (c : Nat) (src : Nat) (h : MapsOk s) :
    MapsOk (stopGang s c src) := by
  unfold stopGang
  refine mapsOk_foldl (fun s b h => ?_) _ ?_ <;> apply_rules [mapsOk_stopUnit, mapsOk_foldl, mapsOk_update]

@[simp] theorem mapsOk_releaseUnit {s : State} (c : Nat) (u : Nat) (h : MapsOk s) :
    MapsOk (releaseUnit s c u) := by
  simp [releaseUnit, h]

theorem mapsOk_releaseUnits {s : State} (c : Nat) (h : MapsOk s) : MapsOk (releaseUnits s c) := by
  unfold releaseUnits
  exact mapsOk_gangCmd _ _ (mapsOk_foldl (fun s u h => mapsOk_releaseUnit c u h) _ h)

@[simp] theorem mapsOk_zeroCore {s : State} (k : Nat) (h : MapsOk s) :
    MapsOk (zeroCore s k) := by
  simp [zeroCore, h]

theorem mapsOk_releaseCores {s : State} (c : Nat) (h : MapsOk s) : MapsOk (releaseCores s c) := by
  have hs : MapsOk ((getCtx s c).bind.foldl (fun s e => zeroCore s e.2) s) :=
    mapsOk_foldl (fun s e h => mapsOk_zeroCore e.2 h) _ h
  unfold releaseCores
  dsimp only
  generalize (getCtx s c).bind.foldl (fun s e => zeroCore s e.2) s = t at hs ⊢
  simp [hs]

@[simp] theorem mapsOk_dropWants {s : State} (c : Nat) (h : MapsOk s) :
    MapsOk (dropWants s c) := by
  simp [dropWants, h]

@[simp] theorem mapsOk_dropCensus {s : State} (c : Nat) (h : MapsOk s) :
    MapsOk (dropCensus s c) := by
  simp [dropCensus, h]

theorem mapsOk_purgeQueues {s : State} (c : Nat) (h : MapsOk s) : MapsOk (purgeQueues s c) := by
  have hs : MapsOk (dropWants s c) := mapsOk_dropWants c h
  unfold purgeQueues
  simp [hs]

theorem mapsOk_teardown {s : State} (c cause : Nat) (uf : Option UnitFault) (h : MapsOk s) :
    MapsOk (teardown s c cause uf) := by
  unfold teardown
  dsimp only
  split
  · exact mapsOk_update (mapsOk_purgeQueues c (mapsOk_stopGang c 1 (mapsOk_setCtx c _ h)))
  · exact h

theorem mapsOk_unitFault {s : State} (u code : Nat) (h : MapsOk s) : MapsOk (unitFault s u code) := by
  have hs : MapsOk (trigger (setFace s u { getFace s u with st := .faulted, fault := BitVec.ofNat 8 code }) 4) :=
    mapsOk_trigger 4 (mapsOk_setFace u _ h)
  unfold unitFault
  dsimp only
  split
  · exact mapsOk_teardown _ _ _ hs
  · exact hs

@[simp] theorem mapsOk_coreFabric {s : State} (c k : Nat) (h : MapsOk s) :
    MapsOk (coreFabric s c k) := by
  unfold coreFabric
  split <;> apply_rules [mapsOk_unitFault, mapsOk_teardown, mapsOk_update]

@[simp] theorem mapsOk_idleUnit {s : State} (u : Nat) (h : MapsOk s) :
    MapsOk (idleUnit s u) := by
  simp [idleUnit, h]

@[simp] theorem mapsOk_nextFree {s : State} (h : MapsOk s) :
    MapsOk (nextFree s).2 := by
  simp [nextFree, h]

/-! Bench 1 and its controllers -/

@[simp] theorem mapsOk_laneCorrected (n pc : Nat) {s : State} (lane : Nat) (h : MapsOk s) :
    MapsOk (laneCorrected n pc s lane) := by
  simp [laneCorrected, h]

theorem mapsOk_uncorrectable {s : State} (n loc : Nat) (r : Req) (h : MapsOk s) : MapsOk (uncorrectable s n loc r) := by
  have e : uncorrectable = uncorrectable := rfl
  conv at e => rhs; delta uncorrectable
  rw [e]
  clear e
  -- The kernel must not evaluate the owner of a key (it counts to 2^48 one by one): any function stands for `ownerOfKey`.
  generalize ownerOfKey = ownerOf
  revert ownerOf
  refine id fun ownerOf => ?_
  beta_reduce
  extract_lets pc s1 h1 s2 own last h2 s3
  have hs2 : MapsOk s2 := mapsOk_setHbm n _ (mapsOk_bump _ _ _ h)
  clear_value s2 own
  have hs3 : MapsOk s3 := by
    unfold s3
    split
    · exact mapsOk_trigger _ (mapsOk_post _ _ _ _ (mapsOk_setHbm n _ hs2))
    · exact mapsOk_bump _ _ _ hs2
  clear_value s3
  split
  · exact mapsOk_teardown _ _ _ hs3
  · exact hs3

theorem mapsOk_cwRead {s : State} (n loc : Nat) (errs : List (Nat × Byte)) (r : Req) (h : MapsOk s) :
    MapsOk (cwRead s n loc errs r).2.2 := by
  unfold cwRead
  dsimp only
  split
  · exact h
  · exact mapsOk_foldl (fun s l h => mapsOk_laneCorrected n _ l h) _ (mapsOk_setHbm n _ (mapsOk_bump _ _ _ h))
  · exact mapsOk_uncorrectable n loc r h

theorem mapsOk_cwWrite {s : State} (n loc : Nat) (d : List Byte) (h : MapsOk s) : MapsOk (cwWrite s n loc d) := by
  simp [cwWrite, h]

theorem mapsOk_cwModify {s : State} (n loc : Nat) (d : List Byte) (mask : Nat → Bool) (errs : List (Nat × Byte)) (r : Req)
    (h : MapsOk s) : MapsOk (cwModify s n loc d mask errs r) := by
  have hr := mapsOk_cwRead n loc errs r (mapsOk_bump (552 + n) 8 1 h)
  unfold cwModify
  split
  · exact mapsOk_cwWrite n loc d h
  · dsimp only
    split <;> rename_i heq <;> rw [heq] at hr
    · exact mapsOk_cwWrite n loc _ hr
    · exact hr

@[simp] theorem mapsOk_chargeHbm {s : State} (ctx : Option Nat) (n : Nat) (h : MapsOk s) :
    MapsOk (chargeHbm s ctx n) := by
  unfold chargeHbm
  dsimp only
  repeat' split
  all_goals apply_rules [mapsOk_setBucket, mapsOk_update]

@[simp] theorem mapsOk_countBlock (x n : Nat) (wr : Bool) (ctx : Option Nat) {s : State} (b : Nat) (h : MapsOk s) :
    MapsOk (countBlock x n wr ctx s b) := by
  unfold countBlock
  dsimp only
  repeat' split
  all_goals apply_rules [mapsOk_chargeHbm, mapsOk_bump, mapsOk_update]

@[simp] theorem mapsOk_countAccess {s : State} (x n : Nat) (wr : Bool) (ctx : Option Nat) (h : MapsOk s) :
    MapsOk (countAccess s x n wr ctx) := by
  unfold countAccess
  all_goals apply_rules [mapsOk_countBlock, mapsOk_foldl, mapsOk_update]

@[simp] theorem mapsOk_snoopNeed {s : State} (x n : Nat) (wr : Bool) (h : MapsOk s) :
    MapsOk (snoopNeed s x n wr) := by
  simp [snoopNeed, h]

theorem mapsOk_readCwAt (r : Req) (a : List Byte × State) (x : Nat) (h : MapsOk a.2) : MapsOk (readCwAt r a x).2 := by
  unfold readCwAt
  split
  · exact h
  · split
    · exact mapsOk_cwRead _ _ [] r h
    · exact h

theorem mapsOk_b1Read {s : State} (x n : Nat) (r : Req) (h : MapsOk s) : MapsOk (b1Read s x n r).2 :=
  mapsOk_foldl_snd (fun a x h => mapsOk_readCwAt r a x h) _ (mapsOk_countAccess x n false r.ctx (mapsOk_snoopNeed x n false h))

theorem mapsOk_writeCwAt (x : Nat) (d : List Byte) (r : Req) {s : State} (cw : Nat) (h : MapsOk s) :
    MapsOk (writeCwAt x d r s cw) := by
  unfold writeCwAt
  split
  · exact h
  · split
    · exact mapsOk_cwModify _ _ _ _ _ _ h
    · exact h

@[simp] theorem mapsOk_b1Write {s : State} (x : Nat) (d : List Byte) (r : Req) (h : MapsOk s) :
    MapsOk (b1Write s x d r) := by
  unfold b1Write
  all_goals apply_rules [mapsOk_writeCwAt, mapsOk_countAccess, mapsOk_snoopNeed, mapsOk_foldl, mapsOk_update]

theorem mapsOk_b1Get {s : State} (x n : Nat) (r : Req) (h : MapsOk s) : MapsOk (b1Get s x n r).2 :=
  mapsOk_foldl_snd (fun a x h => mapsOk_readCwAt r a x h) _ (mapsOk_countAccess x n false r.ctx h)

@[simp] theorem mapsOk_b1Put {s : State} (x : Nat) (d : List Byte) (r : Req) (h : MapsOk s) :
    MapsOk (b1Put s x d r) := by
  unfold b1Put
  all_goals apply_rules [mapsOk_writeCwAt, mapsOk_countAccess, mapsOk_foldl, mapsOk_update]

@[simp] theorem mapsOk_b1Nat {s : State} (x n : Nat) (r : Req) (h : MapsOk s) :
    MapsOk (b1Nat s x n r).2 := by
  unfold b1Nat
  all_goals apply_rules [mapsOk_b1Read, mapsOk_update]

@[simp] theorem mapsOk_b1Zero {s : State} (x n : Nat) (h : MapsOk s) :
    MapsOk (b1Zero s x n) := by
  simp [b1Zero, h]

@[simp] theorem mapsOk_frameZero {s : State} (c : Nat) (h : MapsOk s) :
    MapsOk (frameZero s c) := by
  simp [frameZero, h]

@[simp] theorem mapsOk_sendSnoop {s : State} (e : Nat × Bool) (h : MapsOk s) :
    MapsOk (sendSnoop s e) := by
  simp [sendSnoop, h]

/-- What is kept by a command is kept when its accesses wait for snoops. -/
theorem mapsOk_guarded {s t : State} (h : MapsOk s) (ht : MapsOk t) : MapsOk (guarded s t) := by
  unfold guarded
  split
  · exact ht
  · exact mapsOk_foldl (fun s e h => mapsOk_sendSnoop e h) _ h

/-! Buffer pools -/

@[simp] theorem mapsOk_poolCross {s : State} (p : Nat) (h : MapsOk s) :
    MapsOk (poolCross s p) := by
  unfold poolCross
  dsimp only
  repeat' split
  all_goals apply_rules [mapsOk_post, mapsOk_setPool, mapsOk_update]

theorem mapsOk_poolAlloc {s : State} (p n refs : Nat) (h : MapsOk s) : ∀ a ∈ poolAlloc s p n refs, MapsOk a.2 := by
  intro a ha
  unfold poolAlloc at ha
  dsimp only at ha
  split at ha
  · cases ha
    exact mapsOk_poolCross p (mapsOk_setPool p _ h)
  · cases ha

@[simp] theorem mapsOk_poolWait {s : State} (p : Nat) (w : Waiter) (n : Nat) (h : MapsOk s) :
    MapsOk (poolWait s p w n) := by
  simp [poolWait, h]

theorem mapsOk_poolServe {s : State} (p refs : Nat) (h : MapsOk s) : ∀ a ∈ poolServe s p refs, MapsOk a.2.2 := by
  intro a ha
  unfold poolServe at ha
  dsimp only at ha
  split at ha
  · split at ha
    · cases ha
      exact mapsOk_poolCross p (mapsOk_setPool p _ h)
    · cases ha
  · cases ha

@[simp] theorem mapsOk_poolDrop {s : State} (p i : Nat) (h : MapsOk s) :
    MapsOk (poolDrop s p i) := by
  simp [poolDrop, h]

@[simp] theorem mapsOk_poolRelease {s : State} (p i : Nat) (h : MapsOk s) :
    MapsOk (poolRelease s p i) := by
  simp [poolRelease, h]

theorem mapsOk_poolReleaseAll {s : State} (p : Nat) (l : List Nat) (h : MapsOk s) : MapsOk (poolReleaseAll s p l) := by
  unfold poolReleaseAll
  split
  · exact h
  · exact mapsOk_poolCross p (mapsOk_foldl (fun s i h => mapsOk_poolDrop p i h) _ h)

@[simp] theorem mapsOk_poolReset {s : State} (p : Nat) (h : MapsOk s) :
    MapsOk (poolReset s p) := by
  simp [poolReset, h]

@[simp] theorem mapsOk_bufRead {s : State} (p i o n : Nat) (r : Req) (h : MapsOk s) :
    MapsOk (bufRead s p i o n r).2 := by
  unfold bufRead
  split <;> apply_rules [mapsOk_b1Read, mapsOk_update]

@[simp] theorem mapsOk_bufWrite {s : State} (p i o : Nat) (d : List Byte) (r : Req) (h : MapsOk s) :
    MapsOk (bufWrite s p i o d r) := by
  unfold bufWrite
  repeat' split
  all_goals apply_rules [mapsOk_b1Write, mapsOk_setCore, mapsOk_update]

theorem mapsOk_bpmAlloc {s : State} (p refs : Nat) (h : MapsOk s) : MapsOk (bpmAlloc s p refs) := by
  unfold bpmAlloc
  dsimp only
  split
  · exact h
  · split
    · exact h
    · split
      next heq => exact mapsOk_poolAlloc p 1 refs (s := { s with bpm := { s.bpm with pool := BitVec.ofNat 4 p } }) h _ heq
      next => exact h

@[simp] theorem mapsOk_bpmRel {s : State} (p i : Nat) (h : MapsOk s) :
    MapsOk (bpmRel s p i) := by
  simp [bpmRel, h]

@[simp] theorem mapsOk_bpmRst {s : State} (p : Nat) (h : MapsOk s) :
    MapsOk (bpmRst s p) := by
  simp [bpmRst, h]

/-! The Yard switch -/

@[simp] theorem mapsOk_setPort {s : State} (q : Nat) (x : YPort) (h : MapsOk s) :
    MapsOk (setPort s q x) := by
  simp [setPort, h]

@[simp] theorem mapsOk_inject {s : State} (port : Nat) (p : Packet) (h : MapsOk s) :
    MapsOk (inject s port p) := by
  simp [inject, h]

theorem mapsOk_passBuckets (part charge port : Nat) (p : Packet) (l : List Nat) {s : State} (h : MapsOk s) :
    MapsOk (passBuckets s part charge port p l) := by
  induction l generalizing s with
  | nil => exact mapsOk_inject port p h
  | cons i l ih =>
    unfold passBuckets
    dsimp only
    repeat' split
    · exact ih h
    · exact ih (mapsOk_setBucket _ _ _ h)
    · exact mapsOk_setBucket _ _ _ h

theorem mapsOk_enterTable {s : State} (x : Held) (h : MapsOk s) : MapsOk (enterTable s x) := by
  unfold enterTable
  split
  · exact mapsOk_passBuckets _ _ _ _ _ h
  · exact mapsOk_inject _ _ h

@[simp] theorem mapsOk_sendRequest {s : State} (hx : Held) (h : MapsOk s) :
    MapsOk (sendRequest s hx) := by
  unfold sendRequest
  dsimp only
  repeat' split
  all_goals apply_rules [mapsOk_enterTable, mapsOk_update]

@[simp] theorem mapsOk_drainHeld {s : State} (h : MapsOk s) :
    MapsOk (drainHeld s) := by
  unfold drainHeld
  refine mapsOk_foldl (fun s b h => ?_) _ h
  split <;> apply_rules [mapsOk_enterTable, mapsOk_foldl, mapsOk_update]

@[simp] theorem mapsOk_sendAck {s : State} (port : Nat) (p : Packet) (status arg : Nat) (h : MapsOk s) :
    MapsOk (sendAck s port p status arg) := by
  simp [sendAck, h]

@[simp] theorem mapsOk_notice {s : State} (p : Packet) (cause : Nat) (h : MapsOk s) :
    MapsOk (notice s p cause) := by
  simp [notice, h]

@[simp] theorem mapsOk_routeDrop {s : State} (p : Packet) (cause : Nat) (h : MapsOk s) :
    MapsOk (routeDrop s p cause) := by
  simp [routeDrop, h]

theorem mapsOk_countFilters {s : State} (p : Packet) (port : Nat) (point : Bool) (h : MapsOk s) :
    MapsOk (countFilters s p port point).2 := by
  refine mapsOk_foldl_snd (fun a b h => ?_) _ h
  dsimp only
  split
  · exact h
  · exact h

theorem mapsOk_bunting {s : State} (p : Packet) (inPort outPort : Nat) (point merged : Bool) (h : MapsOk s) :
    MapsOk (bunting s p inPort outPort point merged) := by
  have hc := mapsOk_countFilters p (if point then outPort else inPort) point h
  unfold bunting
  split
  · exact h
  · split <;> rename_i heq <;> rw [heq] at hc
    · exact hc
    · repeat' split
      · exact hc
      · exact hc
      · exact mapsOk_update (mapsOk_b1Write _ _ _ hc)

@[simp] theorem mapsOk_absorbResend {s : State} (p : Packet) (h : MapsOk s) :
    ∀ t ∈ absorbResend s p, MapsOk t := by
  unfold absorbResend
  dsimp only
  repeat' split
  all_goals simp [h]

@[simp] theorem mapsOk_tryMerge {s : State} (p : Packet) (h : MapsOk s) :
    ∀ t ∈ tryMerge s p, MapsOk t := by
  unfold tryMerge
  repeat' split
  all_goals simp [h]

@[simp] theorem mapsOk_tryAdmit {s : State} (inPort outPort : Nat) (p : Packet) (h : MapsOk s) :
    ∀ t ∈ tryAdmit s inPort outPort p, MapsOk t := by
  simp [tryAdmit, h]

@[simp] theorem mapsOk_startTimer {s : State} (p : Packet) (h : MapsOk s) :
    MapsOk (startTimer s p) := by
  simp [startTimer, h]

@[simp] theorem mapsOk_freeUnits {s : State} (q : Nat) (p : Packet) (h : MapsOk s) :
    MapsOk (freeUnits s q p) := by
  simp [freeUnits, h]

@[simp] theorem mapsOk_takeWaiting {s : State} (q : Nat) (p : Packet) (h : MapsOk s) :
    MapsOk (takeWaiting s q p) := by
  simp [takeWaiting, h]

@[simp] theorem mapsOk_downDrop {s : State} (outPort : Nat) (p : Packet) (h : MapsOk s) :
    MapsOk (downDrop s outPort p) := by
  simp [downDrop, h]

theorem mapsOk_yardAccept {s : State} (q : Nat) (p : Packet) (h : MapsOk s) : MapsOk (yardAccept s q p) := by
  unfold yardAccept
  split
  · exact h
  · have ht : MapsOk (startTimer (freeUnits (takeWaiting s q p) q p) p) :=
      mapsOk_startTimer p (mapsOk_freeUnits q p (mapsOk_takeWaiting q p h))
    dsimp only
    generalize startTimer (freeUnits (takeWaiting s q p) q p) p = u at ht ⊢
    split
    · exact ht
    · split
      next heq => exact mapsOk_bunting _ _ _ _ _ (mapsOk_absorbResend p ht _ heq)
      · split
        next heq => exact mapsOk_bunting _ _ _ _ _ (mapsOk_tryMerge p ht _ heq)
        · have hf : MapsOk (if mergeFull u p = true then { u with yard := { u.yard with tableFull := inc64 u.yard.tableFull 1 } }
              else u) := by split <;> exact ht
          generalize (if mergeFull u p = true then { u with yard := { u.yard with tableFull := inc64 u.yard.tableFull 1 } }
              else u) = w at hf ⊢
          split
          · exact mapsOk_routeDrop _ _ hf
          · split
            · exact hf
            next o _ =>
              have hb : MapsOk (bunting w p q o false false) := mapsOk_bunting _ _ _ _ _ hf
              repeat' split
              · exact mapsOk_downDrop _ _ hb
              · exact hb
              next heq _ => exact mapsOk_setCGroup _ _ (mapsOk_tryAdmit _ _ _ hb _ heq)
              next heq _ => exact mapsOk_tryAdmit _ _ _ hb _ heq
              · exact hb

@[simp] theorem mapsOk_drrDone {s : State} (o g len : Nat) (d : SMap Nat) (h : MapsOk s) :
    MapsOk (drrDone s o g len d) := by
  simp [drrDone, h]

theorem mapsOk_yardAdmit {s : State} (q v : Nat) (h : MapsOk s) : MapsOk (yardAdmit s q v) := by
  unfold yardAdmit
  split
  · exact h
  next e _ =>
    have hg : MapsOk { s with yard := { s.yard with stage := s.yard.stage.erase e } } := h
    dsimp only
    split
    · exact mapsOk_routeDrop _ _ hg
    · split
      · exact h
      · repeat' split
        · exact mapsOk_downDrop _ _ hg
        next heq => exact mapsOk_drrDone _ _ _ _ (mapsOk_tryAdmit _ _ _ hg _ heq)
        · exact h
        · exact h
        · exact h
        · exact mapsOk_getD (mapsOk_tryAdmit _ _ _ hg) h

theorem mapsOk_transmitPkt {s : State} (a : Nat) (e : YEnt) (h : MapsOk s) : MapsOk (transmitPkt s a e) := by
  unfold transmitPkt
  dsimp only
  split
  · exact mapsOk_setPort _ _ h
  · exact mapsOk_setAdit _ _ (mapsOk_bunting _ _ _ _ _ (mapsOk_setPort _ _ h))

theorem mapsOk_yardTransmit {s : State} (a v : Nat) (h : MapsOk s) : MapsOk (yardTransmit s a v) := by
  unfold yardTransmit
  split
  · exact h
  · split
    · exact h
    · split
      · exact mapsOk_transmitPkt a _ h
      · exact h

@[simp] theorem mapsOk_discardOutput {s : State} (q : Nat) (h : MapsOk s) :
    MapsOk (discardOutput s q) := by
  unfold discardOutput
  refine mapsOk_foldl (fun s b h => ?_) _ ?_ <;> apply_rules [mapsOk_downDrop, mapsOk_foldl, mapsOk_update]

theorem mapsOk_takeDelivery {s : State} (p : Packet) (h : MapsOk s) : ∀ t ∈ takeDelivery s p, MapsOk t := by
  intro t ht
  unfold takeDelivery at ht
  dsimp only at ht
  split at ht
  · cases ht
    refine mapsOk_bunting _ _ _ _ _ (mapsOk_setPort _ _ ?_)
    split <;> exact h
  · cases ht

@[simp] theorem mapsOk_crcDrop {s : State} (p : Packet) (h : MapsOk s) :
    MapsOk (crcDrop s p) := by
  unfold crcDrop
  dsimp only
  repeat' split
  all_goals apply_rules [mapsOk_setPort, mapsOk_update]

/-! The passing of time -/

theorem mapsOk_yardTime {s : State} (yc : Nat) (h : MapsOk s) : MapsOk (yardTime s yc) := by
  unfold yardTime
  split
  · exact h
  · refine mapsOk_foldl (fun s e h => ?_) _ h
    split
    · exact h
    · extract_lets full y1 s1 y2 s2
      have hs2 : MapsOk s2 := by
        refine mapsOk_setPort _ _ ?_
        unfold s1
        split
        · exact mapsOk_setPort _ _ h
        · exact h
      clear_value s2
      split
      · split
        · exact mapsOk_setCGroup _ _ hs2
        · exact hs2
      · exact hs2

theorem mapsOk_elapse (n : Nat) {s : State} (h : MapsOk s) : MapsOk (elapse n s) := by
  have hy : MapsOk (yardTime s (yardCyc (s.ns + n) - yardCyc s.ns)) := mapsOk_yardTime _ h
  unfold elapse
  dsimp only
  generalize yardTime s (yardCyc (s.ns + n) - yardCyc s.ns) = u at hy ⊢
  split
  · simp [h]
  · simp [h, hy]

@[simp] theorem mapsOk_advanceTo {s : State} (t : Nat) (h : MapsOk s) :
    MapsOk (advanceTo s t) := by
  unfold advanceTo
  split <;> apply_rules [mapsOk_elapse, mapsOk_update]

@[simp] theorem mapsOk_advanceNs {s : State} (t : Nat) (h : MapsOk s) :
    MapsOk (advanceNs s t) := by
  unfold advanceNs
  split <;> apply_rules [mapsOk_elapse, mapsOk_update]

/-! Home windows -/

@[simp] theorem mapsOk_dropLine {s : State} (e : HLine) (h : MapsOk s) :
    MapsOk (dropLine s e) := by
  simp [dropLine, h]

@[simp] theorem mapsOk_putLine {s : State} (l : Nat) (d : List Byte) (h : MapsOk s) :
    MapsOk (putLine s l d) := by
  unfold putLine
  dsimp only
  repeat' split
  all_goals apply_rules [mapsOk_dropLine, mapsOk_update]

@[simp] theorem mapsOk_forgetHome {s : State} (x n : Nat) (h : MapsOk s) :
    MapsOk (forgetHome s x n) := by
  simp [forgetHome, h]

theorem mapsOk_homeGet {s : State} (x n : Nat) (h : MapsOk s) : MapsOk (homeGet s x n).2 := by
  unfold homeGet
  split
  · exact h
  · refine mapsOk_foldl (fun s e h => mapsOk_putLine _ _ h) _ ?_
    split
    · exact h
    · exact mapsOk_b1Get _ _ _ h

theorem mapsOk_homeRead {s : State} (x n : Nat) (h : MapsOk s) : MapsOk (homeRead s x n).2 := by
  unfold homeRead
  split
  · exact h
  · refine mapsOk_foldl_snd (fun a e h => ?_) _ (mapsOk_snoopNeed _ _ _ h)
    exact mapsOk_homeGet _ _ h

theorem mapsOk_touchFrame {s : State} (x : Nat) (h : MapsOk s) : MapsOk (touchFrame s x) := by
  unfold touchFrame
  split
  · exact h
  · exact mapsOk_update (mapsOk_b1Put _ _ _ h)

@[simp] theorem mapsOk_homePutLine {s : State} (l o : Nat) (d : List Byte) (h : MapsOk s) :
    MapsOk (homePutLine s l o d) := by
  unfold homePutLine
  dsimp only
  repeat' split
  all_goals apply_rules [mapsOk_putLine, mapsOk_homeGet, mapsOk_update]

@[simp] theorem mapsOk_homePut {s : State} (x : Nat) (d : List Byte) (h : MapsOk s) :
    MapsOk (homePut s x d) := by
  unfold homePut
  refine mapsOk_foldl (fun s b h => ?_) _ ?_ <;> apply_rules [mapsOk_homePutLine, mapsOk_touchFrame, mapsOk_foldl, mapsOk_update]

@[simp] theorem mapsOk_homeWrite {s : State} (x : Nat) (d : List Byte) (h : MapsOk s) :
    MapsOk (homeWrite s x d) := by
  simp [homeWrite, h]

@[simp] theorem mapsOk_takeHome {s : State} (n : Nat) (h : MapsOk s) :
    MapsOk (takeHome s n) := by
  simp [takeHome, h]

@[simp] theorem mapsOk_lineWriteback {s : State} (hx : Nat) (h : MapsOk s) :
    MapsOk (lineWriteback s hx) := by
  unfold lineWriteback
  repeat' split
  all_goals apply_rules [mapsOk_advanceNs, mapsOk_dropLine, mapsOk_update]

/-! Tier space -/

theorem mapsOk_tirCommit {s : State} (h : MapsOk s) : MapsOk (tirCommit s) := by
  have hfold : ∀ (l : List PoolRec) (a : SMap Pool × Nat), mwf {} a.1 = true →
      mwf {} (l.foldl (fun a r =>
        if r.bench1 then (mput {} a.1 r.pool (poolCommit r a.2), roundUp (a.2 + r.count * 2 ^ r.sizeLog2) 4096)
        else (mput {} a.1 r.pool (poolCommit r 0), a.2)) a).1 = true := by
    intro l
    induction l with
    | nil => exact fun a ha => ha
    | cons r l ih =>
      intro a ha
      refine ih _ ?_
      dsimp only
      split
      · exact mwf_mput (α := Pool) {} a.1 r.pool (poolCommit r a.2) ha
      · exact mwf_mput (α := Pool) {} a.1 r.pool (poolCommit r 0) ha
  unfold tirCommit
  exact mapsOk_updatePools h (hfold _ _ rfl)

@[simp] theorem mapsOk_tirGone {s : State} (c : Nat) (h : MapsOk s) :
    MapsOk (tirGone s c) := by
  unfold tirGone
  refine mapsOk_foldl (fun s b h => ?_) _ ?_ <;> apply_rules [mapsOk_forgetHome, mapsOk_foldl, mapsOk_update]

@[simp] theorem mapsOk_cmFail {s : State} (r : CmReq) (cause : Nat) (h : MapsOk s) :
    MapsOk (cmFail s r cause) := by
  unfold cmFail
  repeat' split
  all_goals apply_rules [mapsOk_unreachableEvent, mapsOk_coreFabric, mapsOk_update]

@[simp] theorem mapsOk_cmRequest {s : State} (opcode a n : Nat) (data : List Byte) (what : CmReq) (h : MapsOk s) :
    MapsOk (cmRequest s opcode a n data what) := by
  simp [cmRequest, h]

@[simp] theorem mapsOk_b2Request {s : State} (i o n : Nat) (wr : Bool) (data : List Byte) (fo : Owner) (co : CmReq) (c : Nat) (h : MapsOk s) :
    MapsOk (b2Request s i o n wr data fo co c) := by
  simp [b2Request, h]

@[simp] theorem mapsOk_startXfer {s : State} (c purpose : Nat) (wr companion : Bool) (at_ : Nat) (data : List Byte) (h : MapsOk s) :
    MapsOk (startXfer s c purpose wr companion at_ data) := by
  simp [startXfer, h]

@[simp] theorem mapsOk_answerXfer {s : State} (x : Nat) (ok : Bool) (data : Option (List Byte)) (h : MapsOk s) :
    MapsOk (answerXfer s x ok data) := by
  simp [answerXfer, h]

@[simp] theorem mapsOk_endXfers {s : State} (c purpose : Nat) (h : MapsOk s) :
    MapsOk (endXfers s c purpose) := by
  simp [endXfers, h]

@[simp] theorem mapsOk_setUnit {s : State} (u v : TUnit) (h : MapsOk s) :
    MapsOk (setUnit s u v) := by
  simp [setUnit, h]

theorem mapsOk_tierFrame (c : Nat) (r : Req) (a : List Byte × List (Nat × Nat × Nat) × State) (e : Nat × Nat)
    (h : MapsOk a.2.2) : MapsOk (tierFrame c r a e).2.2 := by
  unfold tierFrame
  dsimp only
  split
  · exact h
  · split
    · exact h
    · split
      · exact mapsOk_b1Read _ _ _ (mapsOk_setUnit _ _ h)
      · exact mapsOk_setTirCtx _ _ (mapsOk_setUnit _ _ h)

theorem mapsOk_tierRead {s : State} (c t n : Nat) (r : Req) (h : MapsOk s) : MapsOk (tierRead s c t n r).2.2 := by
  have hfold : ∀ (l : List (Nat × Nat)) (a : List Byte × List (Nat × Nat × Nat) × State), MapsOk a.2.2 →
      MapsOk (l.foldl (tierFrame c r) a).2.2 := by
    intro l
    induction l with
    | nil => exact fun a ha => ha
    | cons e l ih => exact fun a ha => ih _ (mapsOk_tierFrame c r a e ha)
  exact hfold _ _ h

@[simp] theorem mapsOk_stageFrame {s : State} (k c t : Nat) (hint : Option Nat) (d : List Byte) (h : MapsOk s) :
    MapsOk (stageFrame s k c t hint d) := by
  unfold stageFrame
  repeat' split
  all_goals simp [h]

@[simp] theorem mapsOk_stageOne (c : Nat) (hint : Option Nat) {s : State} (e : Nat × Nat) (h : MapsOk s) :
    MapsOk (stageOne c hint s e) := by
  unfold stageOne
  dsimp only
  repeat' split
  all_goals apply_rules [mapsOk_tierRead, mapsOk_stageFrame, mapsOk_update]

theorem mapsOk_stageServe {s : State} (c : Nat) (hint : Option Nat) (fs : List (Nat × Nat)) (drop : State → State)
    (hd : ∀ t, MapsOk t → MapsOk (drop t)) (h : MapsOk s) : MapsOk (stageServe s c hint fs drop) := by
  unfold stageServe
  dsimp only
  split
  · exact mapsOk_foldl (fun s e h => mapsOk_startXfer _ _ _ _ _ _ h) _ h
  · split
    · exact h
    · exact mapsOk_endXfers _ _ (mapsOk_foldl (fun s e h => mapsOk_stageOne _ _ _ h) _ (hd s h))

theorem mapsOk_stage {s : State} (h : MapsOk s) : MapsOk (stage s) := by
  unfold stage
  split
  · split
    · exact h
    · split
      · exact mapsOk_setTirCtx _ _ h
      · exact mapsOk_stageServe _ _ _ _ (fun t ht => ht) h
  · split
    · exact h
    · exact mapsOk_stageServe _ _ _ _ (fun t ht => ht) h
  · exact h

@[simp] theorem mapsOk_unstageCore {s : State} (k : Nat) (h : MapsOk s) :
    MapsOk (unstageCore s k) := by
  simp [unstageCore, h]

@[simp] theorem mapsOk_unstageRange {s : State} (c t n : Nat) (h : MapsOk s) :
    MapsOk (unstageRange s c t n) := by
  simp [unstageRange, h]

theorem mapsOk_writeUnit {s : State} (u : TUnit) (t : Nat) (d : List Byte) (h : MapsOk s) : MapsOk (writeUnit s u t d) := by
  unfold writeUnit
  dsimp only
  generalize hv : (freshExtents u t d.length).foldl _ s = v
  have hs : MapsOk v := by
    rw [← hv]
    refine mapsOk_foldl (fun s j h => ?_) _ h
    split
    · exact mapsOk_b1Zero _ _ h
    · exact h
  split
  · exact mapsOk_b1Write _ _ _ (mapsOk_setUnit _ _ hs)
  · exact mapsOk_update (mapsOk_setUnit _ _ hs)

theorem mapsOk_tierWrite {s : State} (c t : Nat) (d : List Byte) (h : MapsOk s) : MapsOk (tierWrite s c t d) := by
  unfold tierWrite
  refine mapsOk_foldl (fun s e h => mapsOk_writeUnit _ _ _ h) _ ?_
  split
  · exact mapsOk_endXfers _ _ h
  · exact h

theorem mapsOk_applyDesc (c : Nat) {s : State} (e : SDesc × Option (List Byte)) (h : MapsOk s) :
    MapsOk (applyDesc c s e) := by
  unfold applyDesc
  split
  · exact mapsOk_setTirCtx _ _ h
  · refine mapsOk_setTirCtx _ _ (mapsOk_tierWrite _ _ _ (mapsOk_unstageRange _ _ _ ?_))
    split
    · split
      · exact mapsOk_takeHome _ (mapsOk_homeRead _ _ h)
      · exact h
    · exact h

theorem mapsOk_settleRun {s : State} (c : Nat) (h : MapsOk s) : MapsOk (settleRun s c).2 := by
  unfold settleRun
  split
  · exact h
  next w _ =>
    dsimp only
    split
    · exact mapsOk_startXfer _ _ _ _ _ _ h
    · exact h
    · refine mapsOk_endXfers _ _ (mapsOk_homeWrite _ _ (mapsOk_setTirCtx _ _ (mapsOk_foldl (fun s e h => mapsOk_applyDesc _ _ h) _ ?_)))
      have ht : MapsOk (takeHome (homeRead s w.b1 64).2 1) := mapsOk_takeHome _ (mapsOk_homeRead _ _ h)
      split
      · exact ht
      · exact mapsOk_takeHome _ (mapsOk_homeRead _ _ ht)

@[simp] theorem mapsOk_settleCmd {s : State} (c : Nat) (h : MapsOk s) :
    MapsOk (settleCmd s c) := by
  simp [settleCmd, h]

theorem mapsOk_promote (c : Nat) (a : Nat × State) (u : TUnit) (h : MapsOk a.2) : MapsOk (promote c a u).2 := by
  unfold promote
  dsimp only
  repeat' split
  all_goals exact h

theorem mapsOk_migrateEval {s : State} (c : Nat) (h : MapsOk s) : MapsOk (migrateEval s c) := by
  unfold migrateEval
  exact mapsOk_update (mapsOk_foldl_snd (a := (0, s)) (fun a u h => mapsOk_promote c a u h) _ h)

theorem mapsOk_copyXfers {s : State} (c : Nat) (u : TUnit) (b : Backing) (h : MapsOk s) : MapsOk (copyXfers s c u b) := by
  unfold copyXfers
  split
  · exact mapsOk_foldl (fun s p h => mapsOk_foldl (fun s e h => mapsOk_startXfer _ _ _ _ _ _ h) _ h) _ h
  · exact mapsOk_foldl (fun s p h => mapsOk_foldl (fun s e h => mapsOk_startXfer _ _ _ _ _ _ h) _ h) _ h
  · exact h

@[simp] theorem mapsOk_copyUnit {s : State} (c : Nat) (u : TUnit) (b : Backing) (h : MapsOk s) :
    MapsOk (copyUnit s c u b) := by
  unfold copyUnit
  refine mapsOk_foldl (fun s b h => ?_) _ h
  dsimp only
  repeat' split
  all_goals apply_rules [mapsOk_b1Read, mapsOk_b1Write, mapsOk_foldl, mapsOk_update]

theorem mapsOk_migrationSwitch {s : State} (c : Nat) (h : MapsOk s) : MapsOk (migrationSwitch s c) := by
  unfold migrationSwitch
  split
  · exact h
  next u _ =>
    split
    · exact h
    next b _ =>
      have he : MapsOk (endXfers s c 1) := mapsOk_endXfers _ _ h
      have hput : ∀ x y, MapsOk (setTirCtx (setUnit (copyUnit (endXfers s c 1) c u b) u x) c y) :=
        fun x y => mapsOk_setTirCtx _ _ (mapsOk_setUnit _ _ (mapsOk_copyUnit _ _ _ he))
      extract_lets xs
      split
      · exact mapsOk_copyXfers _ _ _ h
      · split
        · exact h
        · split
          · exact mapsOk_setTirCtx _ _ (mapsOk_setUnit _ _ he)
          · split
            · exact hput _ _
            · exact hput _ _

/-! Issuing -/

@[simp] theorem mapsOk_advance {s : State} (k pc : Nat) (h : MapsOk s) :
    MapsOk (advance s k pc) := by
  unfold advance
  dsimp only
  repeat' split
  all_goals apply_rules [mapsOk_setCore, mapsOk_unitFault, mapsOk_update]

@[simp] theorem mapsOk_next {s : State} (k : Nat) (h : MapsOk s) :
    MapsOk (next s k) := by
  simp [next, h]

@[simp] theorem mapsOk_settleIdle {s : State} (k : Nat) (h : MapsOk s) :
    MapsOk (settleIdle s k) := by
  simp [settleIdle, h]

@[simp] theorem mapsOk_resume {s : State} (k : Nat) (h : MapsOk s) :
    MapsOk (resume s k) := by
  unfold resume
  all_goals apply_rules [mapsOk_setFace, mapsOk_next, mapsOk_setCore, mapsOk_update]

@[simp] theorem mapsOk_stallCore {s : State} (k n : Nat) (h : MapsOk s) :
    MapsOk (stallCore s k n) := by
  simp [stallCore, h]

theorem mapsOk_issueOp {s : State} (k q : Nat) (rd wr : List (Nat × Nat)) (mk : State → Core → Op × State)
    (hmk : ∀ c, MapsOk (mk s c).2) (h : MapsOk s) : MapsOk (issueOp s k q rd wr mk) := by
  unfold issueOp
  dsimp only
  split
  · exact mapsOk_stallCore _ _ h
  · split
    · exact mapsOk_stallCore _ _ h
    · exact mapsOk_next _ (mapsOk_setCore _ _ (hmk _))

@[simp] theorem mapsOk_wakeCount {s : State} (k : Nat) (h : MapsOk s) :
    MapsOk (wakeCount s k) := by
  unfold wakeCount
  dsimp only
  repeat' split
  all_goals apply_rules [mapsOk_resume, mapsOk_setCore, mapsOk_update]

@[simp] theorem mapsOk_countUp {s : State} (k : Nat) (cnt : Nat) (h : MapsOk s) :
    MapsOk (countUp s k cnt) := by
  unfold countUp
  all_goals apply_rules [mapsOk_wakeCount, mapsOk_bump, mapsOk_setCore, mapsOk_update]

@[simp] theorem mapsOk_mapSaved {s : State} (c n : Nat) (f : Core → Core) (h : MapsOk s) :
    MapsOk (mapSaved s c n f) := by
  simp [mapSaved, h]

@[simp] theorem mapsOk_b0Write {s : State} (c n a : Nat) (d : List Byte) (h : MapsOk s) :
    MapsOk (b0Write s c n a d) := by
  unfold b0Write
  dsimp only
  repeat' split
  all_goals apply_rules [mapsOk_b1Write, mapsOk_setCore, mapsOk_update]

@[simp] theorem mapsOk_deposit {s : State} (c n a : Nat) (d : List Byte) (cnt : Option Nat) (h : MapsOk s) :
    MapsOk (deposit s c n a d cnt) := by
  unfold deposit
  dsimp only
  repeat' split
  all_goals simp [h]

/-! Control instructions -/

theorem mapsOk_issue {s : State} (k : Nat) (f : Core → State) (hf : ∀ c, MapsOk (f c)) (h : MapsOk s) :
    MapsOk (issue s k f) := by
  unfold issue
  split
  · exact hf _
  · split
    · exact mapsOk_unitFault _ _ h
    · exact h

@[simp] theorem mapsOk_writeS {s : State} (k : Nat) (c : Core) (sd : BitVec 5) (v : W64) (h : MapsOk s) :
    MapsOk (writeS s k c sd v) := by
  simp [writeS, h]

theorem mapsOk_alu (op : W64 → W64 → W64) (k : Nat) (sd sa sb : BitVec 5) (imm : BitVec 32) {s : State} (h : MapsOk s) :
    MapsOk (alu op k sd sa sb imm s) :=
  mapsOk_issue k _ (fun c => mapsOk_writeS k c sd _ h) h

theorem mapsOk_seqAccess {s : State} (k a : Nat) (rd : Bool) (f : Core → State) (hf : ∀ c, MapsOk (f c)) (h : MapsOk s) :
    MapsOk (seqAccess s k a rd f) := by
  refine mapsOk_issue k _ (fun c => ?_) h
  refine mapsOk_ite.mpr ⟨fun _ => mapsOk_unitFault _ _ h, fun _ => ?_⟩
  refine mapsOk_ite.mpr ⟨fun _ => mapsOk_unitFault _ _ h, fun _ => ?_⟩
  exact mapsOk_ite.mpr ⟨fun _ => mapsOk_stallCore _ _ h, fun _ => hf c⟩

/-! Ticks, musters and counts -/

@[simp] theorem mapsOk_startWait {s : State} (k : Nat) (w : WaitS) (h : MapsOk s) :
    MapsOk (startWait s k w) := by
  simp [startWait, h]

theorem mapsOk_musterDone {s : State} (c g : Nat) (h : MapsOk s) : MapsOk (musterDone s c g) := by
  unfold musterDone
  refine mapsOk_foldl (fun s u h => mapsOk_resume _ (mapsOk_setFace _ _ h)) _ ?_
  exact mapsOk_foldl (fun s g h => mapsOk_setGangFace _ _ h) _ h

@[simp] theorem mapsOk_tryMuster {s : State} (c g : Nat) (h : MapsOk s) :
    MapsOk (tryMuster s c g) := by
  unfold tryMuster
  split <;> apply_rules [mapsOk_musterDone, mapsOk_update]

theorem mapsOk_waitCount (k : Nat) (sv : BitVec 5) (cnt : BitVec 4) (take : Bool) {s : State} (h : MapsOk s) :
    MapsOk (waitCount k sv cnt take s) := by
  refine mapsOk_issue k _ (fun c => ?_) h
  dsimp only
  split
  · refine mapsOk_next k ?_
    split
    · exact mapsOk_setCore _ _ h
    · exact h
  · exact mapsOk_startWait _ _ h

/-! Moves -/

theorem mapsOk_movChecked {s : State} (k : Nat) (f : MovF) (al bs : Core → List Nat) (g : Core → Nat → State)
    (hg : ∀ c n, MapsOk (g c n)) (h : MapsOk s) : MapsOk (movChecked s k f al bs g) := by
  refine mapsOk_issue k _ (fun c => ?_) h
  split
  · exact mapsOk_unitFault _ _ h
  · split
    · exact mapsOk_unitFault _ _ h
    · split
      · exact mapsOk_unitFault _ _ h
      · exact hg c _

theorem mapsOk_sendB2 {s : State} (k op : Nat) (ps : List (Nat × Nat × Nat)) (h : MapsOk s) : MapsOk (sendB2 s k op ps).2 :=
  mapsOk_foldl_snd (fun a e h => mapsOk_b2Request _ _ _ _ _ _ _ _ h) _ h

@[simp] theorem mapsOk_coreRequest {s : State} (k : Nat) (addr op w3 w4 w5 : Nat) (payload : List Byte) (pennant : Bool) (o : Owner) (h : MapsOk s) :
    MapsOk (coreRequest s k addr op w3 w4 w5 payload pennant o) := by
  simp [coreRequest, h]

@[simp] theorem mapsOk_ndcInc {s : State} (c kind : Nat) (h : MapsOk s) :
    MapsOk (ndcInc s c kind) := by
  simp [ndcInc, h]

/-! The vector unit -/

theorem mapsOk_orFree {s : State} (fmt : Nat) (o : Option Nat) (h : MapsOk s) : MapsOk (orFree s fmt o).2 := by
  cases o <;> exact h

theorem mapsOk_writeLanes {s : State} (k : Nat) (vd : BitVec 5) (fmt : Nat) (g : Nat → Option Nat) (ls : List Nat)
    (h : MapsOk s) : MapsOk (writeLanes s k vd fmt g ls) :=
  mapsOk_foldl (fun s i h => mapsOk_setCore _ _ (mapsOk_orFree fmt (g i) h)) _ h

theorem mapsOk_vecIssue (k : Nat) (f : VecF) (ok : Nat → Bool) (wx : Bool) (dst : Nat) (ls : Core → List Nat)
    (g : Core → Nat → Option Nat) {s : State} (h : MapsOk s) : MapsOk (vecIssue k f ok wx dst ls g s) := by
  refine mapsOk_issue k _ (fun c => ?_) h
  split
  · exact mapsOk_unitFault _ _ h
  · exact mapsOk_issueOp _ _ _ _ _ (fun c => mapsOk_writeLanes _ _ _ _ _ h) h

@[simp] theorem mapsOk_vec1 (k : Fin 512) (f : VecF) (ok : Nat → Bool) (op : Nat → FV → Option Nat) {s : State} (h : MapsOk s) :
    MapsOk (vec1 k f ok op s) := by
  unfold vec1
  all_goals apply_rules [mapsOk_vecIssue, mapsOk_update]

@[simp] theorem mapsOk_vec2 (k : Fin 512) (f : VecF) (ok : Nat → Bool) (wx : Bool) (op : Nat → FV → FV → Option Nat) {s : State} (h : MapsOk s) :
    MapsOk (vec2 k f ok wx op s) := by
  unfold vec2
  all_goals apply_rules [mapsOk_vecIssue, mapsOk_update]

@[simp] theorem mapsOk_vecBits (k : Fin 512) (f : VecF) (op : Nat → Nat → Nat → Option Nat) {s : State} (h : MapsOk s) :
    MapsOk (vecBits k f op s) := by
  unfold vecBits
  all_goals apply_rules [mapsOk_vecIssue, mapsOk_update]

/-! The dense array -/

@[simp] theorem mapsOk_noteMisses {s : State} (k c : Nat) (rs : List (Nat × Nat)) (h : MapsOk s) :
    MapsOk (noteMisses s k c rs) := by
  unfold noteMisses
  refine mapsOk_foldl (fun s b h => ?_) _ h
  dsimp only
  repeat' split
  all_goals apply_rules [mapsOk_foldl, mapsOk_update]

theorem mapsOk_readRanges {s : State} (k c : Nat) (rs : List (Nat × Nat)) (h : MapsOk s) :
    MapsOk (readRanges s k c rs).2.2 := by
  unfold readRanges
  refine mapsOk_foldl_trd (fun a r h => ?_) _ h
  exact mapsOk_tierRead _ _ _ _ h

theorem mapsOk_cheapRead (k c : Nat) (rs : List (Nat × Nat)) (n : Nat) {s : State} (h : MapsOk s) :
    MapsOk (cheapRead k c rs n s).2.2 := by
  induction n using Nat.strong_induction_on generalizing s with
  | _ n ih =>
    match n with
    | 0 => exact h
    | 1 => exact mapsOk_readRanges k c rs h
    | n + 2 => exact ih (n + 1) (by omega) (mapsOk_readRanges k c rs h)

theorem mapsOk_matmulRun {s : State} (k : Nat) (f : ArrF) (m kk : Nat) (rdB : List (Nat × Nat))
    (getB : State → Core → List Byte × List Byte × Nat × State) (hb : ∀ c, MapsOk (getB s c).2.2.2) (h : MapsOk s) :
    MapsOk (matmulRun s k f m kk rdB getB) := by
  unfold matmulRun
  refine mapsOk_issueOp _ _ _ _ _ (fun c => ?_) h
  exact hb c

theorem mapsOk_emptyOp {s : State} (k : Nat) (cnt : List Nat) (h : MapsOk s) : MapsOk (emptyOp s k cnt) :=
  mapsOk_next k (mapsOk_foldl (fun s i h => mapsOk_bump _ _ _ h) _ h)

/-! Sparse engines -/

@[simp] theorem mapsOk_freeBytes {s : State} (k : Nat) (r : Nat × Nat) (h : MapsOk s) :
    MapsOk (freeBytes s k r) := by
  unfold freeBytes
  refine mapsOk_foldl (fun s b h => ?_) _ ?_ <;> apply_rules [mapsOk_setCore, mapsOk_foldl, mapsOk_update]

@[simp] theorem mapsOk_spmmFail {s : State} (k : Nat) (f : SprF) (m g : Nat) (rows : List (List Byte)) (scs : List Byte) (h : MapsOk s) :
    MapsOk (spmmFail s k f m g rows scs) := by
  unfold spmmFail
  repeat' split
  all_goals apply_rules [mapsOk_setCore, mapsOk_freeBytes, mapsOk_unitFault, mapsOk_update]

/-! Receiving -/

@[simp] theorem mapsOk_setDelivery {s : State} (src : Nat) (d : Delivery) (h : MapsOk s) :
    MapsOk (setDelivery s src d) := by
  simp [setDelivery, h]

@[simp] theorem mapsOk_openSession {s : State} (p : Packet) (h : MapsOk s) :
    MapsOk (openSession s p) := by
  simp [openSession, h]

@[simp] theorem mapsOk_recordPsn {s : State} (p : Packet) (old : Option W64) (h : MapsOk s) :
    MapsOk (recordPsn s p old) := by
  simp [recordPsn, h]

/-- What the receiver keeps: a packet's effect on the state in which its session is open, and a duplicate's answer. -/
theorem mapsOk_recv {s : State} (p : Packet) (dup : State → State) (act : State → Option State)
    (hdup : ∀ t, MapsOk t → MapsOk (dup t)) (hact : ∀ t, MapsOk t → ∀ u ∈ act t, MapsOk u) (h : MapsOk s) :
    MapsOk (recv s p dup act) := by
  unfold recv
  split
  · exact h
  · split
    · exact mapsOk_crcDrop p h
    next t ht =>
      have hs : MapsOk t := mapsOk_takeDelivery p h t ht
      split
      · exact hs
      · split
        · exact hs
        · exact hdup _ hs
        · exact mapsOk_getD (hact _ (mapsOk_openSession p hs)) h

@[simp] theorem mapsOk_accept {s : State} (port : Nat) (p : Packet) (h : MapsOk s) :
    MapsOk (accept s port p) := by
  simp [accept, h]

theorem mapsOk_engineGate {s : State} (port : Nat) (p : Packet) (k : State → Option State) (hk : ∀ u ∈ k s, MapsOk u)
    (h : MapsOk s) : ∀ u ∈ engineGate s port p k, MapsOk u := by
  unfold engineGate
  dsimp only
  split
  · exact mapsOk_mem_some (mapsOk_sendAck _ _ _ _ h)
  · split
    · exact mapsOk_mem_some (mapsOk_sendAck _ _ _ _ (mapsOk_setCtx _ _ h))
    · exact mapsOk_mem_some (mapsOk_sendAck _ _ _ _ (mapsOk_setCtx _ _ h))
    · exact mapsOk_mem_some (mapsOk_sendAck _ _ _ _ h)
    · exact mapsOk_mem_some (mapsOk_sendAck _ _ _ _ h)
    · exact mapsOk_mem_some (mapsOk_sendAck _ _ _ _ h)
    · exact hk

@[simp] theorem mapsOk_msgAdd {s : State} (p : Packet) (h : MapsOk s) :
    MapsOk (msgAdd s p).2 := by
  unfold msgAdd
  dsimp only
  repeat' split
  all_goals apply_rules [mapsOk_foldl, mapsOk_update]

/-! Rings -/

@[simp] theorem mapsOk_ringPut {s : State} (r : Ring) (rec : List Byte) (h : MapsOk s) :
    MapsOk (ringPut s r rec).2 := by
  unfold ringPut
  repeat' split
  all_goals apply_rules [mapsOk_b1Write, mapsOk_update]

@[simp] theorem mapsOk_digPut {s : State} (rec : List Byte) (h : MapsOk s) :
    MapsOk (digPut s rec) := by
  simp [digPut, h]

@[simp] theorem mapsOk_sampPut {s : State} (rec : List Byte) (h : MapsOk s) :
    MapsOk (sampPut s rec) := by
  simp [sampPut, h]

@[simp] theorem mapsOk_fold {s : State} (c cls key c1 c2 c3 : Nat) (step : W64) (tile : List Byte) (h : MapsOk s) :
    MapsOk (fold s c cls key c1 c2 c3 step tile) := by
  simp [fold, h]

@[simp] theorem mapsOk_addSpoil {s : State} (c : Nat) (step : W64) (n : Nat) (h : MapsOk s) :
    MapsOk (addSpoil s c step n) := by
  simp [addSpoil, h]

theorem mapsOk_digestStep {s : State} (c step : Nat) (h : MapsOk s) : MapsOk (digestStep s c step) := by
  unfold digestStep
  exact mapsOk_setCtx c _ (mapsOk_update (mapsOk_digPut _ (mapsOk_foldl (fun s a h => mapsOk_digPut _ h) _ h)))

@[simp] theorem mapsOk_digestUpTo {s : State} (c upto : Nat) (h : MapsOk s) :
    MapsOk (digestUpTo s c upto) := by
  unfold digestUpTo
  refine mapsOk_foldl (fun s b h => ?_) _ ?_ <;> apply_rules [mapsOk_digestStep, mapsOk_foldl, mapsOk_update]

@[simp] theorem mapsOk_digestClear {s : State} (c : Nat) (h : MapsOk s) :
    MapsOk (digestClear s c) := by
  simp [digestClear, h]

@[simp] theorem mapsOk_setMeas {s : State} (m : Nat) (x : Meas) (h : MapsOk s) :
    MapsOk (setMeas s m x) := by
  simp [setMeas, h]

@[simp] theorem mapsOk_measSet {s : State} (m : Nat) (v : List Byte) (h : MapsOk s) :
    MapsOk (measSet s m v) := by
  simp [measSet, h]

@[simp] theorem mapsOk_measStart {s : State} (m : Nat) (v : List Byte) (h : MapsOk s) :
    MapsOk (measStart s m v) := by
  simp [measStart, h]

/-! Riddle engines -/

@[simp] theorem mapsOk_rdlAdvance {s : State} (e n : Nat) (h : MapsOk s) :
    MapsOk (rdlAdvance s e n) := by
  unfold rdlAdvance
  dsimp only
  repeat' split
  all_goals apply_rules [mapsOk_unitFault, mapsOk_setRiddle, mapsOk_update]

@[simp] theorem mapsOk_riddleRun {s : State} (e prog gang : Nat) (h : MapsOk s) :
    MapsOk (riddleRun s e prog gang) := by
  unfold riddleRun
  dsimp only
  repeat' split
  all_goals apply_rules [mapsOk_setRiddle, mapsOk_unitFault, mapsOk_update]

@[simp] theorem mapsOk_rdlCommand {s : State} (e : Nat) {act : State} (h : MapsOk s) (h2 : MapsOk act) :
    MapsOk (rdlCommand s e act) := by
  unfold rdlCommand
  repeat' split
  all_goals apply_rules [mapsOk_unitFault, mapsOk_update]

@[simp] theorem mapsOk_routeConsumed {s : State} (e : Nat) (h : MapsOk s) :
    MapsOk (routeConsumed s e) := by
  unfold routeConsumed
  all_goals apply_rules [mapsOk_bump, mapsOk_rdlAdvance, mapsOk_setRiddle, mapsOk_setFace, mapsOk_update]

@[simp] theorem mapsOk_seqCheck {s : State} (e : Nat) (o : ROp) (h : MapsOk s) :
    MapsOk (seqCheck s e o) := by
  simp [seqCheck, h]

@[simp] theorem mapsOk_route {s : State} (e : Nat) (f : RouteF) (h : MapsOk s) :
    MapsOk (route s e f) := by
  unfold route
  dsimp only
  repeat' split
  all_goals apply_rules [mapsOk_unitFault, mapsOk_setRiddle, mapsOk_seqCheck, mapsOk_update]

@[simp] theorem mapsOk_loadLane {s : State} (e : Nat) (o : ROp) (h : MapsOk s) :
    MapsOk (loadLane s e o).2 := by
  unfold loadLane
  dsimp only
  repeat' split
  all_goals apply_rules [mapsOk_tierRead, mapsOk_setRiddle, mapsOk_update]

@[simp] theorem mapsOk_loadBias {s : State} (e : Nat) (o : ROp) (h : MapsOk s) :
    MapsOk (loadBias s e o).2 := by
  unfold loadBias
  dsimp only
  repeat' split
  all_goals apply_rules [mapsOk_tierRead, mapsOk_update]

@[simp] theorem mapsOk_scoreBlock {s : State} (e : Nat) (residueOk : Bool) (h : MapsOk s) :
    MapsOk (scoreBlock s e residueOk) := by
  unfold scoreBlock
  dsimp only
  repeat' split
  all_goals apply_rules [mapsOk_seqCheck, mapsOk_unitFault, mapsOk_setRiddle, mapsOk_loadLane, mapsOk_loadBias, mapsOk_update]

@[simp] theorem mapsOk_tryReserve {s : State} (e : Nat) (h : MapsOk s) :
    MapsOk (tryReserve s e) := by
  unfold tryReserve
  repeat' split
  all_goals apply_rules [mapsOk_setRiddle, mapsOk_update]

@[simp] theorem mapsOk_riddleBuffer {s : State} (e p buf : Nat) (h : MapsOk s) :
    MapsOk (riddleBuffer s e p buf) := by
  unfold riddleBuffer
  repeat' first
    | with_reducible assumption
    | with_reducible apply mapsOk_poolRelease
    | with_reducible apply mapsOk_bufWrite
    | with_reducible apply mapsOk_tryReserve
    | with_reducible apply mapsOk_setRiddle
    | split

theorem mapsOk_capacityExchange {s : State} (e : Nat) (h : MapsOk s) : MapsOk (capacityExchange s e) := by
  unfold capacityExchange
  split
  · exact h
  next o _ =>
    extract_lets g ops start l
    split
    · have hr : ∀ x, MapsOk (setRiddle s e x) := fun x => mapsOk_setRiddle e x h
      split
      next heq => exact mapsOk_riddleBuffer _ _ _ (mapsOk_of_some_pair heq (mapsOk_poolAlloc _ _ _ (hr _)))
      next => exact mapsOk_poolWait _ _ _ (hr _)
    · exact h

@[simp] theorem mapsOk_histAdd (e : Nat) (cfg : Nat) {s : State} (x : Nat × Nat × Nat) (h : MapsOk s) :
    MapsOk (histAdd e cfg s x) := by
  unfold histAdd
  repeat' split
  all_goals apply_rules [mapsOk_b1Nat, mapsOk_b1Write, mapsOk_update]

@[simp] theorem mapsOk_predictorReport {s : State} (c cfg expert : Nat) (h : MapsOk s) :
    MapsOk (predictorReport s c cfg expert) := by
  unfold predictorReport
  dsimp only
  repeat' split
  all_goals apply_rules [mapsOk_b1Nat, mapsOk_b1Write, mapsOk_update]

@[simp] theorem mapsOk_walkExpert (c n : Nat) (cfg : Nat) {s : State} (p : PlaceRec) (h : MapsOk s) :
    MapsOk (walkExpert c n cfg s p) := by
  unfold walkExpert
  dsimp only
  repeat' split
  all_goals apply_rules [mapsOk_b1Nat, mapsOk_update]

@[simp] theorem mapsOk_predictorWalk {s : State} (c : Nat) (h : MapsOk s) :
    MapsOk (predictorWalk s c) := by
  unfold predictorWalk
  refine mapsOk_foldl (fun s b h => ?_) _ ?_ <;> apply_rules [mapsOk_walkExpert, mapsOk_foldl, mapsOk_update]

@[simp] theorem mapsOk_handOne {s : State} (e : Nat) (h : MapsOk s) :
    MapsOk (handOne s e) := by
  unfold handOne
  repeat' first
    | with_reducible assumption
    | with_reducible apply mapsOk_setTrw
    | with_reducible apply mapsOk_histAdd
    | with_reducible apply mapsOk_b0Write
    | with_reducible apply mapsOk_bump
    | with_reducible apply mapsOk_addSpoil
    | with_reducible apply mapsOk_fold
    | with_reducible apply mapsOk_rdlAdvance
    | with_reducible apply mapsOk_setRiddle
    | with_reducible refine mapsOk_foldl (fun _ _ _ => ?_) _ ?_
    | split
    | fail_if_no_progress with_reducible refine mapsOk_update ?_

theorem mapsOk_handover {s : State} (e : Nat) (h : MapsOk s) : MapsOk (handover s e) := by
  have ht : MapsOk ((rdlGroup s e).foldl (fun s x => if listBuilt s x then tryReserve s x else s) s) := by
    refine mapsOk_foldl (fun s x h => ?_) _ h
    split
    · exact mapsOk_tryReserve x h
    · exact h
  unfold handover
  extract_lets g t
  change MapsOk t at ht
  clear_value t
  split
  · exact mapsOk_foldl (fun s x h => mapsOk_handOne x h) _ ht
  · exact ht

theorem mapsOk_rdlAbandon {s : State} (e : Nat) (h : MapsOk s) : MapsOk (rdlAbandon s e) := by
  unfold rdlAbandon
  extract_lets r
  split
  · exact h
  next o _ =>
    refine mapsOk_setRiddle e _ (mapsOk_setFace _ _ (mapsOk_bump _ _ _ ?_))
    split
    · exact mapsOk_setPool _ _ h
    · split
      · exact mapsOk_poolRelease _ _ h
      · exact h

@[simp] theorem mapsOk_riddleStop {s : State} (e : Nat) (h : MapsOk s) :
    MapsOk (riddleStop s e) := by
  unfold riddleStop
  repeat' first
    | with_reducible assumption
    | with_reducible apply mapsOk_rdlAbandon
    | with_reducible apply mapsOk_setRiddle
    | with_reducible refine mapsOk_foldl (fun _ _ _ => ?_) _ ?_
    | split

/-! Tramway engines -/

@[simp] theorem mapsOk_trwFault {s : State} (t c code : Nat) (h : MapsOk s) :
    MapsOk (trwFault s t c code) := by
  unfold trwFault
  split <;> apply_rules [mapsOk_unitFault, mapsOk_teardown, mapsOk_update]

@[simp] theorem mapsOk_trwAdvance {s : State} (t n : Nat) (h : MapsOk s) :
    MapsOk (trwAdvance s t n) := by
  unfold trwAdvance
  dsimp only
  repeat' split
  all_goals apply_rules [mapsOk_unitFault, mapsOk_setTrw, mapsOk_update]

@[simp] theorem mapsOk_trwRun {s : State} (t prog gang : Nat) (h : MapsOk s) :
    MapsOk (trwRun s t prog gang) := by
  unfold trwRun
  dsimp only
  repeat' split
  all_goals apply_rules [mapsOk_setTrw, mapsOk_unitFault, mapsOk_update]

@[simp] theorem mapsOk_trwCommand {s : State} (t : Nat) {act : State} (h : MapsOk s) (h2 : MapsOk act) :
    MapsOk (trwCommand s t act) := by
  unfold trwCommand
  repeat' split
  all_goals apply_rules [mapsOk_unitFault, mapsOk_update]

@[simp] theorem mapsOk_newId {s : State} (h : MapsOk s) :
    MapsOk (newId s).2 := by
  simp [newId, h]

@[simp] theorem mapsOk_areaWrite {s : State} (p : Nat) (l : List Nat) (o : Nat) (d : List Byte) (r : Req) (h : MapsOk s) :
    MapsOk (areaWrite s p l o d r) := by
  unfold areaWrite
  refine mapsOk_foldl (fun s b h => ?_) _ h
  split <;> apply_rules [mapsOk_bufWrite, mapsOk_foldl, mapsOk_update]

@[simp] theorem mapsOk_areaRead {s : State} (p : Nat) (l : List Nat) (o n : Nat) (r : Req) (h : MapsOk s) :
    MapsOk (areaRead s p l o n r).2 := by
  unfold areaRead
  repeat' first
    | with_reducible assumption
    | with_reducible apply mapsOk_bufRead
    | with_reducible refine mapsOk_foldl_snd (fun _ _ _ => ?_) _ ?_
    | split

@[simp] theorem mapsOk_trwDrain {s : State} (t : Nat) (h : MapsOk s) :
    MapsOk (trwDrain s t) := by
  unfold trwDrain
  repeat' first
    | with_reducible assumption
    | with_reducible apply mapsOk_sendRequest
    | with_reducible apply mapsOk_setTrw
    | with_reducible refine mapsOk_foldl (fun _ _ _ => ?_) _ ?_
    | split

@[simp] theorem mapsOk_trwMessage {s : State} (t c : Nat) (seq : W32) (dest vc : Nat) (pool : Option Nat) (bufs : List Nat) (b : List Byte) (h : MapsOk s) :
    MapsOk (trwMessage s t c seq dest vc pool bufs b) := by
  simp [trwMessage, h]

@[simp] theorem mapsOk_trwLess {s : State} (t m n : Nat) (h : MapsOk s) :
    MapsOk (trwLess s t m n) := by
  unfold trwLess
  dsimp only
  repeat' split
  all_goals apply_rules [mapsOk_poolReleaseAll, mapsOk_setTrw, mapsOk_update]

@[simp] theorem mapsOk_countBody {s : State} (t : Nat) (rows body : List Byte) (h : MapsOk s) :
    MapsOk (countBody s t rows body) := by
  simp [countBody, h]

@[simp] theorem mapsOk_mapRec {s : State} (t n : Nat) (f : TRec → TRec) (h : MapsOk s) :
    MapsOk (mapRec s t n f) := by
  simp [mapRec, h]

@[simp] theorem mapsOk_freeRec {s : State} (t : Nat) (r : TRec) (h : MapsOk s) :
    MapsOk (freeRec s t r) := by
  unfold freeRec
  repeat' first
    | with_reducible assumption
    | with_reducible apply mapsOk_setTrw
    | with_reducible apply mapsOk_poolReleaseAll
    | with_reducible apply mapsOk_poolRelease
    | split

@[simp] theorem mapsOk_mapTab {s : State} (t n : Nat) (f : CountTab → CountTab) (h : MapsOk s) :
    MapsOk (mapTab s t n f) := by
  simp [mapTab, h]

@[simp] theorem mapsOk_freeTab {s : State} (t : Nat) (r : CountTab) (h : MapsOk s) :
    MapsOk (freeTab s t r) := by
  unfold freeTab
  all_goals apply_rules [mapsOk_poolReleaseAll, mapsOk_setTrw, mapsOk_update]

@[simp] theorem mapsOk_b0Peek {s : State} (c n a len : Nat) (h : MapsOk s) :
    MapsOk (b0Peek s c n a len).2 := by
  unfold b0Peek
  split <;> apply_rules [mapsOk_b1Read, mapsOk_update]

@[simp] theorem mapsOk_putElem {s : State} (c n a fmt i v : Nat) (h : MapsOk s) :
    MapsOk (putElem s c n a fmt i v) := by
  simp [putElem, h]

theorem mapsOk_putRow {s : State} (tb : CountTab) (r : Nat) (row : List Byte) (n : Nat) (h : MapsOk s) :
    MapsOk (putRow s tb r row n) := by
  unfold putRow
  extract_lets f c a
  split
  · exact mapsOk_foldl (fun s e h => mapsOk_putElem _ _ _ _ _ _ h) _ h
  · exact mapsOk_b0Write _ _ _ _ h

@[simp] theorem mapsOk_putRowAll {s : State} (tb : CountTab) (r : Nat) (row : List Byte) (h : MapsOk s) :
    MapsOk (putRowAll s tb r row) := by
  unfold putRowAll
  refine mapsOk_foldl (fun s b h => ?_) _ ?_ <;> apply_rules [mapsOk_putRow, mapsOk_foldl, mapsOk_update]

@[simp] theorem mapsOk_deposits {s : State} (t n : Nat) (h : MapsOk s) :
    MapsOk (deposits s t n) := by
  unfold deposits
  repeat' first
    | with_reducible assumption
    | with_reducible apply mapsOk_mapTab
    | with_reducible apply mapsOk_putRowAll
    | with_reducible apply mapsOk_deposit
    | with_reducible apply mapsOk_bump
    | with_reducible apply mapsOk_predictorReport
    | with_reducible refine mapsOk_foldl (fun _ _ _ => ?_) _ ?_
    | split

@[simp] theorem mapsOk_takeRow (t n : Nat) {s : State} (e : Nat × Nat × W64 × List Byte) (h : MapsOk s) :
    MapsOk (takeRow t n s e) := by
  unfold takeRow
  dsimp only
  repeat' split
  all_goals apply_rules [mapsOk_mapTab, mapsOk_bump, mapsOk_putRowAll, mapsOk_update]

@[simp] theorem mapsOk_rowsIn {s : State} (t n : Nat) (src : Nat) (b : List Byte) (h : MapsOk s) :
    MapsOk (rowsIn s t n src b) := by
  unfold rowsIn
  repeat' first
    | with_reducible assumption
    | with_reducible apply mapsOk_takeRow
    | with_reducible apply mapsOk_deposits
    | with_reducible refine mapsOk_foldl (fun _ _ _ => ?_) _ ?_
    | split

@[simp] theorem mapsOk_cancelIn {s : State} (t n : Nat) (src : Nat) (hx : PHdr) (h : MapsOk s) :
    MapsOk (cancelIn s t n src hx) := by
  unfold cancelIn
  dsimp only
  repeat' first
    | with_reducible assumption
    | with_reducible apply mapsOk_mapTab
    | with_reducible apply mapsOk_putRowAll
    | with_reducible apply mapsOk_deposits
    | with_reducible refine mapsOk_foldl (fun _ _ _ => ?_) _ ?_
    | split

@[simp] theorem mapsOk_combineToken {s : State} (t : Nat) (r : TRec) (f : CombineF) (i : Nat) (h : MapsOk s) :
    MapsOk (combineToken s t r f i).2 := by
  unfold combineToken
  repeat' first
    | with_reducible assumption
    | with_reducible apply mapsOk_areaRead
    | with_reducible refine mapsOk_foldl_snd (fun _ _ _ => ?_) _ ?_
    | split

theorem mapsOk_combineRow (t : Nat) (r : TRec) (f : CombineF) (a : List Nat × State) (i : Nat) (h : MapsOk a.2) :
    MapsOk (combineRow t r f a i).2 := by
  unfold combineRow
  refine mapsOk_b0Write _ _ _ _ ?_
  split
  · exact h
  · exact mapsOk_combineToken _ _ _ _ h

theorem mapsOk_combineList {s : State} (t n : Nat) (residueOk : Bool) (h : MapsOk s) : MapsOk (combineList s t n residueOk) := by
  unfold combineList
  split
  · exact h
  next r _ =>
    split
    · exact h
    next f _ =>
      dsimp only
      split
      · exact h
      · split
        · exact mapsOk_postArith _ _ _ _ (mapsOk_trwFault _ _ _ h)
        · generalize hx : (List.range r.list.tokens).foldl (combineRow t r f) ([], s) = x
          have hs : MapsOk x.2 := by
            rw [← hx]
            exact mapsOk_foldl_snd (fun a i h => mapsOk_combineRow t r f a i h) _ h
          refine mapsOk_freeRec _ _ (mapsOk_deposit _ _ _ _ _ ?_)
          split
          · exact mapsOk_bump _ _ _ (mapsOk_ndcInc _ _ (mapsOk_fold _ _ _ _ _ _ _ _ hs))
          · exact mapsOk_fold _ _ _ _ _ _ _ _ hs

@[simp] theorem mapsOk_staleAnswer {s : State} (c : Nat) (tag : W64) (h : MapsOk s) :
    MapsOk (staleAnswer s c tag) := by
  simp [staleAnswer, h]

@[simp] theorem mapsOk_answer {s : State} (c : Nat) (tag : W64) (row : List Byte) (h : MapsOk s) :
    MapsOk (answer s c tag row) := by
  unfold answer
  dsimp only
  repeat' split
  all_goals apply_rules [mapsOk_staleAnswer, mapsOk_addSpoil, mapsOk_mapRec, mapsOk_bump, mapsOk_areaWrite, mapsOk_update]

@[simp] theorem mapsOk_resultIn {s : State} (c : Nat) (b : List Byte) (residueOk : Bool) (h : MapsOk s) :
    MapsOk (resultIn s c b residueOk) := by
  unfold resultIn
  repeat' first
    | with_reducible assumption
    | with_reducible apply mapsOk_answer
    | with_reducible apply mapsOk_combineList
    | with_reducible refine mapsOk_foldl (fun _ _ _ => ?_) _ ?_

@[simp] theorem mapsOk_trwWant {s : State} (t c pool n : Nat) (k : TWantK) (h : MapsOk s) :
    MapsOk (trwWant s t c pool n k) := by
  unfold trwWant
  all_goals apply_rules [mapsOk_newId, mapsOk_poolWait, mapsOk_setTrw, mapsOk_update]

@[simp] theorem mapsOk_trwUnwant {s : State} (t : Nat) (p : TWant → Bool) (h : MapsOk s) :
    MapsOk (trwUnwant s t p) := by
  unfold trwUnwant
  refine mapsOk_foldl (fun s b h => ?_) _ ?_ <;> apply_rules [mapsOk_setPool, mapsOk_setTrw, mapsOk_foldl, mapsOk_update]

/-! Collectives -/

@[simp] theorem mapsOk_cRecord {s : State} (d : CDesc) (status lost nFailed firstFailed : Nat) (h : MapsOk s) :
    MapsOk (cRecord s d status lost nFailed firstFailed) := by
  simp [cRecord, h]

@[simp] theorem mapsOk_countBad {s : State} (d : Nat) (h : MapsOk s) :
    MapsOk (countBad s d) := by
  simp [countBad, h]

@[simp] theorem mapsOk_collTake {s : State} (c : Nat) (b : List Byte) (h : MapsOk s) :
    ∀ t ∈ collTake s c b, MapsOk t := by
  unfold collTake
  dsimp only
  repeat' split
  all_goals simp [h]

@[simp] theorem mapsOk_mapCop {s : State} (d g : Nat) (q : BitVec 16) (f : COp → COp) (h : MapsOk s) :
    MapsOk (mapCop s d g q f) := by
  simp [mapCop, h]

@[simp] theorem mapsOk_collSend {s : State} (d : Nat) (o : COp) (tgt : Nat × Option Nat) (vc w4 w5 : Nat) (b : List Byte) (chunk : Option Nat) (h : MapsOk s) :
    MapsOk (collSend s d o tgt vc w4 w5 b chunk) := by
  unfold collSend
  repeat' first
    | with_reducible assumption
    | with_reducible apply mapsOk_newId
    | with_reducible apply mapsOk_mapCop
    | with_reducible apply mapsOk_sendRequest
    | with_reducible refine mapsOk_foldl (fun _ _ _ => ?_) _ ?_
    | split

@[simp] theorem mapsOk_countSent {s : State} (d : Nat) (raw body : List Byte) (h : MapsOk s) :
    MapsOk (countSent s d raw body) := by
  simp [countSent, h]

@[simp] theorem mapsOk_countRecv {s : State} (d : Nat) (h : MapsOk s) :
    MapsOk (countRecv s d) := by
  simp [countRecv, h]

@[simp] theorem mapsOk_relay {s : State} (c g : Nat) (q : BitVec 16) (p : Packet) (b : List Byte) (h : MapsOk s) :
    MapsOk (relay s c g q p b) := by
  unfold relay
  dsimp only
  repeat' first
    | with_reducible assumption
    | with_reducible apply mapsOk_collSend
    | with_reducible refine mapsOk_foldl (fun _ _ _ => ?_) _ ?_
    | split

@[simp] theorem mapsOk_closeOutput {s : State} (o : COp) (geo : CGeo) (m : CMem) (h : MapsOk s) :
    MapsOk (closeOutput s o geo m) := by
  unfold closeOutput
  repeat' first
    | with_reducible assumption
    | with_reducible apply mapsOk_putElem
    | with_reducible apply mapsOk_b0Write
    | with_reducible refine mapsOk_foldl (fun _ _ _ => ?_) _ ?_
    | split

@[simp] theorem mapsOk_finishMem {s : State} (d : Nat) (o : COp) (m : CMem) (h : MapsOk s) :
    MapsOk (finishMem s d o m) := by
  unfold finishMem
  repeat' first
    | with_reducible assumption
    | with_reducible apply mapsOk_closeOutput
    | with_reducible apply mapsOk_mapCop
    | with_reducible apply mapsOk_countBad
    | with_reducible apply mapsOk_cRecord
    | split

@[simp] theorem mapsOk_finishMems {s : State} (d g : Nat) (q : BitVec 16) (h : MapsOk s) :
    MapsOk (finishMems s d g q) := by
  unfold finishMems
  split
  · exact h
  · refine mapsOk_foldl (fun s b h => ?_) _ ?_ <;> apply_rules [mapsOk_finishMem, mapsOk_foldl, mapsOk_update]

@[simp] theorem mapsOk_rsRelease {s : State} (p : Grant → Bool) (h : MapsOk s) :
    MapsOk (rsRelease s p) := by
  simp [rsRelease, h]

@[simp] theorem mapsOk_endCop {s : State} (d g : Nat) (q : BitVec 16) (h : MapsOk s) :
    MapsOk (endCop s d g q) := by
  unfold endCop
  dsimp only
  repeat' first
    | with_reducible assumption
    | with_reducible apply mapsOk_poolReleaseAll
    | with_reducible apply mapsOk_setColl
    | with_reducible apply mapsOk_rsRelease
    | with_reducible apply mapsOk_setCGroup
    | with_reducible refine mapsOk_foldl (fun _ _ _ => ?_) _ ?_
    | split

@[simp] theorem mapsOk_failCop {s : State} (d g : Nat) (q : BitVec 16) (h : MapsOk s) :
    MapsOk (failCop s d g q) := by
  unfold failCop
  repeat' first
    | with_reducible assumption
    | with_reducible apply mapsOk_endCop
    | with_reducible apply mapsOk_finishMem
    | with_reducible refine mapsOk_foldl (fun _ _ _ => ?_) _ ?_
    | split

@[simp] theorem mapsOk_rsClaim {s : State} (part : Nat) (gr : Grant) (h : MapsOk s) :
    MapsOk (rsClaim s part gr).2 := by
  unfold rsClaim
  dsimp only
  repeat' split
  all_goals apply_rules [mapsOk_foldl, mapsOk_update]

@[simp] theorem mapsOk_openWin {s : State} (c g : Nat) (q : BitVec 16) (k : Nat) (h : MapsOk s) :
    MapsOk (openWin s c g q k) := by
  unfold openWin
  dsimp only
  repeat' first
    | with_reducible assumption
    | with_reducible apply mapsOk_mapCop
    | with_reducible apply mapsOk_rsClaim
    | with_reducible apply mapsOk_setColl
    | split
    | with_reducible refine mapsOk_of_pair (by assumption) ?_

@[simp] theorem mapsOk_creditChunk {s : State} (d g : Nat) (q : BitVec 16) (k : Nat) (bufs : List Nat) (h : MapsOk s) :
    MapsOk (creditChunk s d g q k bufs) := by
  unfold creditChunk
  dsimp only
  repeat' first
    | with_reducible assumption
    | with_reducible apply mapsOk_mapCop
    | with_reducible apply mapsOk_collSend
    | with_reducible refine mapsOk_foldl (fun _ _ _ => ?_) _ ?_
    | split

@[simp] theorem mapsOk_openStep {s : State} (d g : Nat) (q : BitVec 16) (h : MapsOk s) :
    ∀ t ∈ openStep s d g q, MapsOk t := by
  unfold openStep
  dsimp only
  repeat' first
    | with_reducible assumption
    | with_reducible apply mapsOk_openWin
    | with_reducible apply mapsOk_creditChunk
    | with_reducible apply mapsOk_poolAlloc
    | with_reducible apply mapsOk_newId
    | with_reducible apply mapsOk_poolWait
    | with_reducible apply mapsOk_mapCop
    | with_reducible exact mapsOk_mem_none
    | with_reducible refine mapsOk_mem_some ?_
    | split
    | with_reducible refine mapsOk_of_some_pair (by assumption) ?_

@[simp] theorem mapsOk_lendAll {s : State} (d g : Nat) (q : BitVec 16) (h : MapsOk s) :
    MapsOk (lendAll s d g q) := by
  unfold lendAll
  dsimp only
  repeat' first
    | with_reducible assumption
    | with_reducible apply mapsOk_mapCop
    | with_reducible apply mapsOk_collSend
    | with_reducible refine mapsOk_foldl (fun _ _ _ => ?_) _ ?_
    | split

@[simp] theorem mapsOk_putVals {s : State} (c core dst fmt : Nat) (ranges : List (Nat × Nat)) (i : Nat) (vs : List Nat) (h : MapsOk s) :
    MapsOk (putVals s c core dst fmt ranges i vs) := by
  unfold putVals
  refine mapsOk_foldl (fun s b h => ?_) _ ?_ <;> apply_rules [mapsOk_putElem, mapsOk_foldl, mapsOk_update]

@[simp] theorem mapsOk_putRun {s : State} (c core dst fmt : Nat) (ranges : List (Nat × Nat)) (i : Nat) (vs : List Nat) (h : MapsOk s) :
    MapsOk (putRun s c core dst fmt ranges i vs) := by
  unfold putRun
  dsimp only
  repeat' first
    | with_reducible assumption
    | with_reducible apply mapsOk_b0Write
    | with_reducible apply mapsOk_putElem
    | with_reducible apply mapsOk_putVals
    | with_reducible refine mapsOk_foldl (fun _ _ _ => ?_) _ ?_
    | split

@[simp] theorem mapsOk_resultTo (g : Nat) (q : BitVec 16) (k : Nat) (vs : List Nat) (failed : Bool) {s : State} (d : Nat) (h : MapsOk s) :
    MapsOk (resultTo g q k vs failed s d) := by
  unfold resultTo
  repeat' first
    | with_reducible assumption
    | with_reducible apply mapsOk_mapCop
    | with_reducible apply mapsOk_putRun
    | with_reducible refine mapsOk_foldl (fun _ _ _ => ?_) _ ?_
    | split

@[simp] theorem mapsOk_resultAll {s : State} (g : Nat) (q : BitVec 16) (k : Nat) (vs : List Nat) (failed : Bool) (h : MapsOk s) :
    MapsOk (resultAll s g q k vs failed) := by
  unfold resultAll
  refine mapsOk_foldl (fun s b h => ?_) _ ?_ <;> apply_rules [mapsOk_resultTo, mapsOk_foldl, mapsOk_update]

@[simp] theorem mapsOk_dataTo (g : Nat) (q : BitVec 16) (r k : Nat) (b : List Byte) (len : Option Nat) {s : State} (d : Nat) (h : MapsOk s) :
    MapsOk (dataTo g q r k b len s d) := by
  unfold dataTo
  repeat' first
    | with_reducible assumption
    | with_reducible apply mapsOk_mapCop
    | with_reducible apply mapsOk_b0Write
    | with_reducible refine mapsOk_foldl (fun _ _ _ => ?_) _ ?_
    | split

@[simp] theorem mapsOk_dataAll {s : State} (g : Nat) (q : BitVec 16) (r k : Nat) (b : List Byte) (len : Option Nat) (h : MapsOk s) :
    MapsOk (dataAll s g q r k b len) := by
  unfold dataAll
  refine mapsOk_foldl (fun s b h => ?_) _ ?_ <;> apply_rules [mapsOk_dataTo, mapsOk_foldl, mapsOk_update]

@[simp] theorem mapsOk_copyGaps {s : State} (o : COp) (m : CMem) (h : MapsOk s) :
    MapsOk (copyGaps s o m) := by
  unfold copyGaps
  refine mapsOk_foldl (fun s b h => ?_) _ ?_ <;> apply_rules [mapsOk_b0Write, mapsOk_foldl, mapsOk_update]

@[simp] theorem mapsOk_rootOut {s : State} (d : Nat) (o : COp) (geo : CGeo) (k : Nat) (v : List Nat × Bool) (h : MapsOk s) :
    MapsOk (rootOut s d o geo k v) := by
  unfold rootOut
  dsimp only
  repeat' first
    | with_reducible assumption
    | with_reducible apply mapsOk_fold
    | with_reducible apply mapsOk_resultAll
    | with_reducible apply mapsOk_collSend
    | with_reducible apply mapsOk_countSent
    | with_reducible refine mapsOk_foldl (fun _ _ _ => ?_) _ ?_
    | split

@[simp] theorem mapsOk_partialOut {s : State} (d : Nat) (o : COp) (geo : CGeo) (k a l : Nat) (v : List Nat × Bool) (h : MapsOk s) :
    MapsOk (partialOut s d o geo k a l v) := by
  simp [partialOut, h]

@[simp] theorem mapsOk_redStep {s : State} (d g : Nat) (q : BitVec 16) (h : MapsOk s) :
    ∀ t ∈ redStep s d g q, MapsOk t := by
  unfold redStep
  dsimp only
  repeat' split
  all_goals simp [h]

@[simp] theorem mapsOk_moveStep {s : State} (d g : Nat) (q : BitVec 16) (h : MapsOk s) :
    ∀ t ∈ moveStep s d g q, MapsOk t := by
  unfold moveStep
  dsimp only
  repeat' first
    | with_reducible assumption
    | with_reducible apply mapsOk_mapCop
    | with_reducible apply mapsOk_dataAll
    | with_reducible apply mapsOk_countSent
    | with_reducible apply mapsOk_collSend
    | with_reducible refine mapsOk_foldl (fun _ _ _ => ?_) _ ?_
    | with_reducible exact mapsOk_mem_none
    | with_reducible refine mapsOk_mem_some ?_
    | split

/-- Steps taken while they can be. -/
theorem mapsOk_iter {f : State → Option State} (hf : ∀ s, MapsOk s → ∀ u ∈ f s, MapsOk u) (n : Nat) {s : State}
    (h : MapsOk s) : MapsOk (iter f n s) := by
  induction n generalizing s with
  | zero => exact h
  | succ n ih =>
    unfold iter
    split
    next heq => exact ih (hf s h _ heq)
    next => exact h

@[simp] theorem mapsOk_releaseDone {s : State} (d g : Nat) (q : BitVec 16) (h : MapsOk s) :
    MapsOk (releaseDone s d g q) := by
  unfold releaseDone
  dsimp only
  repeat' first
    | with_reducible assumption
    | with_reducible apply mapsOk_poolReleaseAll
    | with_reducible apply mapsOk_mapCop
    | with_reducible apply mapsOk_rsRelease
    | with_reducible refine mapsOk_foldl (fun _ _ _ => ?_) _ ?_
    | split

theorem mapsOk_collAdvance {s : State} (d g : Nat) (q : BitVec 16) (h : MapsOk s) : MapsOk (collAdvance s d g q) := by
  have hopen : ∀ n {t : State}, MapsOk t → MapsOk (iter (fun s => openStep s d g q) n t) :=
    fun n _ ht => mapsOk_iter (fun s h => mapsOk_openStep d g q h) n ht
  unfold collAdvance
  split
  · exact h
  · split
    · exact h
    · extract_lets geo red t1 t2 u v
      have hv : MapsOk v := by
        refine mapsOk_finishMems _ _ _ ?_
        unfold u
        split
        · exact h
        · split
          · exact hopen _ (mapsOk_releaseDone _ _ _ (mapsOk_iter (fun s h => mapsOk_redStep d g q h) _ (hopen _ h)))
          · exact mapsOk_iter (fun s h => mapsOk_moveStep d g q h) _ (mapsOk_lendAll _ _ _ h)
      clear_value v
      split
      · exact hv
      · extract_lets sent st
        split
        · exact mapsOk_endCop _ _ _ hv
        · exact mapsOk_mapCop _ _ _ _ hv

@[simp] theorem mapsOk_collAdvanceAll {s : State} (g : Nat) (q : BitVec 16) (h : MapsOk s) :
    MapsOk (collAdvanceAll s g q) := by
  unfold collAdvanceAll
  refine mapsOk_foldl (fun s b h => ?_) _ ?_ <;> apply_rules [mapsOk_collAdvance, mapsOk_foldl, mapsOk_update]

theorem mapsOk_postMismatch (d : Nat) (o : COp) (n : Nat) {s : State} (h : MapsOk s) : MapsOk (postMismatch s d o n) := by
  induction n generalizing s with
  | zero => exact h
  | succ n ih => exact ih (mapsOk_post _ _ _ _ (mapsOk_setColl _ _ h))

@[simp] theorem mapsOk_verdictTo (g : Nat) (q : BitVec 16) (mis : Bool) {s : State} (d : Nat) (h : MapsOk s) :
    MapsOk (verdictTo g q mis s d) := by
  unfold verdictTo
  repeat' first
    | with_reducible assumption
    | with_reducible apply mapsOk_mapCop
    | with_reducible apply mapsOk_failCop
    | with_reducible apply mapsOk_copyGaps
    | with_reducible refine mapsOk_foldl (fun _ _ _ => ?_) _ ?_
    | split

@[simp] theorem mapsOk_verdictAll {s : State} (g : Nat) (q : BitVec 16) (mis : Bool) (h : MapsOk s) :
    MapsOk (verdictAll s g q mis) := by
  unfold verdictAll
  repeat' first
    | with_reducible assumption
    | with_reducible apply mapsOk_collAdvanceAll
    | with_reducible apply mapsOk_verdictTo
    | with_reducible refine mapsOk_foldl (fun _ _ _ => ?_) _ ?_

theorem mapsOk_hdrStep {s : State} (d g : Nat) (q : BitVec 16) (h : MapsOk s) : ∀ u ∈ hdrStep s d g q, MapsOk u := by
  unfold hdrStep
  split
  · exact mapsOk_mem_none
  next o _ =>
    extract_lets n
    split
    · exact mapsOk_mem_none
    · split
      · exact mapsOk_mem_none
      next a l hash mis diff _ =>
        have hs : MapsOk (postMismatch (mapCop s d g q (fun x => { x with hdrUp := x.hdrUp ++ [(a, l)] })) d o diff) :=
          mapsOk_postMismatch _ _ _ (mapsOk_mapCop _ _ _ _ h)
        dsimp only
        split
        · exact mapsOk_mem_some (mapsOk_verdictAll _ _ _ (mapsOk_foldl (fun s x h => mapsOk_collSend _ _ _ _ _ _ _ _ h) _ hs))
        · exact mapsOk_mem_some (mapsOk_collSend _ _ _ _ _ _ _ _ hs)

theorem mapsOk_hdrAdvance {s : State} (d g : Nat) (q : BitVec 16) (h : MapsOk s) : MapsOk (hdrAdvance s d g q) := by
  unfold hdrAdvance
  split
  · exact h
  · exact mapsOk_iter (fun s h => mapsOk_hdrStep d g q h) _ h

@[simp] theorem mapsOk_collectiveStart {s : State} (d g : Nat) (h : MapsOk s) :
    MapsOk (collectiveStart s d g) := by
  unfold collectiveStart
  dsimp only
  repeat' split
  all_goals apply_rules [mapsOk_setColl, mapsOk_hdrAdvance, mapsOk_foldl, mapsOk_update]

theorem mapsOk_collRecv {s : State} (p : Packet) (act : State → Option State) (hact : ∀ t, MapsOk t → ∀ u ∈ act t, MapsOk u)
    (h : MapsOk s) : MapsOk (collRecv s p act) := by
  unfold collRecv
  split
  · exact mapsOk_recv p _ _ (fun t ht => mapsOk_sendAck _ _ _ _ ht) (fun t ht => mapsOk_engineGate _ _ _ (hact t ht) ht) h
  · exact h

theorem mapsOk_collOne {s : State} (p : Packet) (k : State → State) (hk : ∀ t, MapsOk t → MapsOk (k t)) (h : MapsOk s) :
    MapsOk (collOne s p k) :=
  mapsOk_collRecv p _ (fun t ht => mapsOk_mem_some (hk _ (mapsOk_accept _ _ ht))) h

theorem mapsOk_collMsg {s : State} (p : Packet) (k : State → List Byte → State) (hk : ∀ t b, MapsOk t → MapsOk (k t b))
    (h : MapsOk s) : MapsOk (collMsg s p k) := by
  refine mapsOk_collRecv p _ (fun t ht => ?_) h
  have hm := mapsOk_msgAdd p ht
  split <;> rename_i heq <;> rw [heq] at hm
  · exact mapsOk_mem_some (mapsOk_accept _ _ hm)
  · exact mapsOk_mem_some (hk _ _ (mapsOk_accept _ _ hm))

theorem mapsOk_headerIn {s : State} (p : Packet) (h : MapsOk s) : MapsOk (headerIn s p) := by
  unfold headerIn
  extract_lets f
  with_reducible refine mapsOk_collOne p _ (fun t ht => ?_) h
  dsimp only
  split
  · exact mapsOk_hdrAdvance _ _ _ (mapsOk_mapCop _ _ _ _ ht)
  · exact mapsOk_setColl _ _ ht

theorem mapsOk_verdictIn {s : State} (p : Packet) (h : MapsOk s) : MapsOk (verdictIn s p) := by
  unfold verdictIn
  with_reducible exact mapsOk_collOne p _ (fun _ ht => mapsOk_verdictAll _ _ _ (mapsOk_relay _ _ _ _ _ ht)) h

theorem mapsOk_creditIn {s : State} (p : Packet) (h : MapsOk s) : MapsOk (creditIn s p) := by
  unfold creditIn
  with_reducible exact mapsOk_collOne p _ (fun _ ht => mapsOk_collAdvanceAll _ _ (mapsOk_foldl (fun s d h => mapsOk_mapCop _ _ _ _ h) _ ht)) h

@[simp] theorem mapsOk_arithFail {s : State} (d : Nat) (o : COp) (k lo level : Nat) (h : MapsOk s) :
    MapsOk (arithFail s d o k lo level) := by
  unfold arithFail
  dsimp only
  repeat' first
    | with_reducible assumption
    | with_reducible apply mapsOk_mapCop
    | with_reducible apply mapsOk_setColl
    | with_reducible apply mapsOk_postArith
    | split
    | fail_if_no_progress with_reducible refine mapsOk_update ?_

theorem mapsOk_partialIn {s : State} (p : Packet) (residueOk : Bool) (h : MapsOk s) : MapsOk (partialIn s p residueOk) := by
  unfold partialIn
  extract_lets f
  with_reducible refine mapsOk_collMsg p _ (fun t b ht => ?_) h
  split
  · exact ht
  next d o geo _ =>
    refine mapsOk_collAdvanceAll _ _ ?_
    have hc : ∀ f, MapsOk (countRecv (mapCop t d (collFld p).group (collFld p).cseq f) d) :=
      fun f => mapsOk_countRecv _ (mapsOk_mapCop _ _ _ _ ht)
    split
    · exact hc _
    · exact mapsOk_arithFail _ _ _ _ _ (hc _)

theorem mapsOk_failedIn {s : State} (p : Packet) (h : MapsOk s) : MapsOk (failedIn s p) := by
  refine mapsOk_collOne p _ (fun t ht => ?_) h
  dsimp only
  split
  · exact mapsOk_collAdvanceAll _ _ (mapsOk_resultAll _ _ _ _ _ (mapsOk_relay _ _ _ _ _ ht))
  · split
    · exact ht
    · exact mapsOk_collAdvanceAll _ _ (mapsOk_mapCop _ _ _ _ ht)

theorem mapsOk_collResultIn {s : State} (p : Packet) (h : MapsOk s) : MapsOk (collResultIn s p) := by
  unfold collResultIn
  extract_lets f
  with_reducible refine mapsOk_collMsg p _ (fun t b ht => ?_) h
  have hr : MapsOk (relay t p.ctx.toNat (collFld p).group (collFld p).cseq p b) := mapsOk_relay _ _ _ _ _ ht
  dsimp only
  split
  · exact hr
  · exact mapsOk_collAdvanceAll _ _ (mapsOk_resultAll _ _ _ _ _ (mapsOk_countRecv _ hr))

theorem mapsOk_dataIn {s : State} (p : Packet) (h : MapsOk s) : MapsOk (dataIn s p) := by
  unfold dataIn
  extract_lets f
  with_reducible refine mapsOk_collMsg p _ (fun t b ht => ?_) h
  have hr : MapsOk (relay t p.ctx.toNat (collFld p).group (collFld p).cseq p b) := mapsOk_relay _ _ _ _ _ ht
  dsimp only
  split
  · exact hr
  · exact mapsOk_collAdvanceAll _ _ (mapsOk_dataAll _ _ _ _ _ _ (mapsOk_countRecv _ hr))

@[simp] theorem mapsOk_collAnswered {s : State} (d g : Nat) (q : BitVec 16) (m : Nat) (h : MapsOk s) :
    MapsOk (collAnswered s d g q m) := by
  unfold collAnswered
  all_goals apply_rules [mapsOk_mapCop, mapsOk_collAdvance, mapsOk_update]

@[simp] theorem mapsOk_collLost {s : State} (d g : Nat) (q : BitVec 16) (h : MapsOk s) :
    MapsOk (collLost s d g q) := by
  simp [collLost, h]

@[simp] theorem mapsOk_collGive {s : State} (d id pool : Nat) (l : List Nat) (h : MapsOk s) :
    MapsOk (collGive s d id pool l) := by
  unfold collGive
  split <;> apply_rules [mapsOk_poolReleaseAll, mapsOk_collAdvance, mapsOk_creditChunk, mapsOk_update]

@[simp] theorem mapsOk_collResume {s : State} (c : Nat) (h : MapsOk s) :
    MapsOk (collResume s c) := by
  unfold collResume
  repeat' first
    | with_reducible assumption
    | with_reducible apply mapsOk_collAdvance
    | with_reducible apply mapsOk_hdrAdvance
    | with_reducible refine mapsOk_foldl (fun _ _ _ => ?_) _ ?_

/-! Operations that complete -/

@[simp] theorem mapsOk_wakeFence {s : State} (k : Nat) (h : MapsOk s) :
    MapsOk (wakeFence s k) := by
  unfold wakeFence
  dsimp only
  repeat' split
  all_goals apply_rules [mapsOk_next, mapsOk_setCore, mapsOk_update]

@[simp] theorem mapsOk_countOp {s : State} (k : Nat) (o : Op) (h : MapsOk s) :
    MapsOk (countOp s k o) := by
  unfold countOp
  repeat' split
  all_goals apply_rules [mapsOk_bump, mapsOk_update]

@[simp] theorem mapsOk_finishOp {s : State} (k : Nat) (o : Op) (h : MapsOk s) :
    MapsOk (finishOp s k o) := by
  unfold finishOp
  repeat' first
    | with_reducible assumption
    | with_reducible apply mapsOk_setCore
    | with_reducible apply mapsOk_deposit
    | with_reducible apply mapsOk_settleIdle
    | with_reducible apply mapsOk_wakeFence
    | with_reducible apply mapsOk_countOp
    | with_reducible refine mapsOk_foldl (fun _ _ _ => ?_) _ ?_
    | split

@[simp] theorem mapsOk_failVec {s : State} (k : Nat) (o : Op) (h : MapsOk s) :
    MapsOk (failVec s k o) := by
  unfold failVec
  all_goals apply_rules [mapsOk_unitFault, mapsOk_setCore, mapsOk_foldl, mapsOk_update]

@[simp] theorem mapsOk_operationComplete {s : State} (k q : Nat) (residueOk : Bool) (h : MapsOk s) :
    MapsOk (operationComplete s k q residueOk) := by
  unfold operationComplete
  repeat' split
  all_goals simp [h]

theorem mapsOk_mixBytes (k a : Nat) (bs : List Byte) {s : State} (h : MapsOk s) : MapsOk (mixBytes s k a bs) := by
  induction bs generalizing s a with
  | nil => exact h
  | cons b bs ih =>
    refine ih _ ?_
    dsimp only
    split
    · exact mapsOk_setCore _ _ h
    · exact h

theorem mapsOk_abandonOps {s : State} (k : Nat) (h : MapsOk s) : MapsOk (abandonOps s k) := by
  refine mapsOk_setCore _ _ (mapsOk_foldl (fun s o h => ?_) _ h)
  split
  · exact h
  · exact mapsOk_foldl (fun s e h => mapsOk_mixBytes _ _ _ h) _ h

@[simp] theorem mapsOk_pieceDone {s : State} (k id : Nat) (h : MapsOk s) :
    MapsOk (pieceDone s k id) := by
  unfold pieceDone
  dsimp only
  repeat' split
  all_goals apply_rules [mapsOk_setCore, mapsOk_finishOp, mapsOk_update]

/-! Tramway commands and packets -/

@[simp] theorem mapsOk_stageTok {s : State} (t : Nat) (r : TRec) (f : DispatchF) (nd tok buf : Nat) (h : MapsOk s) :
    MapsOk (stageTok s t r f nd tok buf) := by
  simp [stageTok, h]

@[simp] theorem mapsOk_tokRows {s : State} (t : Nat) (f : DispatchF) (c : Nat) (l : List TTok) (h : MapsOk s) :
    MapsOk (tokRows s t f c l).2 := by
  unfold tokRows
  repeat' first
    | with_reducible assumption
    | with_reducible apply mapsOk_bufRead
    | with_reducible refine mapsOk_foldl_snd (fun _ _ _ => ?_) _ ?_

@[simp] theorem mapsOk_sendRows {s : State} (t : Nat) (o : TOp) (f : DispatchF) (r : TRec) (expert nd gang base : Nat) (ds : List Nat) (h : MapsOk s) :
    MapsOk (sendRows s t o f r expert nd gang base ds) := by
  unfold sendRows
  repeat' first
    | with_reducible assumption
    | with_reducible apply mapsOk_tokRows
    | with_reducible apply mapsOk_trwMessage
    | with_reducible apply mapsOk_countBody
    | with_reducible apply mapsOk_bump

@[simp] theorem mapsOk_cancelRows {s : State} (t : Nat) (o : TOp) (cfg tag expert nd gang base n : Nat) (h : MapsOk s) :
    MapsOk (cancelRows s t o cfg tag expert nd gang base n) := by
  simp [cancelRows, h]

@[simp] theorem mapsOk_sendResult {s : State} (t : Nat) (o : TOp) (f : CombineF) (tb : CountTab) (nd : Nat) (bufs : List Nat) (h : MapsOk s) :
    MapsOk (sendResult s t o f tb nd bufs) := by
  unfold sendResult
  repeat' first
    | with_reducible assumption
    | with_reducible apply mapsOk_areaWrite
    | with_reducible apply mapsOk_trwMessage
    | with_reducible apply mapsOk_countBody
    | with_reducible apply mapsOk_freeTab
    | split

@[simp] theorem mapsOk_popTodo {s : State} (t : Nat) (h : MapsOk s) :
    MapsOk (popTodo s t) := by
  simp [popTodo, h]

@[simp] theorem mapsOk_giveSend {s : State} (t pool : Nat) (bufs : List Nat) (h : MapsOk s) :
    MapsOk (giveSend s t pool bufs) := by
  unfold giveSend
  repeat' first
    | with_reducible assumption
    | with_reducible apply mapsOk_poolReleaseAll
    | with_reducible apply mapsOk_stageTok
    | with_reducible apply mapsOk_sendResult
    | with_reducible apply mapsOk_popTodo
    | with_reducible apply mapsOk_areaWrite
    | with_reducible apply mapsOk_countBody
    | with_reducible apply mapsOk_trwMessage
    | split

@[simp] theorem mapsOk_sendHead {s : State} (t : Nat) (o : TOp) (h : MapsOk s) :
    MapsOk (sendHead s t o) := by
  unfold sendHead
  repeat' split
  all_goals simp [h]

theorem mapsOk_trwSendStep {s : State} (t : Nat) (h : MapsOk s) : ∀ u ∈ trwSendStep s t, MapsOk u := by
  unfold trwSendStep
  split
  · exact mapsOk_mem_none
  · split
    · exact mapsOk_mem_none
    · split
      · exact mapsOk_mem_some (mapsOk_sendHead _ _ h)
      · split
        · exact mapsOk_mem_some (mapsOk_trwFault _ _ _ h)
        · split
          next heq => exact mapsOk_mem_some (mapsOk_giveSend _ _ _ (mapsOk_of_some_pair heq (mapsOk_poolAlloc _ _ _ h)))
          next => exact mapsOk_mem_some (mapsOk_trwWant _ _ _ _ _ h)

theorem mapsOk_trwSendAll (n : Nat) {s : State} (t : Nat) (h : MapsOk s) : MapsOk (trwSendAll n s t) := by
  induction n generalizing s with
  | zero => exact h
  | succ n ih =>
    unfold trwSendAll
    split
    next heq => exact ih (mapsOk_trwSendStep t h _ heq)
    next => exact h

theorem mapsOk_trwProgress {s : State} (t : Nat) (h : MapsOk s) : MapsOk (trwProgress s t) := by
  unfold trwProgress
  extract_lets s1 s2 w
  have hs : MapsOk s2 := by
    refine mapsOk_trwDrain _ ?_
    unfold s1
    split
    · exact mapsOk_trwSendAll _ _ h
    · exact h
  clear_value s2
  split
  · exact hs
  · split
    · exact mapsOk_trwAdvance _ _ (mapsOk_setTrw _ _ hs)
    · exact mapsOk_setTrw _ _ hs

@[simp] theorem mapsOk_trwProgressAll {s : State} (h : MapsOk s) :
    MapsOk (trwProgressAll s) := by
  unfold trwProgressAll
  refine mapsOk_foldl (fun s b h => ?_) _ ?_ <;> apply_rules [mapsOk_trwProgress, mapsOk_foldl, mapsOk_update]

@[simp] theorem mapsOk_trwAnswered {s : State} (t m : Nat) (h : MapsOk s) :
    MapsOk (trwAnswered s t m) := by
  unfold trwAnswered
  all_goals apply_rules [mapsOk_trwProgress, mapsOk_trwLess, mapsOk_update]

@[simp] theorem mapsOk_startOp {s : State} (t : Nat) (tag : BitVec 16) (cmd : TCmd) (place : List PlaceRec) (h : MapsOk s) :
    MapsOk (startOp s t tag cmd place).2 := by
  simp [startOp, h]

@[simp] theorem mapsOk_addTable (t : Nat) (o : TOp) (f : DispatchF) (g : Nat) {s : State} (e : Nat × Nat) (h : MapsOk s) :
    MapsOk (addTable t o f g s e) := by
  unfold addTable
  dsimp only
  repeat' first
    | with_reducible assumption
    | with_reducible apply mapsOk_newId
    | with_reducible apply mapsOk_setTrw
    | with_reducible apply mapsOk_poolAlloc
    | with_reducible apply mapsOk_mapTab
    | with_reducible apply mapsOk_trwWant
    | split
    | with_reducible refine mapsOk_of_some_pair (by assumption) ?_

@[simp] theorem mapsOk_dispatch {s : State} (t : Nat) (f : DispatchF) (h : MapsOk s) :
    MapsOk (dispatch s t f) := by
  unfold dispatch
  repeat' first
    | with_reducible assumption
    | with_reducible apply mapsOk_unitFault
    | with_reducible apply mapsOk_startOp
    | with_reducible apply mapsOk_trwProgress
    | with_reducible apply mapsOk_addTable
    | with_reducible refine mapsOk_foldl (fun _ _ _ => ?_) _ ?_
    | split

@[simp] theorem mapsOk_giveArea {s : State} (t n pool : Nat) (l : List Nat) (h : MapsOk s) :
    MapsOk (giveArea s t n pool l) := by
  unfold giveArea
  split <;> apply_rules [mapsOk_poolReleaseAll, mapsOk_combineList, mapsOk_mapRec, mapsOk_update]

@[simp] theorem mapsOk_addArea (t : Nat) (o : TOp) (f : CombineF) {s : State} (r : TRec) (h : MapsOk s) :
    MapsOk (addArea t o f s r) := by
  unfold addArea
  dsimp only
  repeat' first
    | with_reducible assumption
    | with_reducible apply mapsOk_mapRec
    | with_reducible apply mapsOk_poolAlloc
    | with_reducible apply mapsOk_giveArea
    | with_reducible apply mapsOk_trwWant
    | split
    | with_reducible refine mapsOk_of_some_pair (by assumption) ?_

@[simp] theorem mapsOk_combine {s : State} (t : Nat) (f : CombineF) (h : MapsOk s) :
    MapsOk (combine s t f) := by
  unfold combine
  repeat' first
    | with_reducible assumption
    | with_reducible apply mapsOk_unitFault
    | with_reducible apply mapsOk_startOp
    | with_reducible apply mapsOk_setTrw
    | with_reducible apply mapsOk_freeTab
    | with_reducible apply mapsOk_trwProgressAll
    | with_reducible apply mapsOk_trwProgress
    | with_reducible apply mapsOk_addArea
    | with_reducible refine mapsOk_foldl (fun _ _ _ => ?_) _ ?_
    | split

@[simp] theorem mapsOk_xchg {s : State} (t : Nat) (f : XchgF) (h : MapsOk s) :
    MapsOk (xchg s t f) := by
  unfold xchg
  repeat' first
    | with_reducible assumption
    | with_reducible apply mapsOk_unitFault
    | with_reducible apply mapsOk_startOp
    | with_reducible apply mapsOk_tierRead
    | with_reducible apply mapsOk_bump
    | with_reducible apply mapsOk_trwProgress
    | with_reducible apply mapsOk_setTrw
    | with_reducible refine mapsOk_foldl (fun _ _ _ => ?_) _ ?_
    | split

@[simp] theorem mapsOk_intakeWith {s : State} (t buf : Nat) (h : MapsOk s) :
    MapsOk (intakeWith s t buf) := by
  unfold intakeWith
  dsimp only
  repeat' first
    | with_reducible assumption
    | with_reducible apply mapsOk_poolRelease
    | with_reducible apply mapsOk_newId
    | with_reducible apply mapsOk_bump
    | with_reducible apply mapsOk_setTrw
    | split

@[simp] theorem mapsOk_intake {s : State} (t : Nat) (h : MapsOk s) :
    MapsOk (intake s t) := by
  unfold intake
  dsimp only
  repeat' first
    | with_reducible assumption
    | with_reducible apply mapsOk_unitFault
    | with_reducible apply mapsOk_poolAlloc
    | with_reducible apply mapsOk_trwProgress
    | with_reducible apply mapsOk_intakeWith
    | with_reducible apply mapsOk_trwWant
    | split
    | with_reducible refine mapsOk_of_some_pair (by assumption) ?_

@[simp] theorem mapsOk_cancelTodo {s : State} (t : Nat) (h : MapsOk s) :
    MapsOk (cancelTodo s t) := by
  unfold cancelTodo
  dsimp only
  repeat' first
    | with_reducible assumption
    | with_reducible apply mapsOk_setTrw
    | with_reducible apply mapsOk_cancelRows
    | with_reducible apply mapsOk_freeRec
    | with_reducible refine mapsOk_foldl (fun _ _ _ => ?_) _ ?_
    | split

@[simp] theorem mapsOk_census {s : State} (t : Nat) (h : MapsOk s) :
    MapsOk (census s t) := by
  unfold census
  dsimp only
  repeat' first
    | with_reducible assumption
    | with_reducible apply mapsOk_trwMessage
    | with_reducible apply mapsOk_bump
    | with_reducible apply mapsOk_setTrw
    | with_reducible apply mapsOk_cancelTodo
    | with_reducible apply mapsOk_trwProgressAll
    | with_reducible refine mapsOk_foldl (fun _ _ _ => ?_) _ ?_
    | split

theorem mapsOk_trwRecv {s : State} (port : Nat) (p : Packet) (act : State → Option State)
    (hact : ∀ t, MapsOk t → ∀ u ∈ act t, MapsOk u) (h : MapsOk s) : MapsOk (trwRecv s port p act) := by
  unfold trwRecv
  split
  · exact mapsOk_recv p _ _ (fun t ht => mapsOk_sendAck _ _ _ _ ht) (fun t ht => mapsOk_engineGate _ _ _ (hact t ht) ht) h
  · exact h

@[simp] theorem mapsOk_trwWaitAns {s : State} (t : Nat) (p : Packet) (h : MapsOk s) :
    MapsOk (trwWaitAns s t p) := by
  simp [trwWaitAns, h]

theorem mapsOk_blockDescriptor {s : State} (p : Packet) (h : MapsOk s) : MapsOk (blockDescriptor s p) := by
  refine mapsOk_trwRecv 0 p _ (fun t ht => ?_) h
  split
  · exact mapsOk_mem_some (mapsOk_trwWaitAns _ _ ht)
  · refine mapsOk_mem_some (mapsOk_foldl (fun s t h => mapsOk_trwProgress t h) _ ?_)
    refine mapsOk_foldl (fun s e h => mapsOk_deposits _ _ h) _ ?_
    exact mapsOk_foldl (fun s e h => mapsOk_mapTab _ _ _ h) _ (mapsOk_accept _ _ ht)

theorem lateOrWait_mapsOk {c : Prop} [Decidable c] (p : Packet) {s : State} (h : MapsOk s) :
    ∀ u ∈ (if c then some (accept s 0 p) else none), MapsOk u := by
  split
  · exact mapsOk_mem_some (mapsOk_accept _ _ h)
  · exact mapsOk_mem_none
theorem mapsOk_rowsPart {s : State} (p : Packet) (h : MapsOk s) : MapsOk (rowsPart s p) := by
  refine mapsOk_trwRecv 0 p _ (fun t ht => ?_) h
  split
  · exact mapsOk_mem_none
  · extract_lets _
    split
    · exact lateOrWait_mapsOk p ht
    · split
      · exact mapsOk_mem_none
      · have hm := mapsOk_msgAdd p ht
        split <;> rename_i heq <;> rw [heq] at hm
        · exact mapsOk_mem_some (mapsOk_accept _ _ hm)
        · exact mapsOk_mem_some (mapsOk_trwProgress _ (mapsOk_rowsIn _ _ _ _ (mapsOk_accept _ _ hm)))

theorem mapsOk_cancelledPart {s : State} (p : Packet) (h : MapsOk s) : MapsOk (cancelledPart s p) := by
  refine mapsOk_trwRecv 0 p _ (fun t ht => ?_) h
  dsimp only
  split
  · exact lateOrWait_mapsOk p ht
  · split
    · exact mapsOk_mem_none
    · exact mapsOk_mem_some (mapsOk_trwProgress _ (mapsOk_cancelIn _ _ _ _ (mapsOk_accept _ _ ht)))

theorem mapsOk_resultPart {s : State} (p : Packet) (residueOk : Bool) (h : MapsOk s) : MapsOk (resultPart s p residueOk) := by
  refine mapsOk_trwRecv 0 p _ (fun t ht => ?_) h
  split
  · exact mapsOk_mem_some (mapsOk_trwWaitAns _ _ ht)
  · split
    · exact mapsOk_mem_some (mapsOk_trwWaitAns _ _ ht)
    · have hm := mapsOk_msgAdd p ht
      split <;> rename_i heq <;> rw [heq] at hm
      · exact mapsOk_mem_some (mapsOk_accept _ _ hm)
      · exact mapsOk_mem_some (mapsOk_trwProgressAll (mapsOk_resultIn _ _ _ (mapsOk_accept _ _ hm)))

@[simp] theorem mapsOk_segIn {s : State} (t : Nat) (o : TOp) (f : XchgF) (hx : PHdr) (b : List Byte) (h : MapsOk s) :
    MapsOk (segIn s t o f hx b) := by
  unfold segIn
  dsimp only
  repeat' first
    | with_reducible assumption
    | with_reducible apply mapsOk_b0Write
    | with_reducible apply mapsOk_setTrw
    | with_reducible apply mapsOk_deposit
    | split

theorem mapsOk_segmentPart {s : State} (p : Packet) (h : MapsOk s) : MapsOk (segmentPart s p) := by
  refine mapsOk_trwRecv 0 p _ (fun t ht => ?_) h
  split
  · exact mapsOk_mem_none
  · extract_lets _
    split
    · exact lateOrWait_mapsOk p ht
    · have hm := mapsOk_msgAdd p ht
      split <;> rename_i heq <;> rw [heq] at hm
      · exact mapsOk_mem_some (mapsOk_accept _ _ hm)
      · exact mapsOk_mem_some (mapsOk_trwProgress _ (mapsOk_segIn _ _ _ _ _ (mapsOk_accept _ _ hm)))

@[simp] theorem mapsOk_takeBack {s : State} (t : Nat) (o : TOut) (h : MapsOk s) :
    MapsOk (takeBack s t o) := by
  unfold takeBack
  all_goals apply_rules [mapsOk_setTrw, mapsOk_trwLess, mapsOk_update]

@[simp] theorem mapsOk_abortDisp {s : State} (t : Nat) (o : TOp) (f : DispatchF) (h : MapsOk s) :
    MapsOk (abortDisp s t o f) := by
  unfold abortDisp
  dsimp only
  repeat' first
    | with_reducible assumption
    | with_reducible apply mapsOk_cancelRows
    | with_reducible apply mapsOk_takeBack
    | with_reducible apply mapsOk_cancelTodo
    | with_reducible refine mapsOk_foldl (fun _ _ _ => ?_) _ ?_
    | split

@[simp] theorem mapsOk_abortComb {s : State} (t : Nat) (o : TOp) (f : CombineF) (h : MapsOk s) :
    MapsOk (abortComb s t o f) := by
  unfold abortComb
  repeat' first
    | with_reducible assumption
    | with_reducible apply mapsOk_takeBack
    | with_reducible apply mapsOk_setTrw
    | with_reducible apply mapsOk_freeTab
    | with_reducible apply mapsOk_freeRec
    | with_reducible apply mapsOk_deposit
    | with_reducible refine mapsOk_foldl (fun _ _ _ => ?_) _ ?_

@[simp] theorem mapsOk_abortXchg {s : State} (t : Nat) (o : TOp) (f : XchgF) (h : MapsOk s) :
    MapsOk (abortXchg s t o f) := by
  unfold abortXchg
  repeat' first
    | with_reducible assumption
    | with_reducible apply mapsOk_trwMessage
    | with_reducible apply mapsOk_takeBack
    | with_reducible apply mapsOk_setTrw
    | with_reducible refine mapsOk_foldl (fun _ _ _ => ?_) _ ?_
    | split

@[simp] theorem mapsOk_abortOp {s : State} (t : Nat) (o : TOp) (h : MapsOk s) :
    MapsOk (abortOp s t o) := by
  unfold abortOp
  repeat' first
    | with_reducible assumption
    | with_reducible apply mapsOk_trwUnwant
    | with_reducible apply mapsOk_setTrw
    | with_reducible apply mapsOk_abortDisp
    | with_reducible apply mapsOk_abortComb
    | with_reducible apply mapsOk_abortXchg
    | with_reducible apply mapsOk_trwProgressAll
    | with_reducible apply mapsOk_trwProgress
    | split

@[simp] theorem mapsOk_abort {s : State} (t c : Nat) (seq : W32) (h : MapsOk s) :
    MapsOk (abort s t c seq) := by
  unfold abort
  dsimp only
  repeat' first
    | with_reducible assumption
    | with_reducible apply mapsOk_setTrw
    | with_reducible apply mapsOk_abortOp
    | with_reducible apply mapsOk_post
    | with_reducible apply mapsOk_bump
    | split

@[simp] theorem mapsOk_trwGive {s : State} (t id pool : Nat) (l : List Nat) (h : MapsOk s) :
    MapsOk (trwGive s t id pool l) := by
  unfold trwGive
  dsimp only
  repeat' first
    | with_reducible assumption
    | with_reducible apply mapsOk_poolReleaseAll
    | with_reducible apply mapsOk_setTrw
    | with_reducible apply mapsOk_mapTab
    | with_reducible apply mapsOk_giveArea
    | with_reducible apply mapsOk_intakeWith
    | with_reducible apply mapsOk_giveSend
    | with_reducible apply mapsOk_trwProgressAll
    | with_reducible apply mapsOk_trwProgress
    | split

@[simp] theorem mapsOk_trwStop {s : State} (t c : Nat) (pre : Bool) (h : MapsOk s) :
    MapsOk (trwStop s t c pre) := by
  simp [trwStop, h]

@[simp] theorem mapsOk_trwRestore {s : State} (t c : Nat) (h : MapsOk s) :
    MapsOk (trwRestore s t c) := by
  unfold trwRestore
  dsimp only
  repeat' split
  all_goals apply_rules [mapsOk_setFace, mapsOk_setTrw, mapsOk_update]

/-! Contexts -/

@[simp] theorem mapsOk_giveCmd {s : State} (opcode c arg u : Nat) (h : MapsOk s) :
    MapsOk (giveCmd s opcode c arg u) := by
  simp [giveCmd, h]

@[simp] theorem mapsOk_giveSave {s : State} (c : Nat) (h : MapsOk s) :
    MapsOk (giveSave s c) := by
  unfold giveSave
  repeat' first
    | with_reducible assumption
    | with_reducible apply mapsOk_gangCmd
    | with_reducible apply mapsOk_giveCmd
    | with_reducible refine mapsOk_foldl (fun _ _ _ => ?_) _ ?_

@[simp] theorem mapsOk_restoreUnit {s : State} (c u : Nat) (h : MapsOk s) :
    MapsOk (restoreUnit s c u) := by
  simp [restoreUnit, h]

@[simp] theorem mapsOk_giveRestore {s : State} (c : Nat) (h : MapsOk s) :
    MapsOk (giveRestore s c) := by
  unfold giveRestore
  repeat' first
    | with_reducible assumption
    | with_reducible apply mapsOk_gangCmd
    | with_reducible apply mapsOk_restoreUnit
    | with_reducible refine mapsOk_foldl (fun _ _ _ => ?_) _ ?_

@[simp] theorem mapsOk_takeCores {s : State} (c : Nat) (b : List (Nat × Nat)) (h : MapsOk s) :
    MapsOk (takeCores s c b) := by
  unfold takeCores
  repeat' first
    | with_reducible assumption
    | with_reducible apply mapsOk_setCtx
    | with_reducible apply mapsOk_setFace
    | with_reducible refine mapsOk_foldl (fun _ _ _ => ?_) _ ?_
    | fail_if_no_progress with_reducible refine mapsOk_update ?_

@[simp] theorem mapsOk_dropCores {s : State} (c : Nat) (h : MapsOk s) :
    MapsOk (dropCores s c) := by
  unfold dropCores
  repeat' first
    | with_reducible assumption
    | with_reducible apply mapsOk_releaseCores
    | with_reducible apply mapsOk_unstageCore
    | with_reducible refine mapsOk_foldl (fun _ _ _ => ?_) _ ?_

@[simp] theorem mapsOk_addSlots {s : State} (l : List SlotI) (h : MapsOk s) :
    MapsOk (addSlots s l) := by
  simp [addSlots, h]

@[simp] theorem mapsOk_addBestSlot {s : State} (c : Nat) (h : MapsOk s) :
    MapsOk (addBestSlot s c) := by
  simp [addBestSlot, h]

@[simp] theorem mapsOk_toDone {s : State} (c : Nat) (h : MapsOk s) :
    MapsOk (toDone s c) := by
  unfold toDone
  repeat' first
    | with_reducible assumption
    | with_reducible apply mapsOk_digestUpTo
    | with_reducible apply mapsOk_setCtx
    | with_reducible apply mapsOk_dropCensus
    | with_reducible apply mapsOk_dropCores
    | fail_if_no_progress with_reducible refine mapsOk_update ?_

@[simp] theorem mapsOk_finishStep {s : State} (c : Nat) (h : MapsOk s) :
    MapsOk (finishStep s c) := by
  unfold finishStep
  dsimp only
  repeat' first
    | with_reducible assumption
    | with_reducible apply mapsOk_migrateEval
    | with_reducible apply mapsOk_digestUpTo
    | with_reducible apply mapsOk_toDone
    | split

@[simp] theorem mapsOk_stepEnd {s : State} (c : Nat) (h : MapsOk s) :
    MapsOk (stepEnd s c) := by
  simp [stepEnd, h]

@[simp] theorem mapsOk_beginStep {s : State} (c boundary : Nat) (h : MapsOk s) :
    MapsOk (beginStep s c boundary) := by
  unfold beginStep
  dsimp only
  repeat' first
    | with_reducible assumption
    | with_reducible apply mapsOk_setCtx
    | with_reducible apply mapsOk_predictorWalk
    | with_reducible apply mapsOk_addSlots
    | with_reducible apply mapsOk_stepEnd
    | with_reducible apply mapsOk_addBestSlot
    | split

theorem mapsOk_saveRecord (c : Nat) {s : State} (e : Nat × Nat) (h : MapsOk s) : MapsOk (saveRecord c s e) := by
  unfold saveRecord
  extract_lets o t
  have ht : MapsOk t := mapsOk_countAccess _ _ _ _ (mapsOk_snoopNeed _ _ _ h)
  clear_value t
  split
  next d i _ =>
    split
    · exact ht
    · extract_lets hit m m'
      have hm : mwf 0 m' = true := by
        refine mwf_foldl (fun m b hm => ?_) _ (mwf_clear 0 ht.1.1 _)
        dsimp only
        split
        · exact mwf_put 0 hm _ _
        · exact hm
      clear_value m'
      exact mapsOk_mk.mpr ⟨⟨hm, mwf_clear 0 ht.1.2 _⟩, ht.2⟩

theorem mapsOk_readRecord {s : State} (c n : Nat) (h : MapsOk s) : MapsOk (readRecord s c n).2 := by
  unfold readRecord
  extract_lets o
  clear_value o
  split
  split
  · exact h
  · split
    · exact mapsOk_countAccess _ _ _ _ (mapsOk_snoopNeed _ _ _ h)
    · have hr := mapsOk_b1Read o b0End (ctReq c) h
      split
      next heq =>
        rw [heq] at hr
        exact mapsOk_countAccess _ _ _ _ hr

@[simp] theorem mapsOk_cmdStatus {s : State} (c cmd err : Nat) (h : MapsOk s) :
    MapsOk (cmdStatus s c cmd err) := by
  simp [cmdStatus, h]

@[simp] theorem mapsOk_launchCtx {s : State} (c : Nat) (r : CtxRec) (b : List (Nat × Nat)) (h : MapsOk s) :
    MapsOk (launchCtx s c r b) := by
  unfold launchCtx
  all_goals apply_rules [mapsOk_setCtx, mapsOk_takeCores, mapsOk_digestClear, mapsOk_update]

@[simp] theorem mapsOk_launch {s : State} (c : Nat) (h : MapsOk s) :
    MapsOk (launch s c) := by
  unfold launch
  repeat' split
  all_goals simp [h]

@[simp] theorem mapsOk_save {s : State} (c : Nat) (h : MapsOk s) :
    MapsOk (save s c) := by
  unfold save
  dsimp only
  repeat' first
    | with_reducible assumption
    | with_reducible apply mapsOk_cmdStatus
    | with_reducible apply mapsOk_setCtx
    | with_reducible apply mapsOk_b1Write
    | with_reducible apply mapsOk_frameZero
    | with_reducible apply mapsOk_stopGang
    | with_reducible apply mapsOk_giveSave
    | split

@[simp] theorem mapsOk_restore {s : State} (c : Nat) (h : MapsOk s) :
    MapsOk (restore s c) := by
  unfold restore
  repeat' first
    | with_reducible assumption
    | with_reducible apply mapsOk_cmdStatus
    | with_reducible apply mapsOk_giveRestore
    | with_reducible apply mapsOk_takeCores
    | with_reducible apply mapsOk_setCtx
    | split

@[simp] theorem mapsOk_stopCmd {s : State} (c : Nat) (h : MapsOk s) :
    MapsOk (stopCmd s c) := by
  simp [stopCmd, h]

@[simp] theorem mapsOk_kill {s : State} (c : Nat) (h : MapsOk s) :
    MapsOk (kill s c) := by
  unfold kill
  dsimp only
  repeat' first
    | with_reducible assumption
    | with_reducible apply mapsOk_dropCores
    | with_reducible apply mapsOk_cmdStatus
    | with_reducible apply mapsOk_setCtx
    | with_reducible apply mapsOk_teardown
    | split

@[simp] theorem mapsOk_releaseCmd {s : State} (c : Nat) (h : MapsOk s) :
    MapsOk (releaseCmd s c) := by
  simp [releaseCmd, h]

@[simp] theorem mapsOk_firstStep {s : State} (c : Nat) (h : MapsOk s) :
    MapsOk (firstStep s c) := by
  simp [firstStep, h]

@[simp] theorem mapsOk_unitStop {s : State} (u : Nat) (h : MapsOk s) :
    MapsOk (unitStop s u) := by
  unfold unitStop
  dsimp only
  repeat' split
  all_goals apply_rules [mapsOk_setFace, mapsOk_riddleStop, mapsOk_trwStop, mapsOk_abandonOps, mapsOk_update]

@[simp] theorem mapsOk_saveComplete {s : State} (c : Nat) (h : MapsOk s) :
    MapsOk (saveComplete s c) := by
  unfold saveComplete
  dsimp only
  repeat' first
    | with_reducible assumption
    | with_reducible apply mapsOk_saveRecord
    | with_reducible apply mapsOk_setCtx
    | with_reducible apply mapsOk_dropCores
    | with_reducible apply mapsOk_releaseUnits
    | with_reducible refine mapsOk_foldl (fun _ _ _ => ?_) _ ?_
    | split
    | fail_if_no_progress with_reducible refine mapsOk_update ?_

@[simp] theorem mapsOk_loadRecord (c : Nat) {s : State} (e : Nat × Nat) (h : MapsOk s) :
    MapsOk (loadRecord c s e) := by
  unfold loadRecord
  repeat' first
    | with_reducible assumption
    | with_reducible apply mapsOk_readRecord
    | with_reducible apply mapsOk_setFace
    | with_reducible apply mapsOk_setCore
    | split
    | with_reducible refine mapsOk_of_pair (by assumption) ?_

@[simp] theorem mapsOk_catchUp (c : Nat) {s : State} (e : Nat × Nat) (h : MapsOk s) :
    MapsOk (catchUp c s e) := by
  unfold catchUp
  dsimp only
  repeat' first
    | with_reducible assumption
    | with_reducible apply mapsOk_finishOp
    | with_reducible apply mapsOk_wakeCount
    | with_reducible apply mapsOk_tryMuster
    | with_reducible refine mapsOk_foldl (fun _ _ _ => ?_) _ ?_
    | split

@[simp] theorem mapsOk_reissueRiddle {s : State} (c : Nat) (h : MapsOk s) :
    MapsOk (reissueRiddle s c) := by
  simp [reissueRiddle, h]

@[simp] theorem mapsOk_restoreComplete {s : State} (c : Nat) (h : MapsOk s) :
    MapsOk (restoreComplete s c) := by
  unfold restoreComplete
  dsimp only
  repeat' first
    | with_reducible assumption
    | with_reducible apply mapsOk_loadRecord
    | with_reducible apply mapsOk_setFace
    | with_reducible apply mapsOk_trwRestore
    | with_reducible apply mapsOk_setCtx
    | with_reducible apply mapsOk_collResume
    | with_reducible apply mapsOk_trwProgressAll
    | with_reducible apply mapsOk_catchUp
    | with_reducible apply mapsOk_reissueRiddle
    | with_reducible refine mapsOk_foldl (fun _ _ _ => ?_) _ ?_
    | split
    | fail_if_no_progress with_reducible refine mapsOk_update ?_

@[simp] theorem mapsOk_enginesGoOn {s : State} (h : MapsOk s) :
    MapsOk (enginesGoOn s) := by
  unfold enginesGoOn
  repeat' first
    | with_reducible assumption
    | with_reducible apply mapsOk_collAdvance
    | with_reducible apply mapsOk_trwProgressAll
    | with_reducible refine mapsOk_foldl (fun _ _ _ => ?_) _ ?_

@[simp] theorem mapsOk_poolEased {s : State} (h : MapsOk s) :
    MapsOk (poolEased s) := by
  unfold poolEased
  repeat' first
    | with_reducible assumption
    | with_reducible apply mapsOk_guarded
    | with_reducible apply mapsOk_enginesGoOn
    | split

@[simp] theorem mapsOk_bpmRelease {s : State} (p i : Nat) (h : MapsOk s) :
    MapsOk (bpmRelease s p i) := by
  simp [bpmRelease, h]

@[simp] theorem mapsOk_bpmReset {s : State} (p : Nat) (h : MapsOk s) :
    MapsOk (bpmReset s p) := by
  simp [bpmReset, h]

@[simp] theorem mapsOk_teardownComplete {s : State} (c : Nat) (h : MapsOk s) :
    MapsOk (teardownComplete s c) := by
  unfold teardownComplete
  dsimp only
  repeat' first
    | with_reducible assumption
    | with_reducible apply mapsOk_poolReset
    | with_reducible apply mapsOk_releaseUnits
    | with_reducible apply mapsOk_dropCores
    | with_reducible apply mapsOk_tirGone
    | with_reducible apply mapsOk_frameZero
    | with_reducible apply mapsOk_setCtx
    | with_reducible apply mapsOk_post
    | with_reducible refine mapsOk_foldl (fun _ _ _ => ?_) _ ?_
    | split
    | fail_if_no_progress with_reducible refine mapsOk_update ?_

@[simp] theorem mapsOk_allBlockedEvent {s : State} (h : MapsOk s) :
    MapsOk (allBlockedEvent s) := by
  unfold allBlockedEvent
  repeat' split
  all_goals apply_rules [mapsOk_elapse, mapsOk_post, mapsOk_update]

@[simp] theorem mapsOk_regulatorPass {s : State} (p l : Nat) (h : MapsOk s) :
    MapsOk (regulatorPass s p l) := by
  unfold regulatorPass
  dsimp only
  repeat' split
  all_goals apply_rules [mapsOk_elapse, mapsOk_setBucket, mapsOk_passBuckets, mapsOk_update]

/-! Ticks and slots -/

@[simp] theorem mapsOk_retime {s : State} (b : Nat) (h : MapsOk s) :
    MapsOk (retime s b) := by
  simp [retime, h]

@[simp] theorem mapsOk_reloadBucket {s : State} (p l : Nat) (h : MapsOk s) :
    MapsOk (reloadBucket s p l) := by
  unfold reloadBucket
  repeat' first
    | with_reducible assumption
    | with_reducible apply mapsOk_setBucket
    | with_reducible apply mapsOk_passBuckets
    | with_reducible refine mapsOk_foldl (fun _ _ _ => ?_) _ ?_
    | split

@[simp] theorem mapsOk_reloadBuckets {s : State} (h : MapsOk s) :
    MapsOk (reloadBuckets s) := by
  unfold reloadBuckets
  refine mapsOk_foldl (fun s b h => ?_) _ ?_ <;> apply_rules [mapsOk_reloadBucket, mapsOk_foldl, mapsOk_update]

theorem mapsOk_fillBuckets {s : State} (h : MapsOk s) : MapsOk (fillBuckets s) := by
  unfold fillBuckets
  refine mapsOk_reloadBuckets (mapsOk_mk.mpr ?_)
  simp [h]

@[simp] theorem mapsOk_stagedImage {s : State} (h : MapsOk s) :
    MapsOk (stagedImage s).2 := by
  unfold stagedImage
  all_goals apply_rules [mapsOk_b1Read, mapsOk_update]

@[simp] theorem mapsOk_imageEvent {s : State} (id : Nat) (kind : Bool) (err : Nat) (ok : Bool) (h : MapsOk s) :
    MapsOk (imageEvent s id kind err ok) := by
  simp [imageEvent, h]

@[simp] theorem mapsOk_agreedLaunch {s : State} (id : Nat) (h : MapsOk s) :
    MapsOk (agreedLaunch s id) := by
  unfold agreedLaunch
  repeat' first
    | with_reducible assumption
    | with_reducible apply mapsOk_launch
    | with_reducible refine mapsOk_foldl (fun _ _ _ => ?_) _ ?_
    | split
    | fail_if_no_progress with_reducible refine mapsOk_update ?_

@[simp] theorem mapsOk_reloadSwap {s : State} (h : MapsOk s) :
    MapsOk (reloadSwap s) := by
  unfold reloadSwap
  repeat' first
    | with_reducible assumption
    | with_reducible apply mapsOk_reloadBuckets
    | with_reducible apply mapsOk_agreedLaunch
    | with_reducible apply mapsOk_imageEvent
    | with_reducible apply mapsOk_measStart
    | split
    | fail_if_no_progress with_reducible refine mapsOk_update ?_

@[simp] theorem mapsOk_swapAt {s : State} (b : Nat) (h : MapsOk s) :
    MapsOk (swapAt s b) := by
  simp [swapAt, h]

@[simp] theorem mapsOk_overrun {s : State} (i : SlotI) (h : MapsOk s) :
    MapsOk (overrun s i) := by
  unfold overrun
  dsimp only
  repeat' split
  all_goals apply_rules [mapsOk_setCtx, mapsOk_trigger, mapsOk_post, mapsOk_teardown, mapsOk_update]

@[simp] theorem mapsOk_checkOverruns {s : State} (h : MapsOk s) :
    MapsOk (checkOverruns s) := by
  unfold checkOverruns
  refine mapsOk_foldl (fun s b h => ?_) _ ?_ <;> apply_rules [mapsOk_overrun, mapsOk_foldl, mapsOk_update]

@[simp] theorem mapsOk_lcBoundary (b : Nat) {s : State} (c : Nat) (h : MapsOk s) :
    MapsOk (lcBoundary b s c) := by
  simp [lcBoundary, h]

@[simp] theorem mapsOk_beBoundary (b : Nat) {s : State} (c : Nat) (h : MapsOk s) :
    MapsOk (beBoundary b s c) := by
  simp [beBoundary, h]

@[simp] theorem mapsOk_lateBoundary (prev b : Nat) {s : State} (c : Nat) (h : MapsOk s) :
    MapsOk (lateBoundary prev b s c) := by
  simp [lateBoundary, h]

@[simp] theorem mapsOk_tickBoundary {s : State} (h : MapsOk s) :
    MapsOk (tickBoundary s) := by
  unfold tickBoundary
  dsimp only
  repeat' first
    | with_reducible assumption
    | with_reducible apply mapsOk_advanceTo
    | with_reducible apply mapsOk_swapAt
    | with_reducible apply mapsOk_checkOverruns
    | with_reducible apply mapsOk_retime
    | with_reducible apply mapsOk_lcBoundary
    | with_reducible apply mapsOk_beBoundary
    | with_reducible apply mapsOk_lateBoundary
    | with_reducible refine mapsOk_foldl (fun _ _ _ => ?_) _ ?_
    | split
    | fail_if_no_progress with_reducible refine mapsOk_update ?_

@[simp] theorem mapsOk_setSlot {s : State} (i j : SlotI) (h : MapsOk s) :
    MapsOk (setSlot s i j) := by
  simp [setSlot, h]

@[simp] theorem mapsOk_runCore {s : State} (k prog gang : Nat) (h : MapsOk s) :
    MapsOk (runCore s k prog gang) := by
  unfold runCore
  dsimp only
  repeat' split
  all_goals apply_rules [mapsOk_setCore, mapsOk_unitFault, mapsOk_update]

@[simp] theorem mapsOk_runUnit (c : Nat) (r : SlotRec) {s : State} (u : Nat) (h : MapsOk s) :
    MapsOk (runUnit c r s u) := by
  simp [runUnit, h]

@[simp] theorem mapsOk_runSlot {s : State} (c : Nat) (r : SlotRec) (h : MapsOk s) :
    MapsOk (runSlot s c r) := by
  unfold runSlot
  all_goals apply_rules [mapsOk_gangCmd, mapsOk_runUnit, mapsOk_foldl, mapsOk_update]

@[simp] theorem mapsOk_slotIssue {s : State} (c idx : Nat) (h : MapsOk s) :
    MapsOk (slotIssue s c idx) := by
  unfold slotIssue
  repeat' split
  all_goals simp [h]

@[simp] theorem mapsOk_slotRetire {s : State} (c idx : Nat) (h : MapsOk s) :
    MapsOk (slotRetire s c idx) := by
  unfold slotRetire
  dsimp only
  repeat' first
    | with_reducible assumption
    | with_reducible apply mapsOk_setSlot
    | with_reducible apply mapsOk_setCtx
    | with_reducible apply mapsOk_addBestSlot
    | with_reducible apply mapsOk_stepEnd
    | split
    | fail_if_no_progress with_reducible refine mapsOk_update ?_

@[simp] theorem mapsOk_settleComplete {s : State} (c : Nat) (h : MapsOk s) :
    MapsOk (settleComplete s c) := by
  unfold settleComplete
  dsimp only
  repeat' first
    | with_reducible assumption
    | with_reducible apply mapsOk_settleRun
    | with_reducible apply mapsOk_setCtx
    | with_reducible apply mapsOk_finishStep
    | split
    | fail_if_no_progress with_reducible refine mapsOk_update ?_
    | with_reducible refine mapsOk_of_pair (by assumption) ?_

/-! The loader -/

@[simp] theorem mapsOk_setHst {s : State} (f : Loader → Loader) (h : MapsOk s) :
    MapsOk (setHst s f) := by
  simp [setHst, h]

@[simp] theorem mapsOk_refuse {s : State} (err : Nat) (h : MapsOk s) :
    MapsOk (refuse s err) := by
  simp [refuse, h]

@[simp] theorem mapsOk_loaderBegin {s : State} (h : MapsOk s) :
    MapsOk (loaderBegin s) := by
  simp [loaderBegin, h]

@[simp] theorem mapsOk_stageDrop {s : State} (h : MapsOk s) :
    MapsOk (stageDrop s) := by
  simp [stageDrop, h]

@[simp] theorem mapsOk_loaderValidate {s : State} (h : MapsOk s) :
    MapsOk (loaderValidate s) := by
  simp [loaderValidate, h]

@[simp] theorem mapsOk_loaderArm {s : State} (h : MapsOk s) :
    MapsOk (loaderArm s) := by
  simp [loaderArm, h]

@[simp] theorem mapsOk_loaderCancel {s : State} (h : MapsOk s) :
    MapsOk (loaderCancel s) := by
  unfold loaderCancel
  repeat' split
  all_goals apply_rules [mapsOk_setHst, mapsOk_update]

@[simp] theorem mapsOk_shadowCopyDone {s : State} (h : MapsOk s) :
    MapsOk (shadowCopyDone s) := by
  simp [shadowCopyDone, h]

@[simp] theorem mapsOk_commitCount {s : State} (h : MapsOk s) :
    MapsOk (commitCount s) := by
  unfold commitCount
  dsimp only
  repeat' split
  all_goals apply_rules [mapsOk_refuse, mapsOk_advanceTo, mapsOk_setHst, mapsOk_update]

@[simp] theorem mapsOk_loaderUnlock {s : State} (h : MapsOk s) :
    MapsOk (loaderUnlock s) := by
  simp [loaderUnlock, h]

/-! The image broadcast -/

@[simp] theorem mapsOk_setSyn {s : State} (f : Syn → Syn) (h : MapsOk s) :
    MapsOk (setSyn s f) := by
  simp [setSyn, h]

@[simp] theorem mapsOk_sendChild {s : State} (c : BChild) (w3 id w5 : Nat) (b : List Byte) (h : MapsOk s) :
    MapsOk (sendChild s c w3 id w5 b) := by
  simp [sendChild, h]

@[simp] theorem mapsOk_sendData {s : State} (w3 id len : Nat) (b : List Byte) (h : MapsOk s) :
    MapsOk (sendData s w3 id len b) := by
  unfold sendData
  refine mapsOk_foldl (fun s b h => ?_) _ ?_ <;> apply_rules [mapsOk_sendChild, mapsOk_foldl, mapsOk_update]

@[simp] theorem mapsOk_sendArm {s : State} (id commit launch mask : Nat) (h : MapsOk s) :
    MapsOk (sendArm s id commit launch mask) := by
  unfold sendArm
  refine mapsOk_foldl (fun s b h => ?_) _ ?_ <;> apply_rules [mapsOk_launch, mapsOk_sendChild, mapsOk_foldl, mapsOk_update]

@[simp] theorem mapsOk_bcastProgress {s : State} (h : MapsOk s) :
    MapsOk (bcastProgress s) := by
  unfold bcastProgress
  repeat' split
  all_goals simp [h]

@[simp] theorem mapsOk_takeReport {s : State} (c : BitVec 14) (r : Nat × Bool × BitVec 14 × Byte) (h : MapsOk s) :
    MapsOk (takeReport s c r) := by
  simp [takeReport, h]

@[simp] theorem mapsOk_bcastAcked {s : State} (c : BitVec 14) (h : MapsOk s) :
    MapsOk (bcastAcked s c) := by
  simp [bcastAcked, h]

@[simp] theorem mapsOk_bcastLost {s : State} (c : BitVec 14) (h : MapsOk s) :
    MapsOk (bcastLost s c) := by
  simp [bcastLost, h]

@[simp] theorem mapsOk_bcastValidated {s : State} (ok : Bool) (err : Byte) (h : MapsOk s) :
    MapsOk (bcastValidated s ok err) := by
  simp [bcastValidated, h]

@[simp] theorem mapsOk_bcastSend {s : State} (h : MapsOk s) :
    MapsOk (bcastSend s) := by
  unfold bcastSend
  repeat' first
    | with_reducible assumption
    | with_reducible apply mapsOk_setSyn
    | with_reducible apply mapsOk_stagedImage
    | with_reducible apply mapsOk_bcastProgress
    | with_reducible apply mapsOk_sendData
    | with_reducible refine mapsOk_foldl (fun _ _ _ => ?_) _ ?_
    | split

@[simp] theorem mapsOk_armAct {s : State} (id commit launch : W64) (mask : BitVec 16) (h : MapsOk s) :
    MapsOk (armAct s id commit launch mask) := by
  unfold armAct
  repeat' first
    | with_reducible assumption
    | with_reducible apply mapsOk_loaderArm
    | with_reducible apply mapsOk_setHst
    | with_reducible apply mapsOk_post
    | split
    | fail_if_no_progress with_reducible refine mapsOk_update ?_

@[simp] theorem mapsOk_bcastArm {s : State} (h : MapsOk s) :
    MapsOk (bcastArm s) := by
  unfold bcastArm
  repeat' first
    | with_reducible assumption
    | with_reducible apply mapsOk_setSyn
    | with_reducible apply mapsOk_armAct
    | with_reducible apply mapsOk_sendArm
    | split

@[simp] theorem mapsOk_bcastAbandon {s : State} (h : MapsOk s) :
    MapsOk (bcastAbandon s) := by
  simp [bcastAbandon, h]

theorem mapsOk_imageRecv {s : State} (p : Packet) (kind : Nat) (act : State → State) (hact : ∀ t, MapsOk t → MapsOk (act t))
    (h : MapsOk s) : MapsOk (imageRecv s p kind act) := by
  unfold imageRecv
  split
  · exact mapsOk_recv p _ _ (fun t ht => mapsOk_sendAck _ _ _ _ ht) (fun t ht => mapsOk_mem_some (hact t ht)) h
  · exact h

@[simp] theorem mapsOk_openImage {s : State} (p : Packet) (h : MapsOk s) :
    MapsOk (openImage s p) := by
  simp [openImage, h]

@[simp] theorem mapsOk_dataTaken {s : State} (p : Packet) (h : MapsOk s) :
    MapsOk (dataTaken s p) := by
  unfold dataTaken
  dsimp only
  repeat' first
    | with_reducible assumption
    | with_reducible apply mapsOk_openImage
    | with_reducible apply mapsOk_b1Write
    | with_reducible apply mapsOk_sendData
    | with_reducible apply mapsOk_setSyn
    | with_reducible apply mapsOk_accept
    | with_reducible apply mapsOk_loaderValidate
    | with_reducible apply mapsOk_setHst
    | split

theorem mapsOk_imageDataIn {s : State} (p : Packet) (h : MapsOk s) : MapsOk (imageDataIn s p) := by
  unfold imageDataIn
  refine mapsOk_imageRecv p 0 _ (fun t ht => ?_) h
  split
  · refine mapsOk_sendAck _ _ _ _ ?_
    split
    · exact mapsOk_stageDrop ht
    · exact ht
  · exact mapsOk_dataTaken p ht

theorem mapsOk_reportIn {s : State} (p : Packet) (h : MapsOk s) : MapsOk (reportIn s p) := by
  unfold reportIn
  refine mapsOk_imageRecv p 1 _ (fun t ht => ?_) h
  extract_lets u mine
  split
  · exact mapsOk_takeReport _ _ (mapsOk_accept _ _ ht)
  · exact mapsOk_accept _ _ ht

@[simp] theorem mapsOk_reportTimeout {s : State} (c : BitVec 14) (h : MapsOk s) :
    MapsOk (reportTimeout s c) := by
  simp [reportTimeout, h]

theorem mapsOk_imageArmIn {s : State} (p : Packet) (h : MapsOk s) : MapsOk (imageArmIn s p) := by
  unfold imageArmIn
  refine mapsOk_imageRecv p 2 _ (fun t ht => ?_) h
  refine mapsOk_armAct _ _ _ _ ?_
  split
  · exact mapsOk_accept _ _ ht
  · exact mapsOk_sendArm _ _ _ _ (mapsOk_accept _ _ ht)

/-! End-to-end delivery -/

@[simp] theorem mapsOk_coreAnswered {s : State} (c k id : Nat) (f : Core → Core) (h : MapsOk s) :
    MapsOk (coreAnswered s c k id f) := by
  unfold coreAnswered
  repeat' split
  all_goals simp [h]

@[simp] theorem mapsOk_groupAnswered {s : State} (gid : Nat) (a : Packet) (h : MapsOk s) :
    MapsOk (groupAnswered s gid a) := by
  unfold groupAnswered
  split
  · exact h
  · refine mapsOk_foldl (fun s b h => ?_) _ ?_ <;> apply_rules [mapsOk_answer, mapsOk_inject, mapsOk_foldl, mapsOk_update]

@[simp] theorem mapsOk_completeAck {s : State} (e : SendEnt) (a : Packet) (h : MapsOk s) :
    MapsOk (completeAck s e a) := by
  unfold completeAck
  repeat' split
  all_goals simp [h]

@[simp] theorem mapsOk_completeLoad {s : State} (e : SendEnt) (a : Packet) (h : MapsOk s) :
    MapsOk (completeLoad s e a) := by
  unfold completeLoad
  repeat' split
  all_goals simp [h]

@[simp] theorem mapsOk_failOwner {s : State} (e : SendEnt) (h : MapsOk s) :
    MapsOk (failOwner s e) := by
  unfold failOwner
  repeat' split
  all_goals simp [h]

@[simp] theorem mapsOk_dropEnt {s : State} (e : SendEnt) (h : MapsOk s) :
    MapsOk (dropEnt s e) := by
  simp [dropEnt, h]

@[simp] theorem mapsOk_setEnt {s : State} (e f : SendEnt) (h : MapsOk s) :
    MapsOk (setEnt s e f) := by
  simp [setEnt, h]

@[simp] theorem mapsOk_failEnt {s : State} (e : SendEnt) (cause : Nat) (h : MapsOk s) :
    MapsOk (failEnt s e cause) := by
  unfold failEnt
  repeat' first
    | with_reducible assumption
    | with_reducible apply mapsOk_unreachableEvent
    | with_reducible apply mapsOk_dropEnt
    | with_reducible apply mapsOk_drainHeld
    | with_reducible apply mapsOk_failOwner

@[simp] theorem mapsOk_lateAck {s : State} (h : MapsOk s) :
    MapsOk (lateAck s) := by
  simp [lateAck, h]

@[simp] theorem mapsOk_countAck {s : State} (h : MapsOk s) :
    MapsOk (countAck s) := by
  simp [countAck, h]

@[simp] theorem mapsOk_ackTaken {s : State} (p : Packet) (h : MapsOk s) :
    MapsOk (ackTaken s p) := by
  unfold ackTaken
  repeat' first
    | with_reducible assumption
    | with_reducible apply mapsOk_lateAck
    | with_reducible apply mapsOk_drainHeld
    | with_reducible apply mapsOk_completeAck
    | with_reducible apply mapsOk_dropEnt
    | with_reducible apply mapsOk_countAck
    | with_reducible apply mapsOk_groupAnswered
    | with_reducible apply mapsOk_failEnt
    | with_reducible apply mapsOk_setEnt
    | split
    | fail_if_no_progress with_reducible refine mapsOk_update ?_

theorem mapsOk_answerRecv {s : State} (p : Packet) (act : State → State) (hact : ∀ t, MapsOk t → MapsOk (act t))
    (h : MapsOk s) : MapsOk (answerRecv s p act) := by
  unfold answerRecv
  split
  · exact h
  · split
    · exact mapsOk_crcDrop p h
    next t heq =>
      have ht : MapsOk t := mapsOk_takeDelivery p h t heq
      split
      · exact ht
      · exact hact t ht

theorem mapsOk_ackIn {s : State} (p : Packet) (h : MapsOk s) : MapsOk (ackIn s p) := by
  unfold ackIn
  split
  · exact mapsOk_answerRecv p _ (fun t ht => mapsOk_ackTaken p ht) h
  · exact h

theorem mapsOk_noticeIn {s : State} (p : Packet) (h : MapsOk s) : MapsOk (noticeIn s p) := by
  unfold noticeIn
  split
  · refine mapsOk_answerRecv p _ (fun t ht => ?_) h
    split
    · exact mapsOk_lateAck ht
    · exact mapsOk_failEnt _ _ ht
  · exact h

theorem mapsOk_loadRespIn {s : State} (p : Packet) (h : MapsOk s) : MapsOk (loadRespIn s p) := by
  unfold loadRespIn
  split
  · refine mapsOk_answerRecv p _ (fun t ht => ?_) h
    split
    · exact mapsOk_lateAck ht
    · split
      · exact mapsOk_drainHeld (mapsOk_completeLoad _ _ (mapsOk_dropEnt _ (mapsOk_countAck ht)))
      · exact mapsOk_lateAck ht
  · exact h

@[simp] theorem mapsOk_sendAgain {s : State} (e f : SendEnt) (h : MapsOk s) :
    MapsOk (sendAgain s e f) := by
  simp [sendAgain, h]

@[simp] theorem mapsOk_e2eTimeout {s : State} (dest : BitVec 14) (psn : W32) (h : MapsOk s) :
    MapsOk (e2eTimeout s dest psn) := by
  unfold e2eTimeout
  repeat' first
    | with_reducible assumption
    | with_reducible apply mapsOk_advanceTo
    | with_reducible apply mapsOk_sendAgain
    | with_reducible apply mapsOk_failEnt
    | split
    | fail_if_no_progress with_reducible refine mapsOk_update ?_

@[simp] theorem mapsOk_waitRetryDue {s : State} (dest : BitVec 14) (psn : W32) (h : MapsOk s) :
    MapsOk (waitRetryDue s dest psn) := by
  unfold waitRetryDue
  repeat' first
    | with_reducible assumption
    | with_reducible apply mapsOk_advanceTo
    | with_reducible apply mapsOk_sendAgain
    | split
    | fail_if_no_progress with_reducible refine mapsOk_update ?_

@[simp] theorem mapsOk_tryPennant (dest : BitVec 14) {s : State} (hx : Held) (h : MapsOk s) :
    MapsOk (tryPennant dest s hx) := by
  unfold tryPennant
  repeat' split
  all_goals apply_rules [mapsOk_enterTable, mapsOk_update]

@[simp] theorem mapsOk_pennantRelease {s : State} (dest : BitVec 14) (h : MapsOk s) :
    MapsOk (pennantRelease s dest) := by
  unfold pennantRelease
  all_goals apply_rules [mapsOk_tryPennant, mapsOk_foldl, mapsOk_update]

theorem mapsOk_memRecv {s : State} (p : Packet) (op : Nat) (dup : State → State) (act : State → Option State)
    (hdup : ∀ t, MapsOk t → MapsOk (dup t)) (hact : ∀ t, MapsOk t → ∀ u ∈ act t, MapsOk u) (h : MapsOk s) :
    MapsOk (memRecv s p op dup act) := by
  unfold memRecv
  split
  · exact mapsOk_recv p dup act hdup hact h
  · exact h

@[simp] theorem mapsOk_turnAway {s : State} (p : Packet) (status : Nat) (h : MapsOk s) :
    MapsOk (turnAway s p status) := by
  unfold turnAway
  repeat' split
  all_goals apply_rules [mapsOk_setCtx, mapsOk_sendAck, mapsOk_update]

theorem mapsOk_takeDescs (c : Nat) (l : List (List Byte)) {s : State} (h : MapsOk s) : ∀ t ∈ takeDescs s c l, MapsOk t := by
  induction l generalizing s with
  | nil => exact mapsOk_mem_some h
  | cons b r ih =>
    unfold takeDescs
    split
    next heq => exact ih (mapsOk_collTake c b h _ heq)
    next => exact mapsOk_mem_none

theorem mapsOk_applyStore {s : State} (p : Packet) (h : MapsOk s) : ∀ t ∈ applyStore s p, MapsOk t := by
  unfold applyStore
  split
  · exact mapsOk_mem_some (mapsOk_turnAway _ _ h)
  · split
    · exact mapsOk_mem_none
    · intro t ht
      obtain ⟨u, hu, rfl⟩ := Option.map_eq_some_iff.mp ht
      refine mapsOk_accept _ _ (mapsOk_takeHome _ (mapsOk_homeWrite _ _ ?_))
      split at hu
      · exact mapsOk_takeDescs _ _ h u hu
      · exact mapsOk_mem_some h u hu

@[simp] theorem mapsOk_loadAnswer {s : State} (p : Packet) (d : List Byte) (h : MapsOk s) :
    MapsOk (loadAnswer s p d) := by
  simp [loadAnswer, h]

@[simp] theorem mapsOk_applyLoad {s : State} (p : Packet) (fresh : Bool) (h : MapsOk s) :
    MapsOk (applyLoad s p fresh) := by
  unfold applyLoad
  repeat' first
    | with_reducible assumption
    | with_reducible apply mapsOk_turnAway
    | with_reducible apply mapsOk_homeRead
    | with_reducible apply mapsOk_recordPsn
    | with_reducible apply mapsOk_loadAnswer
    | with_reducible apply mapsOk_takeHome
    | split

@[simp] theorem mapsOk_applyAtomic {s : State} (p : Packet) (h : MapsOk s) :
    ∀ t ∈ applyAtomic s p, MapsOk t := by
  unfold applyAtomic
  repeat' first
    | with_reducible assumption
    | with_reducible apply mapsOk_turnAway
    | with_reducible apply mapsOk_homeRead
    | with_reducible apply mapsOk_homeWrite
    | with_reducible apply mapsOk_sendAck
    | with_reducible apply mapsOk_recordPsn
    | with_reducible apply mapsOk_takeHome
    | with_reducible exact mapsOk_mem_none
    | with_reducible refine mapsOk_mem_some ?_
    | split

theorem mapsOk_allocationServed {s : State} (p : Nat) (h : MapsOk s) : MapsOk (allocationServed s p) := by
  unfold allocationServed
  extract_lets refs
  split
  next heq => exact mapsOk_riddleBuffer _ _ _ (mapsOk_poolServe p refs h _ heq)
  next heq => exact mapsOk_trwGive _ _ _ _ (mapsOk_poolServe p refs h _ heq)
  next heq => exact mapsOk_collGive _ _ _ _ (mapsOk_poolServe p refs h _ heq)
  next => exact h

/-! The Halyard and the Dip -/

@[simp] theorem mapsOk_stageReady {s : State} (h : MapsOk s) :
    MapsOk (stageReady s) := by
  simp [stageReady, h]

theorem mapsOk_halSet {s : State} (x : HalState) (h : MapsOk s) : MapsOk (halSet s x) := by
  unfold halSet
  split
  · exact h
  · extract_lets s1 s2
    have hs : MapsOk s2 := mapsOk_stageReady (mapsOk_post _ _ _ _ (mapsOk_setSyn _ h))
    clear_value s2
    split
    · exact hs
    · exact mapsOk_loaderUnlock hs

theorem mapsOk_halCheck {s : State} (h : MapsOk s) : MapsOk (halCheck s) := by
  have hs : ∀ x, MapsOk (halSet s x) := fun x => mapsOk_halSet x h
  unfold halCheck
  split
  · exact h
  · split <;> split <;> first | exact h | exact hs _

theorem mapsOk_parentWrite {s : State} (root : Bool) (a : BitVec 5) (en : Bool) (h : MapsOk s) :
    MapsOk (parentWrite s root a en) := by
  unfold parentWrite
  extract_lets old t
  have ht : MapsOk t := mapsOk_setSyn _ h
  clear_value t
  split
  · split
    · exact mapsOk_halSet _ ht
    · exact mapsOk_halCheck ht
  · exact mapsOk_halCheck ht
  · split
    · exact ht
    · split
      · exact mapsOk_halSet _ ht
      · exact mapsOk_halSet _ ht
  · exact mapsOk_halCheck ht

theorem mapsOk_holdoverExpiry {s : State} (h : MapsOk s) : MapsOk (holdoverExpiry s) := by
  unfold holdoverExpiry
  split
  · have ht : MapsOk (halSet (advanceTo s (s.syn.holdAt + 1000000)) .free) := mapsOk_halSet _ (mapsOk_advanceTo _ h)
    extract_lets t
    change MapsOk t at ht
    clear_value t
    split
    · exact mapsOk_halSet _ ht
    · exact mapsOk_halCheck ht
  · exact h

@[simp] theorem mapsOk_slew {s : State} (advance : Bool) (h : MapsOk s) :
    MapsOk (slew s advance) := by
  unfold slew
  apply_rules [mapsOk_elapse, mapsOk_advance, mapsOk_setSyn, mapsOk_update]

theorem mapsOk_parentFrame {s : State} (a : Nat) (time : W64) (h : MapsOk s) : MapsOk (parentFrame s a time) := by
  unfold parentFrame
  split
  · exact h
  · extract_lets d e s1 m s2 s3
    have hs2 : MapsOk s2 := mapsOk_setSyn _ (mapsOk_setSyn _ h)
    have hs3 : MapsOk s3 := by
      unfold s3
      clear_value s2
      generalize (if s2.syn.st = HalState.locked then 2000 else 1000) = gap
      split
      · split
        · exact mapsOk_setSyn _ (mapsOk_update hs2)
        · exact hs2
      · split
        · exact hs2
        · split
          · exact mapsOk_slew _ hs2
          · split
            · exact mapsOk_slew _ hs2
            · exact hs2
    clear_value s3
    split
    · split
      · exact mapsOk_halSet _ hs3
      · exact hs3
    · split
      · exact hs3
      · exact mapsOk_halSet _ hs3
    · exact hs3

@[simp] theorem mapsOk_holdoverSlew {s : State} (advance : Bool) (h : MapsOk s) :
    MapsOk (holdoverSlew s advance) := by
  simp [holdoverSlew, h]

@[simp] theorem mapsOk_dipSchedule {s : State} (h : MapsOk s) :
    MapsOk (dipSchedule s) := by
  simp [dipSchedule, h]

@[simp] theorem mapsOk_synDipAt {s : State} (h : MapsOk s) :
    MapsOk (synDipAt s) := by
  unfold synDipAt
  dsimp only
  repeat' first
    | with_reducible assumption
    | with_reducible apply mapsOk_setSyn
    | with_reducible apply mapsOk_advanceTo
    | split

theorem mapsOk_dipStop {s : State} (h : MapsOk s) : MapsOk (dipStop s) := by
  unfold dipStop
  generalize hl : (List.range 584).filterMap _ = l
  have hf : mwf {} l = true := by
    rw [← hl, List.range_eq_range']
    refine mwfFrom_range (α := Face) {} _ (fun u e he => ?_) 0 584
    dsimp only at he
    split at he
    · cases he
      refine ⟨rfl, fun hd => ?_⟩
      have hstop := congrArg Face.stopIn hd
      exact absurd hstop (by simp [dipFace])
    · split at he
      · cases he
      next hne =>
        cases he
        exact ⟨rfl, hne⟩
  exact mapsOk_mk.mpr ⟨h.1, h.2.1, hf, h.2.2.2⟩

theorem mapsOk_dipCut {s : State} (h : MapsOk s) : MapsOk (dipCut s) := by
  unfold dipCut
  split
  · refine mapsOk_post _ _ _ _ ?_
    have hs : MapsOk (setSyn (dipStop (advanceNs s s.syn.dipCutNs)) (fun y => { y with dipSt := .dipped, dipCount := BitVec.ofNat 64 (advanceNs s s.syn.dipCutNs).halyard })) :=
      mapsOk_setSyn _ (mapsOk_dipStop (mapsOk_advanceNs _ h))
    exact mapsOk_mk.mpr ⟨hs.1, hs.ctxs rfl, hs.faces rfl, hs.gangs rfl, hs.cores rfl, hs.riddles rfl, hs.tramways rfl, hs.hbms rfl,
      mwf_map (α := Adit) {} (hs.adits rfl) _, hs.colls rfl, hs.cgroups rfl, hs.buckets rfl, hs.pools rfl⟩
  · exact h

/-! Counters and samples -/

@[simp] theorem mapsOk_cntReset {s : State} (v : W64) (h : MapsOk s) :
    MapsOk (cntReset s v) := by
  unfold cntReset
  dsimp only
  repeat' first
    | with_reducible assumption
    | with_reducible apply mapsOk_resetCounters
    | with_reducible refine mapsOk_foldl (fun _ _ _ => ?_) _ ?_
    | split

@[simp] theorem mapsOk_putSet {s : State} (j : Nat) (x : SampleSet) (h : MapsOk s) :
    MapsOk (putSet s j x) := by
  simp [putSet, h]

@[simp] theorem mapsOk_fireSet {s : State} (j : Nat) (h : MapsOk s) :
    MapsOk (fireSet s j) := by
  simp [fireSet, h]

@[simp] theorem mapsOk_sampleFire {s : State} (j : Nat) (h : MapsOk s) :
    MapsOk (sampleFire s j) := by
  simp [sampleFire, h]

@[simp] theorem mapsOk_strobe {s : State} (j : Nat) (h : MapsOk s) :
    MapsOk (strobe s j) := by
  unfold strobe
  dsimp only
  repeat' first
    | with_reducible assumption
    | with_reducible apply mapsOk_advanceNs
    | with_reducible apply mapsOk_putSet
    | with_reducible apply mapsOk_sampPut
    | with_reducible refine mapsOk_foldl (fun _ _ _ => ?_) _ ?_
    | split
    | fail_if_no_progress with_reducible refine mapsOk_update ?_

/-! Commits -/

@[simp] theorem mapsOk_validationComplete {s : State} (h : MapsOk s) :
    MapsOk (validationComplete s) := by
  unfold validationComplete
  dsimp only
  repeat' first
    | with_reducible assumption
    | with_reducible apply mapsOk_stagedImage
    | with_reducible apply mapsOk_setHst
    | with_reducible apply mapsOk_bcastValidated
    | with_reducible apply mapsOk_refuse
    | split

@[simp] theorem mapsOk_idleAtCommit {s : State} (u : Nat) (h : MapsOk s) :
    MapsOk (idleAtCommit s u) := by
  simp [idleAtCommit, h]

@[simp] theorem mapsOk_releaseAll {s : State} (h : MapsOk s) :
    MapsOk (releaseAll s) := by
  unfold releaseAll
  refine mapsOk_foldl (fun s b h => ?_) _ ?_ <;> apply_rules [mapsOk_idleAtCommit, mapsOk_foldl, mapsOk_update]

@[simp] theorem mapsOk_commitCtxs {s : State} (h : MapsOk s) :
    MapsOk (commitCtxs s) := by
  unfold commitCtxs
  repeat' first
    | with_reducible assumption
    | with_reducible apply mapsOk_setCtx
    | with_reducible apply mapsOk_frameZero
    | with_reducible apply mapsOk_digestClear
    | with_reducible refine mapsOk_foldl (fun _ _ _ => ?_) _ ?_
    | split
    | fail_if_no_progress with_reducible refine mapsOk_update ?_

@[simp] theorem mapsOk_commitEngines {s : State} (h : MapsOk s) :
    MapsOk (commitEngines s) := by
  simp [commitEngines, h]

@[simp] theorem mapsOk_commitFabric {s : State} (h : MapsOk s) :
    MapsOk (commitFabric s) := by
  simp [commitFabric, h]

@[simp] theorem mapsOk_commitRiddle {s : State} (h : MapsOk s) :
    MapsOk (commitRiddle s) := by
  simp [commitRiddle, h]

@[simp] theorem mapsOk_commitTicks {s : State} (h : MapsOk s) :
    MapsOk (commitTicks s) := by
  simp [commitTicks, h]

@[simp] theorem mapsOk_installComplete {s : State} (h : MapsOk s) :
    MapsOk (installComplete s) := by
  unfold installComplete
  repeat' first
    | with_reducible assumption
    | with_reducible apply mapsOk_stagedImage
    | with_reducible apply mapsOk_releaseAll
    | with_reducible apply mapsOk_commitEngines
    | with_reducible apply mapsOk_commitCtxs
    | with_reducible apply mapsOk_commitRiddle
    | with_reducible apply mapsOk_tirCommit
    | with_reducible apply mapsOk_commitFabric
    | with_reducible apply mapsOk_fillBuckets
    | with_reducible apply mapsOk_commitTicks
    | with_reducible apply mapsOk_setHst
    | with_reducible apply mapsOk_measSet
    | with_reducible apply mapsOk_measStart
    | with_reducible apply mapsOk_agreedLaunch
    | with_reducible apply mapsOk_imageEvent
    | split
    | fail_if_no_progress with_reducible refine mapsOk_update ?_

/-! HBM controllers -/

theorem mapsOk_reach {s : State} (n : Nat) (r : Requester) (act : State → State) (hact : MapsOk (act s)) (h : MapsOk s) :
    MapsOk (reach s n r act) := by
  unfold reach
  split
  · exact h
  · split
    · exact hact
    · exact mapsOk_bump _ _ _ h
    · exact mapsOk_bump _ _ _ h
    · exact mapsOk_bump _ _ _ h
    · exact h

@[simp] theorem mapsOk_reqSnoop {s : State} (n loc len : Nat) (wr : Bool) (r : Requester) (h : MapsOk s) :
    MapsOk (reqSnoop s n loc len wr r) := by
  simp [reqSnoop, h]

@[simp] theorem mapsOk_narrow {s : State} (n loc : Nat) (mask : BitVec 32) (data : List Byte) (errs : List SymErr) (r : Requester) (h : MapsOk s) :
    MapsOk (narrow s n loc mask data errs r) := by
  unfold narrow
  repeat' split
  all_goals apply_rules [mapsOk_chargeHbm, mapsOk_bump, mapsOk_reqSnoop, mapsOk_cwRead, mapsOk_cwModify, mapsOk_update]

@[simp] theorem mapsOk_burstPut {s : State} (n base : Nat) (data : List Byte) (h : MapsOk s) :
    MapsOk (burstPut s n base data) := by
  unfold burstPut
  refine mapsOk_foldl (fun s b h => ?_) _ ?_ <;> apply_rules [mapsOk_cwWrite, mapsOk_foldl, mapsOk_update]

theorem mapsOk_burstGet {s : State} (n base : Nat) (errs : List (Fin 64 × SymErr)) (q : Req) (h : MapsOk s) :
    MapsOk (burstGet s n base errs q).2.2 := by
  unfold burstGet
  refine mapsOk_foldl_trd (fun a k h => ?_) _ h
  exact mapsOk_cwRead _ _ _ _ h

@[simp] theorem mapsOk_burst {s : State} (n base : Nat) (wr : Bool) (data : List Byte) (errs : List (Fin 64 × SymErr)) (r : Requester) (h : MapsOk s) :
    MapsOk (burst s n base wr data errs r) := by
  unfold burst
  repeat' first
    | with_reducible assumption
    | with_reducible apply mapsOk_chargeHbm
    | with_reducible apply mapsOk_bump
    | with_reducible apply mapsOk_reqSnoop
    | with_reducible apply mapsOk_burstPut
    | with_reducible apply mapsOk_burstGet
    | split

@[simp] theorem mapsOk_intervalEnd {s : State} (h : MapsOk s) :
    MapsOk (intervalEnd s) := by
  simp [intervalEnd, h]

@[simp] theorem mapsOk_hbmFail {s : State} (n : Nat) (fails : List LaneFail) (h : MapsOk s) :
    MapsOk (hbmFail s n fails) := by
  unfold hbmFail
  repeat' first
    | with_reducible assumption
    | with_reducible apply mapsOk_setHbm
    | with_reducible apply mapsOk_setAlert
    | with_reducible apply mapsOk_unitFault

@[simp] theorem mapsOk_hbmFill {s : State} (n : Nat) (h : MapsOk s) :
    MapsOk (hbmFill s n) := by
  simp [hbmFill, h]

@[simp] theorem mapsOk_hbmTrain {s : State} (n : Nat) (idOk : Bool) (fails : List LaneFail) (h : MapsOk s) :
    MapsOk (hbmTrain s n idOk fails) := by
  unfold hbmTrain
  dsimp only
  repeat' first
    | with_reducible assumption
    | with_reducible apply mapsOk_setHbm
    | with_reducible apply mapsOk_hbmFill
    | with_reducible apply mapsOk_hbmFail
    | split
    | fail_if_no_progress with_reducible refine mapsOk_update ?_

@[simp] theorem mapsOk_hbmRefuse {s : State} (n cmd err : Nat) (h : MapsOk s) :
    MapsOk (hbmRefuse s n cmd err) := by
  simp [hbmRefuse, h]

@[simp] theorem mapsOk_hbmTestEnter {s : State} (n : Nat) (h : MapsOk s) :
    MapsOk (hbmTestEnter s n) := by
  simp [hbmTestEnter, h]

@[simp] theorem mapsOk_hbmTestExit {s : State} (n : Nat) (h : MapsOk s) :
    MapsOk (hbmTestExit s n) := by
  simp [hbmTestExit, h]

@[simp] theorem mapsOk_hbmRetrain {s : State} (n : Nat) (h : MapsOk s) :
    MapsOk (hbmRetrain s n) := by
  unfold hbmRetrain
  dsimp only
  repeat' split
  all_goals apply_rules [mapsOk_hbmRefuse, mapsOk_setHbm, mapsOk_setFace, mapsOk_update]

@[simp] theorem mapsOk_hbmRepair {s : State} (n cmd : Nat) (h : MapsOk s) :
    MapsOk (hbmRepair s n cmd) := by
  simp [hbmRepair, h]

@[simp] theorem mapsOk_hbmClearMarks {s : State} (n : Nat) (h : MapsOk s) :
    MapsOk (hbmClearMarks s n) := by
  simp [hbmClearMarks, h]

@[simp] theorem mapsOk_rowFill {s : State} (n : Nat) (row : BitVec 34) (h : MapsOk s) :
    MapsOk (rowFill s n row) := by
  simp [rowFill, h]

@[simp] theorem mapsOk_repairDone {s : State} (n : Nat) (cmd : BitVec 4) (row : BitVec 34) (h : MapsOk s) :
    MapsOk (repairDone s n cmd row) := by
  simp [repairDone, h]

@[simp] theorem mapsOk_retrainDone {s : State} (n : Nat) (idOk : Bool) (fails : List LaneFail) (h : MapsOk s) :
    MapsOk (retrainDone s n idOk fails) := by
  simp [retrainDone, h]

@[simp] theorem mapsOk_hbmCommandDone {s : State} (n : Nat) (idOk : Bool) (fails : List LaneFail) (h : MapsOk s) :
    MapsOk (hbmCommandDone s n idOk fails) := by
  unfold hbmCommandDone
  repeat' split
  all_goals simp [h]

@[simp] theorem mapsOk_shiftStart {s : State} (n : Nat) (h : MapsOk s) :
    MapsOk (shiftStart s n) := by
  simp [shiftStart, h]

@[simp] theorem mapsOk_shiftComplete {s : State} (n : Nat) (h : MapsOk s) :
    MapsOk (shiftComplete s n) := by
  simp [shiftComplete, h]

@[simp] theorem mapsOk_testBurst {s : State} (n : Nat) (h : MapsOk s) :
    MapsOk (testBurst s n) := by
  unfold testBurst
  dsimp only
  repeat' split
  all_goals apply_rules [mapsOk_setHbm, mapsOk_update]

theorem mapsOk_rawWrite {s : State} (n base : Nat) (buf : Mem) (k : Nat) (h : MapsOk s) : MapsOk (rawWrite s n base buf k) :=
  mapsOk_mk.mpr ⟨⟨mwf_bytes rfl h.1.1 _ _, mwf_foldl (fun _ _ hm => mwf_put 0 hm _ _) _ h.1.2⟩, h.2⟩

@[simp] theorem mapsOk_codedRead {s : State} (n base : Nat) (errs : List (Fin 64 × SymErr)) (h : MapsOk s) :
    MapsOk (codedRead s n base errs) := by
  unfold codedRead
  all_goals apply_rules [mapsOk_burstGet, mapsOk_setHbm, mapsOk_foldl, mapsOk_update]

@[simp] theorem mapsOk_testMove {s : State} (n base : Nat) (errs : List (Fin 64 × SymErr)) (h : MapsOk s) :
    MapsOk (testMove s n base errs) := by
  unfold testMove
  dsimp only
  repeat' first
    | with_reducible assumption
    | with_reducible apply mapsOk_bump
    | with_reducible apply mapsOk_codedRead
    | with_reducible apply mapsOk_burstPut
    | with_reducible apply mapsOk_setHbm
    | with_reducible apply mapsOk_rawWrite
    | with_reducible refine mapsOk_foldl (fun _ _ _ => ?_) _ ?_
    | split

@[simp] theorem mapsOk_testBurstComplete {s : State} (n : Nat) (errs : List (Fin 64 × SymErr)) (h : MapsOk s) :
    MapsOk (testBurstComplete s n errs) := by
  unfold testBurstComplete
  dsimp only
  repeat' split
  all_goals apply_rules [mapsOk_setHbm, mapsOk_testMove, mapsOk_update]

/-! Adits -/

@[simp] theorem mapsOk_aditDown {s : State} (a cause : Nat) (h : MapsOk s) :
    MapsOk (aditDown s a cause) := by
  unfold aditDown
  dsimp only
  repeat' split
  all_goals apply_rules [mapsOk_setAdit, mapsOk_post, mapsOk_halCheck, mapsOk_discardOutput, mapsOk_foldl, mapsOk_update]

@[simp] theorem mapsOk_linkUp {s : State} (a : Nat) (p : Partner) (h : MapsOk s) :
    MapsOk (linkUp s a p) := by
  unfold linkUp
  dsimp only
  repeat' split
  all_goals apply_rules [mapsOk_setAdit, mapsOk_recv, mapsOk_halCheck, mapsOk_post, mapsOk_update]

@[simp] theorem mapsOk_trainingAttempt {s : State} (a : Nat) (h : MapsOk s) :
    MapsOk (trainingAttempt s a) := by
  unfold trainingAttempt
  dsimp only
  repeat' split
  all_goals apply_rules [mapsOk_advanceTo, mapsOk_setAdit, mapsOk_update]

@[simp] theorem mapsOk_goodFrame {s : State} (a : Nat) (f : Frame) (h : MapsOk s) :
    MapsOk (goodFrame s a f) := by
  simp [goodFrame, h]

@[simp] theorem mapsOk_linkFrame {s : State} (a : Nat) (f : Frame) (h : MapsOk s) :
    MapsOk (linkFrame s a f) := by
  unfold linkFrame
  dsimp only
  repeat' first
    | with_reducible assumption
    | with_reducible apply mapsOk_setAdit
    | with_reducible apply mapsOk_halCheck
    | with_reducible apply mapsOk_goodFrame
    | with_reducible apply mapsOk_parentFrame
    | with_reducible apply mapsOk_aditDown
    | split

/-! The host window -/

@[simp] theorem mapsOk_setDrg {s : State} (f : Drg → Drg) (h : MapsOk s) :
    MapsOk (setDrg s f) := by
  simp [setDrg, h]

@[simp] theorem mapsOk_hostDownNow {s : State} (h : MapsOk s) :
    MapsOk (hostDownNow s) := by
  unfold hostDownNow
  dsimp only
  repeat' first
    | with_reducible assumption
    | with_reducible apply mapsOk_setDrg
    | with_reducible apply mapsOk_cmFail
    | with_reducible apply mapsOk_setAlert
    | with_reducible apply mapsOk_discardOutput
    | with_reducible refine mapsOk_foldl (fun _ _ _ => ?_) _ ?_
    | split

@[simp] theorem mapsOk_nakTaken {s : State} (a : BitVec 12) (h : MapsOk s) :
    MapsOk (nakTaken s a) := by
  unfold nakTaken
  dsimp only
  repeat' first
    | with_reducible assumption
    | with_reducible apply mapsOk_setDrg
    | with_reducible apply mapsOk_hostDownNow
    | split

@[simp] theorem mapsOk_flitTaken {s : State} (bs : List Byte) (h : MapsOk s) :
    MapsOk (flitTaken s bs) := by
  unfold flitTaken
  dsimp only
  repeat' first
    | with_reducible assumption
    | with_reducible apply mapsOk_setDrg
    | with_reducible apply mapsOk_nakTaken
    | split

@[simp] theorem mapsOk_cmpTo {s : State} (tag : BitVec 12) (status : Nat) (h : MapsOk s) :
    MapsOk (cmpTo s tag status) := by
  simp [cmpTo, h]

@[simp] theorem mapsOk_rspTo {s : State} (tag : BitVec 12) (status : Nat) (d : List Byte) (h : MapsOk s) :
    MapsOk (rspTo s tag status d) := by
  simp [rspTo, h]

@[simp] theorem mapsOk_hostGet {s : State} (l : Nat) (h : MapsOk s) :
    MapsOk (hostGet s l).2 := by
  unfold hostGet
  dsimp only
  repeat' first
    | with_reducible assumption
    | with_reducible apply mapsOk_homeGet
    | with_reducible apply mapsOk_takeHome
    | with_reducible apply mapsOk_b1Get
    | split

@[simp] theorem mapsOk_hostGets {s : State} (l n : Nat) (h : MapsOk s) :
    MapsOk (hostGets s l n).2 := by
  unfold hostGets
  repeat' first
    | with_reducible assumption
    | with_reducible apply mapsOk_hostGet
    | with_reducible refine mapsOk_foldl_snd (fun _ _ _ => ?_) _ ?_

@[simp] theorem mapsOk_hostPut {s : State} (l : Nat) (d : List Byte) (h : MapsOk s) :
    MapsOk (hostPut s l d) := by
  unfold hostPut
  repeat' split
  all_goals simp [h]

@[simp] theorem mapsOk_hostPart {s : State} (x : Nat) (d : List Byte) (mask : Nat → Bool) (h : MapsOk s) :
    MapsOk (hostPart s x d mask) := by
  unfold hostPart
  dsimp only
  repeat' first
    | with_reducible assumption
    | with_reducible apply mapsOk_homeGet
    | with_reducible apply mapsOk_takeHome
    | with_reducible apply mapsOk_homePut
    | with_reducible apply mapsOk_countAccess
    | with_reducible apply mapsOk_cwModify
    | split

@[simp] theorem mapsOk_hostWrite {s : State} (l n : Nat) (d : List Byte) (h : MapsOk s) :
    MapsOk (hostWrite s l n d) := by
  unfold hostWrite
  repeat' first
    | with_reducible assumption
    | with_reducible apply mapsOk_stageDrop
    | with_reducible apply mapsOk_hostPut
    | with_reducible refine mapsOk_foldl (fun _ _ _ => ?_) _ ?_
    | split

@[simp] theorem mapsOk_filterPut {s : State} (l : Nat) (m : Bool) (h : MapsOk s) :
    MapsOk (filterPut s l m) := by
  simp [filterPut, h]

@[simp] theorem mapsOk_filterDel {s : State} (l : Nat) (h : MapsOk s) :
    MapsOk (filterDel s l) := by
  simp [filterDel, h]

@[simp] theorem mapsOk_evict {s : State} (l : Nat) (h : MapsOk s) :
    MapsOk (evict s l) := by
  unfold evict
  repeat' split
  all_goals simp [h]

@[simp] theorem mapsOk_holdReq {s : State} (q : HostReq) (h : MapsOk s) :
    MapsOk (holdReq s q) := by
  simp [holdReq, h]

@[simp] theorem mapsOk_grant {s : State} (q : HostReq) (m : Bool) (h : MapsOk s) :
    MapsOk (grant s q m) := by
  unfold grant
  dsimp only
  repeat' first
    | with_reducible assumption
    | with_reducible apply mapsOk_holdReq
    | with_reducible apply mapsOk_evict
    | with_reducible apply mapsOk_hostGet
    | with_reducible apply mapsOk_rspTo
    | with_reducible apply mapsOk_filterPut
    | split

@[simp] theorem mapsOk_hostAct {s : State} (q : HostReq) (h : MapsOk s) :
    MapsOk (hostAct s q) := by
  unfold hostAct
  repeat' split
  all_goals simp [h]

@[simp] theorem mapsOk_hostRange {s : State} (q : HostReq) (h : MapsOk s) :
    MapsOk (hostRange s q) := by
  unfold hostRange
  split <;> apply_rules [mapsOk_rspTo, mapsOk_cmpTo, mapsOk_update]

@[simp] theorem mapsOk_hostServe {s : State} (q : HostReq) (h : MapsOk s) :
    MapsOk (hostServe s q) := by
  simp [hostServe, h]

@[simp] theorem mapsOk_hostRetry {s : State} (h : MapsOk s) :
    MapsOk (hostRetry s) := by
  unfold hostRetry
  refine mapsOk_foldl (fun s b h => ?_) _ ?_ <;> apply_rules [mapsOk_hostServe, mapsOk_setDrg, mapsOk_foldl, mapsOk_update]

@[simp] theorem mapsOk_hostIn {s : State} (q : HostReq) (h : MapsOk s) :
    MapsOk (hostIn s q) := by
  simp [hostIn, h]

@[simp] theorem mapsOk_hostEvict {s : State} (tag : BitVec 12) (addr : BitVec 56) (data : Option (List Byte)) (h : MapsOk s) :
    MapsOk (hostEvict s tag addr data) := by
  unfold hostEvict
  repeat' split
  all_goals simp [h]

theorem mapsOk_snoopAnswer {s : State} (tag : BitVec 12) (ok : Bool → Bool) (f : State → Nat → Bool → State)
    (hf : ∀ t a b, MapsOk t → MapsOk (f t a b)) (h : MapsOk s) : MapsOk (snoopAnswer s tag ok f) := by
  unfold snoopAnswer
  split
  · exact h
  · split
    · exact h
    · split
      · exact mapsOk_hostRetry (hf _ _ _ (mapsOk_setDrg _ h))
      · exact h

@[simp] theorem mapsOk_cmDone {s : State} (r : CmReq) (data : Option (List Byte)) (h : MapsOk s) :
    MapsOk (cmDone s r data) := by
  unfold cmDone
  repeat' split
  all_goals simp [h]

@[simp] theorem mapsOk_cmAnswer {s : State} (tag : BitVec 12) (status : Byte) (data : Option (List Byte)) (h : MapsOk s) :
    MapsOk (cmAnswer s tag status data) := by
  unfold cmAnswer
  repeat' split
  all_goals simp [h]

theorem mapsOk_drainStep {a : Bool × State} (h : MapsOk a.2) : MapsOk (drainStep a).2 := by
  unfold drainStep
  extract_lets s
  split
  · exact h
  · split
    · exact mapsOk_evtWrite _ (mapsOk_update h)
    · split
      · exact h
      · exact mapsOk_evtWrite _ (mapsOk_update h)

theorem mapsOk_eventDrain {s : State} (h : MapsOk s) : MapsOk (eventDrain s) := by
  have hd : MapsOk ((List.range (s.evt.queue.length + 1)).foldl (fun a _ => drainStep a) (false, s)).2 :=
    mapsOk_foldl_snd (fun a _ ha => mapsOk_drainStep ha) _ h
  unfold eventDrain
  split <;> rename_i heq <;> rw [heq] at hd
  · exact mapsOk_evtIrq hd
  · exact hd

@[simp] theorem mapsOk_irqHoldoff {s : State} (h : MapsOk s) :
    MapsOk (irqHoldoff s) := by
  simp [irqHoldoff, h]

@[simp] theorem mapsOk_policyMeas {s : State} (h : MapsOk s) :
    MapsOk (policyMeas s) := by
  simp [policyMeas, h]

@[simp] theorem mapsOk_nodeWrite {s : State} (n : BitVec 14) (h : MapsOk s) :
    MapsOk (nodeWrite s n) := by
  unfold nodeWrite
  repeat' split
  all_goals apply_rules [mapsOk_policyMeas, mapsOk_update]

/-! Register writes -/

@[simp] theorem mapsOk_alertWrite {s : State} (v : Nat) (h : MapsOk s) :
    MapsOk (alertWrite s v) := by
  simp [alertWrite, h]

@[simp] theorem mapsOk_writeDev {s : State} (o v : Nat) (h : MapsOk s) :
    MapsOk (writeDev s o v) := by
  simp [writeDev, h]

@[simp] theorem mapsOk_resetWrite {s : State} (m : BitVec 5) (h : MapsOk s) :
    MapsOk (resetWrite s m) := by
  unfold resetWrite
  repeat' split
  all_goals apply_rules [mapsOk_update]

@[simp] theorem mapsOk_drvWrite {s : State} (l : BitVec 4) (atEn : Bool) (h : MapsOk s) :
    MapsOk (drvWrite s l atEn) := by
  simp [drvWrite, h]

@[simp] theorem mapsOk_limitWrite {s : State} (v : Nat) (h : MapsOk s) :
    MapsOk (limitWrite s v) := by
  simp [limitWrite, h]

@[simp] theorem mapsOk_writePwr {s : State} (burgee : Bool) (o v : Nat) (h : MapsOk s) :
    MapsOk (writePwr s burgee o v) := by
  simp [writePwr, h]

@[simp] theorem mapsOk_dipCtlWrite {s : State} (burgee : Bool) (v : Nat) (h : MapsOk s) :
    MapsOk (dipCtlWrite s burgee v) := by
  unfold dipCtlWrite
  repeat' first
    | with_reducible assumption
    | with_reducible apply mapsOk_dipSchedule
    | with_reducible apply mapsOk_setSyn
    | with_reducible apply mapsOk_requestDip
    | split

@[simp] theorem mapsOk_bcastCmd {s : State} (v : Nat) (h : MapsOk s) :
    MapsOk (bcastCmd s v) := by
  unfold bcastCmd
  repeat' split
  all_goals apply_rules [mapsOk_guarded, mapsOk_bcastSend, mapsOk_bcastArm, mapsOk_bcastAbandon, mapsOk_update]

theorem mapsOk_writeSyn {s : State} (burgee : Bool) (o v : Nat) (h : MapsOk s) : MapsOk (writeSyn s burgee o v) := by
  simp [writeSyn, h, mapsOk_parentWrite]

@[simp] theorem mapsOk_setDbg {s : State} (f : Dbg → Dbg) (h : MapsOk s) :
    MapsOk (setDbg s f) := by
  simp [setDbg, h]

@[simp] theorem mapsOk_writeDbg {s : State} (o v : Nat) (h : MapsOk s) :
    MapsOk (writeDbg s o v) := by
  simp [writeDbg, h]

@[simp] theorem mapsOk_loaderCmd {s : State} (v : Nat) (h : MapsOk s) :
    MapsOk (loaderCmd s v) := by
  unfold loaderCmd
  repeat' split
  all_goals simp [h]

@[simp] theorem mapsOk_policyWrite {s : State} (v : Nat) (h : MapsOk s) :
    MapsOk (policyWrite s v) := by
  simp [policyWrite, h]

@[simp] theorem mapsOk_writeHst {s : State} (o v : Nat) (h : MapsOk s) :
    MapsOk (writeHst s o v) := by
  simp [writeHst, h]

@[simp] theorem mapsOk_ctxCmd {s : State} (v : Nat) (h : MapsOk s) :
    MapsOk (ctxCmd s v) := by
  unfold ctxCmd
  repeat' split
  all_goals apply_rules [mapsOk_launch, mapsOk_guarded, mapsOk_save, mapsOk_restore, mapsOk_stopCmd, mapsOk_kill, mapsOk_releaseCmd, mapsOk_update]

@[simp] theorem mapsOk_writeCtab {s : State} (o v : Nat) (h : MapsOk s) :
    MapsOk (writeCtab s o v) := by
  simp [writeCtab, h]

@[simp] theorem mapsOk_setTir {s : State} (f : Tier → Tier) (h : MapsOk s) :
    MapsOk (setTir s f) := by
  simp [setTir, h]

@[simp] theorem mapsOk_writeTir {s : State} (o v : Nat) (h : MapsOk s) :
    MapsOk (writeTir s o v) := by
  simp [writeTir, h]

@[simp] theorem mapsOk_writeBpm {s : State} (o v : Nat) (h : MapsOk s) :
    MapsOk (writeBpm s o v) := by
  unfold writeBpm
  repeat' first
    | with_reducible assumption
    | with_reducible apply mapsOk_bpmAlloc
    | with_reducible apply mapsOk_bpmRelease
    | with_reducible apply mapsOk_bpmReset
    | split

@[simp] theorem mapsOk_writeTrw {s : State} (t o v : Nat) (h : MapsOk s) :
    MapsOk (writeTrw s t o v) := by
  unfold writeTrw
  repeat' split
  all_goals apply_rules [mapsOk_guarded, mapsOk_abort, mapsOk_poolEased, mapsOk_setTrw, mapsOk_update]

@[simp] theorem mapsOk_setYard {s : State} (f : Yard → Yard) (h : MapsOk s) :
    MapsOk (setYard s f) := by
  simp [setYard, h]

@[simp] theorem mapsOk_writeYrd {s : State} (o v : Nat) (h : MapsOk s) :
    MapsOk (writeYrd s o v) := by
  simp [writeYrd, h]

@[simp] theorem mapsOk_writeFab {s : State} (o v : Nat) (h : MapsOk s) :
    MapsOk (writeFab s o v) := by
  simp [writeFab, h]

@[simp] theorem mapsOk_hbmCmd {s : State} (n v : Nat) (h : MapsOk s) :
    MapsOk (hbmCmd s n v) := by
  unfold hbmCmd
  split <;> apply_rules [mapsOk_hbmTestEnter, mapsOk_hbmTestExit, mapsOk_hbmRetrain, mapsOk_hbmRepair, mapsOk_hbmClearMarks, mapsOk_update]

@[simp] theorem mapsOk_writeHbm {s : State} (n o v : Nat) (h : MapsOk s) :
    MapsOk (writeHbm s n o v) := by
  simp [writeHbm, h]

theorem mapsOk_writeReg {s : State} (burgee : Bool) (off v : Nat) (h : MapsOk s) : MapsOk (writeReg s burgee off v) := by
  simp [writeReg, h, mapsOk_writeSyn]

@[simp] theorem mapsOk_registerWrite {s : State} (burgee : Bool) (off v : Nat) (h : MapsOk s) :
    MapsOk (registerWrite s burgee off v) := by
  unfold registerWrite
  repeat' split
  all_goals apply_rules [mapsOk_writeReg, mapsOk_update]

/-! The Burgee port -/

@[simp] theorem mapsOk_setAon {s : State} (f : Aon → Aon) (h : MapsOk s) :
    MapsOk (setAon s f) := by
  simp [setAon, h]

@[simp] theorem mapsOk_i3cAnswer {s : State} (d : List Byte) (h : MapsOk s) :
    MapsOk (i3cAnswer s d) := by
  simp [i3cAnswer, h]

@[simp] theorem mapsOk_mctpAnswer {s : State} (d : List Byte) (h : MapsOk s) :
    MapsOk (mctpAnswer s d) := by
  simp [mctpAnswer, h]

@[simp] theorem mapsOk_ctrlAnswer {s : State} (cmd cc : Byte) (d : List Byte) (h : MapsOk s) :
    MapsOk (ctrlAnswer s cmd cc d) := by
  simp [ctrlAnswer, h]

@[simp] theorem mapsOk_setEid {s : State} (op : BitVec 2) (eid : Byte) (h : MapsOk s) :
    MapsOk (setEid s op eid) := by
  simp [setEid, h]

@[simp] theorem mapsOk_hjAnswer {s : State} (cls code : Byte) (rseq : BitVec 7) (status : Byte) (d : List Byte) (h : MapsOk s) :
    MapsOk (hjAnswer s cls code rseq status d) := by
  simp [hjAnswer, h]

@[simp] theorem mapsOk_regWriteAns {s : State} (b : List Byte) (h : MapsOk s) :
    MapsOk (regWriteAns s b).2 := by
  unfold regWriteAns
  dsimp only
  repeat' split
  all_goals apply_rules [mapsOk_writeReg, mapsOk_update]

@[simp] theorem mapsOk_keysMeas {s : State} (role : Nat) (h : MapsOk s) :
    MapsOk (keysMeas s role) := by
  simp [keysMeas, h]

@[simp] theorem mapsOk_keyPut {s : State} (role slot : Nat) (k : List Byte) (h : MapsOk s) :
    MapsOk (keyPut s role slot k) := by
  unfold keyPut
  all_goals apply_rules [mapsOk_setAon, mapsOk_keysMeas, mapsOk_setAlert, mapsOk_update]

@[simp] theorem mapsOk_enrollAns {s : State} (b : List Byte) (h : MapsOk s) :
    MapsOk (enrollAns s b).2 := by
  unfold enrollAns
  dsimp only
  repeat' split
  all_goals apply_rules [mapsOk_keyPut, mapsOk_update]

@[simp] theorem mapsOk_revokeAns {s : State} (b : List Byte) (h : MapsOk s) :
    MapsOk (revokeAns s b).2 := by
  unfold revokeAns
  repeat' split
  all_goals simp [h]

/-! Power and resets -/

@[simp] theorem mapsOk_setPwr {s : State} (f : Pwr → Pwr) (h : MapsOk s) :
    MapsOk (setPwr s f) := by
  simp [setPwr, h]

@[simp] theorem mapsOk_setPins {s : State} (f : Pins → Pins) (h : MapsOk s) :
    MapsOk (setPins s f) := by
  simp [setPins, h]

@[simp] theorem mapsOk_dropRequests {s : State} (h : MapsOk s) :
    MapsOk (dropRequests s) := by
  simp [dropRequests, h]

@[simp] theorem mapsOk_clearCompute {s : State} (h : MapsOk s) :
    MapsOk (clearCompute s) := by
  simp [clearCompute, h]

@[simp] theorem mapsOk_flushLines {s : State} (h : MapsOk s) :
    MapsOk (flushLines s) := by
  unfold flushLines
  refine mapsOk_foldl (fun s b h => ?_) _ ?_ <;> apply_rules [mapsOk_dropLine, mapsOk_foldl, mapsOk_update]

@[simp] theorem mapsOk_discardDown {s : State} (h : MapsOk s) :
    MapsOk (discardDown s) := by
  unfold discardDown
  dsimp only
  repeat' first
    | with_reducible assumption
    | with_reducible apply mapsOk_discardOutput
    | with_reducible refine mapsOk_foldl (fun _ _ _ => ?_) _ ?_
    | split

@[simp] theorem mapsOk_resetCompute {s : State} (h : MapsOk s) :
    MapsOk (resetCompute s) := by
  unfold resetCompute
  repeat' first
    | with_reducible assumption
    | with_reducible apply mapsOk_discardDown
    | with_reducible apply mapsOk_clearCompute
    | with_reducible apply mapsOk_dropRequests
    | with_reducible apply mapsOk_flushLines

@[simp] theorem mapsOk_rebase {s : State} (h : MapsOk s) :
    MapsOk (rebase s) := by
  simp [rebase, h]

theorem mwf_hbmAll {d : Hbm} (hd : d = {}) (s : State) (st : HState) : mwf d (hbmAll s st) = true := by
  subst hd
  exact mwf_foldl (fun _ _ hm => mwf_put (α := Hbm) {} hm _ _) _ rfl
theorem mapsOk_resetFabric {s : State} (h : MapsOk s) : MapsOk (resetFabric s) := by
  have hr : MapsOk (rebase (clearCompute (dropRequests (flushLines s)))) :=
    mapsOk_rebase (mapsOk_clearCompute (mapsOk_dropRequests (mapsOk_flushLines h)))
  unfold resetFabric
  generalize rebase (clearCompute (dropRequests (flushLines s))) = t at hr ⊢
  refine mapsOk_mk.mpr ?_
  simp [hr]

@[simp] theorem mapsOk_resetHost {s : State} (h : MapsOk s) :
    MapsOk (resetHost s) := by
  simp [resetHost, h]

theorem mapsOk_resetHbm {s : State} (h : MapsOk s) : MapsOk (resetHbm s) := by
  have hr : MapsOk (resetFabric (resetHost s)) := mapsOk_resetFabric (mapsOk_resetHost h)
  unfold resetHbm
  generalize resetFabric (resetHost s) = t at hr ⊢
  extract_lets u
  refine mapsOk_mk.mpr ?_
  simp [u, hr, mwf_hbmAll]

@[simp] theorem mapsOk_measClear {s : State} (h : MapsOk s) :
    MapsOk (measClear s) := by
  unfold measClear
  refine mapsOk_foldl (fun s b h => ?_) _ ?_ <;> apply_rules [mapsOk_measSet, mapsOk_foldl, mapsOk_update]

theorem mapsOk_mainReset {s : State} (cause : Nat) (st : Stage) (h : MapsOk s) : MapsOk (mainReset s cause st) := by
  have hr : MapsOk (measClear (if linkIsUp s then setAlert s 2 else s)) := by
    refine mapsOk_measClear ?_
    split
    · exact mapsOk_setAlert _ h
    · exact h
  unfold mainReset
  generalize measClear (if linkIsUp s then setAlert s 2 else s) = t at hr ⊢
  exact mapsOk_mk.mpr ⟨hr.1, rfl, rfl, rfl, rfl, rfl, rfl, mwf_hbmAll rfl _ _, rfl, rfl, rfl, rfl, rfl⟩

@[simp] theorem mapsOk_resetAct {s : State} (m : BitVec 5) (h : MapsOk s) :
    MapsOk (resetAct s m) := by
  unfold resetAct
  repeat' first
    | with_reducible assumption
    | with_reducible apply mapsOk_mainReset
    | with_reducible apply mapsOk_resetHbm
    | with_reducible apply mapsOk_resetFabric
    | with_reducible apply mapsOk_resetCompute
    | with_reducible apply mapsOk_resetHost
    | split

@[simp] theorem mapsOk_resetDue {s : State} (m : BitVec 5) (h : MapsOk s) :
    MapsOk (resetDue s m) := by
  unfold resetDue
  repeat' split
  all_goals apply_rules [mapsOk_advanceNs, mapsOk_resetAct, mapsOk_setPwr, mapsOk_update]

theorem mapsOk_bootOk {s : State} (img : List Byte) (h : MapsOk s) : MapsOk (bootOk s img) := by
  unfold bootOk
  refine mapsOk_measSet _ _ (mapsOk_measSet _ _ (mapsOk_mk.mpr ?_))
  simp [h, mwf_hbmAll]

theorem mapsOk_bootFail {s : State} (fw : FwState) (h : MapsOk s) : MapsOk (bootFail s fw) := by
  unfold bootFail
  exact mapsOk_setAlert _ (mapsOk_update h)

theorem mapsOk_boot {s : State} (img0 img1 : List Byte) (h : MapsOk s) : MapsOk (boot s img0 img1) := by
  unfold boot
  split
  · exact mapsOk_bootOk _ h
  · split
    · exact mapsOk_bootOk _ h
    · exact mapsOk_bootFail _ h

@[simp] theorem mapsOk_autoSet {s : State} (a : Nat) (h : MapsOk s) :
    MapsOk (autoSet s a) := by
  simp [autoSet, h]

@[simp] theorem mapsOk_thermalEnd {s : State} (hot : Bool) (avg : BitVec 16) (tj : Byte) (h : MapsOk s) :
    MapsOk (thermalEnd s hot avg tj) := by
  unfold thermalEnd
  dsimp only
  repeat' first
    | with_reducible assumption
    | with_reducible apply mapsOk_setPwr
    | with_reducible apply mapsOk_autoSet
    | split

@[simp] theorem mapsOk_thrAt {s : State} (h : MapsOk s) :
    MapsOk (thrAt s) := by
  unfold thrAt
  repeat' split
  all_goals simp [h]

@[simp] theorem mapsOk_governorWave {s : State} (h : MapsOk s) :
    MapsOk (governorWave s) := by
  simp [governorWave, h]

@[simp] theorem mapsOk_coreAwake {s : State} (k : Nat) (h : MapsOk s) :
    MapsOk (coreAwake s k) := by
  unfold coreAwake
  repeat' split
  all_goals simp [h]

/-! ### Every command keeps the maps in canonical form -/

/-- Whatever next state the outcome gives has its maps in canonical form. -/
def KeepsMaps (o : Host.Outcome State Fault Refusal) : Prop := ∀ t, o = .next t → MapsOk t

@[simp] theorem keepsMaps_next {t : State} : KeepsMaps (.next t) ↔ MapsOk t :=
  ⟨fun h => h t rfl, fun h _ e => Host.Outcome.next.inj e ▸ h⟩

@[simp] theorem keepsMaps_execAlloc (p : BitVec 4) (refs : BitVec 8) {s : State} (h : MapsOk s) :
    KeepsMaps (execAlloc p refs s) := by
  refine keepsMaps_next.mpr ?_
  repeat' first
    | with_reducible assumption
    | with_reducible apply mapsOk_bpmAlloc

@[simp] theorem keepsMaps_execPacketAccept (q : Fin 34) (p : Packet) {s : State} (h : MapsOk s) :
    KeepsMaps (execPacketAccept q p s) := by
  refine keepsMaps_next.mpr ?_
  repeat' first
    | with_reducible assumption
    | with_reducible apply mapsOk_guarded
    | with_reducible apply mapsOk_yardAccept
    | split

@[simp] theorem keepsMaps_execPacketAdmit (q : Fin 34) (v : Fin 6) {s : State} (h : MapsOk s) :
    KeepsMaps (execPacketAdmit q v s) := by
  refine keepsMaps_next.mpr ?_
  repeat' first
    | with_reducible assumption
    | with_reducible apply mapsOk_yardAdmit
    | split

@[simp] theorem keepsMaps_execTransmit (a : Fin 24) (v : Fin 6) {s : State} (h : MapsOk s) :
    KeepsMaps (execTransmit a v s) := by
  refine keepsMaps_next.mpr ?_
  repeat' first
    | with_reducible assumption
    | with_reducible apply mapsOk_guarded
    | with_reducible apply mapsOk_yardTransmit
    | split

@[simp] theorem keepsMaps_execGroupEntryExpiry {s : State} (h : MapsOk s) :
    KeepsMaps (execGroupEntryExpiry s) := by
  refine keepsMaps_next.mpr ?_
  repeat' split
  all_goals simp [h]

@[simp] theorem keepsMaps_execLineWriteback (hm : Fin 8) {s : State} (h : MapsOk s) :
    KeepsMaps (execLineWriteback hm s) := by
  simp [execLineWriteback, h]

@[simp] theorem keepsMaps_execStage {s : State} (h : MapsOk s) :
    KeepsMaps (execStage s) := by
  refine keepsMaps_next.mpr ?_
  repeat' first
    | with_reducible assumption
    | with_reducible apply mapsOk_guarded
    | with_reducible apply mapsOk_stage
    | split

@[simp] theorem keepsMaps_execSettle (c : Fin 16) {s : State} (h : MapsOk s) :
    KeepsMaps (execSettle c s) := by
  simp [execSettle, h]

@[simp] theorem keepsMaps_execMigrationSwitch (c : Fin 16) {s : State} (h : MapsOk s) :
    KeepsMaps (execMigrationSwitch c s) := by
  refine keepsMaps_next.mpr ?_
  repeat' first
    | with_reducible assumption
    | with_reducible apply mapsOk_guarded
    | with_reducible apply mapsOk_migrationSwitch
    | split

@[simp] theorem keepsMaps_execNop (k : Fin 512) {s : State} (h : MapsOk s) :
    KeepsMaps (execNop k s) := by
  refine keepsMaps_next.mpr ?_
  repeat' first
    | with_reducible assumption
    | with_reducible refine mapsOk_issue _ _ (fun _ => ?_) ?_
    | with_reducible apply mapsOk_next

@[simp] theorem keepsMaps_execEndProg (k : Fin 512) {s : State} (h : MapsOk s) :
    KeepsMaps (execEndProg k s) := by
  refine keepsMaps_next.mpr ?_
  repeat' first
    | with_reducible assumption
    | with_reducible refine mapsOk_issue _ _ (fun _ => ?_) ?_
    | with_reducible apply mapsOk_settleIdle
    | with_reducible apply mapsOk_setCore

@[simp] theorem keepsMaps_execLoop (k : Fin 512) (sa : BitVec 5) (imm : BitVec 32) {s : State} (h : MapsOk s) :
    KeepsMaps (execLoop k sa imm s) := by
  refine keepsMaps_next.mpr ?_
  try dsimp only
  repeat' first
    | with_reducible assumption
    | with_reducible refine mapsOk_issue _ _ (fun _ => ?_) ?_
    | with_reducible apply mapsOk_next
    | with_reducible apply mapsOk_unitFault
    | with_reducible apply mapsOk_advance
    | with_reducible apply mapsOk_setCore
    | split

@[simp] theorem keepsMaps_execBr (k : Fin 512) (cond : BitVec 3) (sa sb : BitVec 5) (imm : BitVec 32) {s : State} (h : MapsOk s) :
    KeepsMaps (execBr k cond sa sb imm s) := by
  refine keepsMaps_next.mpr ?_
  try dsimp only
  repeat' first
    | with_reducible assumption
    | with_reducible refine mapsOk_issue _ _ (fun _ => ?_) ?_
    | with_reducible apply mapsOk_next
    | with_reducible apply mapsOk_unitFault
    | with_reducible apply mapsOk_setCore
    | split

@[simp] theorem keepsMaps_execLi (k : Fin 512) (sd : BitVec 5) (imm : BitVec 32) {s : State} (h : MapsOk s) :
    KeepsMaps (execLi k sd imm s) := by
  refine keepsMaps_next.mpr ?_
  repeat' first
    | with_reducible assumption
    | with_reducible refine mapsOk_issue _ _ (fun _ => ?_) ?_
    | with_reducible apply mapsOk_writeS

@[simp] theorem keepsMaps_execLih (k : Fin 512) (sd : BitVec 5) (imm : BitVec 32) {s : State} (h : MapsOk s) :
    KeepsMaps (execLih k sd imm s) := by
  refine keepsMaps_next.mpr ?_
  repeat' first
    | with_reducible assumption
    | with_reducible refine mapsOk_issue _ _ (fun _ => ?_) ?_
    | with_reducible apply mapsOk_writeS

@[simp] theorem keepsMaps_execAdd (k : Fin 512) (sd sa sb : BitVec 5) (imm : BitVec 32) {s : State} (h : MapsOk s) :
    KeepsMaps (execAdd k sd sa sb imm s) := by
  refine keepsMaps_next.mpr ?_
  repeat' first
    | with_reducible assumption
    | with_reducible apply mapsOk_alu

@[simp] theorem keepsMaps_execSub (k : Fin 512) (sd sa sb : BitVec 5) (imm : BitVec 32) {s : State} (h : MapsOk s) :
    KeepsMaps (execSub k sd sa sb imm s) := by
  refine keepsMaps_next.mpr ?_
  repeat' first
    | with_reducible assumption
    | with_reducible apply mapsOk_alu

@[simp] theorem keepsMaps_execMul (k : Fin 512) (sd sa sb : BitVec 5) (imm : BitVec 32) {s : State} (h : MapsOk s) :
    KeepsMaps (execMul k sd sa sb imm s) := by
  refine keepsMaps_next.mpr ?_
  repeat' first
    | with_reducible assumption
    | with_reducible apply mapsOk_alu

@[simp] theorem keepsMaps_execAnd (k : Fin 512) (sd sa sb : BitVec 5) (imm : BitVec 32) {s : State} (h : MapsOk s) :
    KeepsMaps (execAnd k sd sa sb imm s) := by
  refine keepsMaps_next.mpr ?_
  repeat' first
    | with_reducible assumption
    | with_reducible apply mapsOk_alu

@[simp] theorem keepsMaps_execOr (k : Fin 512) (sd sa sb : BitVec 5) (imm : BitVec 32) {s : State} (h : MapsOk s) :
    KeepsMaps (execOr k sd sa sb imm s) := by
  refine keepsMaps_next.mpr ?_
  repeat' first
    | with_reducible assumption
    | with_reducible apply mapsOk_alu

@[simp] theorem keepsMaps_execXor (k : Fin 512) (sd sa sb : BitVec 5) (imm : BitVec 32) {s : State} (h : MapsOk s) :
    KeepsMaps (execXor k sd sa sb imm s) := by
  refine keepsMaps_next.mpr ?_
  repeat' first
    | with_reducible assumption
    | with_reducible apply mapsOk_alu

@[simp] theorem keepsMaps_execShl (k : Fin 512) (sd sa sb : BitVec 5) (imm : BitVec 32) {s : State} (h : MapsOk s) :
    KeepsMaps (execShl k sd sa sb imm s) := by
  refine keepsMaps_next.mpr ?_
  repeat' first
    | with_reducible assumption
    | with_reducible apply mapsOk_alu

@[simp] theorem keepsMaps_execShr (k : Fin 512) (sd sa sb : BitVec 5) (imm : BitVec 32) {s : State} (h : MapsOk s) :
    KeepsMaps (execShr k sd sa sb imm s) := by
  refine keepsMaps_next.mpr ?_
  repeat' first
    | with_reducible assumption
    | with_reducible apply mapsOk_alu

@[simp] theorem keepsMaps_execSra (k : Fin 512) (sd sa sb : BitVec 5) (imm : BitVec 32) {s : State} (h : MapsOk s) :
    KeepsMaps (execSra k sd sa sb imm s) := by
  refine keepsMaps_next.mpr ?_
  repeat' first
    | with_reducible assumption
    | with_reducible apply mapsOk_alu

@[simp] theorem keepsMaps_execMin (k : Fin 512) (sd sa sb : BitVec 5) (imm : BitVec 32) {s : State} (h : MapsOk s) :
    KeepsMaps (execMin k sd sa sb imm s) := by
  refine keepsMaps_next.mpr ?_
  repeat' first
    | with_reducible assumption
    | with_reducible apply mapsOk_alu

@[simp] theorem keepsMaps_execMax (k : Fin 512) (sd sa sb : BitVec 5) (imm : BitVec 32) {s : State} (h : MapsOk s) :
    KeepsMaps (execMax k sd sa sb imm s) := by
  refine keepsMaps_next.mpr ?_
  repeat' first
    | with_reducible assumption
    | with_reducible apply mapsOk_alu

@[simp] theorem keepsMaps_execAset (k : Fin 512) (ad : BitVec 4) (sa : BitVec 5) (imm : BitVec 32) {s : State} (h : MapsOk s) :
    KeepsMaps (execAset k ad sa imm s) := by
  refine keepsMaps_next.mpr ?_
  repeat' first
    | with_reducible assumption
    | with_reducible refine mapsOk_issue _ _ (fun _ => ?_) ?_
    | with_reducible apply mapsOk_next
    | with_reducible apply mapsOk_setCore

@[simp] theorem keepsMaps_execAadd (k : Fin 512) (ad : BitVec 4) (sa : BitVec 5) (imm : BitVec 32) {s : State} (h : MapsOk s) :
    KeepsMaps (execAadd k ad sa imm s) := by
  refine keepsMaps_next.mpr ?_
  repeat' first
    | with_reducible assumption
    | with_reducible refine mapsOk_issue _ _ (fun _ => ?_) ?_
    | with_reducible apply mapsOk_next
    | with_reducible apply mapsOk_setCore

@[simp] theorem keepsMaps_execAget (k : Fin 512) (sd : BitVec 5) (ad : BitVec 4) {s : State} (h : MapsOk s) :
    KeepsMaps (execAget k sd ad s) := by
  refine keepsMaps_next.mpr ?_
  repeat' first
    | with_reducible assumption
    | with_reducible refine mapsOk_issue _ _ (fun _ => ?_) ?_
    | with_reducible apply mapsOk_writeS

@[simp] theorem keepsMaps_execRdsys (k : Fin 512) (sd : BitVec 5) (imm : BitVec 32) {s : State} (h : MapsOk s) :
    KeepsMaps (execRdsys k sd imm s) := by
  refine keepsMaps_next.mpr ?_
  repeat' first
    | with_reducible assumption
    | with_reducible refine mapsOk_issue _ _ (fun _ => ?_) ?_
    | with_reducible apply mapsOk_writeS
    | with_reducible apply mapsOk_unitFault
    | split

@[simp] theorem keepsMaps_execSld (k : Fin 512) (sd : BitVec 5) (ad : BitVec 4) (imm : BitVec 32) {s : State} (h : MapsOk s) :
    KeepsMaps (execSld k sd ad imm s) := by
  refine keepsMaps_next.mpr ?_
  repeat' first
    | with_reducible assumption
    | with_reducible refine mapsOk_seqAccess _ _ _ _ (fun _ => ?_) ?_
    | with_reducible apply mapsOk_writeS

@[simp] theorem keepsMaps_execSst (k : Fin 512) (sa : BitVec 5) (ad : BitVec 4) (imm : BitVec 32) {s : State} (h : MapsOk s) :
    KeepsMaps (execSst k sa ad imm s) := by
  refine keepsMaps_next.mpr ?_
  repeat' first
    | with_reducible assumption
    | with_reducible refine mapsOk_seqAccess _ _ _ _ (fun _ => ?_) ?_
    | with_reducible apply mapsOk_next
    | with_reducible apply mapsOk_setCore

@[simp] theorem keepsMaps_execWaittick (k : Fin 512) (imm : BitVec 20) {s : State} (h : MapsOk s) :
    KeepsMaps (execWaittick k imm s) := by
  refine keepsMaps_next.mpr ?_
  try dsimp only
  repeat' first
    | with_reducible assumption
    | with_reducible refine mapsOk_issue _ _ (fun _ => ?_) ?_
    | with_reducible apply mapsOk_next
    | with_reducible apply mapsOk_startWait
    | split

@[simp] theorem keepsMaps_execWaittickTarget (k : Fin 512) {s : State} (h : MapsOk s) :
    KeepsMaps (execWaittickTarget k s) := by
  refine keepsMaps_next.mpr ?_
  repeat' split
  all_goals simp [h]

@[simp] theorem keepsMaps_execMuster (k : Fin 512) (gang : BitVec 12) {s : State} (h : MapsOk s) :
    KeepsMaps (execMuster k gang s) := by
  refine keepsMaps_next.mpr ?_
  try dsimp only
  repeat' first
    | with_reducible assumption
    | with_reducible refine mapsOk_issue _ _ (fun _ => ?_) ?_
    | with_reducible apply mapsOk_startWait
    | with_reducible apply mapsOk_tryMuster
    | with_reducible apply mapsOk_setFace
    | with_reducible apply mapsOk_unitFault
    | split

@[simp] theorem keepsMaps_execWaitc (k : Fin 512) (sv : BitVec 5) (cnt : BitVec 4) {s : State} (h : MapsOk s) :
    KeepsMaps (execWaitc k sv cnt s) := by
  refine keepsMaps_next.mpr ?_
  repeat' first
    | with_reducible assumption
    | with_reducible apply mapsOk_waitCount

@[simp] theorem keepsMaps_execTakec (k : Fin 512) (sv : BitVec 5) (cnt : BitVec 4) {s : State} (h : MapsOk s) :
    KeepsMaps (execTakec k sv cnt s) := by
  refine keepsMaps_next.mpr ?_
  repeat' first
    | with_reducible assumption
    | with_reducible apply mapsOk_waitCount

@[simp] theorem keepsMaps_execFence (k : Fin 512) (qmask : BitVec 8) {s : State} (h : MapsOk s) :
    KeepsMaps (execFence k qmask s) := by
  refine keepsMaps_next.mpr ?_
  repeat' first
    | with_reducible assumption
    | with_reducible refine mapsOk_issue _ _ (fun _ => ?_) ?_
    | with_reducible apply mapsOk_next
    | with_reducible apply mapsOk_setCore
    | split

@[simp] theorem keepsMaps_execMovL (k : Fin 512) (f : MovF) {s : State} (h : MapsOk s) :
    KeepsMaps (execMovL k f s) := by
  refine keepsMaps_next.mpr ?_
  repeat' first
    | with_reducible assumption
    | with_reducible refine mapsOk_movChecked _ _ _ _ _ (fun _ _ => ?_) ?_
    | with_reducible refine mapsOk_issueOp _ _ _ _ _ (fun _ => ?_) ?_

@[simp] theorem keepsMaps_execMovP (k : Fin 512) (f : MovF) {s : State} (h : MapsOk s) :
    KeepsMaps (execMovP k f s) := by
  refine keepsMaps_next.mpr ?_
  try dsimp only
  repeat' first
    | with_reducible assumption
    | with_reducible refine mapsOk_movChecked _ _ _ _ _ (fun _ _ => ?_) ?_
    | with_reducible refine mapsOk_issueOp _ _ _ _ _ (fun _ => ?_) ?_
    | with_reducible apply mapsOk_unitFault
    | split

@[simp] theorem keepsMaps_execMovT (k : Fin 512) (f : MovF) {s : State} (h : MapsOk s) :
    KeepsMaps (execMovT k f s) := by
  refine keepsMaps_next.mpr ?_
  try dsimp only
  repeat' first
    | with_reducible assumption
    | with_reducible refine mapsOk_movChecked _ _ _ _ _ (fun _ _ => ?_) ?_
    | with_reducible refine mapsOk_issueOp _ _ _ _ _ (fun _ => ?_) ?_
    | with_reducible apply mapsOk_guarded
    | with_reducible apply mapsOk_unitFault
    | with_reducible apply mapsOk_tierRead
    | with_reducible apply mapsOk_sendB2
    | split

@[simp] theorem keepsMaps_execMovHR (k : Fin 512) (f : MovF) {s : State} (h : MapsOk s) : KeepsMaps (execMovHR k f s) := by
  refine keepsMaps_next.mpr (mapsOk_movChecked _ _ _ _ _ (fun c n => ?_) h)
  refine mapsOk_issueOp _ _ _ _ _ (fun c => ?_) h
  exact mapsOk_foldl (fun s p h => mapsOk_coreRequest _ _ _ _ _ _ _ _ _ h) _ h

@[simp] theorem keepsMaps_execMovHW (k : Fin 512) (f : MovF) {s : State} (h : MapsOk s) : KeepsMaps (execMovHW k f s) := by
  refine keepsMaps_next.mpr (mapsOk_movChecked _ _ _ _ _ (fun c n => ?_) h)
  refine mapsOk_issueOp _ _ _ _ _ (fun c => ?_) h
  exact mapsOk_foldl (fun s p h => mapsOk_coreRequest _ _ _ _ _ _ _ _ _ h) _ h

@[simp] theorem keepsMaps_execAtom (k : Fin 512) (f : MovF) {s : State} (h : MapsOk s) :
    KeepsMaps (execAtom k f s) := by
  refine keepsMaps_next.mpr ?_
  try dsimp only
  repeat' first
    | with_reducible assumption
    | with_reducible refine mapsOk_issue _ _ (fun _ => ?_) ?_
    | with_reducible refine mapsOk_issueOp _ _ _ _ _ (fun _ => ?_) ?_
    | with_reducible apply mapsOk_unitFault
    | with_reducible apply mapsOk_ndcInc
    | with_reducible apply mapsOk_coreRequest
    | split
    | fail_if_no_progress with_reducible refine mapsOk_update ?_

@[simp] theorem keepsMaps_execVld (k : Fin 512) (f : VecF) {s : State} (h : MapsOk s) :
    KeepsMaps (execVld k f s) := by
  refine keepsMaps_next.mpr ?_
  try dsimp only
  repeat' first
    | with_reducible assumption
    | with_reducible refine mapsOk_issue _ _ (fun _ => ?_) ?_
    | with_reducible refine mapsOk_issueOp _ _ _ _ _ (fun _ => ?_) ?_
    | with_reducible apply mapsOk_unitFault
    | with_reducible apply mapsOk_writeLanes
    | split

@[simp] theorem keepsMaps_execVst (k : Fin 512) (f : VecF) {s : State} (h : MapsOk s) :
    KeepsMaps (execVst k f s) := by
  refine keepsMaps_next.mpr ?_
  try dsimp only
  repeat' first
    | with_reducible assumption
    | with_reducible refine mapsOk_issue _ _ (fun _ => ?_) ?_
    | with_reducible refine mapsOk_issueOp _ _ _ _ _ (fun _ => ?_) ?_
    | with_reducible apply mapsOk_unitFault
    | split

@[simp] theorem keepsMaps_execVadd (k : Fin 512) (f : VecF) {s : State} (h : MapsOk s) :
    KeepsMaps (execVadd k f s) := by
  simp [execVadd, h]

@[simp] theorem keepsMaps_execVsub (k : Fin 512) (f : VecF) {s : State} (h : MapsOk s) :
    KeepsMaps (execVsub k f s) := by
  simp [execVsub, h]

@[simp] theorem keepsMaps_execVmul (k : Fin 512) (f : VecF) {s : State} (h : MapsOk s) :
    KeepsMaps (execVmul k f s) := by
  simp [execVmul, h]

@[simp] theorem keepsMaps_execVfma (k : Fin 512) (f : VecF) {s : State} (h : MapsOk s) :
    KeepsMaps (execVfma k f s) := by
  refine keepsMaps_next.mpr ?_
  repeat' first
    | with_reducible assumption
    | with_reducible apply mapsOk_vecIssue

@[simp] theorem keepsMaps_execVmax (k : Fin 512) (f : VecF) {s : State} (h : MapsOk s) :
    KeepsMaps (execVmax k f s) := by
  simp [execVmax, h]

@[simp] theorem keepsMaps_execVmin (k : Fin 512) (f : VecF) {s : State} (h : MapsOk s) :
    KeepsMaps (execVmin k f s) := by
  simp [execVmin, h]

@[simp] theorem keepsMaps_execVabs (k : Fin 512) (f : VecF) {s : State} (h : MapsOk s) :
    KeepsMaps (execVabs k f s) := by
  simp [execVabs, h]

@[simp] theorem keepsMaps_execVneg (k : Fin 512) (f : VecF) {s : State} (h : MapsOk s) :
    KeepsMaps (execVneg k f s) := by
  simp [execVneg, h]

@[simp] theorem keepsMaps_execVcvt (k : Fin 512) (f : VecF) {s : State} (h : MapsOk s) :
    KeepsMaps (execVcvt k f s) := by
  refine keepsMaps_next.mpr ?_
  repeat' first
    | with_reducible assumption
    | with_reducible apply mapsOk_vecIssue

@[simp] theorem keepsMaps_execVexp (k : Fin 512) (f : VecF) {s : State} (h : MapsOk s) :
    KeepsMaps (execVexp k f s) := by
  simp [execVexp, h]

@[simp] theorem keepsMaps_execVlog (k : Fin 512) (f : VecF) {s : State} (h : MapsOk s) :
    KeepsMaps (execVlog k f s) := by
  simp [execVlog, h]

@[simp] theorem keepsMaps_execVtanh (k : Fin 512) (f : VecF) {s : State} (h : MapsOk s) :
    KeepsMaps (execVtanh k f s) := by
  simp [execVtanh, h]

@[simp] theorem keepsMaps_execVrcp (k : Fin 512) (f : VecF) {s : State} (h : MapsOk s) :
    KeepsMaps (execVrcp k f s) := by
  simp [execVrcp, h]

@[simp] theorem keepsMaps_execVrsqrt (k : Fin 512) (f : VecF) {s : State} (h : MapsOk s) :
    KeepsMaps (execVrsqrt k f s) := by
  simp [execVrsqrt, h]

@[simp] theorem keepsMaps_execVsqrt (k : Fin 512) (f : VecF) {s : State} (h : MapsOk s) :
    KeepsMaps (execVsqrt k f s) := by
  simp [execVsqrt, h]

@[simp] theorem keepsMaps_execVdiv (k : Fin 512) (f : VecF) {s : State} (h : MapsOk s) :
    KeepsMaps (execVdiv k f s) := by
  simp [execVdiv, h]

@[simp] theorem keepsMaps_execVcmp (k : Fin 512) (f : VecF) {s : State} (h : MapsOk s) :
    KeepsMaps (execVcmp k f s) := by
  refine keepsMaps_next.mpr ?_
  try dsimp only
  repeat' first
    | with_reducible assumption
    | with_reducible refine mapsOk_issue _ _ (fun _ => ?_) ?_
    | with_reducible refine mapsOk_issueOp _ _ _ _ _ (fun _ => ?_) ?_
    | with_reducible apply mapsOk_unitFault
    | with_reducible apply mapsOk_setCore
    | split

@[simp] theorem keepsMaps_execVsel (k : Fin 512) (f : VecF) {s : State} (h : MapsOk s) :
    KeepsMaps (execVsel k f s) := by
  refine keepsMaps_next.mpr ?_
  repeat' first
    | with_reducible assumption
    | with_reducible apply mapsOk_vecIssue

@[simp] theorem keepsMaps_execVbcast (k : Fin 512) (f : VecF) {s : State} (h : MapsOk s) :
    KeepsMaps (execVbcast k f s) := by
  refine keepsMaps_next.mpr ?_
  repeat' first
    | with_reducible assumption
    | with_reducible apply mapsOk_vecIssue

@[simp] theorem keepsMaps_execVrsum (k : Fin 512) (f : VecF) {s : State} (h : MapsOk s) :
    KeepsMaps (execVrsum k f s) := by
  refine keepsMaps_next.mpr ?_
  repeat' first
    | with_reducible assumption
    | with_reducible apply mapsOk_vecIssue

@[simp] theorem keepsMaps_execVrmax (k : Fin 512) (f : VecF) {s : State} (h : MapsOk s) :
    KeepsMaps (execVrmax k f s) := by
  refine keepsMaps_next.mpr ?_
  repeat' first
    | with_reducible assumption
    | with_reducible apply mapsOk_vecIssue

@[simp] theorem keepsMaps_execVrmin (k : Fin 512) (f : VecF) {s : State} (h : MapsOk s) :
    KeepsMaps (execVrmin k f s) := by
  refine keepsMaps_next.mpr ?_
  repeat' first
    | with_reducible assumption
    | with_reducible apply mapsOk_vecIssue

@[simp] theorem keepsMaps_execVacc (k : Fin 512) (f : VecF) {s : State} (h : MapsOk s) :
    KeepsMaps (execVacc k f s) := by
  refine keepsMaps_next.mpr ?_
  repeat' first
    | with_reducible assumption
    | with_reducible apply mapsOk_vecIssue

@[simp] theorem keepsMaps_execVgets (k : Fin 512) (f : VecF) {s : State} (h : MapsOk s) :
    KeepsMaps (execVgets k f s) := by
  refine keepsMaps_next.mpr ?_
  repeat' first
    | with_reducible assumption
    | with_reducible refine mapsOk_issue _ _ (fun _ => ?_) ?_
    | with_reducible refine mapsOk_issueOp _ _ _ _ _ (fun _ => ?_) ?_
    | with_reducible apply mapsOk_unitFault
    | with_reducible apply mapsOk_setCore
    | split

@[simp] theorem keepsMaps_execVand (k : Fin 512) (f : VecF) {s : State} (h : MapsOk s) :
    KeepsMaps (execVand k f s) := by
  simp [execVand, h]

@[simp] theorem keepsMaps_execVor (k : Fin 512) (f : VecF) {s : State} (h : MapsOk s) :
    KeepsMaps (execVor k f s) := by
  simp [execVor, h]

@[simp] theorem keepsMaps_execVxor (k : Fin 512) (f : VecF) {s : State} (h : MapsOk s) :
    KeepsMaps (execVxor k f s) := by
  simp [execVxor, h]

@[simp] theorem keepsMaps_execVshl (k : Fin 512) (f : VecF) {s : State} (h : MapsOk s) :
    KeepsMaps (execVshl k f s) := by
  simp [execVshl, h]

@[simp] theorem keepsMaps_execVshr (k : Fin 512) (f : VecF) {s : State} (h : MapsOk s) :
    KeepsMaps (execVshr k f s) := by
  simp [execVshr, h]

@[simp] theorem keepsMaps_execMatmul (k : Fin 512) (f : ArrF) {s : State} (h : MapsOk s) : KeepsMaps (execMatmul k f s) := by
  refine keepsMaps_next.mpr (mapsOk_guarded h (mapsOk_issue _ _ (fun c => ?_) h))
  extract_lets a b out kk m x segs scs
  split
  · exact mapsOk_unitFault _ _ h
  · split
    · exact mapsOk_unitFault _ _ h
    · split
      · exact mapsOk_unitFault _ _ h
      · split
        · exact mapsOk_unitFault _ _ h
        · split
          · exact mapsOk_emptyOp _ _ h
          · split
            · exact mapsOk_matmulRun _ _ _ _ _ _ (fun _ => h) h
            · split
              · exact mapsOk_matmulRun _ _ _ _ _ _ (fun _ => h) h
              · refine mapsOk_matmulRun _ _ _ _ _ _ (fun c => ?_) h
                have hm : MapsOk (noteMisses (bump s k 12 1) k x (segs ++ scs)) := mapsOk_noteMisses _ _ _ (mapsOk_bump _ _ _ h)
                exact mapsOk_sendB2 _ _ _ (mapsOk_cheapRead _ _ _ _ hm)

@[simp] theorem keepsMaps_execSpmm (k : Fin 512) (f : SprF) {s : State} (h : MapsOk s) : KeepsMaps (execSpmm k f s) := by
  refine keepsMaps_next.mpr (mapsOk_issue _ _ (fun c => ?_) h)
  have hf : ∀ e, MapsOk (unitFault s k e) := fun e => mapsOk_unitFault _ e h
  have hs : ∀ e, MapsOk (stallCore s k e) := fun e => mapsOk_stallCore _ e h
  extract_lets a b out kk m ac rest hd rd wr get bv
  refine mapsOk_ite.mpr ⟨fun _ => hf _, fun _ => mapsOk_ite.mpr ⟨fun _ => hf _, fun _ => mapsOk_ite.mpr ⟨fun _ => hf _, fun _ => ?_⟩⟩⟩
  split
  · exact hf _
  refine mapsOk_ite.mpr ⟨fun _ => mapsOk_ite.mpr ⟨fun _ => h, fun _ => mapsOk_emptyOp _ _ h⟩, fun _ =>
    mapsOk_ite.mpr ⟨fun _ => hs _, fun _ => ?_⟩⟩
  split
  refine mapsOk_ite.mpr ⟨fun _ => hf _, fun _ => mapsOk_ite.mpr ⟨fun _ => hf _, fun _ => mapsOk_ite.mpr ⟨fun _ => hs _, fun _ =>
    mapsOk_ite.mpr ⟨fun _ => hs _, fun _ => ?_⟩⟩⟩⟩
  split
  extract_lets av
  split
  split
  · exact mapsOk_spmmFail _ _ _ _ _ _ h
  · exact mapsOk_issueOp _ _ _ _ _ (fun _ => h) h

@[simp] theorem keepsMaps_execPack (k : Fin 512) (f : SprF) {s : State} (h : MapsOk s) : KeepsMaps (execPack k f s) := by
  refine keepsMaps_next.mpr (mapsOk_issue _ _ (fun c => ?_) h)
  have hf : ∀ e, MapsOk (unitFault s k e) := fun e => mapsOk_unitFault _ e h
  have hs : ∀ e, MapsOk (stallCore s k e) := fun e => mapsOk_stallCore _ e h
  extract_lets out kk m dense wr hd rd mask
  split
  · exact hf _
  · split
    · exact hf _
    · split
      · exact hf _
      · split
        · exact mapsOk_emptyOp _ _ h
        · split
          · exact hs _
          · split
            · exact hf _
            · split
              · exact hf _
              · split
                · exact hs _
                · split
                  · exact hs _
                  · split
                    · exact hf _
                    · exact mapsOk_issueOp _ _ _ _ _ (fun _ => h) h

@[simp] theorem keepsMaps_execRoute (e : Fin 32) (f : RouteF) {s : State} (h : MapsOk s) :
    KeepsMaps (execRoute e f s) := by
  simp [execRoute, h]

@[simp] theorem keepsMaps_execLrtab (e : Fin 32) (f : LrtabF) {s : State} (h : MapsOk s) :
    KeepsMaps (execLrtab e f s) := by
  refine keepsMaps_next.mpr ?_
  repeat' first
    | with_reducible assumption
    | with_reducible apply mapsOk_rdlCommand
    | with_reducible apply mapsOk_unitFault
    | with_reducible apply mapsOk_rdlAdvance
    | with_reducible apply mapsOk_setRiddle
    | split

@[simp] theorem keepsMaps_execRiddleEnd (e : Fin 32) {s : State} (h : MapsOk s) :
    KeepsMaps (execRiddleEnd e s) := by
  refine keepsMaps_next.mpr ?_
  repeat' first
    | with_reducible assumption
    | with_reducible apply mapsOk_rdlCommand
    | with_reducible apply mapsOk_idleUnit
    | with_reducible apply mapsOk_setRiddle

@[simp] theorem keepsMaps_execScoreBlock (e : Fin 32) (residueOk : Bool) {s : State} (h : MapsOk s) :
    KeepsMaps (execScoreBlock e residueOk s) := by
  refine keepsMaps_next.mpr ?_
  repeat' first
    | with_reducible assumption
    | with_reducible apply mapsOk_guarded
    | with_reducible apply mapsOk_scoreBlock
    | split

@[simp] theorem keepsMaps_execCapacityExchange (e : Fin 32) {s : State} (h : MapsOk s) :
    KeepsMaps (execCapacityExchange e s) := by
  refine keepsMaps_next.mpr ?_
  repeat' first
    | with_reducible assumption
    | with_reducible apply mapsOk_guarded
    | with_reducible apply mapsOk_capacityExchange
    | split

@[simp] theorem keepsMaps_execHandover (e : Fin 32) {s : State} (h : MapsOk s) :
    KeepsMaps (execHandover e s) := by
  refine keepsMaps_next.mpr ?_
  repeat' first
    | with_reducible assumption
    | with_reducible apply mapsOk_guarded
    | with_reducible apply mapsOk_handover
    | split

@[simp] theorem keepsMaps_execCollectiveStart (d : Fin 8) (g : Fin 64) {s : State} (h : MapsOk s) :
    KeepsMaps (execCollectiveStart d g s) := by
  refine keepsMaps_next.mpr ?_
  repeat' first
    | with_reducible assumption
    | with_reducible apply mapsOk_guarded
    | with_reducible apply mapsOk_collectiveStart
    | split

@[simp] theorem keepsMaps_execHeader (p : Packet) {s : State} (h : MapsOk s) :
    KeepsMaps (execHeader p s) := by
  refine keepsMaps_next.mpr ?_
  repeat' first
    | with_reducible assumption
    | with_reducible apply mapsOk_guarded
    | with_reducible apply mapsOk_headerIn
    | split

@[simp] theorem keepsMaps_execVerdict (p : Packet) {s : State} (h : MapsOk s) :
    KeepsMaps (execVerdict p s) := by
  refine keepsMaps_next.mpr ?_
  repeat' first
    | with_reducible assumption
    | with_reducible apply mapsOk_guarded
    | with_reducible apply mapsOk_verdictIn
    | split

@[simp] theorem keepsMaps_execCredit (p : Packet) {s : State} (h : MapsOk s) :
    KeepsMaps (execCredit p s) := by
  refine keepsMaps_next.mpr ?_
  repeat' first
    | with_reducible assumption
    | with_reducible apply mapsOk_guarded
    | with_reducible apply mapsOk_creditIn
    | split

@[simp] theorem keepsMaps_execPartialVal (p : Packet) (residueOk : Bool) {s : State} (h : MapsOk s) :
    KeepsMaps (execPartialVal p residueOk s) := by
  refine keepsMaps_next.mpr ?_
  repeat' first
    | with_reducible assumption
    | with_reducible apply mapsOk_guarded
    | with_reducible apply mapsOk_partialIn
    | split

@[simp] theorem keepsMaps_execFailed (p : Packet) {s : State} (h : MapsOk s) :
    KeepsMaps (execFailed p s) := by
  refine keepsMaps_next.mpr ?_
  repeat' first
    | with_reducible assumption
    | with_reducible apply mapsOk_guarded
    | with_reducible apply mapsOk_failedIn
    | split

@[simp] theorem keepsMaps_execCollectiveResult (p : Packet) {s : State} (h : MapsOk s) :
    KeepsMaps (execCollectiveResult p s) := by
  refine keepsMaps_next.mpr ?_
  repeat' first
    | with_reducible assumption
    | with_reducible apply mapsOk_guarded
    | with_reducible apply mapsOk_collResultIn
    | split

@[simp] theorem keepsMaps_execData (p : Packet) {s : State} (h : MapsOk s) :
    KeepsMaps (execData p s) := by
  refine keepsMaps_next.mpr ?_
  repeat' first
    | with_reducible assumption
    | with_reducible apply mapsOk_guarded
    | with_reducible apply mapsOk_dataIn
    | split

@[simp] theorem keepsMaps_execOperationComplete (k : Fin 512) (q : Fin 8) (residueOk : Bool) {s : State} (h : MapsOk s) :
    KeepsMaps (execOperationComplete k q residueOk s) := by
  refine keepsMaps_next.mpr ?_
  repeat' first
    | with_reducible assumption
    | with_reducible apply mapsOk_guarded
    | with_reducible apply mapsOk_operationComplete
    | split

@[simp] theorem keepsMaps_execDispatch (t : Fin 8) (f : DispatchF) {s : State} (h : MapsOk s) :
    KeepsMaps (execDispatch t f s) := by
  refine keepsMaps_next.mpr ?_
  repeat' first
    | with_reducible assumption
    | with_reducible apply mapsOk_trwCommand
    | with_reducible apply mapsOk_guarded
    | with_reducible apply mapsOk_dispatch

@[simp] theorem keepsMaps_execCombine (t : Fin 8) (f : CombineF) {s : State} (h : MapsOk s) :
    KeepsMaps (execCombine t f s) := by
  refine keepsMaps_next.mpr ?_
  repeat' first
    | with_reducible assumption
    | with_reducible apply mapsOk_trwCommand
    | with_reducible apply mapsOk_guarded
    | with_reducible apply mapsOk_combine

@[simp] theorem keepsMaps_execXchg (t : Fin 8) (f : XchgF) {s : State} (h : MapsOk s) :
    KeepsMaps (execXchg t f s) := by
  refine keepsMaps_next.mpr ?_
  repeat' first
    | with_reducible assumption
    | with_reducible apply mapsOk_trwCommand
    | with_reducible apply mapsOk_guarded
    | with_reducible apply mapsOk_xchg

@[simp] theorem keepsMaps_execTramwayEnd (t : Fin 8) {s : State} (h : MapsOk s) :
    KeepsMaps (execTramwayEnd t s) := by
  refine keepsMaps_next.mpr ?_
  repeat' first
    | with_reducible assumption
    | with_reducible apply mapsOk_trwCommand
    | with_reducible apply mapsOk_idleUnit
    | with_reducible apply mapsOk_setTrw

@[simp] theorem keepsMaps_execIntake (t : Fin 8) {s : State} (h : MapsOk s) :
    KeepsMaps (execIntake t s) := by
  refine keepsMaps_next.mpr ?_
  repeat' first
    | with_reducible assumption
    | with_reducible apply mapsOk_guarded
    | with_reducible apply mapsOk_intake
    | split

@[simp] theorem keepsMaps_execCensus (t : Fin 8) {s : State} (h : MapsOk s) :
    KeepsMaps (execCensus t s) := by
  refine keepsMaps_next.mpr ?_
  repeat' first
    | with_reducible assumption
    | with_reducible apply mapsOk_guarded
    | with_reducible apply mapsOk_census
    | split

@[simp] theorem keepsMaps_execBlockDescriptor (p : Packet) {s : State} (h : MapsOk s) :
    KeepsMaps (execBlockDescriptor p s) := by
  refine keepsMaps_next.mpr ?_
  repeat' first
    | with_reducible assumption
    | with_reducible apply mapsOk_guarded
    | with_reducible apply mapsOk_blockDescriptor
    | split

@[simp] theorem keepsMaps_execRows (p : Packet) {s : State} (h : MapsOk s) :
    KeepsMaps (execRows p s) := by
  refine keepsMaps_next.mpr ?_
  repeat' first
    | with_reducible assumption
    | with_reducible apply mapsOk_guarded
    | with_reducible apply mapsOk_rowsPart
    | split

@[simp] theorem keepsMaps_execCancelled (p : Packet) {s : State} (h : MapsOk s) :
    KeepsMaps (execCancelled p s) := by
  refine keepsMaps_next.mpr ?_
  repeat' first
    | with_reducible assumption
    | with_reducible apply mapsOk_guarded
    | with_reducible apply mapsOk_cancelledPart
    | split

@[simp] theorem keepsMaps_execResult (p : Packet) (residueOk : Bool) {s : State} (h : MapsOk s) :
    KeepsMaps (execResult p residueOk s) := by
  refine keepsMaps_next.mpr ?_
  repeat' first
    | with_reducible assumption
    | with_reducible apply mapsOk_guarded
    | with_reducible apply mapsOk_resultPart
    | split

@[simp] theorem keepsMaps_execSegment (p : Packet) {s : State} (h : MapsOk s) :
    KeepsMaps (execSegment p s) := by
  refine keepsMaps_next.mpr ?_
  repeat' first
    | with_reducible assumption
    | with_reducible apply mapsOk_guarded
    | with_reducible apply mapsOk_segmentPart
    | split

@[simp] theorem keepsMaps_execAbort (t : Fin 8) (ctx : BitVec 4) (opSeq : W32) {s : State} (h : MapsOk s) :
    KeepsMaps (execAbort t ctx opSeq s) := by
  refine keepsMaps_next.mpr ?_
  repeat' first
    | with_reducible assumption
    | with_reducible apply mapsOk_guarded
    | with_reducible apply mapsOk_abort
    | split

@[simp] theorem keepsMaps_execLaunch (c : Fin 16) {s : State} (h : MapsOk s) :
    KeepsMaps (execLaunch c s) := by
  simp [execLaunch, h]

@[simp] theorem keepsMaps_execSave (c : Fin 16) {s : State} (h : MapsOk s) :
    KeepsMaps (execSave c s) := by
  refine keepsMaps_next.mpr ?_
  repeat' first
    | with_reducible assumption
    | with_reducible apply mapsOk_guarded
    | with_reducible apply mapsOk_save
    | split

@[simp] theorem keepsMaps_execRestore (c : Fin 16) {s : State} (h : MapsOk s) :
    KeepsMaps (execRestore c s) := by
  simp [execRestore, h]

@[simp] theorem keepsMaps_execStop (c : Fin 16) {s : State} (h : MapsOk s) :
    KeepsMaps (execStop c s) := by
  refine keepsMaps_next.mpr ?_
  repeat' first
    | with_reducible assumption
    | with_reducible apply mapsOk_guarded
    | with_reducible apply mapsOk_stopCmd
    | split

@[simp] theorem keepsMaps_execKill (c : Fin 16) {s : State} (h : MapsOk s) :
    KeepsMaps (execKill c s) := by
  simp [execKill, h]

@[simp] theorem keepsMaps_execRelease (c : Fin 16) {s : State} (h : MapsOk s) :
    KeepsMaps (execRelease c s) := by
  simp [execRelease, h]

@[simp] theorem keepsMaps_execFirstStep (c : Fin 16) {s : State} (h : MapsOk s) :
    KeepsMaps (execFirstStep c s) := by
  refine keepsMaps_next.mpr ?_
  repeat' first
    | with_reducible assumption
    | with_reducible apply mapsOk_guarded
    | with_reducible apply mapsOk_firstStep
    | split

@[simp] theorem keepsMaps_execUnitStop (u : UnitId) {s : State} (h : MapsOk s) :
    KeepsMaps (execUnitStop u s) := by
  simp [execUnitStop, h]

@[simp] theorem keepsMaps_execSaveComplete (c : Fin 16) {s : State} (h : MapsOk s) :
    KeepsMaps (execSaveComplete c s) := by
  refine keepsMaps_next.mpr ?_
  repeat' first
    | with_reducible assumption
    | with_reducible apply mapsOk_guarded
    | with_reducible apply mapsOk_saveComplete
    | split

@[simp] theorem keepsMaps_execRestoreComplete (c : Fin 16) {s : State} (h : MapsOk s) :
    KeepsMaps (execRestoreComplete c s) := by
  refine keepsMaps_next.mpr ?_
  repeat' first
    | with_reducible assumption
    | with_reducible apply mapsOk_guarded
    | with_reducible apply mapsOk_restoreComplete
    | split

@[simp] theorem keepsMaps_execBpmRelease (p : BitVec 4) (i : W32) {s : State} (h : MapsOk s) :
    KeepsMaps (execBpmRelease p i s) := by
  simp [execBpmRelease, h]

@[simp] theorem keepsMaps_execBpmReset (p : BitVec 4) {s : State} (h : MapsOk s) :
    KeepsMaps (execBpmReset p s) := by
  simp [execBpmReset, h]

@[simp] theorem keepsMaps_execTeardownComplete (c : Fin 16) {s : State} (h : MapsOk s) :
    KeepsMaps (execTeardownComplete c s) := by
  refine keepsMaps_next.mpr ?_
  repeat' first
    | with_reducible assumption
    | with_reducible apply mapsOk_guarded
    | with_reducible apply mapsOk_teardownComplete
    | split

@[simp] theorem keepsMaps_execAllBlocked {s : State} (h : MapsOk s) :
    KeepsMaps (execAllBlocked s) := by
  simp [execAllBlocked, h]

@[simp] theorem keepsMaps_execRegulatorPass (p : Fin 16) (l : Fin 5) {s : State} (h : MapsOk s) :
    KeepsMaps (execRegulatorPass p l s) := by
  simp [execRegulatorPass, h]

@[simp] theorem keepsMaps_execTickBoundary {s : State} (h : MapsOk s) :
    KeepsMaps (execTickBoundary s) := by
  refine keepsMaps_next.mpr ?_
  repeat' first
    | with_reducible assumption
    | with_reducible apply mapsOk_guarded
    | with_reducible apply mapsOk_tickBoundary
    | split

@[simp] theorem keepsMaps_execSlotIssue (c : Fin 16) (i : Nat) {s : State} (h : MapsOk s) :
    KeepsMaps (execSlotIssue c i s) := by
  refine keepsMaps_next.mpr ?_
  repeat' first
    | with_reducible assumption
    | with_reducible apply mapsOk_guarded
    | with_reducible apply mapsOk_slotIssue
    | split

@[simp] theorem keepsMaps_execSlotRetire (c : Fin 16) (i : Nat) {s : State} (h : MapsOk s) :
    KeepsMaps (execSlotRetire c i s) := by
  refine keepsMaps_next.mpr ?_
  repeat' first
    | with_reducible assumption
    | with_reducible apply mapsOk_guarded
    | with_reducible apply mapsOk_slotRetire
    | split

@[simp] theorem keepsMaps_execSettleComplete (c : Fin 16) {s : State} (h : MapsOk s) :
    KeepsMaps (execSettleComplete c s) := by
  refine keepsMaps_next.mpr ?_
  repeat' first
    | with_reducible assumption
    | with_reducible apply mapsOk_guarded
    | with_reducible apply mapsOk_settleComplete
    | split

@[simp] theorem keepsMaps_execBegin {s : State} (h : MapsOk s) :
    KeepsMaps (execBegin s) := by
  simp [execBegin, h]

@[simp] theorem keepsMaps_execValidate {s : State} (h : MapsOk s) :
    KeepsMaps (execValidate s) := by
  simp [execValidate, h]

@[simp] theorem keepsMaps_execArm {s : State} (h : MapsOk s) :
    KeepsMaps (execArm s) := by
  simp [execArm, h]

@[simp] theorem keepsMaps_execCancel {s : State} (h : MapsOk s) :
    KeepsMaps (execCancel s) := by
  simp [execCancel, h]

@[simp] theorem keepsMaps_execShadowCopyDone {s : State} (h : MapsOk s) :
    KeepsMaps (execShadowCopyDone s) := by
  refine keepsMaps_next.mpr ?_
  repeat' first
    | with_reducible assumption
    | with_reducible apply mapsOk_guarded
    | with_reducible apply mapsOk_shadowCopyDone
    | split

@[simp] theorem keepsMaps_execCommitCount {s : State} (h : MapsOk s) :
    KeepsMaps (execCommitCount s) := by
  simp [execCommitCount, h]

@[simp] theorem keepsMaps_execSend {s : State} (h : MapsOk s) :
    KeepsMaps (execSend s) := by
  refine keepsMaps_next.mpr ?_
  repeat' first
    | with_reducible assumption
    | with_reducible apply mapsOk_guarded
    | with_reducible apply mapsOk_bcastSend
    | split

@[simp] theorem keepsMaps_execBcastArm {s : State} (h : MapsOk s) :
    KeepsMaps (execBcastArm s) := by
  simp [execBcastArm, h]

@[simp] theorem keepsMaps_execAbandon {s : State} (h : MapsOk s) :
    KeepsMaps (execAbandon s) := by
  simp [execAbandon, h]

@[simp] theorem keepsMaps_execImageData (p : Packet) {s : State} (h : MapsOk s) :
    KeepsMaps (execImageData p s) := by
  refine keepsMaps_next.mpr ?_
  repeat' first
    | with_reducible assumption
    | with_reducible apply mapsOk_guarded
    | with_reducible apply mapsOk_imageDataIn
    | split

@[simp] theorem keepsMaps_execReport (p : Packet) {s : State} (h : MapsOk s) :
    KeepsMaps (execReport p s) := by
  refine keepsMaps_next.mpr ?_
  repeat' first
    | with_reducible assumption
    | with_reducible apply mapsOk_guarded
    | with_reducible apply mapsOk_reportIn
    | split

@[simp] theorem keepsMaps_execReportTimeout (child : BitVec 14) {s : State} (h : MapsOk s) :
    KeepsMaps (execReportTimeout child s) := by
  simp [execReportTimeout, h]

@[simp] theorem keepsMaps_execImageArm (p : Packet) {s : State} (h : MapsOk s) :
    KeepsMaps (execImageArm p s) := by
  refine keepsMaps_next.mpr ?_
  repeat' first
    | with_reducible assumption
    | with_reducible apply mapsOk_guarded
    | with_reducible apply mapsOk_imageArmIn
    | split

@[simp] theorem keepsMaps_execAck (p : Packet) {s : State} (h : MapsOk s) :
    KeepsMaps (execAck p s) := by
  refine keepsMaps_next.mpr ?_
  repeat' first
    | with_reducible assumption
    | with_reducible apply mapsOk_guarded
    | with_reducible apply mapsOk_ackIn
    | split

@[simp] theorem keepsMaps_execNotice (p : Packet) {s : State} (h : MapsOk s) :
    KeepsMaps (execNotice p s) := by
  refine keepsMaps_next.mpr ?_
  repeat' first
    | with_reducible assumption
    | with_reducible apply mapsOk_guarded
    | with_reducible apply mapsOk_noticeIn
    | split

@[simp] theorem keepsMaps_execLoadResp (p : Packet) {s : State} (h : MapsOk s) :
    KeepsMaps (execLoadResp p s) := by
  refine keepsMaps_next.mpr ?_
  repeat' first
    | with_reducible assumption
    | with_reducible apply mapsOk_guarded
    | with_reducible apply mapsOk_loadRespIn
    | split

@[simp] theorem keepsMaps_execE2eTimeout (dest : BitVec 14) (psn : W32) {s : State} (h : MapsOk s) :
    KeepsMaps (execE2eTimeout dest psn s) := by
  refine keepsMaps_next.mpr ?_
  repeat' first
    | with_reducible assumption
    | with_reducible apply mapsOk_guarded
    | with_reducible apply mapsOk_e2eTimeout
    | split

@[simp] theorem keepsMaps_execWaitRetry (dest : BitVec 14) (psn : W32) {s : State} (h : MapsOk s) :
    KeepsMaps (execWaitRetry dest psn s) := by
  simp [execWaitRetry, h]

@[simp] theorem keepsMaps_execPennantRelease (dest : BitVec 14) {s : State} (h : MapsOk s) :
    KeepsMaps (execPennantRelease dest s) := by
  simp [execPennantRelease, h]

@[simp] theorem keepsMaps_execStore (p : Packet) {s : State} (h : MapsOk s) : KeepsMaps (execStore p s) := by
  refine keepsMaps_next.mpr ?_
  split
  · exact h
  · exact mapsOk_guarded h (mapsOk_memRecv _ _ _ _ (fun t ht => mapsOk_sendAck _ _ _ _ ht) (fun t ht => mapsOk_applyStore _ ht) h)

@[simp] theorem keepsMaps_execLoad (p : Packet) {s : State} (h : MapsOk s) :
    KeepsMaps (execLoad p s) := by
  refine keepsMaps_next.mpr ?_
  repeat' first
    | with_reducible assumption
    | with_reducible refine mapsOk_memRecv _ _ _ _ (fun _ _ => ?_) (fun _ _ => ?_) ?_
    | with_reducible apply mapsOk_guarded
    | with_reducible apply mapsOk_applyLoad
    | with_reducible refine mapsOk_mem_some ?_
    | split

@[simp] theorem keepsMaps_execAtomic (p : Packet) {s : State} (h : MapsOk s) : KeepsMaps (execAtomic p s) := by
  refine keepsMaps_next.mpr ?_
  split
  · exact h
  · exact mapsOk_guarded h (mapsOk_memRecv _ _ _ _ (fun t ht => mapsOk_sendAck _ _ _ _ ht) (fun t ht => mapsOk_applyAtomic _ ht) h)

@[simp] theorem keepsMaps_execAllocationServed (p : Fin 16) {s : State} (h : MapsOk s) :
    KeepsMaps (execAllocationServed p s) := by
  refine keepsMaps_next.mpr ?_
  repeat' first
    | with_reducible assumption
    | with_reducible apply mapsOk_guarded
    | with_reducible apply mapsOk_allocationServed
    | split

@[simp] theorem keepsMaps_execParentAdit (root : Bool) (adit : BitVec 5) (en : Bool) {s : State} (h : MapsOk s) :
    KeepsMaps (execParentAdit root adit en s) := by
  refine keepsMaps_next.mpr ?_
  repeat' first
    | with_reducible assumption
    | with_reducible apply mapsOk_parentWrite
    | split

@[simp] theorem keepsMaps_execHoldoverExpiry {s : State} (h : MapsOk s) :
    KeepsMaps (execHoldoverExpiry s) := by
  refine keepsMaps_next.mpr ?_
  repeat' first
    | with_reducible assumption
    | with_reducible apply mapsOk_holdoverExpiry
    | split

@[simp] theorem keepsMaps_execHoldoverSlew (advance : Bool) {s : State} (h : MapsOk s) :
    KeepsMaps (execHoldoverSlew advance s) := by
  simp [execHoldoverSlew, h]

@[simp] theorem keepsMaps_execDipReq (burgee : Bool) {s : State} (h : MapsOk s) :
    KeepsMaps (execDipReq burgee s) := by
  simp [execDipReq, h]

@[simp] theorem keepsMaps_execFirmwareDipRequest {s : State} (h : MapsOk s) :
    KeepsMaps (execFirmwareDipRequest s) := by
  simp [execFirmwareDipRequest, h]

@[simp] theorem keepsMaps_execSynDipAt {s : State} (h : MapsOk s) :
    KeepsMaps (execSynDipAt s) := by
  simp [execSynDipAt, h]

@[simp] theorem keepsMaps_execDipCut {s : State} (h : MapsOk s) :
    KeepsMaps (execDipCut s) := by
  refine keepsMaps_next.mpr ?_
  repeat' first
    | with_reducible assumption
    | with_reducible apply mapsOk_dipCut
    | split

@[simp] theorem keepsMaps_execDbgCntReset (v : W64) {s : State} (h : MapsOk s) :
    KeepsMaps (execDbgCntReset v s) := by
  simp [execDbgCntReset, h]

@[simp] theorem keepsMaps_execSampleFire (j : Fin 16) {s : State} (h : MapsOk s) :
    KeepsMaps (execSampleFire j s) := by
  simp [execSampleFire, h]

@[simp] theorem keepsMaps_execStrobe (j : Fin 16) {s : State} (h : MapsOk s) :
    KeepsMaps (execStrobe j s) := by
  refine keepsMaps_next.mpr ?_
  repeat' first
    | with_reducible assumption
    | with_reducible apply mapsOk_guarded
    | with_reducible apply mapsOk_strobe
    | split

@[simp] theorem keepsMaps_execValidationComplete {s : State} (h : MapsOk s) :
    KeepsMaps (execValidationComplete s) := by
  refine keepsMaps_next.mpr ?_
  repeat' first
    | with_reducible assumption
    | with_reducible apply mapsOk_guarded
    | with_reducible apply mapsOk_validationComplete
    | split

@[simp] theorem keepsMaps_execInstallComplete {s : State} (h : MapsOk s) :
    KeepsMaps (execInstallComplete s) := by
  refine keepsMaps_next.mpr ?_
  repeat' first
    | with_reducible assumption
    | with_reducible apply mapsOk_guarded
    | with_reducible apply mapsOk_installComplete
    | split

@[simp] theorem keepsMaps_execNarrowPath (n : Fin 32) (addr : BitVec 48) (mask : BitVec 32) (data : List Byte) (errs : List SymErr) (req : Requester) {s : State} (h : MapsOk s) :
    KeepsMaps (execNarrowPath n addr mask data errs req s) := by
  refine keepsMaps_next.mpr ?_
  repeat' first
    | with_reducible assumption
    | with_reducible refine mapsOk_reach _ _ _ ?_ ?_
    | with_reducible apply mapsOk_guarded
    | with_reducible apply mapsOk_narrow
    | split

@[simp] theorem keepsMaps_execLongBurst (n : Fin 32) (addr : BitVec 48) (write : Bool) (data : List Byte) (errs : List (Fin 64 × SymErr)) (req : Requester) {s : State} (h : MapsOk s) :
    KeepsMaps (execLongBurst n addr write data errs req s) := by
  refine keepsMaps_next.mpr ?_
  repeat' first
    | with_reducible assumption
    | with_reducible refine mapsOk_reach _ _ _ ?_ ?_
    | with_reducible apply mapsOk_guarded
    | with_reducible apply mapsOk_burst
    | split

@[simp] theorem keepsMaps_execMarkInterval (n : Fin 32) {s : State} (h : MapsOk s) :
    KeepsMaps (execMarkInterval n s) := by
  simp [execMarkInterval, h]

@[simp] theorem keepsMaps_execTemperatureRead (n : Fin 32) (t : Byte) {s : State} (h : MapsOk s) :
    KeepsMaps (execTemperatureRead n t s) := by
  simp [execTemperatureRead, h]

@[simp] theorem keepsMaps_execRefresh (n : Fin 32) {s : State} (h : MapsOk s) :
    KeepsMaps (execRefresh n s) := by
  simp [execRefresh, h]

@[simp] theorem keepsMaps_execRfm (n : Fin 32) {s : State} (h : MapsOk s) :
    KeepsMaps (execRfm n s) := by
  simp [execRfm, h]

@[simp] theorem keepsMaps_execHbmTrain (n : Fin 32) (idOk : Bool) (fails : List LaneFail) {s : State} (h : MapsOk s) :
    KeepsMaps (execHbmTrain n idOk fails s) := by
  simp [execHbmTrain, h]

@[simp] theorem keepsMaps_execTestEnter (n : Fin 32) {s : State} (h : MapsOk s) :
    KeepsMaps (execTestEnter n s) := by
  simp [execTestEnter, h]

@[simp] theorem keepsMaps_execTestExit (n : Fin 32) {s : State} (h : MapsOk s) :
    KeepsMaps (execTestExit n s) := by
  simp [execTestExit, h]

@[simp] theorem keepsMaps_execRetrain (n : Fin 32) {s : State} (h : MapsOk s) :
    KeepsMaps (execRetrain n s) := by
  simp [execRetrain, h]

@[simp] theorem keepsMaps_execSppr (n : Fin 32) {s : State} (h : MapsOk s) :
    KeepsMaps (execSppr n s) := by
  simp [execSppr, h]

@[simp] theorem keepsMaps_execHppr (n : Fin 32) {s : State} (h : MapsOk s) :
    KeepsMaps (execHppr n s) := by
  simp [execHppr, h]

@[simp] theorem keepsMaps_execClearMarks (n : Fin 32) {s : State} (h : MapsOk s) :
    KeepsMaps (execClearMarks n s) := by
  simp [execClearMarks, h]

@[simp] theorem keepsMaps_execHbmCommandDone (n : Fin 32) (idOk : Bool) (fails : List LaneFail) {s : State} (h : MapsOk s) :
    KeepsMaps (execHbmCommandDone n idOk fails s) := by
  simp [execHbmCommandDone, h]

@[simp] theorem keepsMaps_execHbm1500Shift (n : Fin 32) {s : State} (h : MapsOk s) :
    KeepsMaps (execHbm1500Shift n s) := by
  simp [execHbm1500Shift, h]

@[simp] theorem keepsMaps_execShiftComplete (n : Fin 32) {s : State} (h : MapsOk s) :
    KeepsMaps (execShiftComplete n s) := by
  simp [execShiftComplete, h]

@[simp] theorem keepsMaps_execTestBurst (n : Fin 32) {s : State} (h : MapsOk s) :
    KeepsMaps (execTestBurst n s) := by
  simp [execTestBurst, h]

@[simp] theorem keepsMaps_execTestBurstComplete (n : Fin 32) (errs : List (Fin 64 × SymErr)) {s : State} (h : MapsOk s) :
    KeepsMaps (execTestBurstComplete n errs s) := by
  simp [execTestBurstComplete, h]

@[simp] theorem keepsMaps_execLinkDown (a : Fin 24) (goingDown : Bool) {s : State} (h : MapsOk s) :
    KeepsMaps (execLinkDown a goingDown s) := by
  simp [execLinkDown, h]

@[simp] theorem keepsMaps_execLinkUp (a : Fin 24) (p : Partner) {s : State} (h : MapsOk s) :
    KeepsMaps (execLinkUp a p s) := by
  simp [execLinkUp, h]

@[simp] theorem keepsMaps_execTrainingAttempt (a : Fin 24) {s : State} (h : MapsOk s) :
    KeepsMaps (execTrainingAttempt a s) := by
  refine keepsMaps_next.mpr ?_
  repeat' split
  all_goals simp [h]

@[simp] theorem keepsMaps_execLinkFrame (a : Fin 24) (f : Frame) {s : State} (h : MapsOk s) :
    KeepsMaps (execLinkFrame a f s) := by
  simp [execLinkFrame, h]

@[simp] theorem keepsMaps_execNak (ackSeq : BitVec 12) {s : State} (h : MapsOk s) :
    KeepsMaps (execNak ackSeq s) := by
  simp [execNak, h]

@[simp] theorem keepsMaps_execDragiperFlit (bytes : List Byte) {s : State} (h : MapsOk s) :
    KeepsMaps (execDragiperFlit bytes s) := by
  simp [execDragiperFlit, h]

@[simp] theorem keepsMaps_execHostDown {s : State} (h : MapsOk s) :
    KeepsMaps (execHostDown s) := by
  simp [execHostDown, h]

@[simp] theorem keepsMaps_execHostRetrain {s : State} (h : MapsOk s) :
    KeepsMaps (execHostRetrain s) := by
  simp [execHostRetrain, h]

@[simp] theorem keepsMaps_execHostLinkUp {s : State} (h : MapsOk s) :
    KeepsMaps (execHostLinkUp s) := by
  simp [execHostLinkUp, h]

@[simp] theorem keepsMaps_execHwRdS (tag : BitVec 12) (addr : BitVec 56) {s : State} (h : MapsOk s) :
    KeepsMaps (execHwRdS tag addr s) := by
  simp [execHwRdS, h]

@[simp] theorem keepsMaps_execHwRdM (tag : BitVec 12) (addr : BitVec 56) {s : State} (h : MapsOk s) :
    KeepsMaps (execHwRdM tag addr s) := by
  simp [execHwRdM, h]

@[simp] theorem keepsMaps_execHwRdNc (tag : BitVec 12) (addr : BitVec 56) (lenM1 : BitVec 3) {s : State} (h : MapsOk s) :
    KeepsMaps (execHwRdNc tag addr lenM1 s) := by
  simp [execHwRdNc, h]

@[simp] theorem keepsMaps_execHwWr (tag : BitVec 12) (addr : BitVec 56) (lenM1 : BitVec 3) (data : List Byte) {s : State} (h : MapsOk s) :
    KeepsMaps (execHwWr tag addr lenM1 data s) := by
  simp [execHwWr, h]

@[simp] theorem keepsMaps_execHwWrPart (tag : BitVec 12) (addr : BitVec 56) (mask : BitVec 32) (data : List Byte) {s : State} (h : MapsOk s) :
    KeepsMaps (execHwWrPart tag addr mask data s) := by
  simp [execHwWrPart, h]

@[simp] theorem keepsMaps_execHwEvictM (tag : BitVec 12) (addr : BitVec 56) (data : List Byte) {s : State} (h : MapsOk s) :
    KeepsMaps (execHwEvictM tag addr data s) := by
  simp [execHwEvictM, h]

@[simp] theorem keepsMaps_execHwEvictS (tag : BitVec 12) (addr : BitVec 56) {s : State} (h : MapsOk s) :
    KeepsMaps (execHwEvictS tag addr s) := by
  simp [execHwEvictS, h]

@[simp] theorem keepsMaps_execSnpRspI (tag : BitVec 12) {s : State} (h : MapsOk s) :
    KeepsMaps (execSnpRspI tag s) := by
  refine keepsMaps_next.mpr ?_
  repeat' first
    | with_reducible assumption
    | with_reducible refine mapsOk_snoopAnswer _ _ _ (fun _ _ _ _ => ?_) ?_
    | with_reducible apply mapsOk_filterDel

@[simp] theorem keepsMaps_execSnpRspS (tag : BitVec 12) {s : State} (h : MapsOk s) :
    KeepsMaps (execSnpRspS tag s) := by
  refine keepsMaps_next.mpr ?_
  repeat' first
    | with_reducible assumption
    | with_reducible refine mapsOk_snoopAnswer _ _ _ (fun _ _ _ _ => ?_) ?_
    | with_reducible apply mapsOk_filterPut

@[simp] theorem keepsMaps_execSnpRspD (tag : BitVec 12) (data : List Byte) {s : State} (h : MapsOk s) :
    KeepsMaps (execSnpRspD tag data s) := by
  refine keepsMaps_next.mpr ?_
  repeat' first
    | with_reducible assumption
    | with_reducible refine mapsOk_snoopAnswer _ _ _ (fun _ _ _ _ => ?_) ?_
    | with_reducible apply mapsOk_hostWrite
    | with_reducible apply mapsOk_filterDel
    | with_reducible apply mapsOk_filterPut
    | split

@[simp] theorem keepsMaps_execCmp (tag : BitVec 12) (status : Byte) {s : State} (h : MapsOk s) :
    KeepsMaps (execCmp tag status s) := by
  simp [execCmp, h]

@[simp] theorem keepsMaps_execRspData (tag : BitVec 12) (status : Byte) (data : List Byte) {s : State} (h : MapsOk s) :
    KeepsMaps (execRspData tag status data s) := by
  simp [execRspData, h]

@[simp] theorem keepsMaps_execEventDrain {s : State} (h : MapsOk s) :
    KeepsMaps (execEventDrain s) := by
  refine keepsMaps_next.mpr ?_
  repeat' first
    | with_reducible assumption
    | with_reducible apply mapsOk_eventDrain
    | split

@[simp] theorem keepsMaps_execIrqHoldoff {s : State} (h : MapsOk s) :
    KeepsMaps (execIrqHoldoff s) := by
  simp [execIrqHoldoff, h]

@[simp] theorem keepsMaps_execNode (n : BitVec 14) {s : State} (h : MapsOk s) :
    KeepsMaps (execNode n s) := by
  simp [execNode, h]

@[simp] theorem keepsMaps_execCwRd (tag : BitVec 12) (addr : BitVec 56) {s : State} (h : MapsOk s) :
    KeepsMaps (execCwRd tag addr s) := by
  simp [execCwRd, h]

@[simp] theorem keepsMaps_execCwWr (tag : BitVec 12) (addr : BitVec 56) (v : W64) {s : State} (h : MapsOk s) :
    KeepsMaps (execCwWr tag addr v s) := by
  refine keepsMaps_next.mpr ?_
  repeat' first
    | with_reducible assumption
    | with_reducible apply mapsOk_cmpTo
    | with_reducible apply mapsOk_writeReg
    | split

@[simp] theorem keepsMaps_execRegisterWrite (burgee : Bool) (off : BitVec 28) (v : W64) {s : State} (h : MapsOk s) :
    KeepsMaps (execRegisterWrite burgee off v s) := by
  simp [execRegisterWrite, h]

@[simp] theorem keepsMaps_execMeasurementRecomputed (m : Fin 8) {s : State} (h : MapsOk s) :
    KeepsMaps (execMeasurementRecomputed m s) := by
  simp [execMeasurementRecomputed, h]

@[simp] theorem keepsMaps_execEntdaa (da : BitVec 7) {s : State} (h : MapsOk s) :
    KeepsMaps (execEntdaa da s) := by
  simp [execEntdaa, h]

@[simp] theorem keepsMaps_execRstdaa {s : State} (h : MapsOk s) :
    KeepsMaps (execRstdaa s) := by
  simp [execRstdaa, h]

@[simp] theorem keepsMaps_execSetnewda (da : BitVec 7) {s : State} (h : MapsOk s) :
    KeepsMaps (execSetnewda da s) := by
  simp [execSetnewda, h]

@[simp] theorem keepsMaps_execGetpid {s : State} (h : MapsOk s) :
    KeepsMaps (execGetpid s) := by
  simp [execGetpid, h]

@[simp] theorem keepsMaps_execGetbcr {s : State} (h : MapsOk s) :
    KeepsMaps (execGetbcr s) := by
  simp [execGetbcr, h]

@[simp] theorem keepsMaps_execGetdcr {s : State} (h : MapsOk s) :
    KeepsMaps (execGetdcr s) := by
  simp [execGetdcr, h]

@[simp] theorem keepsMaps_execGetstatus {s : State} (h : MapsOk s) :
    KeepsMaps (execGetstatus s) := by
  simp [execGetstatus, h]

@[simp] theorem keepsMaps_execGetmxds {s : State} (h : MapsOk s) :
    KeepsMaps (execGetmxds s) := by
  simp [execGetmxds, h]

@[simp] theorem keepsMaps_execEnec (mask : Byte) {s : State} (h : MapsOk s) :
    KeepsMaps (execEnec mask s) := by
  simp [execEnec, h]

@[simp] theorem keepsMaps_execDisec (mask : Byte) {s : State} (h : MapsOk s) :
    KeepsMaps (execDisec mask s) := by
  simp [execDisec, h]

@[simp] theorem keepsMaps_execSetEndpointId (op : BitVec 2) (eid : Byte) {s : State} (h : MapsOk s) :
    KeepsMaps (execSetEndpointId op eid s) := by
  simp [execSetEndpointId, h]

@[simp] theorem keepsMaps_execGetEndpointId {s : State} (h : MapsOk s) :
    KeepsMaps (execGetEndpointId s) := by
  simp [execGetEndpointId, h]

@[simp] theorem keepsMaps_execGetEndpointUuid {s : State} (h : MapsOk s) :
    KeepsMaps (execGetEndpointUuid s) := by
  simp [execGetEndpointUuid, h]

@[simp] theorem keepsMaps_execGetMctpVersionSupport (mtype : Byte) {s : State} (h : MapsOk s) :
    KeepsMaps (execGetMctpVersionSupport mtype s) := by
  simp [execGetMctpVersionSupport, h]

@[simp] theorem keepsMaps_execGetMessageTypeSupport {s : State} (h : MapsOk s) :
    KeepsMaps (execGetMessageTypeSupport s) := by
  simp [execGetMessageTypeSupport, h]

@[simp] theorem keepsMaps_execGetVendorDefinedMessageSupport (selector : Byte) {s : State} (h : MapsOk s) :
    KeepsMaps (execGetVendorDefinedMessageSupport selector s) := by
  simp [execGetVendorDefinedMessageSupport, h]

@[simp] theorem keepsMaps_execRegRead (rseq : BitVec 7) (body : List Byte) {s : State} (h : MapsOk s) :
    KeepsMaps (execRegRead rseq body s) := by
  simp [execRegRead, h]

@[simp] theorem keepsMaps_execRegWrite (rseq : BitVec 7) (body : List Byte) {s : State} (h : MapsOk s) :
    KeepsMaps (execRegWrite rseq body s) := by
  simp [execRegWrite, h]

@[simp] theorem keepsMaps_execGetIdentity (rseq : BitVec 7) (body : List Byte) {s : State} (h : MapsOk s) :
    KeepsMaps (execGetIdentity rseq body s) := by
  simp [execGetIdentity, h]

@[simp] theorem keepsMaps_execGetMeasurements (rseq : BitVec 7) (body : List Byte) {s : State} (h : MapsOk s) :
    KeepsMaps (execGetMeasurements rseq body s) := by
  simp [execGetMeasurements, h]

@[simp] theorem keepsMaps_execEnrollKey (rseq : BitVec 7) (body : List Byte) {s : State} (h : MapsOk s) :
    KeepsMaps (execEnrollKey rseq body s) := by
  simp [execEnrollKey, h]

@[simp] theorem keepsMaps_execRevokeKey (rseq : BitVec 7) (body : List Byte) {s : State} (h : MapsOk s) :
    KeepsMaps (execRevokeKey rseq body s) := by
  simp [execRevokeKey, h]

@[simp] theorem keepsMaps_execGetKeys (rseq : BitVec 7) (body : List Byte) {s : State} (h : MapsOk s) :
    KeepsMaps (execGetKeys rseq body s) := by
  simp [execGetKeys, h]

@[simp] theorem keepsMaps_execPwrResetCompute {s : State} (h : MapsOk s) :
    KeepsMaps (execPwrResetCompute s) := by
  simp [execPwrResetCompute, h]

@[simp] theorem keepsMaps_execPwrResetFabric {s : State} (h : MapsOk s) :
    KeepsMaps (execPwrResetFabric s) := by
  simp [execPwrResetFabric, h]

@[simp] theorem keepsMaps_execPwrResetHbm {s : State} (h : MapsOk s) :
    KeepsMaps (execPwrResetHbm s) := by
  simp [execPwrResetHbm, h]

@[simp] theorem keepsMaps_execPwrResetHost {s : State} (h : MapsOk s) :
    KeepsMaps (execPwrResetHost s) := by
  simp [execPwrResetHost, h]

@[simp] theorem keepsMaps_execPwrResetMain {s : State} (h : MapsOk s) :
    KeepsMaps (execPwrResetMain s) := by
  simp [execPwrResetMain, h]

@[simp] theorem keepsMaps_execVaonUp {s : State} (h : MapsOk s) :
    KeepsMaps (execVaonUp s) := by
  simp [execVaonUp, h]

@[simp] theorem keepsMaps_execVaonLoss {s : State} (h : MapsOk s) : KeepsMaps (execVaonLoss s) := by
  have hr : MapsOk (mainReset s 0 .off) := mapsOk_mainReset _ _ h
  refine keepsMaps_next.mpr ?_
  generalize mainReset s 0 .off = t at hr ⊢
  split
  · exact h
  · exact mapsOk_mk.mpr ⟨⟨rfl, rfl⟩, hr.2⟩

@[simp] theorem keepsMaps_execPgoodIn {s : State} (h : MapsOk s) :
    KeepsMaps (execPgoodIn s) := by
  refine keepsMaps_next.mpr ?_
  try dsimp only
  repeat' first
    | with_reducible assumption
    | with_reducible apply mapsOk_setPins
    | with_reducible apply mapsOk_mainReset
    | split

@[simp] theorem keepsMaps_execResetNAssert {s : State} (h : MapsOk s) :
    KeepsMaps (execResetNAssert s) := by
  refine keepsMaps_next.mpr ?_
  try dsimp only
  repeat' first
    | with_reducible assumption
    | with_reducible apply mapsOk_setPins
    | with_reducible apply mapsOk_mainReset
    | split

@[simp] theorem keepsMaps_execResetNRelease {s : State} (h : MapsOk s) :
    KeepsMaps (execResetNRelease s) := by
  simp [execResetNRelease, h]

@[simp] theorem keepsMaps_execFuse {s : State} (h : MapsOk s) :
    KeepsMaps (execFuse s) := by
  simp [execFuse, h]

@[simp] theorem keepsMaps_execBoot (img0 img1 : List Byte) {s : State} (h : MapsOk s) :
    KeepsMaps (execBoot img0 img1 s) := by
  refine keepsMaps_next.mpr ?_
  repeat' first
    | with_reducible assumption
    | with_reducible apply mapsOk_boot
    | split

@[simp] theorem keepsMaps_execAditTrain {s : State} (h : MapsOk s) : KeepsMaps (execAditTrain s) := by
  refine keepsMaps_next.mpr ?_
  split
  · exact mapsOk_stageReady (mapsOk_setPwr _ (mapsOk_foldl (fun s a h => mapsOk_setAdit _ _ h) _ h))
  · exact h

@[simp] theorem keepsMaps_execThermalTrip (die : Fin 13) (t : Byte) {s : State} (h : MapsOk s) :
    KeepsMaps (execThermalTrip die t s) := by
  refine keepsMaps_next.mpr ?_
  repeat' first
    | with_reducible assumption
    | with_reducible apply mapsOk_setPins
    | with_reducible apply mapsOk_mainReset
    | with_reducible apply mapsOk_setPwr
    | split

@[simp] theorem keepsMaps_execAutoLevel (hot : Bool) (avgW : BitVec 16) (tjMax : Byte) {s : State} (h : MapsOk s) :
    KeepsMaps (execAutoLevel hot avgW tjMax s) := by
  simp [execAutoLevel, h]

@[simp] theorem keepsMaps_execDrvLevel (level : BitVec 4) (atEn : Bool) {s : State} (h : MapsOk s) :
    KeepsMaps (execDrvLevel level atEn s) := by
  simp [execDrvLevel, h]

@[simp] theorem keepsMaps_execPwrThrAt {s : State} (h : MapsOk s) :
    KeepsMaps (execPwrThrAt s) := by
  simp [execPwrThrAt, h]

@[simp] theorem keepsMaps_execGovernorWave {s : State} (h : MapsOk s) :
    KeepsMaps (execGovernorWave s) := by
  simp [execGovernorWave, h]

@[simp] theorem keepsMaps_execCoreAwake (k : Fin 512) {s : State} (h : MapsOk s) :
    KeepsMaps (execCoreAwake k s) := by
  simp [execCoreAwake, h]

/-- Every command of the device keeps the maps in canonical form. -/
theorem keepsMaps_exec (i : Instr) {s : State} (h : MapsOk s) : KeepsMaps (exec i s) := by
  cases i <;> simp [exec, h]

/-- Settles O60: a step is the front command on the state with the queue's rest, or the passing of one count, and each keeps the
maps in canonical form. -/
theorem stepKeepsMaps : Obligations.StepKeepsMaps := by
  unfold Obligations.StepKeepsMaps
  intro s t h hstep
  unfold step at hstep
  split at hstep
  · exact keepsMaps_exec _ (mapsOk_update h) t hstep
  · exact keepsMaps_next.mpr (mapsOk_elapse 1 h) t hstep

end Sys2Proof.Machine
